-- ==== Sys2Proof/Word.lean ====
section
/-! DEFINITION. Word types. -/
namespace Sys2Proof

/-- A byte of memory (R4). -/
abbrev Byte := BitVec 8

/-- A 64-bit scalar register or address (R116). -/
abbrev Word := BitVec 64

/-- A 512-bit vector register (R137). -/
abbrev Vec := BitVec 512

/-- Bits [26:0] of the mask word of a safe point, when there is one (R59, R60). -/
abbrev SafePoint := Option (BitVec 27)

end Sys2Proof
end

