-- ==== Sys2Proof/Machine/Alu.lean ====
section
/-! DEFINITION. Integer operations on scalars (R120-R126). -/
namespace Sys2Proof.Machine

/-- The conditions of R55. -/
def condHolds (c : Nat) (a b : Word) : Bool :=
  match c with
  | 0 => a == b
  | 1 => a != b
  | 2 => a.slt b
  | 3 => b.sle a
  | 4 => a.ult b
  | _ => b.ule a

/-- A truth value as an N64 value. -/
def boolWord (b : Bool) : Word := if b then 1 else 0

/-- SHL by the whole of the amount (R120). -/
def shl64 (a b : Word) : Word := if b.toNat < 64 then a <<< b.toNat else 0

/-- SHR.N (R120). -/
def shrN64 (a b : Word) : Word := if b.toNat < 64 then a >>> b.toNat else 0

/-- SHR.I (R120). -/
def shrI64 (a b : Word) : Word := a.sshiftRight (min b.toNat 63)

/-- ROT: left by the amount modulo 64 (R120). -/
def rot64 (a b : Word) : Word := a.rotateLeft (b.toNat % 64)

/-- Number of one bits among the low `n` bits. -/
def popCount : Nat → Nat → Nat
  | 0, _ => 0
  | n + 1, x => x % 2 + popCount n (x / 2)

/-- Number of zero bits below the lowest one bit among the low `n` bits; `n` if there is none. -/
def trailingZeros : Nat → Nat → Nat
  | 0, _ => 0
  | n + 1, x => if x % 2 = 1 then 0 else trailingZeros n (x / 2) + 1

/-- CLZ (R120). -/
def clz64 (a : Word) : Word := BitVec.ofNat 64 (if a = 0 then 64 else 63 - Nat.log2 a.toNat)

/-- CTZ (R120). -/
def ctz64 (a : Word) : Word := BitVec.ofNat 64 (trailingZeros 64 a.toNat)

/-- POPC (R120). -/
def popc64 (a : Word) : Word := BitVec.ofNat 64 (popCount 64 a.toNat)

/-- SHADD.n (R120). -/
def shadd64 (n : Nat) (a b : Word) : Word := (a <<< n) + b

/-- MULH.I and MULH.N (R121): the floor of the product over 2^64. -/
def mulhI64 (a b : Word) : Word := BitVec.ofInt 64 (a.toInt * b.toInt / (2 ^ 64 : Nat))
def mulhN64 (a b : Word) : Word := BitVec.ofNat 64 (a.toNat * b.toNat / 2 ^ 64)

/-- DIV.I, REM.I, DIV.N and REM.N for a divisor that is not zero (R121); the quotient is truncated toward zero. -/
def divI64 (a b : Word) : Word := BitVec.ofInt 64 (a.toInt.tdiv b.toInt)
def remI64 (a b : Word) : Word := BitVec.ofInt 64 (a.toInt.tmod b.toInt)
def divN64 (a b : Word) : Word := BitVec.ofNat 64 (a.toNat / b.toNat)
def remN64 (a b : Word) : Word := BitVec.ofNat 64 (a.toNat % b.toNat)

/-- EXTB (R126): a field of `b` with `a` below it, under a control word. -/
def extb64 (a b c : Word) : Word :=
  let p := (c.extractLsb' 0 7).toNat
  let w := min (c.extractLsb' 8 7).toNat 64
  let f := (b ++ a).toNat / 2 ^ p % 2 ^ w
  if c.getLsbD 16 ∧ 0 < w ∧ 2 ^ (w - 1) ≤ f then BitVec.ofInt 64 ((f : Int) - (2 ^ w : Nat)) else BitVec.ofNat 64 f

/-- INSB (R126). -/
def insb64 (a b c : Word) : Word :=
  let p := (c.extractLsb' 0 7).toNat
  let w := min (c.extractLsb' 8 7).toNat 64
  let m : Word := BitVec.ofNat 64 ((2 ^ w - 1) * 2 ^ p)
  (a &&& ~~~m) ||| (BitVec.ofNat 64 (b.toNat * 2 ^ p) &&& m)

/-- MOVHI (R123). -/
def movhi64 (a imm : Word) : Word := imm.extractLsb' 0 32 ++ a.extractLsb' 0 32

end Sys2Proof.Machine
end

