-- ==== Sys2Proof/Machine/Fp.lean ====
section
/-! DEFINITION. Floating point (R25-R35): exact values, one rounding, the flags of R28, L6, the correctly rounded
functions of R185, and the sums of R38. Bit patterns are natural numbers below two to the width. -/
namespace Sys2Proof.Machine

/-- The formats of R25. -/
inductive FFmt where
  | f32 | f16 | bf16 | f64
deriving DecidableEq, Repr

/-- Significand bits with the hidden bit (R25). -/
def FFmt.prec : FFmt → Nat
  | .f32 => 24 | .f16 => 11 | .bf16 => 8 | .f64 => 53

/-- Width in bits (R25). -/
def FFmt.width : FFmt → Nat
  | .f32 => 32 | .f16 => 16 | .bf16 => 16 | .f64 => 64

/-- Exponent bias (R25). -/
def FFmt.bias : FFmt → Nat
  | .f32 => 127 | .f16 => 15 | .bf16 => 127 | .f64 => 1023

/-- Largest exponent of a finite value. -/
def FFmt.emax (f : FFmt) : Int := f.bias

/-- Weight of the lowest subnormal bit. -/
def FFmt.qmin (f : FFmt) : Int := 2 - (f.bias : Int) - f.prec

/-- The four modes of R29. -/
inductive RMode where
  | rne | rtz | rup | rdn
deriving DecidableEq, Repr

/-- Mode codes of R29. -/
def RMode.ofCode : Nat → RMode
  | 0 => .rne | 1 => .rtz | 2 => .rup | _ => .rdn

/-- The flags of R28, in the order of K.FPFLAGS (R43). -/
structure FpFlags where
  nv : Bool
  dz : Bool
  ofl : Bool
  uf : Bool
  nx : Bool
  np : Bool
deriving DecidableEq, Repr

/-- No flag. -/
def FpFlags.none : FpFlags := ⟨false, false, false, false, false, false⟩

/-- Union of flags, as a vector instruction raises them (R28). -/
def FpFlags.or (a b : FpFlags) : FpFlags :=
  ⟨a.nv || b.nv, a.dz || b.dz, a.ofl || b.ofl, a.uf || b.uf, a.nx || b.nx, a.np || b.np⟩

/-- The bits of K.FPFLAGS (R43). -/
def FpFlags.bits (f : FpFlags) : BitVec 6 :=
  BitVec.ofBool f.np ++ BitVec.ofBool f.nx ++ BitVec.ofBool f.uf ++ BitVec.ofBool f.ofl ++ BitVec.ofBool f.dz
    ++ BitVec.ofBool f.nv

/-- Flags of a single kind. -/
def flagNV : FpFlags := { FpFlags.none with nv := true }
def flagDZ : FpFlags := { FpFlags.none with dz := true }
def flagNP : FpFlags := { FpFlags.none with np := true }
def flagNX : FpFlags := { FpFlags.none with nx := true }

/-- NV where the condition holds. -/
def nvIf (b : Bool) : FpFlags := { FpFlags.none with nv := b }

/-- A value of a format: a NaN (signalling or quiet), an infinity, or plus or minus `m` times two to the `e`. -/
inductive FVal where
  | nan (signalling : Bool)
  | inf (neg : Bool)
  | num (neg : Bool) (m : Nat) (e : Int)
deriving DecidableEq, Repr

/-- Bits in the binary form of `n`. -/
def bitLen (n : Nat) : Nat := if n = 0 then 0 else Nat.log2 n + 1

/-- Sign bit of a pattern. -/
def FFmt.signOf (f : FFmt) (b : Nat) : Bool := b / 2 ^ (f.width - 1) % 2 == 1

/-- The value of a bit pattern (R25); bits above the width are ignored (R117). -/
def FFmt.value (f : FFmt) (b : Nat) : FVal :=
  let fb := f.prec - 1
  let neg := f.signOf b
  let ex := b / 2 ^ fb % 2 ^ (f.width - f.prec)
  let fr := b % 2 ^ fb
  if ex = 2 ^ (f.width - f.prec) - 1 then
    if fr = 0 then .inf neg else .nan (fr < 2 ^ (fb - 1))
  else if ex = 0 then .num neg fr f.qmin
  else .num neg (fr + 2 ^ fb) (f.qmin + ex - 1)

/-- Exponent field all ones, in place. -/
def FFmt.infBits (f : FFmt) : Nat := (2 ^ (f.width - f.prec) - 1) * 2 ^ (f.prec - 1)

/-- A sign bit in place. -/
def FFmt.signBits (f : FFmt) (neg : Bool) : Nat := if neg then 2 ^ (f.width - 1) else 0

/-- The canonical NaN (R27). -/
def FFmt.canonicalNaN (f : FFmt) : Nat := f.infBits + 2 ^ (f.prec - 2)

/-- An infinity. -/
def FFmt.inf (f : FFmt) (neg : Bool) : Nat := f.signBits neg + f.infBits

/-- A zero. -/
def FFmt.zero (f : FFmt) (neg : Bool) : Nat := f.signBits neg

/-- Whether the quotient of a right shift is rounded up in magnitude. -/
def roundsUp (mode : RMode) (neg : Bool) (n rem half : Nat) : Bool :=
  match mode with
  | .rne => rem > half || (rem == half && n % 2 == 1)
  | .rtz => false
  | .rup => !neg && rem != 0
  | .rdn => neg && rem != 0

/-- `m / 2^sh` rounded in a mode, and whether that lost anything. -/
def roundShift (mode : RMode) (neg : Bool) (m sh : Nat) : Nat × Bool :=
  if sh = 0 then (m, false)
  else
    let n := m / 2 ^ sh
    let rem := m % 2 ^ sh
    (if roundsUp mode neg n rem (2 ^ (sh - 1)) then n + 1 else n, rem != 0)

/-- `m * 2^e` brought to weight `q`, rounded in a mode. -/
def roundAt (mode : RMode) (neg : Bool) (m : Nat) (e q : Int) : Nat × Bool :=
  if q ≤ e then (m * 2 ^ (e - q).toNat, false) else roundShift mode neg m (q - e).toNat

/-- One rounding of a nonzero exact value to a format (R26), with OF, UF and NX of R28; tininess after rounding. -/
def FFmt.round (f : FFmt) (mode : RMode) (neg : Bool) (m : Nat) (e : Int) : Nat × FpFlags :=
  if m = 0 then (f.zero neg, FpFlags.none)
  else
    let top := e + bitLen m - 1
    let qn := top - (f.prec - 1 : Nat)
    let q := max qn f.qmin
    let (n, lost) := roundAt mode neg m e q
    if (bitLen n : Int) + q - 1 > f.emax then
      let toInf := match mode with
        | .rne => true | .rtz => false | .rup => !neg | .rdn => neg
      (f.signBits neg + (if toInf then f.infBits else f.infBits - 1),
        { FpFlags.none with ofl := true, nx := true })
    else
      let (n', _) := roundAt mode neg m e qn
      let tiny := (bitLen n' : Int) + qn - 1 < 1 - (f.bias : Int)
      (f.signBits neg + ((q - f.qmin).toNat * 2 ^ (f.prec - 1) + n),
        { FpFlags.none with uf := tiny && lost, nx := lost })

/-- A magnitude known to lie strictly between `m` and `m + 1` units, as a dyadic that rounds alike when `m` has two
bits more than the format. -/
def withSticky (m : Nat) (e : Int) (sticky : Bool) : Nat × Int :=
  if sticky then (4 * m + 1, e - 2) else (m, e)

/-- A pattern and its flags. -/
abbrev FRes := Nat × FpFlags

/-- The canonical NaN with NP, and NV if invalid (R27, R28). -/
def FFmt.nanRes (f : FFmt) (nv : Bool) : FRes := (f.canonicalNaN, { flagNP with nv := nv })

/-- Whether a value is a signalling NaN. -/
def FVal.isSNaN : FVal → Bool
  | .nan s => s
  | _ => false

/-- Whether a value is a NaN. -/
def FVal.isNaN : FVal → Bool
  | .nan _ => true
  | _ => false

/-- Sign of a value that is no NaN. -/
def FVal.neg : FVal → Bool
  | .nan _ => false
  | .inf n => n
  | .num n _ _ => n

/-- Change of sign; a NaN stays. -/
def FVal.negate : FVal → FVal
  | .nan s => .nan s
  | .inf n => .inf (!n)
  | .num n m e => .num (!n) m e

/-- Whether a value is a zero. -/
def FVal.isZero : FVal → Bool
  | .num _ m _ => m == 0
  | _ => false

/-- Signed magnitude as an integer. -/
def sgnNat (neg : Bool) (m : Nat) : Int := if neg then -(m : Int) else m

/-- The exact sum of two dyadics as (integer, weight). -/
def addDyadic (n1 : Bool) (m1 : Nat) (e1 : Int) (n2 : Bool) (m2 : Nat) (e2 : Int) : Int × Int :=
  let e := min e1 e2
  (sgnNat n1 (m1 * 2 ^ (e1 - e).toNat) + sgnNat n2 (m2 * 2 ^ (e2 - e).toNat), e)

/-- Sign of an exact zero sum (R129): of two zeros of like sign, that sign; otherwise plus, or minus under RDN. -/
def zeroSumNeg (mode : RMode) (n1 n2 : Bool) : Bool :=
  if n1 = n2 then n1 else mode = .rdn

/-- What an elementwise operation needs of a destination: its rounding, its NaN, infinity and zero results. -/
structure Dest where
  round : RMode → Bool → Nat → Int → Nat × FpFlags
  nan : Bool → Nat × FpFlags
  inf : Bool → Nat × FpFlags
  zero : Bool → Nat × FpFlags

/-- A binary format as a destination. -/
def FFmt.dest (f : FFmt) : Dest :=
  { round := f.round, nan := f.nanRes, inf := fun n => (f.inf n, FpFlags.none), zero := fun n => (f.zero n, FpFlags.none) }

/-- Exact sum of two values, rounded once (R26, R129). -/
def Dest.add (d : Dest) (mode : RMode) (x y : FVal) : FRes :=
  match x, y with
  | .nan s, y => d.nan (s || y.isSNaN)
  | _, .nan s => d.nan s
  | .inf a, .inf b => if a = b then d.inf a else d.nan true
  | .inf a, _ => d.inf a
  | _, .inf b => d.inf b
  | .num n1 m1 e1, .num n2 m2 e2 =>
    if m1 = 0 ∧ m2 = 0 then d.zero (zeroSumNeg mode n1 n2)
    else
      let (s, e) := addDyadic n1 m1 e1 n2 m2 e2
      if s = 0 then d.zero (mode = .rdn) else d.round mode (s < 0) s.natAbs e

/-- Exact product, rounded once. -/
def Dest.mul (d : Dest) (mode : RMode) (x y : FVal) : FRes :=
  match x, y with
  | .nan s, y => d.nan (s || y.isSNaN)
  | _, .nan s => d.nan s
  | .inf a, y => if y.isZero then d.nan true else d.inf (a != y.neg)
  | x, .inf b => if x.isZero then d.nan true else d.inf (b != x.neg)
  | .num n1 m1 e1, .num n2 m2 e2 =>
    if m1 * m2 = 0 then d.zero (n1 != n2) else d.round mode (n1 != n2) (m1 * m2) (e1 + e2)

/-- `x * y + z` with one rounding; 0 times infinity is invalid even beside a quiet NaN (R129). -/
def Dest.fma (d : Dest) (mode : RMode) (x y z : FVal) : FRes :=
  let sn := x.isSNaN || y.isSNaN || z.isSNaN
  let badProduct := match x, y with
    | .inf _, .num _ m _ => m == 0
    | .num _ m _, .inf _ => m == 0
    | _, _ => false
  if badProduct then d.nan true
  else if x.isNaN || y.isNaN || z.isNaN then d.nan sn
  else
    match x, y, z with
    | .num n1 m1 e1, .num n2 m2 e2, .num n3 m3 e3 =>
      let np := n1 != n2
      if m1 * m2 = 0 ∧ m3 = 0 then d.zero (zeroSumNeg mode np n3)
      else
        let (s, e) := addDyadic np (m1 * m2) (e1 + e2) n3 m3 e3
        if s = 0 then d.zero (mode = .rdn) else d.round mode (s < 0) s.natAbs e
    | .num _ _ _, .num _ _ _, z => d.inf z.neg
    | x, y, .inf b => if (x.neg != y.neg) = b then d.inf b else d.nan true
    | x, y, _ => d.inf (x.neg != y.neg)

/-- Correctly rounded quotient (R179, R184). -/
def FFmt.div (f : FFmt) (mode : RMode) (x y : FVal) : FRes :=
  match x, y with
  | .nan s, y => f.nanRes (s || y.isSNaN)
  | _, .nan s => f.nanRes s
  | .inf _, .inf _ => f.nanRes true
  | .inf a, y => (f.inf (a != y.neg), FpFlags.none)
  | x, .inf b => (f.zero (x.neg != b), FpFlags.none)
  | .num n1 m1 e1, .num n2 m2 e2 =>
    if m2 = 0 then
      if m1 = 0 then f.nanRes true else (f.inf (n1 != n2), flagDZ)
    else if m1 = 0 then (f.zero (n1 != n2), FpFlags.none)
    else
      let k := f.prec + 3 + bitLen m2 - bitLen m1
      let num := m1 * 2 ^ k
      let (m, e) := withSticky (num / m2) (e1 - e2 - k) (num % m2 != 0)
      f.round mode (n1 != n2) m e

/-- Integer square root by digits, high bit first: `isqrtAux k n r` extends the root `r` by `k` bits. -/
def isqrtAux : Nat → Nat → Nat → Nat
  | 0, _, r => r
  | k + 1, n, r =>
    let c := r + 2 ^ k
    if c * c ≤ n then isqrtAux k n c else isqrtAux k n r

/-- Floor of the square root. -/
def isqrt (n : Nat) : Nat := isqrtAux (bitLen n / 2 + 1) n 0

/-- Correctly rounded square root (R179, R184). -/
def FFmt.sqrt (f : FFmt) (mode : RMode) (x : FVal) : FRes :=
  match x with
  | .nan s => f.nanRes s
  | .inf true => f.nanRes true
  | .inf false => (f.inf false, FpFlags.none)
  | .num neg m e =>
    if m = 0 then (f.zero neg, FpFlags.none)
    else if neg then f.nanRes true
    else
      let (m, e) := if e % 2 = 0 then (m, e) else (2 * m, e - 1)
      let k := f.prec + 3
      let n := m * 2 ^ (2 * k)
      let r := isqrt n
      let (m', e') := withSticky r (e / 2 - k) (r * r != n)
      f.round mode false m' e'

/-- Order of two values that are no NaN: `x < y`, zeros equal (R132). -/
def FVal.lt (x y : FVal) : Bool :=
  match x, y with
  | .inf true, .inf true => false
  | .inf true, _ => true
  | _, .inf true => false
  | .inf false, _ => false
  | _, .inf false => true
  | .num n1 m1 e1, .num n2 m2 e2 => (addDyadic n2 m2 e2 (!n1) m1 e1).1 > 0
  | _, _ => false

/-- Equality of two values that are no NaN, zeros equal. -/
def FVal.eq (x y : FVal) : Bool := !x.lt y && !y.lt x

/-- Order with minus zero below plus zero (R130). -/
def FVal.ltZ (x y : FVal) : Bool := x.lt y || (x.isZero && y.isZero && x.neg && !y.neg)

/-- FMIN and FMAX on patterns (R130). -/
def Dest.minMax (d : Dest) (isMax : Bool) (a b : Nat) (x y : FVal) : FRes :=
  let fl := nvIf (x.isSNaN || y.isSNaN)
  match x.isNaN, y.isNaN with
  | true, true => ((d.nan false).1, fl.or flagNP)
  | true, false => (b, fl)
  | false, true => (a, fl)
  | false, false => (if (if isMax then y.ltZ x else x.ltZ y) then a else b, fl)

/-- The table of R132 by condition code (0 EQ, 1 NE, 2 LT, 3 LE, 4 UN). -/
def fcmp (c : Nat) (x y : FVal) : Bool × FpFlags :=
  let un := x.isNaN || y.isNaN
  let sn := x.isSNaN || y.isSNaN
  match c with
  | 0 => (!un && x.eq y, nvIf sn)
  | 1 => (un || !x.eq y, nvIf sn)
  | 2 => (!un && x.lt y, nvIf un)
  | 3 => (!un && !y.lt x, nvIf un)
  | _ => (un, nvIf sn)

/-- FCLASS (R133). -/
def FFmt.classify (f : FFmt) (b : Nat) : Nat :=
  match f.value b with
  | .inf true => 1
  | .inf false => 2 ^ 7
  | .nan true => 2 ^ 8
  | .nan false => 2 ^ 9
  | .num neg m _ =>
    if m = 0 then (if neg then 2 ^ 3 else 2 ^ 4)
    else if m < 2 ^ (f.prec - 1) then (if neg then 2 ^ 2 else 2 ^ 5)
    else if neg then 2 ^ 1 else 2 ^ 6

/-- FSGN (R131): 0 .J, 1 .JN, 2 .JX. -/
def FFmt.fsgn (f : FFmt) (k a b : Nat) : Nat :=
  let sb := f.signOf b
  let s := match k with
    | 0 => sb
    | 1 => !sb
    | _ => f.signOf a != sb
  a % 2 ^ (f.width - 1) + f.signBits s

/-- The integer nearest an exact value in a mode, and whether it differs (R31). -/
def roundInt (mode : RMode) (neg : Bool) (m : Nat) (e : Int) : Int × Bool :=
  let (n, lost) := roundAt mode neg m e 0
  (sgnNat neg n, lost)

/-- Conversion of a value to an integer of a width (R31): the integer and the flags. -/
def toInteger (signed : Bool) (w : Nat) (mode : RMode) (x : FVal) : Int × FpFlags :=
  let lo : Int := if signed then -(2 ^ (w - 1) : Nat) else 0
  let hi : Int := if signed then (2 ^ (w - 1) : Nat) - 1 else (2 ^ w : Nat) - 1
  match x with
  | .nan _ => (0, flagNV)
  | .inf neg => (if neg then lo else hi, flagNV)
  | .num neg m e =>
    let (n, lost) := roundInt mode neg m e
    if n < lo then (lo, flagNV) else if n > hi then (hi, flagNV)
    else (n, { FpFlags.none with nx := lost })

/-- Conversion of a value to a destination (R26-R28); a zero keeps its sign. -/
def Dest.convert (d : Dest) (mode : RMode) (x : FVal) : FRes :=
  match x with
  | .nan s => d.nan s
  | .inf n => d.inf n
  | .num n m e => if m = 0 then d.zero n else d.round mode n m e

/-- An integer as a value; zero is plus zero. -/
def FVal.ofInt (i : Int) : FVal := .num (i < 0) i.natAbs 0

/-! ### L6 (R32-R35) -/

/-- The realised multipliers T of R32. -/
def l6T : Nat → Nat
  | 0 => 0x8000 | 1 => 0x9838 | 2 => 0xB505 | _ => 0xD745

/-- Realised magnitude of a code q, as a multiple of two to the minus 19 (R32): T times two to the (e + 4). -/
def l6Mag (q : Nat) : Nat := if q = 0 then 0 else l6T (q % 4) * 2 ^ (q / 4)

/-- The value of an L6 code; NaR is a quiet NaN (R32, R35). -/
def l6Value (b : Nat) : FVal :=
  let q := b % 32
  let s := b / 32 % 2 == 1
  if q = 0 then (if s then .nan false else .num false 0 0) else .num s (l6Mag q) (-19)

/-- The code of NaR. -/
def l6NaR : Nat := 32

/-- A code of given sign and magnitude code; zero has no sign. -/
def l6Code (neg : Bool) (q : Nat) : Nat := if q = 0 then 0 else (if neg then 32 else 0) + q

/-- The largest q up to `n` whose magnitude does not exceed `m * 2^e`. -/
def l6Below (m : Nat) (e : Int) : Nat → Nat
  | 0 => 0
  | q + 1 => if (addDyadic false m e true (l6Mag (q + 1)) (-19)).1 ≥ 0 then q + 1 else l6Below m e q

/-- Rounding to L6 (R34). Magnitudes above V(0, 31) are rounded on the same ladder carried one step further, to q = 32
(16.0): a result there or above saturates to q = 31 with OF (DEDUCED, log entry 20). -/
def roundL6 (mode : RMode) (neg : Bool) (m : Nat) (e : Int) : FRes :=
  let q := l6Below m e 32
  let saturated : FRes := (l6Code neg 31, { FpFlags.none with ofl := true, nx := true })
  if q = 32 then saturated
  else if (addDyadic false m e true (l6Mag q) (-19)).1 = 0 then (l6Code neg q, FpFlags.none)
  else
    let up := match mode with
      | .rtz => false
      | .rup => !neg
      | .rdn => neg
      | .rne =>
        let mid := (addDyadic false (2 * m) e true (l6Mag q + l6Mag (q + 1)) (-19)).1
        mid > 0 || (mid == 0 && q % 2 == 1)
    if up && q == 31 then saturated
    else (l6Code neg (if up then q + 1 else q), { FpFlags.none with uf := q == 0, nx := true })

/-- L6 as a destination: NaR for a NaN, saturation for an infinity (R34, R35). -/
def l6Dest : Dest :=
  { round := fun mode n m e => if m = 0 then (0, FpFlags.none) else roundL6 mode n m e
    nan := fun s => (l6NaR, { flagNP with nv := s })
    inf := fun n => (l6Code n 31, { FpFlags.none with ofl := true, nx := true })
    zero := fun _ => (0, FpFlags.none) }

/-- Conversion of a value to L6: a NaN, quiet or signalling, raises NV and NP (R34). -/
def convertL6 (mode : RMode) (x : FVal) : FRes :=
  match x with
  | .nan _ => (l6NaR, { flagNP with nv := true })
  | x => l6Dest.convert mode x

/-! ### Estimates (R148) -/

/-- One over `m * 2^e`, or one over its square root, to at least 64 bits with its sticky bit. -/
def recipExact (rsqrt : Bool) (m : Nat) (e : Int) : Nat × Int × Bool :=
  if rsqrt then
    let (m, e) := if e % 2 = 0 then (m, e) else (2 * m, e - 1)
    let k := 128 + bitLen m
    let n := 2 ^ (2 * k)
    let r := isqrt (n / m)
    (r, -(k : Int) - e / 2, r * r * m != n)
  else
    let k := 128 + bitLen m
    (2 ^ k / m, -(k : Int) - e, 2 ^ k % m != 0)

/-- VRCPE and VRSQE on one lane (R148): the exact value rounded to 8 significant bits, then to the format. Of OF and UF measured
against the exact value e, OF is raised where e so rounded or what is delivered overflows, and UF where e rounded to the format is
tiny, even if what is delivered is the smallest normal (DESIGN CHOICE, log entry 70). -/
def FFmt.estimate (f : FFmt) (rsqrt : Bool) (mode : RMode) (x : FVal) : FRes :=
  match x with
  | .nan s => f.nanRes s
  | .inf neg => if neg && rsqrt then f.nanRes true else (f.zero neg, FpFlags.none)
  | .num neg m e =>
    if m = 0 then (f.inf neg, flagDZ)
    else if rsqrt && neg then f.nanRes true
    else
      let (r, re, sticky) := recipExact rsqrt m e
      let (r', re') := withSticky r re sticky
      let q := re' + bitLen r' - 8
      let (g, lost) := roundAt .rne neg r' re' q
      let (bits, fl) := f.round mode neg g q
      let exact := (f.round mode neg r' re').2
      (bits, { fl with nx := fl.nx || lost, uf := exact.uf, ofl := fl.ofl || exact.ofl })

/-! ### Functions of R185, in fixed point with `fxP` fraction bits -/

/-- Fraction bits of the working precision. -/
def fxP : Nat := 512

/-- The sum over k of (-1)^k z^(2k+1)/(2k+1) (`alt`) or of z^(2k+1)/(2k+1), in fixed point: arctangent or its
hyperbolic counterpart. `p` is the current power of z and `k` the current odd denominator. -/
def atanSeries (alt : Bool) (z2 : Nat) : Nat → Nat → Nat → Bool → Int → Int
  | 0, _, _, _, acc => acc
  | fuel + 1, p, k, neg, acc =>
    atanSeries alt z2 fuel (p * z2 / 2 ^ fxP) (k + 2) (alt && !neg) (acc + sgnNat neg (p / k))

/-- Arctangent (or its hyperbolic counterpart) of 1/n. -/
def atanInv (alt : Bool) (n fuel : Nat) : Nat :=
  let z := 2 ^ fxP / n
  (atanSeries alt (z * z / 2 ^ fxP) fuel z 1 false 0).toNat

/-- Pi, by Machin's formula. -/
def fxPi : Nat := 16 * atanInv true 5 125 - 4 * atanInv true 239 40

/-- The natural logarithm of two: 2 atanh(1/3). -/
def fxLn2 : Nat := 2 * atanInv false 3 175

/-- Terms t, t x/(k), t x^2/(k (k+1)) and so on of the exponential series. -/
def expSeries (x : Nat) : Nat → Nat → Nat → Nat → Nat
  | 0, _, _, acc => acc
  | fuel + 1, k, t, acc => expSeries x fuel (k + 1) (t * x / 2 ^ fxP / k) (acc + t)

/-- Terms of the sine (k = 1) or cosine (k = 0) series; `t` is the current term. -/
def trigSeries (x2 : Nat) : Nat → Nat → Nat → Bool → Int → Int
  | 0, _, _, _, acc => acc
  | fuel + 1, k, t, neg, acc =>
    trigSeries x2 fuel (k + 2) (t * x2 / 2 ^ fxP / ((k + 1) * (k + 2))) (!neg) (acc + sgnNat neg t)

/-- Two to the `x` for a value that is no integer, as a mantissa with sticky bit: split at the floor. -/
def exp2Approx (neg : Bool) (m : Nat) (e : Int) : Nat × Int :=
  let scaled : Int := sgnNat neg (m * 2 ^ (e + fxP).toNat)
  let n := scaled / (2 ^ fxP : Nat)
  let frac := (scaled % (2 ^ fxP : Nat)).toNat
  let y := frac * fxLn2 / 2 ^ fxP
  (4 * expSeries y 110 1 (2 ^ fxP) 0 + 1, n - fxP - 2)

/-- FEXP2.F32 (R185). -/
def fexp2 (x : FVal) : FRes :=
  let f := FFmt.f32
  match x with
  | .nan s => f.nanRes s
  | .inf true => (f.zero false, FpFlags.none)
  | .inf false => (f.inf false, FpFlags.none)
  | .num neg m e =>
    if m = 0 then f.round .rne false 1 0
    else if (bitLen m : Int) + e > 10 then
      -- |x| is at least 512: far outside the range of F32
      f.round .rne false 1 (if neg then -1000 else 1000)
    else if e ≥ 0 ∨ m % 2 ^ (-e).toNat = 0 then
      f.round .rne false 1 (roundInt .rtz neg m e).1
    else
      let (r, re) := exp2Approx neg m e
      f.round .rne false r re

/-- FLOG2.F32 (R185). -/
def flog2 (x : FVal) : FRes :=
  let f := FFmt.f32
  match x with
  | .nan s => f.nanRes s
  | .inf true => f.nanRes true
  | .inf false => (f.inf false, FpFlags.none)
  | .num neg m e =>
    if m = 0 then (f.inf true, FpFlags.none)
    else if neg then f.nanRes true
    else
      let k : Int := e + bitLen m - 1
      if m = 2 ^ (bitLen m - 1) then
        if k = 0 then (f.zero false, FpFlags.none) else f.round .rne (k < 0) k.natAbs 0
      else
        let one := 2 ^ fxP
        let y := m * 2 ^ (fxP + 1 - bitLen m)
        let z := (y - one) * one / (y + one)
        let ln := 2 * (atanSeries false (z * z / one) 175 z 1 false 0).toNat
        let v : Int := k * one + (ln * one / fxLn2 : Nat)
        f.round .rne (v < 0) (4 * v.natAbs + 1) (-(fxP : Int) - 2)

/-- Sine or cosine of a finite nonzero value, exactly reduced modulo half pi. -/
def trigApprox (cos : Bool) (neg : Bool) (m : Nat) (e : Int) : Bool × Nat :=
  let x := m * 2 ^ (e + fxP).toNat
  let half := fxPi / 2
  let quadrant := x / half % 4
  let r := x % half
  let r2 := r * r / 2 ^ fxP
  let s := trigSeries r2 70 1 r false 0
  let c := trigSeries r2 70 0 (2 ^ fxP) false 0
  let v : Int :=
    match cos, quadrant with
    | false, 0 => s | false, 1 => c | false, 2 => -s | false, _ => -c
    | true, 0 => c | true, 1 => -s | true, 2 => -c | true, _ => s
  ((v < 0) != (neg && !cos), v.natAbs)

/-- FSIN.F32 and FCOS.F32 (R185). -/
def fsincos (cos : Bool) (x : FVal) : FRes :=
  let f := FFmt.f32
  match x with
  | .nan s => f.nanRes s
  | .inf _ => f.nanRes true
  | .num neg m e =>
    if m = 0 then (if cos then f.round .rne false 1 0 else (f.zero neg, FpFlags.none))
    else
      let (s, v) := trigApprox cos neg m e
      f.round .rne s (4 * v + 1) (-(fxP : Int) - 2)

/-- FRSQ.F32 (R185). -/
def frsq (x : FVal) : FRes :=
  let f := FFmt.f32
  match x with
  | .nan s => f.nanRes s
  | .inf true => f.nanRes true
  | .inf false => (f.zero false, FpFlags.none)
  | .num neg m e =>
    if m = 0 then (f.inf neg, flagDZ)
    else if neg then f.nanRes true
    else
      let (r, re, sticky) := recipExact true m e
      let (r', re') := withSticky r re sticky
      f.round .rne false r' re'

/-- FRCP.F32 (R184). -/
def frcp (mode : RMode) (x : FVal) : FRes := FFmt.f32.div mode (.num false 1 0) x

/-! ### Block sums (R38) -/

/-- A product of two values as a term of a sum: 0 times infinity is an invalid NaN. -/
def FVal.times (x y : FVal) : FVal :=
  match x, y with
  | .nan s, y => .nan (s || y.isSNaN)
  | _, .nan s => .nan s
  | .inf a, y => if y.isZero then .nan true else .inf (a != y.neg)
  | x, .inf b => if x.isZero then .nan true else .inf (b != x.neg)
  | .num n1 m1 e1, .num n2 m2 e2 => .num (n1 != n2) (m1 * m2) (e1 + e2)

/-- Exponent of the leading bit of a nonzero term. -/
def FVal.topExp : FVal → Option Int
  | .num _ m e => if m = 0 then none else some (e + bitLen m - 1)
  | _ => none

/-- A term truncated toward zero to weight `u`, and whether that lost anything (R38). -/
def truncTerm (u : Int) : FVal → Int × Bool
  | .num neg m e =>
    if u ≤ e then (sgnNat neg (m * 2 ^ (e - u).toNat), false)
    else
      let sh := (u - e).toNat
      (sgnNat neg (m / 2 ^ sh), m % 2 ^ sh != 0)
  | _ => (0, false)

/-- KBlockSum of R38: C and the products of one k-block, rounded once. An invalid term is a signalling NaN. -/
def kBlockSum (f : FFmt) (mode : RMode) (terms : List FVal) : FRes :=
  let posInf := terms.any (fun t => t == .inf false)
  let negInf := terms.any (fun t => t == .inf true)
  if terms.any FVal.isNaN || (posInf && negInf) then
    f.nanRes (terms.any FVal.isSNaN || (posInf && negInf))
  else if posInf then (f.inf false, FpFlags.none)
  else if negInf then (f.inf true, FpFlags.none)
  else
    let zero : FRes := (f.zero (mode = .rdn || terms.all FVal.neg), FpFlags.none)
    match terms.filterMap FVal.topExp with
    | [] => zero
    | t :: ts =>
      let u := ts.foldl max t - 63
      let parts := terms.map (truncTerm u)
      let s : Int := parts.foldl (fun a p => a + p.1) 0
      if parts.any (fun p => p.2) then
        -- the infinitesimal stands below every bit of S and of the format
        let e := min (u - 64) (f.qmin - 4)
        f.round mode (s < 0) (s.natAbs * 2 ^ (u - e).toNat + 1) e
      else if s = 0 then zero
      else f.round mode (s < 0) s.natAbs u

end Sys2Proof.Machine
end

