-- ==== Sys2Proof/Machine/Lanes.lean ====
section
/-! DEFINITION. Vector lanes (R137-R139) and the lane functions of R144-R157. -/
namespace Sys2Proof.Machine

/-- Lane width in bits of a TY code (R54). -/
def tyWidth (ty : BitVec 3) : Nat :=
  match ty.toNat with
  | 0 => 8 | 1 => 16 | 2 => 32 | 3 => 64 | 4 => 16 | 5 => 16 | 6 => 32 | _ => 8

/-- Lane `i` of width `w` (R137). -/
def lane (w : Nat) (v : Vec) (i : Nat) : Nat := v.toNat / 2 ^ (w * i) % 2 ^ w

/-- The number with lanes `f 0`, `f 1`, ... below `n`. -/
def laneSum (w : Nat) (f : Nat → Nat) : Nat → Nat
  | 0 => 0
  | n + 1 => laneSum w f n + f n % 2 ^ w * 2 ^ (w * n)

/-- The vector register whose lanes of width `w` are given. -/
def ofLanes (w : Nat) (f : Nat → Nat) : Vec := BitVec.ofNat 512 (laneSum w f (512 / w))

/-- Whether a mask operand makes a lane active (R138). -/
def active (m : Word) (i : Nat) : Bool := m.getLsbD i

/-- Lanes computed where active and kept elsewhere (R138). -/
def mergeLanes (w : Nat) (m : Word) (old : Vec) (f : Nat → Nat) : Vec :=
  ofLanes w (fun i => if active m i then f i else lane w old i)

/-- As `mergeLanes`, with the flags of the active lanes. -/
def mergeLanesF (w : Nat) (m : Word) (old : Vec) (f : Nat → FRes) : Vec × FpFlags :=
  (mergeLanes w m old (fun i => (f i).1),
    ((List.range (512 / w)).filter (active m)).foldl (fun a i => a.or (f i).2) FpFlags.none)

/-- A lane read as a signed integer. -/
def sLane (w x : Nat) : Int := if x < 2 ^ (w - 1) then x else (x : Int) - (2 ^ w : Nat)

/-- The low `w` bits of an integer. -/
def wrapInt (w : Nat) (i : Int) : Nat := (i % (2 ^ w : Nat)).toNat

/-- Clamping to a signed or unsigned range of width `w` (R24). -/
def clampInt (signed : Bool) (w : Nat) (i : Int) : Int :=
  if signed then max (-(2 ^ (w - 1) : Nat)) (min ((2 ^ (w - 1) : Nat) - 1) i) else max 0 (min ((2 ^ w : Nat) - 1) i)

/-- A lane read as I or N. -/
def readLane (signed : Bool) (w x : Nat) : Int := if signed then sLane w x else x

/-- The condition of R55 on lanes: signedness comes from the condition alone (R145). -/
def laneCond (c w a b : Nat) : Bool :=
  match c with
  | 0 => a == b
  | 1 => a != b
  | 2 => sLane w a < sLane w b
  | 3 => sLane w b ≤ sLane w a
  | 4 => a < b
  | _ => b ≤ a

/-- Integer lane operations of majors 0x18, 0x19 and 0x1A (R144). -/
def laneMinMax (signed isMax : Bool) (w a b : Nat) : Nat :=
  let x := readLane signed w a
  let y := readLane signed w b
  if (if isMax then y < x else x < y) then a else b

def laneShl (w a k : Nat) : Nat := if k < w then a * 2 ^ k else 0
def laneShrN (w a k : Nat) : Nat := if k < w then a / 2 ^ k else 0
def laneShrI (w a k : Nat) : Nat := wrapInt w (sLane w a / (2 ^ (min k (w - 1)) : Nat))

def laneAddSat (signed : Bool) (w a b : Nat) : Nat :=
  wrapInt w (clampInt signed w (readLane signed w a + readLane signed w b))

def laneSubSat (signed : Bool) (w a b : Nat) : Nat :=
  wrapInt w (clampInt signed w (readLane signed w a - readLane signed w b))

def laneMulh (signed : Bool) (w a b : Nat) : Nat :=
  wrapInt w (readLane signed w a * readLane signed w b / (2 ^ w : Nat))

/-- VABS (R144). -/
def laneAbs (ty : BitVec 3) (a : Nat) : Nat :=
  let w := tyWidth ty
  if ty.toNat ≤ 3 then wrapInt w (sLane w a).natAbs else a % 2 ^ (w - 1)

/-- Bitwise lane operations: for TY 7, bits [7:6] are written zero (R144). -/
def laneBits (ty : BitVec 3) (x : Nat) : Nat := if ty = 7#3 then x % 64 else x

/-- The float format of a TY code 4-6. -/
def tyFmt (ty : BitVec 3) : FFmt :=
  match ty.toNat with
  | 4 => .f16 | 5 => .bf16 | _ => .f32

/-- The float format of a type code 0-2 of R69 and R128. -/
def codeFmt (t : Nat) : FFmt :=
  match t with
  | 0 => .f32 | 1 => .f16 | _ => .bf16

/-- The value of a float or L6 lane. -/
def laneValue (ty : BitVec 3) (x : Nat) : FVal := if ty = 7#3 then l6Value x else (tyFmt ty).value x

/-- The destination of a float or L6 lane operation. -/
def laneDest (ty : BitVec 3) : Dest := if ty = 7#3 then l6Dest else (tyFmt ty).dest

/-- VFMIN and VFMAX on a lane (R147): L6 delivers codes. -/
def laneFMinMax (ty : BitVec 3) (isMax : Bool) (a b : Nat) : FRes :=
  let a := laneBits ty a
  let b := laneBits ty b
  (laneDest ty).minMax isMax a b (laneValue ty a) (laneValue ty b)

/-- VDOT4 and VDOT2 on accumulator lane `i` (R152). -/
def laneDot (signed sat : Bool) (n : Nat) (va vb old : Vec) (i : Nat) : Nat :=
  let w := 32 / n
  let total := (List.range n).foldl
    (fun (s : Int) j => s + readLane signed w (lane w va (n * i + j)) * readLane signed w (lane w vb (n * i + j)))
    (readLane signed 32 (lane 32 old i))
  wrapInt 32 (if sat then clampInt signed 32 total else total)

/-- A conversion between lane types (R151): source type, destination type, unsigned integer side. -/
def laneConvert (src dst : BitVec 3) (uns : Bool) (mode : RMode) (x : Nat) : FRes :=
  let v : FVal := if src.toNat ≤ 3 then FVal.ofInt (readLane (!uns) (tyWidth src) x) else laneValue src x
  if dst.toNat ≤ 3 then
    let (i, fl) := toInteger (!uns) (tyWidth dst) mode v
    (wrapInt (tyWidth dst) i, fl)
  else if dst = 7#3 then convertL6 mode v
  else (tyFmt dst).dest.convert mode v

/-- VFCVT on whole registers (R151). -/
def convertLanes (src dst : BitVec 3) (uns : Bool) (mode : RMode) (m : Word) (va old : Vec) : Vec × FpFlags :=
  let ws := tyWidth src
  let wd := tyWidth dst
  let lm := min (512 / ws) (512 / wd)
  let f := fun i => laneConvert src dst uns mode (lane ws va i)
  (ofLanes wd (fun i => if lm ≤ i then 0 else if active m i then (f i).1 else lane wd old i),
    ((List.range lm).filter (active m)).foldl (fun a i => a.or (f i).2) FpFlags.none)

/-- Mask bits from a lane test (R139): zero at inactive lanes and above the lane count. -/
def maskOf (w : Nat) (m : Word) (p : Nat → Bool) : Word :=
  BitVec.ofNat 64 (laneSum 1 (fun i => if active m i && p i then 1 else 0) (512 / w))

/-- Index bits of a lane number (R154). -/
def laneIndex (w x : Nat) : Nat := x % (512 / w)

/-- VCOMPR (R154). -/
def compressLanes (ty : BitVec 3) (m : Word) (va : Vec) : Vec :=
  let w := tyWidth ty
  let kept := ((List.range (512 / w)).filter (active m)).map (fun i => laneBits ty (lane w va i))
  ofLanes w (fun i => kept.getD i 0)

/-- VEXPND (R154): lane i takes the source lane numbered by the selected lanes below i. -/
def expandLanes (ty : BitVec 3) (m : Word) (va : Vec) : Vec :=
  let w := tyWidth ty
  ofLanes w (fun i => if active m i then laneBits ty (lane w va (popCount i m.toNat)) else 0)

/-- VSLIDE (R154). -/
def slideLane (ty : BitVec 3) (va : Vec) (k : Int) (i : Nat) : Nat :=
  let w := tyWidth ty
  let j := (i : Int) + k
  if 0 ≤ j ∧ j < (512 / w : Nat) then laneBits ty (lane w va j.toNat) else 0

/-- One level of the pairwise tree of R42. -/
def pairUp {α : Type} (op : α → α → α) : List α → List α
  | a :: b :: rest => op a b :: pairUp op rest
  | rest => rest

/-- The tree of R42 over a list whose length is two to the `n`. -/
def treeFold {α : Type} (op : α → α → α) : Nat → List α → List α
  | 0, l => l
  | n + 1, l => treeFold op n (pairUp op l)

/-- Reduction operations of R155 and R156: 0 ADD, 1 MIN, 2 MAX. -/
def redIdentity (ty : BitVec 3) (op : Nat) : Nat :=
  let w := tyWidth ty
  let f := tyFmt ty
  if ty.toNat ≤ 3 then
    match op with
    | 0 => 0
    | 1 => 2 ^ (w - 1) - 1
    | _ => 2 ^ (w - 1)
  else
    match op with
    | 0 => f.zero true
    | 1 => f.inf false
    | _ => f.inf true

/-- One combine of a reduction or scan, collecting flags: a combine of two NaNs by min or max raises NP even where a later one
delivers a number (DESIGN CHOICE, log entry 71). -/
def redCombine (ty : BitVec 3) (op : Nat) (mode : RMode) (x y : FRes) : FRes :=
  let w := tyWidth ty
  let f := tyFmt ty
  if ty.toNat ≤ 3 then
    (match op with
      | 0 => (x.1 + y.1) % 2 ^ w
      | 1 => laneMinMax true false w x.1 y.1
      | _ => laneMinMax true true w x.1 y.1, FpFlags.none)
  else
    let r :=
      match op with
      | 0 => f.dest.add mode (f.value x.1) (f.value y.1)
      | 1 => f.dest.minMax false x.1 y.1 (f.value x.1) (f.value y.1)
      | _ => f.dest.minMax true x.1 y.1 (f.value x.1) (f.value y.1)
    (r.1, (x.2.or y.2).or r.2)

/-- VRED by the tree of R42. -/
def reduceLanes (ty : BitVec 3) (op : Nat) (mode : RMode) (m : Word) (va : Vec) : FRes :=
  let w := tyWidth ty
  let n := 512 / w
  let xs := (List.range n).map
    (fun i => (if active m i then lane w va i else redIdentity ty op, FpFlags.none))
  (treeFold (redCombine ty op mode) (Nat.log2 n) xs).headD (redIdentity ty op, FpFlags.none)

/-- A reduction result as a scalar: integers sign-extended, floats in the low bits (R155). -/
def redScalar (ty : BitVec 3) (x : Nat) : Word :=
  if ty.toNat ≤ 3 then BitVec.ofInt 64 (sLane (tyWidth ty) x) else BitVec.ofNat 64 x

/-- VRED.ADD.SAT (R155): exact sum, one clamp. -/
def reduceSat (ty : BitVec 3) (m : Word) (va : Vec) : Word :=
  let w := tyWidth ty
  BitVec.ofInt 64 (clampInt true w
    (((List.range (512 / w)).filter (active m)).foldl (fun (s : Int) i => s + sLane w (lane w va i)) 0))

/-- The running values of VSCAN (R156): lane values, last value with its flags. -/
def scanStep (ty : BitVec 3) (op : Nat) (mode : RMode) (m : Word) (va : Vec) : Nat → List (Option Nat) × FRes
  | 0 => ([], (redIdentity ty op, FpFlags.none))
  | n + 1 =>
    let (l, y) := scanStep ty op mode m va n
    if active m n then
      let y' := redCombine ty op mode y (lane (tyWidth ty) va n, FpFlags.none)
      (l ++ [some y'.1], y')
    else (l ++ [none], y)

/-- VSCAN (R156). -/
def scanLanes (ty : BitVec 3) (op : Nat) (mode : RMode) (m : Word) (va old : Vec) : Vec × FpFlags :=
  let w := tyWidth ty
  let (l, y) := scanStep ty op mode m va (512 / w)
  (ofLanes w (fun i => ((l.getD i none).getD (lane w old i))), y.2)

/-- VPKL6 (R157, R33): element i of a packed L6 array occupies bits [6i+5:6i]. -/
def packL6 (va : Vec) : Vec := BitVec.ofNat 512 (laneSum 6 (fun i => lane 8 va i % 64) 64)

/-- VUPL6 (R157). -/
def unpackL6 (va : Vec) : Vec := ofLanes 8 (fun i => va.toNat / 2 ^ (6 * i) % 64)

/-- MFIRST (R159). -/
def firstBit (m : Word) : Word := BitVec.ofNat 64 (trailingZeros 64 m.toNat)

/-- The integer range limits and reading of a scalar conversion type code (R69, R135): signedness and width. -/
def codeInt (t : Nat) : Bool × Nat :=
  match t with
  | 3 => (true, 32) | 4 => (false, 32) | 5 => (true, 64) | _ => (false, 64)

/-- A scalar as a value of an integer or float type code (R135). -/
def codeValue (t : Nat) (a : Word) : FVal :=
  if t ≤ 2 then (codeFmt t).value a.toNat
  else
    let (signed, w) := codeInt t
    FVal.ofInt (readLane signed w (a.toNat % 2 ^ w))

/-- A value converted to an integer or float type code and written under R117. -/
def convertCode (t : Nat) (mode : RMode) (x : FVal) : Word × FpFlags :=
  if t ≤ 2 then
    let (b, fl) := (codeFmt t).dest.convert mode x
    (BitVec.ofNat 64 b, fl)
  else
    let (signed, w) := codeInt t
    let (i, fl) := toInteger signed w mode x
    (BitVec.ofInt 64 i, fl)

end Sys2Proof.Machine
end

