-- ==== Sys2Proof/Syntax.lean ====
section
/-! DEFINITION. The instructions of Cefort (R47-R71), one constructor for each row of the opcode table, and the
device events, one constructor for each row without an encoding. Fields hold what the encoding holds. -/
namespace Sys2Proof

/-- A strand slot of the device: the logical yard index of R15, the core kind of R20, the lean core number of R17
(0 on a heavy core) and the slot of R87. -/
structure Pos where
  yidx : Nat
  heavy : Bool
  core : Nat
  slot : Nat
deriving DecidableEq, Repr

/-- Where an arriving message comes from (R378): from the mesh, or from another device over Serten (R428). -/
inductive MsgFrom where
  | mesh
  | peer (cls : BitVec 4) (srcy dst dev : Nat) (tenant : BitVec 4) (payload : List Byte)
deriving DecidableEq, Repr

/-- A register that the host writes and that has no row of its own (R6, R421, R446), or a setting that the host driver asks
of the supervisor or of the PCI Express function (R394, R307, R420, R422, R453). -/
inductive HostReg where
  | bar (f off n : Nat)
  | imgbase
  | imglen
  | plim
  | atomicOps (f : Nat)
  | queue (f q : Nat) (asid : BitVec 16) (n : Nat)
  | alias_ (f n : Nat) (asid : BitVec 16) (tid : Nat)
  | unalias (f n : Nat)
  | deviceId
  | tree (k : Nat) (devices : List Nat)
  | export_ (tenant : BitVec 4)
  | vfEnable
deriving DecidableEq, Repr

/-- Where an error that cannot be corrected lies (R431, R433): a 64-byte block by its memory key, a block of a line in the yard cache
or, `heavy`, the private cache of a yard, storage of a strand, a granary slot, what concerns a strand without being such storage, or a unit whose loss is the device's. -/
inductive ErrSite where
  | block (key : Nat)
  | cached (y : Nat) (heavy : Bool) (block : Nat)
  | sreg (p : Pos) (r : BitVec 5)
  | vreg (p : Pos) (r : BitVec 5)
  | mreg (p : Pos) (r : BitVec 3)
  | tile (p : Pos) (j : BitVec 3)
  | granary (y tid idx : Nat)
  | strand (p : Pos)
  | device (y : Nat)
deriving DecidableEq, Repr

/-- What a start of a copy engine names: the engine, and the bytes that another device has sent for the line of a get (R409, R428). -/
structure EngineTurn where
  engine : Nat
  data : List Byte
deriving DecidableEq, Repr

/-- Where the host reads: device memory (R304), or the BAR0 of a function (R421). -/
inductive HostAddr where
  | memory (pa : Nat)
  | bar (f off : Nat)
deriving DecidableEq, Repr

/-- A request to the boot block over DOE (R450): for a measurement by its index, or another one by its bytes. -/
inductive SpdmRequest where
  | measurement (index : Nat)
  | other (bytes : List Byte)
deriving DecidableEq, Repr

/-- Instructions carry their encoded fields, named as in their encoding tables, and last the mask word's bits [26:0]
when the instruction is a safe point (R59, R60; NOP has no safe-point form). The events of the device follow, each with
the choices its environment makes. -/
inductive Instr where
  | br (o : BitVec 24) (sp : SafePoint)
  | call (o : BitVec 24) (sp : SafePoint)
  | brm (m : BitVec 3) (c : BitVec 2) (o : BitVec 19) (sp : SafePoint)
  | bcmp (a : BitVec 5) (b : BitVec 5) (c : BitVec 3) (o : BitVec 11) (sp : SafePoint)
  | bcmpImm32 (a : BitVec 5) (b : BitVec 5) (c : BitVec 3) (o : BitVec 32) (sp : SafePoint)
  | loop (c : BitVec 5) (o : BitVec 19) (sp : SafePoint)
  | callr (a : BitVec 5) (sp : SafePoint)
  | jmp (a : BitVec 5) (sp : SafePoint)
  | nop
  | yield (sp : SafePoint)
  | exit (sp : SafePoint)
  | spawn (d : BitVec 5) (a : BitVec 5) (b : BitVec 5) (sp : SafePoint)
  | trap (a : BitVec 5) (sp : SafePoint)
  | isync (sp : SafePoint)
  | trig (d : BitVec 5) (a : BitVec 5) (b : BitVec 5) (c : BitVec 5) (la : BitVec 4) (sp : SafePoint)
  | add (d : BitVec 5) (a : BitVec 5) (b : BitVec 5) (sp : SafePoint)
  | sub (d : BitVec 5) (a : BitVec 5) (b : BitVec 5) (sp : SafePoint)
  | and (d : BitVec 5) (a : BitVec 5) (b : BitVec 5) (sp : SafePoint)
  | or (d : BitVec 5) (a : BitVec 5) (b : BitVec 5) (sp : SafePoint)
  | xor (d : BitVec 5) (a : BitVec 5) (b : BitVec 5) (sp : SafePoint)
  | andn (d : BitVec 5) (a : BitVec 5) (b : BitVec 5) (sp : SafePoint)
  | shl (d : BitVec 5) (a : BitVec 5) (b : BitVec 5) (sp : SafePoint)
  | shrN (d : BitVec 5) (a : BitVec 5) (b : BitVec 5) (sp : SafePoint)
  | shrI (d : BitVec 5) (a : BitVec 5) (b : BitVec 5) (sp : SafePoint)
  | rot (d : BitVec 5) (a : BitVec 5) (b : BitVec 5) (sp : SafePoint)
  | minI (d : BitVec 5) (a : BitVec 5) (b : BitVec 5) (sp : SafePoint)
  | minN (d : BitVec 5) (a : BitVec 5) (b : BitVec 5) (sp : SafePoint)
  | maxI (d : BitVec 5) (a : BitVec 5) (b : BitVec 5) (sp : SafePoint)
  | maxN (d : BitVec 5) (a : BitVec 5) (b : BitVec 5) (sp : SafePoint)
  | clz (d : BitVec 5) (a : BitVec 5) (sp : SafePoint)
  | ctz (d : BitVec 5) (a : BitVec 5) (sp : SafePoint)
  | popc (d : BitVec 5) (a : BitVec 5) (sp : SafePoint)
  | shadd1 (d : BitVec 5) (a : BitVec 5) (b : BitVec 5) (sp : SafePoint)
  | shadd2 (d : BitVec 5) (a : BitVec 5) (b : BitVec 5) (sp : SafePoint)
  | shadd3 (d : BitVec 5) (a : BitVec 5) (b : BitVec 5) (sp : SafePoint)
  | shadd4 (d : BitVec 5) (a : BitVec 5) (b : BitVec 5) (sp : SafePoint)
  | scmp (d : BitVec 5) (a : BitVec 5) (b : BitVec 5) (c : BitVec 3) (sp : SafePoint)
  | mul (d : BitVec 5) (a : BitVec 5) (b : BitVec 5) (sp : SafePoint)
  | mulhI (d : BitVec 5) (a : BitVec 5) (b : BitVec 5) (sp : SafePoint)
  | mulhN (d : BitVec 5) (a : BitVec 5) (b : BitVec 5) (sp : SafePoint)
  | divI (d : BitVec 5) (a : BitVec 5) (b : BitVec 5) (sp : SafePoint)
  | divN (d : BitVec 5) (a : BitVec 5) (b : BitVec 5) (sp : SafePoint)
  | remI (d : BitVec 5) (a : BitVec 5) (b : BitVec 5) (sp : SafePoint)
  | remN (d : BitVec 5) (a : BitVec 5) (b : BitVec 5) (sp : SafePoint)
  | addi (d : BitVec 5) (a : BitVec 5) (i : BitVec 11) (sp : SafePoint)
  | addiImm32 (d : BitVec 5) (a : BitVec 5) (i : BitVec 32) (sp : SafePoint)
  | andi (d : BitVec 5) (a : BitVec 5) (i : BitVec 11) (sp : SafePoint)
  | andiImm32 (d : BitVec 5) (a : BitVec 5) (i : BitVec 32) (sp : SafePoint)
  | ori (d : BitVec 5) (a : BitVec 5) (i : BitVec 11) (sp : SafePoint)
  | oriImm32 (d : BitVec 5) (a : BitVec 5) (i : BitVec 32) (sp : SafePoint)
  | xori (d : BitVec 5) (a : BitVec 5) (i : BitVec 11) (sp : SafePoint)
  | xoriImm32 (d : BitVec 5) (a : BitVec 5) (i : BitVec 32) (sp : SafePoint)
  | shli (d : BitVec 5) (a : BitVec 5) (i : BitVec 6) (sp : SafePoint)
  | shriN (d : BitVec 5) (a : BitVec 5) (i : BitVec 6) (sp : SafePoint)
  | shriI (d : BitVec 5) (a : BitVec 5) (i : BitVec 6) (sp : SafePoint)
  | movi (d : BitVec 5) (i : BitVec 11) (sp : SafePoint)
  | moviImm32 (d : BitVec 5) (i : BitVec 32) (sp : SafePoint)
  | movhi (d : BitVec 5) (a : BitVec 5) (i : BitVec 11) (sp : SafePoint)
  | movhiImm32 (d : BitVec 5) (a : BitVec 5) (i : BitVec 32) (sp : SafePoint)
  | sel (d : BitVec 5) (a : BitVec 5) (b : BitVec 5) (c : BitVec 5) (sp : SafePoint)
  | extb (d : BitVec 5) (a : BitVec 5) (b : BitVec 5) (c : BitVec 5) (sp : SafePoint)
  | insb (d : BitVec 5) (a : BitVec 5) (b : BitVec 5) (c : BitVec 5) (sp : SafePoint)
  | ffmaF32 (d : BitVec 5) (a : BitVec 5) (b : BitVec 5) (c : BitVec 5) (sp : SafePoint)
  | ffmaF16 (d : BitVec 5) (a : BitVec 5) (b : BitVec 5) (c : BitVec 5) (sp : SafePoint)
  | ffmaBf16 (d : BitVec 5) (a : BitVec 5) (b : BitVec 5) (c : BitVec 5) (sp : SafePoint)
  | fadd (d : BitVec 5) (a : BitVec 5) (b : BitVec 5) (t : BitVec 2) (sp : SafePoint)
  | fsub (d : BitVec 5) (a : BitVec 5) (b : BitVec 5) (t : BitVec 2) (sp : SafePoint)
  | fmul (d : BitVec 5) (a : BitVec 5) (b : BitVec 5) (t : BitVec 2) (sp : SafePoint)
  | fmin (d : BitVec 5) (a : BitVec 5) (b : BitVec 5) (t : BitVec 2) (sp : SafePoint)
  | fmax (d : BitVec 5) (a : BitVec 5) (b : BitVec 5) (t : BitVec 2) (sp : SafePoint)
  | fsgnJ (d : BitVec 5) (a : BitVec 5) (b : BitVec 5) (t : BitVec 2) (sp : SafePoint)
  | fsgnJn (d : BitVec 5) (a : BitVec 5) (b : BitVec 5) (t : BitVec 2) (sp : SafePoint)
  | fsgnJx (d : BitVec 5) (a : BitVec 5) (b : BitVec 5) (t : BitVec 2) (sp : SafePoint)
  | fcmp (d : BitVec 5) (a : BitVec 5) (b : BitVec 5) (t : BitVec 2) (c : BitVec 3) (sp : SafePoint)
  | fclass (d : BitVec 5) (a : BitVec 5) (t : BitVec 2) (sp : SafePoint)
  | fcvtFromFloat (d : BitVec 5) (a : BitVec 5) (r : BitVec 3) (q : BitVec 2) (p : BitVec 3) (sp : SafePoint)
  | fcvtToFloat (d : BitVec 5) (a : BitVec 5) (r : BitVec 3) (p : BitVec 2) (q : BitVec 3) (sp : SafePoint)
  | vadd (d : BitVec 5) (a : BitVec 5) (b : BitVec 5) (m : BitVec 3) (ty : BitVec 3) (sp : SafePoint)
  | vsub (d : BitVec 5) (a : BitVec 5) (b : BitVec 5) (m : BitVec 3) (ty : BitVec 3) (sp : SafePoint)
  | vmul (d : BitVec 5) (a : BitVec 5) (b : BitVec 5) (m : BitVec 3) (ty : BitVec 3) (sp : SafePoint)
  | vminI (d : BitVec 5) (a : BitVec 5) (b : BitVec 5) (m : BitVec 3) (ty : BitVec 3) (sp : SafePoint)
  | vminN (d : BitVec 5) (a : BitVec 5) (b : BitVec 5) (m : BitVec 3) (ty : BitVec 3) (sp : SafePoint)
  | vmaxI (d : BitVec 5) (a : BitVec 5) (b : BitVec 5) (m : BitVec 3) (ty : BitVec 3) (sp : SafePoint)
  | vmaxN (d : BitVec 5) (a : BitVec 5) (b : BitVec 5) (m : BitVec 3) (ty : BitVec 3) (sp : SafePoint)
  | vand (d : BitVec 5) (a : BitVec 5) (b : BitVec 5) (m : BitVec 3) (ty : BitVec 3) (sp : SafePoint)
  | vor (d : BitVec 5) (a : BitVec 5) (b : BitVec 5) (m : BitVec 3) (ty : BitVec 3) (sp : SafePoint)
  | vxor (d : BitVec 5) (a : BitVec 5) (b : BitVec 5) (m : BitVec 3) (ty : BitVec 3) (sp : SafePoint)
  | vshl (d : BitVec 5) (a : BitVec 5) (b : BitVec 5) (m : BitVec 3) (ty : BitVec 3) (sp : SafePoint)
  | vshrN (d : BitVec 5) (a : BitVec 5) (b : BitVec 5) (m : BitVec 3) (ty : BitVec 3) (sp : SafePoint)
  | vshrI (d : BitVec 5) (a : BitVec 5) (b : BitVec 5) (m : BitVec 3) (ty : BitVec 3) (sp : SafePoint)
  | vabs (d : BitVec 5) (a : BitVec 5) (m : BitVec 3) (ty : BitVec 3) (sp : SafePoint)
  | vaddSatI (d : BitVec 5) (a : BitVec 5) (b : BitVec 5) (m : BitVec 3) (ty : BitVec 3) (sp : SafePoint)
  | vaddSatN (d : BitVec 5) (a : BitVec 5) (b : BitVec 5) (m : BitVec 3) (ty : BitVec 3) (sp : SafePoint)
  | vsubSatI (d : BitVec 5) (a : BitVec 5) (b : BitVec 5) (m : BitVec 3) (ty : BitVec 3) (sp : SafePoint)
  | vsubSatN (d : BitVec 5) (a : BitVec 5) (b : BitVec 5) (m : BitVec 3) (ty : BitVec 3) (sp : SafePoint)
  | vmulhI (d : BitVec 5) (a : BitVec 5) (b : BitVec 5) (m : BitVec 3) (ty : BitVec 3) (sp : SafePoint)
  | vmulhN (d : BitVec 5) (a : BitVec 5) (b : BitVec 5) (m : BitVec 3) (ty : BitVec 3) (sp : SafePoint)
  | vcmp (d : BitVec 3) (a : BitVec 5) (b : BitVec 5) (m : BitVec 3) (ty : BitVec 3) (c : BitVec 3) (sp : SafePoint)
  | vfadd (d : BitVec 5) (a : BitVec 5) (b : BitVec 5) (m : BitVec 3) (ty : BitVec 3) (sp : SafePoint)
  | vfsub (d : BitVec 5) (a : BitVec 5) (b : BitVec 5) (m : BitVec 3) (ty : BitVec 3) (sp : SafePoint)
  | vfmul (d : BitVec 5) (a : BitVec 5) (b : BitVec 5) (m : BitVec 3) (ty : BitVec 3) (sp : SafePoint)
  | vfmin (d : BitVec 5) (a : BitVec 5) (b : BitVec 5) (m : BitVec 3) (ty : BitVec 3) (sp : SafePoint)
  | vfmax (d : BitVec 5) (a : BitVec 5) (b : BitVec 5) (m : BitVec 3) (ty : BitVec 3) (sp : SafePoint)
  | vrcpe (d : BitVec 5) (a : BitVec 5) (m : BitVec 3) (ty : BitVec 3) (sp : SafePoint)
  | vrsqe (d : BitVec 5) (a : BitVec 5) (m : BitVec 3) (ty : BitVec 3) (sp : SafePoint)
  | vfcvt (d : BitVec 5) (a : BitVec 5) (u : BitVec 1) (q : BitVec 3) (m : BitVec 3) (ty : BitVec 3) (r : BitVec 3) (sp : SafePoint)
  | vfcmp (d : BitVec 3) (a : BitVec 5) (b : BitVec 5) (m : BitVec 3) (ty : BitVec 3) (c : BitVec 3) (sp : SafePoint)
  | vsplat (d : BitVec 5) (a : BitVec 5) (m : BitVec 3) (ty : BitVec 3) (sp : SafePoint)
  | vextr (d : BitVec 5) (a : BitVec 5) (b : BitVec 5) (ty : BitVec 3) (sp : SafePoint)
  | vins (d : BitVec 5) (a : BitVec 5) (b : BitVec 5) (ty : BitVec 3) (sp : SafePoint)
  | vperm (d : BitVec 5) (a : BitVec 5) (b : BitVec 5) (m : BitVec 3) (ty : BitVec 3) (sp : SafePoint)
  | vslide (d : BitVec 5) (a : BitVec 5) (b : BitVec 5) (m : BitVec 3) (ty : BitVec 3) (sp : SafePoint)
  | vcompr (d : BitVec 5) (a : BitVec 5) (m : BitVec 3) (ty : BitVec 3) (sp : SafePoint)
  | vexpnd (d : BitVec 5) (a : BitVec 5) (m : BitVec 3) (ty : BitVec 3) (sp : SafePoint)
  | vsel (d : BitVec 5) (a : BitVec 5) (b : BitVec 5) (m : BitVec 3) (ty : BitVec 3) (sp : SafePoint)
  | vredAdd (d : BitVec 5) (a : BitVec 5) (m : BitVec 3) (ty : BitVec 3) (sp : SafePoint)
  | vredMin (d : BitVec 5) (a : BitVec 5) (m : BitVec 3) (ty : BitVec 3) (sp : SafePoint)
  | vredMax (d : BitVec 5) (a : BitVec 5) (m : BitVec 3) (ty : BitVec 3) (sp : SafePoint)
  | vredAddSat (d : BitVec 5) (a : BitVec 5) (m : BitVec 3) (ty : BitVec 3) (sp : SafePoint)
  | vscanAdd (d : BitVec 5) (a : BitVec 5) (m : BitVec 3) (ty : BitVec 3) (sp : SafePoint)
  | vscanMin (d : BitVec 5) (a : BitVec 5) (m : BitVec 3) (ty : BitVec 3) (sp : SafePoint)
  | vscanMax (d : BitVec 5) (a : BitVec 5) (m : BitVec 3) (ty : BitVec 3) (sp : SafePoint)
  | vpkl6 (d : BitVec 5) (a : BitVec 5) (sp : SafePoint)
  | vupl6 (d : BitVec 5) (a : BitVec 5) (sp : SafePoint)
  | vdot4I8 (d : BitVec 5) (a : BitVec 5) (b : BitVec 5) (m : BitVec 3) (sp : SafePoint)
  | vdot4N8 (d : BitVec 5) (a : BitVec 5) (b : BitVec 5) (m : BitVec 3) (sp : SafePoint)
  | vdot4I8Sat (d : BitVec 5) (a : BitVec 5) (b : BitVec 5) (m : BitVec 3) (sp : SafePoint)
  | vdot4N8Sat (d : BitVec 5) (a : BitVec 5) (b : BitVec 5) (m : BitVec 3) (sp : SafePoint)
  | vdot2I16 (d : BitVec 5) (a : BitVec 5) (b : BitVec 5) (m : BitVec 3) (sp : SafePoint)
  | vdot2N16 (d : BitVec 5) (a : BitVec 5) (b : BitVec 5) (m : BitVec 3) (sp : SafePoint)
  | vdot2I16Sat (d : BitVec 5) (a : BitVec 5) (b : BitVec 5) (m : BitVec 3) (sp : SafePoint)
  | vdot2N16Sat (d : BitVec 5) (a : BitVec 5) (b : BitVec 5) (m : BitVec 3) (sp : SafePoint)
  | vffmaF32 (d : BitVec 5) (a : BitVec 5) (b : BitVec 5) (c : BitVec 5) (m : BitVec 3) (n : BitVec 1) (sp : SafePoint)
  | vffmaF16 (d : BitVec 5) (a : BitVec 5) (b : BitVec 5) (c : BitVec 5) (m : BitVec 3) (n : BitVec 1) (sp : SafePoint)
  | vffmaBf16 (d : BitVec 5) (a : BitVec 5) (b : BitVec 5) (c : BitVec 5) (m : BitVec 3) (n : BitVec 1) (sp : SafePoint)
  | mand (d : BitVec 3) (a : BitVec 3) (b : BitVec 3) (sp : SafePoint)
  | mor (d : BitVec 3) (a : BitVec 3) (b : BitVec 3) (sp : SafePoint)
  | mxor (d : BitVec 3) (a : BitVec 3) (b : BitVec 3) (sp : SafePoint)
  | mnot (d : BitVec 3) (a : BitVec 3) (sp : SafePoint)
  | mpopc (d : BitVec 5) (a : BitVec 3) (sp : SafePoint)
  | mfirst (d : BitVec 5) (a : BitVec 3) (sp : SafePoint)
  | mset (d : BitVec 3) (a : BitVec 5) (sp : SafePoint)
  | vdopAdd (d : BitVec 5) (a : BitVec 5) (b : BitVec 5) (m : BitVec 3) (sp : SafePoint)
  | vdopSub (d : BitVec 5) (a : BitVec 5) (b : BitVec 5) (m : BitVec 3) (sp : SafePoint)
  | vdopMul (d : BitVec 5) (a : BitVec 5) (b : BitVec 5) (m : BitVec 3) (sp : SafePoint)
  | vdopMin (d : BitVec 5) (a : BitVec 5) (b : BitVec 5) (m : BitVec 3) (sp : SafePoint)
  | vdopMax (d : BitVec 5) (a : BitVec 5) (b : BitVec 5) (m : BitVec 3) (sp : SafePoint)
  | vdopDiv (d : BitVec 5) (a : BitVec 5) (b : BitVec 5) (m : BitVec 3) (sp : SafePoint)
  | vdopSqrt (d : BitVec 5) (a : BitVec 5) (m : BitVec 3) (sp : SafePoint)
  | ld (d : BitVec 5) (a : BitVec 5) (n : BitVec 5) (la : BitVec 4) (w : BitVec 3) (o : BitVec 2) (sp : SafePoint)
  | ldOffset (d : BitVec 5) (a : BitVec 5) (n : BitVec 5) (la : BitVec 4) (w : BitVec 3) (o : BitVec 2) (i : BitVec 32) (sp : SafePoint)
  | st (d : BitVec 5) (a : BitVec 5) (n : BitVec 5) (w : BitVec 3) (o : BitVec 2) (sp : SafePoint)
  | stOffset (d : BitVec 5) (a : BitVec 5) (n : BitVec 5) (w : BitVec 3) (o : BitVec 2) (i : BitVec 32) (sp : SafePoint)
  | ldv (d : BitVec 5) (a : BitVec 5) (n : BitVec 5) (la : BitVec 4) (o : BitVec 2) (sp : SafePoint)
  | ldvOffset (d : BitVec 5) (a : BitVec 5) (n : BitVec 5) (la : BitVec 4) (o : BitVec 2) (i : BitVec 32) (sp : SafePoint)
  | ldvL6 (d : BitVec 5) (a : BitVec 5) (n : BitVec 5) (la : BitVec 4) (o : BitVec 2) (sp : SafePoint)
  | ldvL6Offset (d : BitVec 5) (a : BitVec 5) (n : BitVec 5) (la : BitVec 4) (o : BitVec 2) (i : BitVec 32) (sp : SafePoint)
  | pref (a : BitVec 5) (n : BitVec 5) (sp : SafePoint)
  | prefOffset (a : BitVec 5) (n : BitVec 5) (i : BitVec 32) (sp : SafePoint)
  | evict (a : BitVec 5) (n : BitVec 5) (sp : SafePoint)
  | evictOffset (a : BitVec 5) (n : BitVec 5) (i : BitVec 32) (sp : SafePoint)
  | stv (d : BitVec 5) (a : BitVec 5) (n : BitVec 5) (o : BitVec 2) (sp : SafePoint)
  | stvOffset (d : BitVec 5) (a : BitVec 5) (n : BitVec 5) (o : BitVec 2) (i : BitVec 32) (sp : SafePoint)
  | stvL6 (d : BitVec 5) (a : BitVec 5) (n : BitVec 5) (o : BitVec 2) (sp : SafePoint)
  | stvL6Offset (d : BitVec 5) (a : BitVec 5) (n : BitVec 5) (o : BitVec 2) (i : BitVec 32) (sp : SafePoint)
  | gath (d : BitVec 5) (a : BitVec 5) (b : BitVec 5) (la : BitVec 4) (w : BitVec 3) (n : BitVec 5) (m : BitVec 3) (od : BitVec 2) (sc : BitVec 2) (sp : SafePoint)
  | ldvs (d : BitVec 5) (a : BitVec 5) (b : BitVec 5) (la : BitVec 4) (w : BitVec 3) (n : BitVec 5) (m : BitVec 3) (od : BitVec 2) (sc : BitVec 2) (sp : SafePoint)
  | scat (d : BitVec 5) (a : BitVec 5) (b : BitVec 5) (w : BitVec 3) (n : BitVec 5) (m : BitVec 3) (od : BitVec 2) (sc : BitVec 2) (sp : SafePoint)
  | stvs (d : BitVec 5) (a : BitVec 5) (b : BitVec 5) (w : BitVec 3) (n : BitVec 5) (m : BitVec 3) (od : BitVec 2) (sc : BitVec 2) (sp : SafePoint)
  | ldm (d : BitVec 5) (a : BitVec 5) (n : BitVec 5) (la : BitVec 4) (c : BitVec 3) (o : BitVec 2) (sp : SafePoint)
  | ldmOffset (d : BitVec 5) (a : BitVec 5) (n : BitVec 5) (la : BitVec 4) (c : BitVec 3) (o : BitVec 2) (i : BitVec 32) (sp : SafePoint)
  | stm (d : BitVec 5) (a : BitVec 5) (n : BitVec 5) (c : BitVec 3) (o : BitVec 2) (sp : SafePoint)
  | stmOffset (d : BitVec 5) (a : BitVec 5) (n : BitVec 5) (c : BitVec 3) (o : BitVec 2) (i : BitVec 32) (sp : SafePoint)
  | amoAdd (d : BitVec 5) (a : BitVec 5) (b : BitVec 5) (la : BitVec 4) (w : BitVec 1) (n : BitVec 5) (od : BitVec 2) (sc : BitVec 2) (sp : SafePoint)
  | amoAnd (d : BitVec 5) (a : BitVec 5) (b : BitVec 5) (la : BitVec 4) (w : BitVec 1) (n : BitVec 5) (od : BitVec 2) (sc : BitVec 2) (sp : SafePoint)
  | amoOr (d : BitVec 5) (a : BitVec 5) (b : BitVec 5) (la : BitVec 4) (w : BitVec 1) (n : BitVec 5) (od : BitVec 2) (sc : BitVec 2) (sp : SafePoint)
  | amoXor (d : BitVec 5) (a : BitVec 5) (b : BitVec 5) (la : BitVec 4) (w : BitVec 1) (n : BitVec 5) (od : BitVec 2) (sc : BitVec 2) (sp : SafePoint)
  | amoMinI (d : BitVec 5) (a : BitVec 5) (b : BitVec 5) (la : BitVec 4) (w : BitVec 1) (n : BitVec 5) (od : BitVec 2) (sc : BitVec 2) (sp : SafePoint)
  | amoMinN (d : BitVec 5) (a : BitVec 5) (b : BitVec 5) (la : BitVec 4) (w : BitVec 1) (n : BitVec 5) (od : BitVec 2) (sc : BitVec 2) (sp : SafePoint)
  | amoMaxI (d : BitVec 5) (a : BitVec 5) (b : BitVec 5) (la : BitVec 4) (w : BitVec 1) (n : BitVec 5) (od : BitVec 2) (sc : BitVec 2) (sp : SafePoint)
  | amoMaxN (d : BitVec 5) (a : BitVec 5) (b : BitVec 5) (la : BitVec 4) (w : BitVec 1) (n : BitVec 5) (od : BitVec 2) (sc : BitVec 2) (sp : SafePoint)
  | amoSwap (d : BitVec 5) (a : BitVec 5) (b : BitVec 5) (la : BitVec 4) (w : BitVec 1) (n : BitVec 5) (od : BitVec 2) (sc : BitVec 2) (sp : SafePoint)
  | amoCas (d : BitVec 5) (a : BitVec 5) (b : BitVec 5) (la : BitVec 4) (w : BitVec 1) (n : BitVec 5) (od : BitVec 2) (sc : BitVec 2) (sp : SafePoint)
  | amov (d : BitVec 5) (a : BitVec 5) (t : BitVec 3) (n : BitVec 5) (m : BitVec 3) (od : BitVec 2) (sc : BitVec 2) (sp : SafePoint)
  | amowAdd (d : BitVec 5) (a : BitVec 5) (b : BitVec 5) (la : BitVec 4) (n : BitVec 5) (od : BitVec 2) (sc : BitVec 2) (sp : SafePoint)
  | amowSwap (d : BitVec 5) (a : BitVec 5) (b : BitVec 5) (la : BitVec 4) (n : BitVec 5) (od : BitVec 2) (sc : BitVec 2) (sp : SafePoint)
  | amowCas (d : BitVec 5) (a : BitVec 5) (b : BitVec 5) (la : BitVec 4) (n : BitVec 5) (od : BitVec 2) (sc : BitVec 2) (sp : SafePoint)
  | fenceAcq (s : BitVec 2) (sp : SafePoint)
  | fenceRel (s : BitVec 2) (sp : SafePoint)
  | fenceFull (s : BitVec 2) (sp : SafePoint)
  | cadd (d : BitVec 5) (a : BitVec 5) (b : BitVec 5) (la : BitVec 4) (s : BitVec 2) (sp : SafePoint)
  | cwait (d : BitVec 5) (a : BitVec 5) (b : BitVec 5) (la : BitVec 4) (s : BitVec 2) (sp : SafePoint)
  | cpoll (d : BitVec 5) (a : BitVec 5) (la : BitVec 4) (s : BitVec 2) (sp : SafePoint)
  | tick (a : BitVec 5) (sp : SafePoint)
  | sbind (d : BitVec 5) (k : BitVec 5) (b : BitVec 5) (sp : SafePoint)
  | sunbd (k : BitVec 5) (sp : SafePoint)
  | sarr (d : BitVec 5) (k : BitVec 5) (b : BitVec 5) (la : BitVec 4) (sp : SafePoint)
  | sarrb (k : BitVec 5) (b : BitVec 5) (sp : SafePoint)
  | swait (d : BitVec 5) (k : BitVec 5) (b : BitVec 5) (la : BitVec 4) (sp : SafePoint)
  | rdsend (d : BitVec 5) (k : BitVec 3) (b : BitVec 5) (sp : SafePoint)
  | rdrecv (d : BitVec 5) (k : BitVec 3) (b : BitVec 5) (la : BitVec 4) (sp : SafePoint)
  | stest (d : BitVec 5) (k : BitVec 5) (b : BitVec 5) (la : BitVec 4) (sp : SafePoint)
  | sleave (k : BitVec 5) (sp : SafePoint)
  | trigx (d : BitVec 5) (a : BitVec 5) (la : BitVec 4) (sp : SafePoint)
  | tcfg (d : BitVec 3) (s : BitVec 5) (la : BitVec 4) (sp : SafePoint)
  | tfmt (s : BitVec 5) (la : BitVec 4) (sp : SafePoint)
  | tscale (h : BitVec 1) (s : BitVec 5) (la : BitVec 4) (n : BitVec 5) (od : BitVec 2) (sp : SafePoint)
  | tzero (d : BitVec 3) (la : BitVec 4) (sp : SafePoint)
  | tldr (d : BitVec 3) (s : BitVec 5) (la : BitVec 4) (n : BitVec 5) (od : BitVec 2) (i : BitVec 24) (sp : SafePoint)
  | tstr (a : BitVec 3) (s : BitVec 5) (la : BitVec 4) (n : BitVec 5) (od : BitVec 2) (i : BitVec 24) (sp : SafePoint)
  | tmovr (x : BitVec 3) (s : BitVec 5) (la : BitVec 4) (h : BitVec 1) (v : BitVec 5) (sp : SafePoint)
  | tmovc (x : BitVec 3) (s : BitVec 5) (la : BitVec 4) (h : BitVec 1) (v : BitVec 5) (sp : SafePoint)
  | mma (d : BitVec 3) (a : BitVec 3) (b : BitVec 3) (la : BitVec 4) (sp : SafePoint)
  | mmas (d : BitVec 3) (a : BitVec 3) (s : BitVec 5) (la : BitVec 4) (sp : SafePoint)
  | mmaSat (d : BitVec 3) (a : BitVec 3) (b : BitVec 3) (la : BitVec 4) (sp : SafePoint)
  | mmasSat (d : BitVec 3) (a : BitVec 3) (s : BitVec 5) (la : BitVec 4) (sp : SafePoint)
  | gload (s : BitVec 5) (la : BitVec 4) (n : BitVec 5) (od : BitVec 2) (i : BitVec 24) (sp : SafePoint)
  | gdrop (s : BitVec 5) (la : BitVec 4) (sp : SafePoint)
  | tdrain (d : BitVec 3) (la : BitVec 4) (sp : SafePoint)
  | tfill (d : BitVec 3) (la : BitVec 4) (sp : SafePoint)
  | tstat (a : BitVec 3) (s : BitVec 5) (la : BitVec 4) (sp : SafePoint)
  | tfree (d : BitVec 3) (la : BitVec 4) (sp : SafePoint)
  | topen (d : BitVec 5) (a : BitVec 5) (sp : SafePoint)
  | tclose (a : BitVec 5) (sp : SafePoint)
  | tacqS (a : BitVec 5) (b : BitVec 5) (sp : SafePoint)
  | tacqW (a : BitVec 5) (b : BitVec 5) (sp : SafePoint)
  | tacqA (a : BitVec 5) (b : BitVec 5) (sp : SafePoint)
  | trel (a : BitVec 5) (b : BitVec 5) (sp : SafePoint)
  | tsplit (d : BitVec 5) (a : BitVec 5) (b : BitVec 5) (sp : SafePoint)
  | tqry (d : BitVec 5) (a : BitVec 5) (b : BitVec 5) (sp : SafePoint)
  | tdesc (d : BitVec 5) (a : BitVec 5) (b : BitVec 5) (sp : SafePoint)
  | yskew (d : BitVec 5) (a : BitVec 5) (b : BitVec 5) (sp : SafePoint)
  | yunsk (d : BitVec 5) (a : BitVec 5) (sp : SafePoint)
  | dadd (d : BitVec 5) (a : BitVec 5) (b : BitVec 5) (la : BitVec 4) (sp : SafePoint)
  | dsub (d : BitVec 5) (a : BitVec 5) (b : BitVec 5) (la : BitVec 4) (sp : SafePoint)
  | dmul (d : BitVec 5) (a : BitVec 5) (b : BitVec 5) (la : BitVec 4) (sp : SafePoint)
  | ddiv (d : BitVec 5) (a : BitVec 5) (b : BitVec 5) (la : BitVec 4) (sp : SafePoint)
  | dsqrt (d : BitVec 5) (a : BitVec 5) (la : BitVec 4) (sp : SafePoint)
  | dmin (d : BitVec 5) (a : BitVec 5) (b : BitVec 5) (la : BitVec 4) (sp : SafePoint)
  | dmax (d : BitVec 5) (a : BitVec 5) (b : BitVec 5) (la : BitVec 4) (sp : SafePoint)
  | dcmp (d : BitVec 5) (a : BitVec 5) (b : BitVec 5) (la : BitVec 4) (c : BitVec 3) (sp : SafePoint)
  | dcvtToF64 (d : BitVec 5) (a : BitVec 5) (r : BitVec 3) (la : BitVec 4) (t : BitVec 3) (sp : SafePoint)
  | dcvtFromF64 (d : BitVec 5) (a : BitVec 5) (r : BitVec 3) (la : BitVec 4) (t : BitVec 3) (sp : SafePoint)
  | dfma (d : BitVec 5) (a : BitVec 5) (b : BitVec 5) (c : BitVec 5) (la : BitVec 4) (sp : SafePoint)
  | vdfma (d : BitVec 5) (a : BitVec 5) (b : BitVec 5) (c : BitVec 5) (m : BitVec 3) (n : BitVec 1) (sp : SafePoint)
  | fdiv (d : BitVec 5) (a : BitVec 5) (b : BitVec 5) (la : BitVec 4) (sp : SafePoint)
  | fsqrt (d : BitVec 5) (a : BitVec 5) (la : BitVec 4) (sp : SafePoint)
  | fexp2 (d : BitVec 5) (a : BitVec 5) (la : BitVec 4) (sp : SafePoint)
  | flog2 (d : BitVec 5) (a : BitVec 5) (la : BitVec 4) (sp : SafePoint)
  | fsin (d : BitVec 5) (a : BitVec 5) (la : BitVec 4) (sp : SafePoint)
  | fcos (d : BitVec 5) (a : BitVec 5) (la : BitVec 4) (sp : SafePoint)
  | frcp (d : BitVec 5) (a : BitVec 5) (la : BitVec 4) (sp : SafePoint)
  | frsq (d : BitVec 5) (a : BitVec 5) (la : BitVec 4) (sp : SafePoint)
  | shipw (sp : SafePoint)
  | migrate (sp : SafePoint)
  | msend (d : BitVec 5) (a : BitVec 5) (b : BitVec 5) (sp : SafePoint)
  | msendT (d : BitVec 5) (a : BitVec 5) (b : BitVec 5) (sp : SafePoint)
  | mmask (d : BitVec 5) (a : BitVec 5) (b : BitVec 5) (sp : SafePoint)
  | mbox (d : BitVec 5) (a : BitVec 5) (b : BitVec 5) (sp : SafePoint)
  | mdone (d : BitVec 5) (sp : SafePoint)
  | cpy (d : BitVec 5) (a : BitVec 5) (b : BitVec 5) (sp : SafePoint)
  | cpyt (d : BitVec 5) (a : BitVec 5) (b : BitVec 5) (sp : SafePoint)
  | cpyq (d : BitVec 5) (a : BitVec 5) (sp : SafePoint)
  | krd (d : BitVec 5) (k : BitVec 12) (sp : SafePoint)
  | kwr (a : BitVec 5) (k : BitVec 12) (sp : SafePoint)
  | eret (a : BitVec 5) (b : BitVec 5) (sp : SafePoint)
  | waiti (d : BitVec 5) (a : BitVec 5) (sp : SafePoint)
  | tlbw (d : BitVec 5) (a : BitVec 5) (b : BitVec 5) (sp : SafePoint)
  | tlbinv (a : BitVec 5) (b : BitVec 5) (sp : SafePoint)
  | aswch (d : BitVec 5) (a : BitVec 5) (sp : SafePoint)
  | launch (d : BitVec 5) (a : BitVec 5) (sp : SafePoint)
  | launchT (d : BitVec 5) (a : BitVec 5) (sp : SafePoint)
  | swout (d : BitVec 5) (a : BitVec 5) (sp : SafePoint)
  | swin (d : BitVec 5) (a : BitVec 5) (sp : SafePoint)
  | rdcfg (d : BitVec 5) (a : BitVec 5) (b : BitVec 5) (sp : SafePoint)
  /-- The result of an outstanding load or other long-latency instruction is written and its dependants may issue (R57). -/
  | longLatencyCompletion (p : Pos) (n : Nat)
  /-- An unsettled local instruction resolves its translation and its held window commits or is squashed (R484). -/
  | settle (p : Pos)
  /-- A missing 128-byte code block arrives and the stalled strand becomes Ready (R485). -/
  | fetchFill (p : Pos)
  /-- A committed store leaves the store buffer into the cache or bank once its delay and any tenure grant allow (R237). -/
  | storeBufferDrain (p : Pos)
  /-- The heavy core chooses a dispatchable guest-queue head by credit, weight and age and dispatches it (R167). -/
  | guestDispatch (y : Nat)
  /-- A result packet returns and the sender writes it and commits the held window in order (R171). -/
  | shippedCompletion (p : Pos) (seq : BitVec 8)
  /-- A fault packet returns and the sender squashes the window, cancels younger shipped work and traps (R173). -/
  | shippedFault (p : Pos) (seq : BitVec 8)
  /-- The heavy core removes cancelled instructions still queued and discards the results of dispatched ones (R174). -/
  | cancelPacket (y : Nat)
  /-- The 48-cycle context transfer of a MIGRATE or trap migration ends and the strand issues at its new position (R187). -/
  | migrateTransferDone (p : Pos)
  /-- A load reply for a migrated strand is redirected to its new position (R188). -/
  | forwardedReply (p : Pos)
  /-- A free matrix pipe takes the oldest entry of the matrix queue (R200). -/
  | matrixPipeStart (y : Nat)
  /-- A matrix operation writes td all at once 10 cycles after its occupancy ends (R201). -/
  | matrixCompletion (y : Nat) (pipe : Nat)
  /-- A tile transfer-unit operation, save or refill completes (R222). -/
  | tileTransferCompletion (y : Nat)
  /-- The rearrangement of a skewed region ends and waiting accesses are served (R234). -/
  | skewRearrangeDone (y : Nat)
  /-- 2,048 cycles after a window closes the tenant's penalty shift and reports change (R249). -/
  | penaltyUpdate (tenant : Nat)
  /-- A team clock, period, generation or residency change reaches a stop's clock mirror (R241). -/
  | mirrorUpdate
  /-- A requested tenure is granted and the access that needed it completes (R272). -/
  | tenureGrant
  /-- A recall, downgrade or probe reaches a holder, which writes back and invalidates as required (R272). -/
  | recall
  /-- A yard receives a drain request, writes back dirty lines up to an epoch and answers (R300). -/
  | drainRequest
  /-- A counter or sheaf update reaches the yard and wakes the waiting instruction's watch entry (R320). -/
  | watchWake (p : Pos)
  /-- A wait without a watch entry rereads its counter or sheaf every 256 cycles (R320). -/
  | watchPoll (p : Pos)
  /-- A timed wait reaches its deadline, makes a final read and succeeds or times out (R321). -/
  | waitDeadline (p : Pos)
  /-- A fired trigger takes an empty strand slot and starts its activation (R324). -/
  | activationStart (y : Nat)
  /-- The event counters of a team are gathered into its statistics record before the phase becomes visible (R45). -/
  | statGather (tid : Nat)
  /-- A message reaches its receiving yard and is placed in the mailbox or held for space (R378). -/
  | messageArrival (src : MsgFrom)
  /-- Space frees in a mailbox and the held message is placed (R379). -/
  | heldMessagePlaced (y : Nat) (cls : BitVec 4)
  /-- A held message waits K.MBWAIT cycles and is refused (R379). -/
  | mailboxWaitExpiry (y : Nat) (cls : BitVec 4)
  /-- The acceptance or refusal of a message reaches the sender and MSEND completes (R386). -/
  | messageAnswer (p : Pos) (n : Nat) (code : Nat)
  /-- A placed record starts one activation of the owning team once the previous one of its class has exited (R381). -/
  | handlerActivation (y : Nat) (cls : BitVec 4)
  /-- A free output port grants one candidate packet by age or by channel credits (R368). -/
  | portArbitration (stop : Nat) (port : Nat)
  /-- A router holding all child vectors of a round combines them and sends the result rootward (R383). -/
  | reductionRound (k : Nat) (stop : Nat)
  /-- An idle router with empty buffers powers down after 2,048 cycles (R371). -/
  | routerPowerDown (stop : Nat)
  /-- A flit, mirror update or supervisor wakes a powered-down router (R372). -/
  | routerWake (stop : Nat) (sup : Bool)
  /-- A woken router begins accepting flits 40 cycles after the wake (R372). -/
  | routerReady (stop : Nat)
  /-- The walker completes a page walk and fills the TLBs or reports a fault (R352). -/
  | pageWalk (y : Nat) (n : Nat)
  /-- An ATS translation completion fills the TLBs or starts a page request (R355). -/
  | atsCompletion (asid : BitVec 16) (page : Nat) (r : Bool) (w : Bool) (hpa : Nat) (bits : Nat)
  /-- A Success page response makes waiting accesses request translation again (R356). -/
  | priSuccess (asid : BitVec 16) (page : Nat)
  /-- An Invalid Request page response raises cause 0x16 at the waiting access (R356). -/
  | priInvalidRequest (asid : BitVec 16) (page : Nat)
  /-- A Response Failure raises cause 0x16 on every strand waiting on a request of the function (R356). -/
  | priResponseFailure (tenant : Nat)
  /-- The host's invalidation removes matching entries from every TLB of the package (R357). -/
  | atsInvalidateRequest (tenant : BitVec 4) (pasid : BitVec 20) (base : Nat) (len : Nat)
  /-- Once no use of the removed entries is in flight the Invalidate Completion is sent (R357). -/
  | invalidateCompletion
  /-- A copy engine starts the next queued transfer (R409). -/
  | transferStart (e : EngineTurn)
  /-- A transfer's last destination byte performs and its completion add is made (R414). -/
  | transferComplete (e : Nat) (data : List Byte)
  /-- A transfer ends failed, releases its tenure, records its cause and posts a type-4 event (R413). -/
  | transferFailed (e : Nat) (remote : Option (BitVec 8))
  /-- Loss of every path to a Serten device fails its transfers with cause 0x50 (R428). -/
  | remotePathLoss (dev : BitVec 16)
  /-- A peer's put arrives and performs in device memory (R305). -/
  | sertenPut (dev : BitVec 16) (tenant : BitVec 4) (va : Word) (bytes : List Byte)
  /-- A posted host write to device memory performs at its L2 slice (R304). -/
  | hostMemoryWrite (pa : Nat) (bytes : List Byte) (bad : Bool)
  /-- A host read of device memory is served at the L2 slice (R304), and one of BAR0 at the device's registers (R421). -/
  | hostMemoryRead (a : HostAddr) (n : Nat)
  /-- A host write to a bound counter alias adds to the counter at system scope (R422). -/
  | hostCounterAdd (f : Nat) (n : Nat) (v : Word)
  /-- A host write to EQBASE or EQSIZE resets EQWR, EQRD and EQLOST (R421). -/
  | eqConfigWrite (f : Nat) (size : Bool) (v : Word)
  /-- A write to a register without a row of its own sets its fields under their access codes (R6). -/
  | registerWrite (r : HostReg) (v : Word)
  /-- The device takes the next posted record from a host launch queue and admits or drops it (R394). -/
  | launchRecordTake (f : Nat) (q : Nat) (bases : List Word)
  /-- A yard scheduler admits records from its device launch queue and refills it from overflow areas (R396). -/
  | deviceQueueAdmit (y : Nat) (area : Option Nat) (bases : List Word)
  /-- A yard scheduler places the first pending team that fits its free resources (R397). -/
  | teamPlacement (y : Nat)
  /-- A pending team gains one effective priority after each 8 quanta of waiting and may become blocking (R398). -/
  | priorityAging (y : Nat) (tid : Nat)
  /-- A resident team's quantum ends and a new one begins or a swap-out is requested (R399). -/
  | quantumExpiry (tid : Nat)
  /-- A wait outstanding longer than K.PARK makes its team eligible for swap-out (R322). -/
  | parkExpiry (p : Pos)
  /-- K.SAFEWAIT passes before all strands stop and the rest are forced to a full save (R402). -/
  | safewaitExpiry (tid : Nat)
  /-- Once every strand has stopped the team's tiles and state are saved and its resources freed (R402). -/
  | swapOut (tid : Nat)
  /-- A waiting device event is written to the ring once the host frees an entry (R423). -/
  | eventBacklogDrain (f : Nat)
  /-- A non-posted request without completion for 10 ms isolates the link and freezes its function (R424). -/
  | requestTimeout (f : BitVec 4)
  /-- An FLR of a frozen function ends its teams, tears down its spaces and clears FROZEN (R424). -/
  | functionLevelReset (f : BitVec 4)
  /-- A correctable error is repaired and counted (R430). -/
  | errorCorrected (y : Nat) (unit : Nat) (addr : Nat)
  /-- A strand consumes poisoned data and the instruction is contained (R432). -/
  | poisonConsumed (p : Pos)
  /-- An uncorrectable error is contained at the first applicable level (R433). -/
  | uncorrectableError (e : ErrSite)
  /-- A residue mismatch fails both matrix pipes of the yard (R437). -/
  | pipeFailure (y : Nat)
  /-- A pair's fingerprint exchange ends and the interval commits, rolls back or raises 0x51 (R441). -/
  | exchangeComplete (p : Pos) (same : Bool)
  /-- A fault of the whole device ends all work and starts a recovery reset (R438). -/
  | deviceFault (unit : Nat)
  /-- A device reset derives the identity key and checks the identity record (R447). -/
  | deviceReset
  /-- Writing 1 to GO in phase 2 starts reading and verifying the supervisor image (R446). -/
  | go (v : Word)
  /-- The image copy is verified and START begins, or bring-up ends FAILED (R449). -/
  | imageVerifyDone (readOk : Bool)
  /-- START finishes testing the yards and the device enters READY (R447). -/
  | bringUpReady (bad : List Nat)
  /-- A recovery reset reruns bring-up without GO, keeping DRAM (R451). -/
  | recoveryReset
  /-- An SPDM request over DOE is answered with measurements or signatures (R450). -/
  | spdmRequest (r : SpdmRequest)
  /-- Temperature or average power over the limit lowers the clock by 100 MHz (R453). -/
  | clockStepDown (thermal : Bool) (power : Bool)
  /-- Each 2 ms with both conditions clear raises the clock one step (R453). -/
  | clockStepUp
  /-- A junction temperature of 125 °C causes a device fault (R453). -/
  | thermalTrip
  /-- A WAITI that has waited sa cycles without a notification ends, writing V = 0 and zeros (R115). -/
  | waitiTimeout (p : Pos)
  /-- The isolated host link finishes retraining and the device may issue new requests again (R424). -/
  | linkRetrained
  /-- A peer's get request arrives over Serten and the device serves the read of its exported memory (R428). -/
  | sertenGet (dev : BitVec 16) (tenant : BitVec 4) (va : Word) (n : Nat)
  /-- A peer's remote counter add arrives and is applied as a release at system scope, evaluating watches and triggers (R305). -/
  | sertenCounterAdd (dev : BitVec 16) (tenant : BitVec 4) (va : Word) (v : Word)
  /-- An Ethernet port gains or loses its link to a device, changing the ports over which transfers to that device are carried (R428). -/
  | portLinkChange (port : Nat) (dev : Option (BitVec 16))
  /-- At the end of a 2^20-cycle interval the coalesced corrected errors of a unit are placed as one machine-check record (R442). -/
  | coalescingIntervalEnd (y : Nat)
deriving DecidableEq, Repr

end Sys2Proof
end

