-- ==== Sys2Proof/Machine/State.lean ====
section
/-! DEFINITION. The state of the device as plain data: strands, cores, yards, teams, address spaces, caches as tags,
directories, engines, the host link, and memory; the reasons a step can stop; and the state after reset. Records that
are many and alike (cores, yards, functions, engines, routers, mirrors) are association lists in which an absent key
stands for the record's reset value. -/
namespace Sys2Proof.Machine

/-! ### Strands -/

/-- A register an instruction can write. -/
inductive RegId where
  | s (r : BitVec 5)
  | v (r : BitVec 5)
  | m (r : BitVec 3)
deriving DecidableEq, Repr

/-- A register write, or flags raised (and whether the event counters of R45 count them), as a result carries it. -/
inductive RegEff where
  | s (r : BitVec 5) (x : Word)
  | v (r : BitVec 5) (x : Vec)
  | m (r : BitVec 3) (x : Word)
  | flags (f : BitVec 6) (count : Bool)
deriving DecidableEq, Repr

/-- What a FENCE leaves in a store buffer behind the older stores (R298, R310): the start of the span of a FENCE with a
release side at a scope, or the end of the span before it. -/
inductive FenceMark where
  | starts (scope : BitVec 2)
  | ends
deriving DecidableEq, Repr

/-- A store that has not reached memory: its memory key, its virtual address, its bytes, its next-use class with
K.NUDEF as in force (R244, R245), and its scope when it is a release (R293). A FENCE's mark stands as an entry without
bytes. -/
structure HeldStore where
  key : Nat
  va : Word
  bytes : List Byte
  nu : BitVec 5
  nudef : BitVec 5
  rel : Option (BitVec 2)
  mark : Option FenceMark
deriving DecidableEq, Repr

/-- The five event counters of R45. -/
structure EvCounts where
  nv : Nat
  dz : Nat
  ofl : Nat
  uf : Nat
  np : Nat
deriving DecidableEq, Repr

/-- The part of a strand that a squash restores: registers (R116, R137, R139), program counter as a word address (R47),
K.FPFLAGS (R43), the stores held in its commit buffer, one list for each instruction (R170), the events not yet counted
(R45), and the registers whose value is poisoned (R431). -/
structure Arch where
  s : Vector Word 32
  v : Vector Vec 32
  m : Vector Word 8
  pcw : BitVec 62
  fpflags : BitVec 6
  held : List (List HeldStore)
  ev : EvCounts
  poisoned : List RegId
deriving DecidableEq, Repr

/-- The fields of K.STATUS (R91). -/
structure Status where
  sup : Bool
  migt : Bool
  mig : Bool
  act : Bool
  paired : Bool
  safereq : Bool
  reason : BitVec 8
deriving DecidableEq, Repr

/-- The trap registers of R95: CODE, PC as a word address of 54 bits, ADDR and the fields of K.FINFO. -/
structure TrapRegs where
  code : BitVec 8
  pc : BitVec 54
  addr : Word
  ilen : BitVec 2
  squash : BitVec 4
  hyidx : BitVec 6
  seq : BitVec 8
deriving DecidableEq, Repr

/-- The matrix report of K.NANMODE (R46). -/
structure NanReport where
  rvalid : Bool
  pipe : BitVec 1
  row : BitVec 4
  col : BitVec 4
  kstep : BitVec 8
  yidx : BitVec 6
deriving DecidableEq, Repr

/-- The software-set modes of a strand: K.RMODE (R30), K.FPEN (R44), K.NANMODE (R46), K.NUDEF (R245), K.ASID (R344). -/
structure Modes where
  rmode : BitVec 2
  nve : Bool
  dze : Bool
  nanmode : Bool
  nanrep : NanReport
  nudef : BitVec 5
  asid : BitVec 16
  pasid : BitVec 20
  tenant : BitVec 4
deriving DecidableEq, Repr

/-- What a Waiting strand waits in (R87): the waiting instructions, WAITI, or a YIELD interval with the slots that must
still issue. -/
inductive WaitKind where
  | cwait
  | swait
  | rdrecv
  | waiti
  | yieldFor (slots : List Nat)
deriving DecidableEq, Repr

/-- The state of a strand slot (R87) in the detail the rules need. A strand under whose unsettled instruction others may
issue (R484) is `ready` or `stalled` as its next instruction is; that it is Waiting or Parked by R87 stands in its wait and
in its window. `walking`: a translation is with the walker (R352);
`pageWait`: Parked on a host page or an ATS request (R355, R356); `slotWait`: a MIGRATE that waits for an own slot
(R189); `moving`: a transfer of R187 that ends at a cycle; `trapWait`: Parked for a trap migration (R189); `agreeing`:
an instruction waits for the agreement of a pair (R440); `answerWait`: messages are unanswered (R386); `consumed`: the
strand's instruction has consumed poison of a unit of R442 and is to be contained (R432). -/
inductive RunState where
  | empty
  | ready
  | stalled
  | fetching
  | walking
  | waiting (kind : WaitKind)
  | parkedTrap (delivered : Bool)
  | trapWait
  | slotWait
  | moving (until_ : Nat) (dst : Pos)
  | pageWait
  | agreeing
  | answerWait
  | consumed (unit : Nat)
deriving DecidableEq, Repr

/-- An unsettled local instruction (R484), with lookahead 0, what it waits in, and its number among those of its strand, under which
it asks for translations (the model's own). -/
structure Unsettled where
  instr : Instr
  why : RunState
  id : Nat
deriving DecidableEq, Repr

/-- An outstanding shipped instruction (R160, R161, R170): its number, destinations and mask, its lookahead and what is
left of it under R57, its length, whether its result has arrived, the registers as they stood before it, and whether it is
an acquire (R291). Four kinds of entries have number 0: an unsettled local instruction (R484); a safe point, done from the start, with the registers
after it; a SHIPW, and a local instruction with a fault (R93), which are done when nothing precedes them. `index`: the index
vector of an unsettled gather or scatter (R142). -/
structure WEntry where
  seq : BitVec 8
  dests : List RegId
  mask : Word
  la : Nat
  left : Nat
  ilen : BitVec 2
  done : Bool
  safePoint : SafePoint
  base : Arch
  acq : Bool
  unsettled : Option Unsettled
  index : List RegId := []
deriving DecidableEq, Repr

/-- A long-latency local result not yet written (R57), whether the access is an acquire (R291), whether an H-class form of a
heavy core's own strand gives it (R186), whether it returns to a core that the strand has left (R188), the index vector of
a gather, which a vector instruction waits for too (R142), whether the instruction lies before the agreed point of its
pair (R441), the keys and addresses whose translations it uses until its data has returned (R357), and the cycle of its issue. -/
structure Pending where
  effs : List RegEff
  left : Nat
  acq : Bool
  hclass : Bool
  forwarded : Bool
  index : List RegId
  agreed : Bool
  uses : List (Nat × Nat)
  since : Nat
deriving DecidableEq, Repr

/-- Element types of tiles (R191). -/
inductive ElemTy where
  | f32 | f16 | bf16 | f64 | i8 | i32 | l6
deriving DecidableEq, Repr

/-- A tile configuration (R192). -/
structure TileCfg where
  rows : Nat
  rb : Nat
  et : ElemTy
deriving DecidableEq, Repr

/-- The states of a configured tile (R193). -/
inductive TileState where
  | empty | clean | dirty | spilled
deriving DecidableEq, Repr

/-- An architectural tile register (R190): unconfigured, or configured with a state and, when resident, a physical
tile of its heavy core. -/
structure TileReg where
  cfg : Option TileCfg
  st : TileState
  phys : Option Nat
deriving DecidableEq, Repr

/-- The format context (R197) with its scale stores (R199). -/
structure FmtCtx where
  word : BitVec 16
  valid : Bool
  sca : Vec
  scb : Vec
deriving DecidableEq, Repr

/-- A binding of a sheaf slot by a strand (R328): slot number, window address, last arrival. -/
structure SheafBind where
  n : BitVec 5
  addr : Word
  last : Option (BitVec 32)
deriving DecidableEq, Repr

/-- Atomic updates of memory (R312, R314, R316). -/
inductive AtomicOp where
  | amo (op : BitVec 4) (wide : Bool) (x e : Word)
  | amov (ty : BitVec 3) (mask : Word) (x : Vec)
  | amow (op : BitVec 2) (x : Vec)
deriving DecidableEq, Repr

/-- One entry of an activation's hold (R382); `heavy`: the heavy core makes the access for the strand (R260); `nu` and
`nudef`: the class of an atomic and K.NUDEF as in force (R244, R245). -/
inductive HoldItem where
  | store (sts : List HeldStore) (heavy : Bool)
  | atomic (key : Nat) (va : Word) (op : AtomicOp) (sc : BitVec 2) (rel heavy : Bool) (nu nudef : BitVec 5)
  | cadd (key : Nat) (va : Word) (v : Word) (sc : BitVec 2)
  | msg (dst : Word) (payload : List Byte) (traps : Bool)
deriving DecidableEq, Repr

/-- What started an activation: a trigger's entry and argument (R324), or a record of a mailbox (R381). -/
inductive ActSource where
  | trigger (entry arg : Word) (yardCounter : Bool) (token : BitVec 24)
  | message (cls : BitVec 4) (record : Nat)
deriving DecidableEq, Repr

/-- An activation (R381, R382, R434): what started it, its hold, whether MDONE has completed, whether the hold was
released early, whether a release of it is under way, the refusals of MSEND.T counted so far, whether a released CADD
saturated, its rollbacks, and the messages of the release under way (destination word, whether a refusal traps). -/
structure Activation where
  src : ActSource
  hold : List HoldItem
  mdone : Bool
  released : Bool
  releasing : Bool
  refusedT : Nat
  saturated : Bool
  rollbacks : Nat
  sentMsgs : List (Word × Bool)
deriving DecidableEq, Repr

/-- The second copy of a paired strand and its interval (R439-R441): the agreed copy, instructions retired since, the
fingerprint, the stores held in the pair buffer, whether this agreed point has failed once, whether an exchange is
under way, whether an error must make the next one differ, and the shipped instruction performed at the agreed point
whose result still belongs to it (0 for none). -/
structure Pair where
  agreed : Arch
  count : Nat
  fp : BitVec 64
  buf : List HeldStore
  failed : Bool
  exchanging : Bool
  bad : Bool
  since : BitVec 8
deriving DecidableEq, Repr

/-- An instruction's wait (R321, R322): in which instruction, its deadline if it has one, the cycle after which it makes its team eligible for
swap-out if there is one (R322, R400), and the cycle of the next reading of a wait without a watch entry (R320). -/
structure Wait where
  kind : WaitKind
  deadline : Option Nat
  parkAt : Option Nat
  pollAt : Nat
deriving DecidableEq, Repr

/-- A strand, its slot, its team and everything R60 saves of it. `nextLocal` numbers its unsettled instructions. While its instruction waits for the answers to messages
(R386, R389), `sent` counts them and `answers` lists those that came, by number. -/
structure Strand where
  pos : Pos
  run : RunState
  tid : Nat
  index : BitVec 10
  arch : Arch
  st : Status
  trap : TrapRegs
  modes : Modes
  tiles : Vector TileReg 8
  fmt : FmtCtx
  nextSeq : BitVec 8
  nextLocal : Nat
  window : List WEntry
  pending : List Pending
  storeBuf : List HeldStore
  binds : List SheafBind
  seen : List (Nat × Nat)
  fenceRel : Option (BitVec 2 × BitVec 32)
  act : Option Activation
  pair : Option Pair
  home : Pos
  trapFrom : Pos
  trapAsid : BitVec 16 × BitVec 20 × BitVec 4
  wait : Option Wait
  sent : Option Nat
  answers : List (Nat × Nat)
  fetchBuf : List (Nat × List Byte)
  poisonTiles : List Nat
  stopped : Bool
  resumeMask : Option (BitVec 27)
deriving DecidableEq, Repr

/-! ### Heavy-core work -/

/-- The H-class operations a ship packet can carry, with the fields of its words that are no operand values (R160). -/
inductive HOp where
  | dfp (k : BitVec 3)
  | dcmp (c : BitVec 3)
  | dcvtTo (t r : BitVec 3)
  | dcvtFrom (t r : BitVec 3)
  | dfma
  | vdop (k : BitVec 3)
  | vdfma (neg : BitVec 1)
  | f32 (k : BitVec 3)
  | amow (k : BitVec 2) (d : BitVec 5) (n : BitVec 5) (od sc : BitVec 2)
  | tcfg (d : BitVec 3)
  | tfmt
  | tscale (h : BitVec 1) (n : BitVec 5) (od : BitVec 2)
  | tzero (d : BitVec 3)
  | tldr (d : BitVec 3) (n : BitVec 5) (od : BitVec 2) (stride : BitVec 24)
  | tstr (a : BitVec 3) (n : BitVec 5) (od : BitVec 2) (stride : BitVec 24)
  | tmovr (x : BitVec 3) (dir : BitVec 1)
  | tmovc (x : BitVec 3) (dir : BitVec 1)
  | mma (d a b : BitVec 3) (sat : Bool)
  | mmas (d a : BitVec 3) (sat : Bool)
  | gload (n : BitVec 5) (od : BitVec 2) (stride : BitVec 24)
  | gdrop
  | tdrain (d : BitVec 3)
  | tfill (d : BitVec 3)
  | tstat (a : BitVec 3)
  | tfree (d : BitVec 3)
deriving DecidableEq, Repr

/-- What a cache knows of a clock number (R240, R241). -/
structure ClockView where
  clk : BitVec 32
  period : Nat
  gen : BitVec 8
deriving DecidableEq, Repr

/-- A ship packet (R160), with the cycle of its arrival and, once it is dispatched, the cycle of its dispatch and the clock of its
team then (R194, R242). -/
structure Packet where
  pos : Pos
  seq : BitVec 8
  asid : BitVec 16
  tenant : BitVec 4
  dests : List RegId
  rmode : BitVec 2
  nve : Bool
  dze : Bool
  nanmode : Bool
  nudef : BitVec 5
  op : HOp
  mask : Word
  opnd : List Vec
  since : Nat
  began : Option (Nat × ClockView)
deriving DecidableEq, Repr

/-- A result or fault packet on its way to the sender (R162, R171, R173). -/
inductive ReplyBody where
  | done (effs : List RegEff)
  | fault (cause : BitVec 8) (faddr : Word) (rep : Option NanReport)
deriving DecidableEq, Repr

structure Reply where
  pos : Pos
  seq : BitVec 8
  hyidx : Nat
  body : ReplyBody
deriving DecidableEq, Repr

/-- A cancel packet (R173-R175). -/
structure Cancel where
  pos : Pos
  seqs : List (BitVec 8)
deriving DecidableEq, Repr

/-- An operation of the tile transfer unit, done but not yet reported (R200, R222), with the tiles it pins (R194). -/
structure TileOp where
  reply : Reply
  tiles : List (BitVec 3)
deriving DecidableEq, Repr

/-- A physical tile in use (R193, R194). -/
structure PhysTile where
  idx : Nat
  owner : Pos
  reg : BitVec 3
  data : BitVec 24576
  lastUse : Nat
deriving DecidableEq, Repr

/-- A nonempty granary slot (R205, R206, R220). -/
structure GranSlot where
  tid : Nat
  idx : Nat
  nr : Nat
  ng : Nat
  et : ElemTy
  spn : BitVec 3
  rows : List (List Byte)
  poisoned : Bool
deriving DecidableEq, Repr

/-- A matrix operation of a lean strand in the matrix queue or in a pipe (R200): its packet and the granary slot as it stood
at dispatch; its tiles cannot change before it ends (R168). -/
structure MatOp where
  pkt : Packet
  slot : Option GranSlot
deriving DecidableEq, Repr

/-! ### Yard tables -/

/-- A watch-table entry (R320): the waiting strand, the key it waits on, and whether a wake is on its way. -/
structure Watch where
  pos : Pos
  key : Nat
  woken : Bool
deriving DecidableEq, Repr

/-- An entry of the trigger table: armed, or fired and waiting for its activation to start (R323, R324). -/
structure Trigger where
  tid : Nat
  token : BitVec 24
  key : Nat
  va : Word
  target : Word
  entry : Word
  arg : Word
  fired : Bool
deriving DecidableEq, Repr

/-- An activation waiting to start (R324, R381). -/
structure ActReq where
  tid : Nat
  src : ActSource
  rollbacks : Nat
deriving DecidableEq, Repr

/-- A skewed region (R230): while its words are being rearranged, the cycle at which that ends (0 otherwise), and whether
it is on its way out (R234). -/
structure Skew where
  tid : Nat
  base : Nat
  rows : Nat
  pitch : Nat
  busyUntil : Nat
  leaving : Bool
deriving DecidableEq, Repr

/-- A mailbox (R376, R388) with the offsets of the records placed and not yet started. -/
structure Mailbox where
  cls : BitVec 4
  tid : Nat
  mb : Nat
  size : Nat
  entry : Word
  unstarted : List Nat
  running : Bool
deriving DecidableEq, Repr

/-- A message on its way or held (R379, R386): its class, the sender's yard and tenant, the destination (63 for the
host event queue), whether another device is the sender or, on its way out, the receiver, that device, the payload, the
cycle since which it is held, the strand that waits for the answer, with the message's number there, and the launch SEQ and the
team of the sender (R423). -/
structure Msg where
  cls : BitVec 4
  srcy : Nat
  dst : Nat
  remote : Bool
  srcdev : Nat
  tenant : BitVec 4
  payload : List Byte
  since : Nat
  src : Option (Pos × Nat)
  seq : Nat
  tid : Nat
deriving DecidableEq, Repr

/-- The answer to a message (R386), with the class of its channel. -/
structure MsgAnswer where
  src : Pos × Nat
  code : Nat
  cls : BitVec 4
deriving DecidableEq, Repr

/-- A TLB entry (R351): a leaf or a host translation. `host` is the host physical page when translated by ATS. -/
structure TlbEntry where
  asid : BitVec 16
  vpage : Nat
  bits : Nat
  r : Bool
  w : Bool
  x : Bool
  su : Bool
  hostLeaf : Bool
  hostR : Bool
  hostW : Bool
  ppage : Nat
  pinned : Bool
  ats : Bool
deriving DecidableEq, Repr

/-- Cache tags of a declared-reuse cache (R243), with the cycle of insertion (R276) and, for a tiled line, its address
space and virtual line (R272). -/
structure CLine where
  line : Nat
  way : Nat
  kind : BitVec 2
  tenant : BitVec 4
  cnum : Nat
  cgen : BitVec 8
  due : BitVec 32
  deff : Nat
  pend : Bool
  hteam : Nat
  hage : BitVec 32
  ins : Nat
  tva : Option (BitVec 16 × Nat)
deriving DecidableEq, Repr

/-- A line of the heavy core's private cache, most recent first (R235): its key line, its insertion cycle and, for a
tiled line, its address space and virtual line. -/
structure PrivLine where
  line : Nat
  ins : Nat
  tva : Option (BitVec 16 × Nat)
deriving DecidableEq, Repr

/-- An untiled line in one of the two caches of a yard domain (R297, R298), the yard cache or, `heavy`, the private cache: its
bytes, which of them are valid and which are dirty, the epoch in which it became dirty, its tenant, which of its 64-byte
blocks are poisoned (R431), and the release records that came with its bytes (R299, R300). -/
structure DomLine where
  line : Nat
  heavy : Bool
  valid : BitVec 128
  dirty : BitVec 128
  epoch : BitVec 32
  tenant : BitVec 4
  data : BitVec 1024
  poison : BitVec 2
  recs : List (Nat × BitVec 32)
deriving DecidableEq, Repr

/-- A line of a lean L1 with its bytes and the release records that came with them (R235, R300). -/
structure L1Line where
  line : Nat
  data : BitVec 1024
  recs : List (Nat × BitVec 32)
deriving DecidableEq, Repr

/-- Who makes an access, as the caches record it (R243-R245): its slot, team, tenant, class and K.NUDEF, whether the
heavy core makes it (R260), of a shipped tile access, the clock that its yard held at its dispatch (R242), and the copy engine that
makes it, if one does (R411). -/
structure Toucher where
  pos : Pos
  tid : Nat
  tenant : BitVec 4
  nu : BitVec 5
  nudef : BitVec 5
  heavy : Bool
  clock : Option ClockView
  engine : Option Nat := none
deriving DecidableEq, Repr

/-- For whom a translation is asked (R351, R352, R355): an access of a strand of a slot, itself or in work at the heavy core, by the
number of its instruction; a copy engine; a PREF, which nothing waits for, with the line it brings (R257); or the device, to close a tile (R278). -/
inductive Asker where
  | strand (p : Pos) (heavy : Bool) (id : Nat)
  | engine (e : Nat)
  | prefetch (w : Toucher) (sup : Bool) (va : Word)
  | tile (asid : BitVec 16) (index : Nat)
deriving DecidableEq, Repr

/-- A walk under way or queued (R352): its address space, an address of its page, and who waits for it. -/
structure WalkReq where
  asid : BitVec 16
  va : Word
  askers : List Asker
deriving DecidableEq, Repr

/-- A walk that has ended without an entry for the TLBs, and whose askers have not gone on yet: it has failed, which is their fault
(R352), or has met a HOST leaf, which they have translated (R355). -/
structure EndedWalk where
  req : WalkReq
  leaf : Option TlbEntry
deriving DecidableEq, Repr

/-- An acquire at device, paddock or system scope on its way (R300): who acquires, the scope, and the yards that have not
answered its drain requests, with the epochs asked for. -/
structure Acquire where
  w : Toucher
  scope : BitVec 2
  asks : List (Nat × Nat)
deriving DecidableEq, Repr

/-- What a step leaves for the caches to record before the next step (the model's own queue): a line read or, for an
uncovered access, read at the slice alone; the records a load brings (R300); an acquire at a scope. -/
inductive Touch where
  | read (w : Toucher) (key n : Nat) (atSlice uncovered : Bool) (tva : Option (BitVec 16 × Nat))
  | acquire (w : Toucher) (scope : BitVec 2)
deriving DecidableEq, Repr

/-- A 64-byte machine-check record (R442). -/
structure McRecord where
  kind : Nat
  code : Nat
  unit : Nat
  overflow : Bool
  pos : Pos
  tid : Nat
  count : Nat
  addr : Nat
  cycle : Nat
deriving DecidableEq, Repr

/-- A lean or heavy core's own state (R20): event counters, instruction-cache lines with their bytes, the L1, micro-TLB,
and the slot that issued last (R89). -/
structure Core where
  ev : EvCounts
  icache : List (Nat × List Byte)
  l1 : List L1Line
  utlb : List TlbEntry
  last : Nat
deriving DecidableEq, Repr

/-- A launch record that a LAUNCH accepted (R392, R407), with the launcher's address space and grid. -/
structure LaunchReq where
  bytes : List Byte
  asid : BitVec 16
  grid : Nat
deriving DecidableEq, Repr

/-- The yard registers of R73. -/
structure YardRegs where
  evbase : Word
  trapmig : Word
  share : Word
  gage : Word
  mwgt : Vector Word 16
  quantum : Word
  safewait : Word
  park : Word
deriving DecidableEq, Repr

/-- The heavy core's guest queues, arbiter, matrix pipes and tile file (R160-R206). Of the cycle under way, `slotNo` counts the
issue positions assigned (R164), `sent` the queues that have sent a packet (R167), and `lead` is the own slot that filled the
last own position (R90). -/
structure Heavy where
  queue : List Packet
  running : List Packet
  replies : List Reply
  cancels : List Cancel
  co : Nat
  cg : Nat
  credit : List (Nat × Nat)
  ptr : Nat
  matq : List MatOp
  pipes : List (Nat × MatOp)
  transfers : List TileOp
  failed : Bool
  tiles : List PhysTile
  granary : List GranSlot
  ownWait : List Pos
  slotNo : Nat
  sent : List Nat
  lead : Option Nat
  privCache : List PrivLine
deriving DecidableEq, Repr

/-- A yard (R16, R23). `passed` counts, for the grid of each overflow area, the entries that other areas have filled since it
supplied one or became nonempty (R396). -/
structure Yard where
  regs : YardRegs
  heavy : Heavy
  notes : List Pos
  watches : List Watch
  triggers : List Trigger
  actq : List ActReq
  skews : List Skew
  dlq : List LaunchReq
  passed : List (Nat × Nat)
  mailboxes : List Mailbox
  heldMsgs : List Msg
  tlb : List TlbEntry
  walks : List WalkReq
  walkWait : List WalkReq
  endedWalks : List EndedWalk
  lines : List CLine
  domain : List DomLine
  epoch : BitVec 32
  drained : BitVec 32
  gens : List (Nat × BitVec 8)
  mcHeld : List McRecord
  mcOverflow : Bool
  corrected : List McRecord
deriving DecidableEq, Repr

/-! ### Teams, grids, address spaces -/

/-- Where a team is: pending its first placement, placed, being swapped out with the cycle of the forced save (R402), or
saved. -/
inductive TeamWhere where
  | pending
  | placed
  | leaving (forceAt : Nat)
  | saved
deriving DecidableEq, Repr

/-- A team (R397-R405): its grid, linear index, place, allotment granules, clock and the record of its saved parts; `killed`: it has
been killed and ends once nothing under way touches its allotment any more (R415, R436). -/
structure Team where
  tid : Nat
  grid : Nat
  lin : Nat
  where_ : TeamWhere
  yidx : Nat
  cores : List Nat
  granules : List Nat
  savebase : Word
  clk : BitVec 32
  period : Nat
  ticks : List (Nat × Nat)
  lastTick : Nat
  clockSlot : Nat
  clockGen : BitVec 8
  mbwait : Word
  mmask : BitVec 15
  nextToken : BitVec 24
  since : Nat
  quantumAt : Option Nat
  prio : Nat
  gains : List (Nat × Nat)
  homeYard : Option Nat
  statWaits : List Nat
  killed : Bool
deriving DecidableEq, Repr

/-- A grid (R392, R395, R405). `queue` is the function, host queue and index its record came from. -/
structure Grid where
  gid : Nat
  entry : Word
  params : Word
  strands : Nat
  yardmem : Nat
  granary : Nat
  prio : Nat
  nomatrix : Bool
  paired : Bool
  tenant : BitVec 4
  asid : BitVec 16
  done : Word
  incr : Nat
  seq : Nat
  ovf : Word
  ovfsize : Nat
  order : Nat
  left : Nat
  queue : Option (Nat × Nat × Nat)
deriving DecidableEq, Repr

/-- A live address space (R343, R345, R262). -/
structure Space where
  asid : BitVec 16
  pasid : BitVec 20
  tenant : BitVec 4
  ptbase : Word
  htbase : Word
  htfree : Word
deriving DecidableEq, Repr

/-! ### Tenure (R260-R289) -/

/-- Tenure kinds of R270. -/
inductive Tenure where
  | s | w | a
deriving DecidableEq, Repr

/-- A tile descriptor as registered (R261): `str` lists S(0) to S(3), the element size first. -/
structure Desc where
  base : Nat
  ext : List Nat
  str : List Nat
  eszl2 : Nat
  rank : Nat
  flags : Nat
deriving DecidableEq, Repr

/-- A piece (R268): a slab of outer indices and the tenure agents hold on it. -/
structure Piece where
  lo : Nat
  hi : Nat
  held : List (Nat × Tenure)
deriving DecidableEq, Repr

/-- An open tile (R262, R266, R268), with the regions it touches. `owner` is the team whose strand opened it; `closing`: the
device closes it as soon as it can write the table entry (R278). -/
structure TileObj where
  asid : BitVec 16
  index : Nat
  gen : BitVec 12
  desc : Desc
  pieces : List Piece
  regions : List Nat
  forced : Bool
  owner : Nat
  closing : Bool
deriving DecidableEq, Repr

/-- An intent (R270). -/
structure Intent where
  asid : BitVec 16
  index : Nat
  tid : Nat
  agent : Nat
  kind : Tenure
deriving DecidableEq, Repr

/-- What a saved team keeps beyond its save area's bytes: strands, triggers, activations, skews, granary slots and
intents (R279, R402, R404). -/
structure SavedTeam where
  tid : Nat
  strands : List Strand
  triggers : List Trigger
  actq : List ActReq
  skews : List Skew
  granary : List GranSlot
  intents : List Intent
deriving DecidableEq, Repr

/-- What asks the homes for tenure: an access of a strand, the store at the head of its store buffer (R237), a TACQ (R284), a
shipped instruction, or a transfer of a copy engine (R306). -/
inductive ReqBy where
  | access
  | buffer
  | tacq
  | shipped (seq : BitVec 8)
  | engine (e serial : Nat)
deriving DecidableEq, Repr

/-- A request at the homes (R271-R274, R306): the slot and what asks there, the first address of its access, its agent, the
tile, the kind and the spans of outer indices asked for, whether it is granted at the end (an uncovered access is not), and
whether it has been served and its access is still to come. -/
structure TenReq where
  pos : Pos
  by_ : ReqBy
  va : Nat
  agent : Nat
  asid : BitVec 16
  index : Nat
  kind : Tenure
  spans : List (Nat × Nat)
  grant : Bool
  done : Bool
deriving DecidableEq, Repr

/-- One partial element of an agent (R275): its memory key, its width in bytes, operation, type and value. -/
structure Partial where
  agent : Nat
  asid : BitVec 16
  index : Nat
  key : Nat
  va : Nat
  op : BitVec 4
  ty : BitVec 4
  val : Nat
deriving DecidableEq, Repr

/-! ### Mesh, engines, host -/

/-- What a packet carries: a message, the acceptance or refusal of one, a vector of a reduction tree (R362, R383, R386), or a request or
reply of an access at a slice, whose effect does not wait for it: of a request, the stop, channel and flits of its reply (DESIGN
CHOICE, log entry 29). -/
inductive NetBody where
  | message (m : Msg)
  | answer (a : MsgAnswer)
  | vector (tree : Nat) (v : Vec)
  | traffic (reply : Option (Nat × Nat × Nat))
deriving DecidableEq, Repr

/-- A packet waiting at a router input (R364, R368), or as input 5 at its stop's interface for room at the local one: where it
stands, its destination stop, its channel, its age, its flits, and whether it has crossed the link between paddocks 3 and 0 (R364). -/
structure NetPacket where
  stop : Nat
  input : Nat
  dst : Nat
  vc : Nat
  age : BitVec 8
  flits : Nat
  crossed : Bool
  body : NetBody
deriving DecidableEq, Repr

/-- An output port's arbiter (R368), and the cycle in which it is free again (R364). -/
structure Port where
  credit : List (Nat × Nat)
  q : Nat
  last : List (Nat × Nat)
  freeAt : Nat
deriving DecidableEq, Repr

/-- Router power (R371, R372). -/
inductive RouterPower where
  | up
  | down
  | waking (readyAt : Nat)
deriving DecidableEq, Repr

/-- A router. -/
structure Router where
  power : RouterPower
  idleSince : Nat
  upUntil : Nat
  ports : List (Nat × Port)
deriving DecidableEq, Repr

/-- What a clock mirror holds of one clock number (R241). -/
structure MirrorEntry where
  cnum : Nat
  clk : BitVec 32
  period : Nat
  gen : BitVec 8
  resident : Bool
deriving DecidableEq, Repr

/-- A mirror update on its way to a stop (R241). -/
structure MirrorMsg where
  stop : Nat
  entry : MirrorEntry
  due : Nat
deriving DecidableEq, Repr

/-- Release records of one line at its slice (R299). -/
structure RelLine where
  line : Nat
  recs : List (Nat × BitVec 32)
deriving DecidableEq, Repr

/-- A reduction tree (R383, R384, R391): the vectors waiting in combine buffers, by stop and child port, oldest first,
the total in the root slot, and the other devices over which the supervisor has extended the tree (R429). -/
structure Tree where
  typ : Nat
  op : Nat
  root : Nat
  tenant : BitVec 4
  members : List Nat
  bufs : List (Nat × Nat × Vec)
  total : Option Vec
  devices : List Nat
deriving DecidableEq, Repr

/-- A route class (R374). -/
structure RouteClass where
  bulk : Bool
  tenants : BitVec 16
deriving DecidableEq, Repr

/-- A transfer of a copy engine (R409-R419): its state is CPYQ's code, `since` its issue cycle, `nudef` the issuer's
K.NUDEF, `left` the bytes not yet written, `cursor` the destination lines written, and `line` the source line it holds, with
its bytes. -/
structure Transfer where
  serial : Nat
  tid : Nat
  asid : BitVec 16
  yidx : Nat
  tenant : BitVec 4
  dst : Word
  src : Word
  ctl : Word
  comp : Word
  len : Nat
  dstDesc : Option Desc
  srcDesc : Option Desc
  left : Nat
  cursor : Nat
  line : Option (Nat × List Byte)
  state : Nat
  cause : Nat
  since : Nat
  nudef : BitVec 5
deriving DecidableEq, Repr

/-- A copy engine (R409, R419). -/
structure Engine where
  next : Nat
  queue : List Transfer
  history : List Transfer
  tlb : List TlbEntry
deriving DecidableEq, Repr

/-- A host launch queue (R394, R425); `header`: where a device fault has found its header, whose POSTED the recovery reads (R426). -/
structure HostQueue where
  asid : BitVec 16
  va : Word
  n : Nat
  taken : Nat
  complete : Nat
  lastseq : Nat
  doneRecs : List Nat
  header : Option Nat
deriving DecidableEq, Repr

/-- A counter alias binding (R422). -/
structure Alias where
  n : Nat
  asid : BitVec 16
  va : Word
  tid : Nat
deriving DecidableEq, Repr

/-- An event-ring entry (R423). -/
structure HostEvent where
  typ : Nat
  code : Nat
  srcy : Nat
  cls : Nat
  seq : Nat
  tid : Nat
  info : Nat
  cycle : Nat
  payload : List Byte
deriving DecidableEq, Repr

/-- A PCI Express function, which is a tenant (R343, R421-R425, R249-R251). -/
structure Func where
  frozen : Bool
  recovered : Bool
  eqbase : Word
  eqsize : Word
  eqwr : Word
  eqrd : Word
  eqlost : Word
  backlog : List HostEvent
  queues : List (Nat × HostQueue)
  aliases : List Alias
  counters : List (Nat × Word)
  nuIns : Nat
  nuHon : Nat
  nupen : BitVec 3
  nuHonLast : Nat
  nuWin : BitVec 32
  closing : List (Nat × Nat × Nat)
  atomicOps : Bool
deriving DecidableEq, Repr

/-- One asker of a host page: the leaf that sends it to the host, the kind of access it needs, whether a Translation Request stands
for it, since which cycle, how often the host answered its page requests with Success, whether a page request stands for it, and
whether the page was refused to it (R355, R356, R424). -/
structure PageWaiter where
  who : Asker
  leaf : TlbEntry
  read : Bool
  write : Bool
  asked : Bool
  since : Nat
  tries : Nat
  pri : Bool
  failed : Bool
deriving DecidableEq, Repr

/-- The requests of the device for a host page of an address space (R355, R356), with Privileged Mode Requested: a Translation
Request stands while an asker has no page request and no refusal. -/
structure PageReq where
  asid : BitVec 16
  page : Nat
  sup : Bool
  waiters : List PageWaiter
deriving DecidableEq, Repr

/-- A host invalidation under way (R357), with the TLB entries it removed. -/
structure Invalidation where
  tenant : BitVec 4
  pasid : BitVec 20
  base : Nat
  len : Nat
  gone : List TlbEntry
deriving DecidableEq, Repr

/-- What the DOE mailbox of function 0 holds for the host (R450): a measurement's bytes, the SPDM error UnexpectedRequest, or
the bytes of another answer. -/
inductive DoeAnswer where
  | empty
  | measurement (bytes : List Byte)
  | unexpected
  | other (bytes : List Byte)
deriving DecidableEq, Repr

/-- The bring-up registers of BAR2, the DOE mailbox, the digest that VERIFY has found signed and the power state (R446, R447, R450,
R453). -/
structure BringUp where
  phase : Nat
  err : Nat
  recovery : Bool
  imgbase : Word
  imglen : Word
  clk : Nat
  doe : DoeAnswer
  thermal : Bool
  power : Bool
  plim : Nat
  svn : Nat
  entry : Word
  go : Bool
  digest : List Byte
deriving DecidableEq, Repr

/-- The identity record of R445: `padding` stands for its zero bytes, `idpub` and `sig` for IDPUB and SIG, byte 0 lowest. -/
structure Identity where
  format : Nat
  length : Nat
  minsvn : Nat
  serial : Nat
  enabled : List (BitVec 16)
  padding : BitVec 320
  idpub : BitVec 15616
  sig : BitVec 26472
deriving DecidableEq, Repr

/-- Everything of the device that is no strand, core, yard or memory. `links` pairs Ethernet ports with the devices they
reach (R427) and `devId` is the number of this one; `idKey` is the identity key, its public and its private half, which the boot block derives at every reset
(R444); `net` holds the packets of messages and answers at routers; `msgs` those that have reached their interface. `pageFaults`
lists the page requests of R356 in order of fault; `tlbWaits` the strands whose TLBINV waits for uses in flight (R360); `linkWaits` the PREFs that wait for the host link (R424); `dram`
lists the lines of device memory that a cache holds newer than DRAM, with what DRAM has (R426); `exports` the address spaces that the
device exports to other devices' tenants (R428); `vfEnable` is VF Enable of the SR-IOV capability (R446). -/
structure Dev where
  boot : BringUp
  ident : Identity
  idKey : Option (List Byte × List Byte)
  nufloor : Word
  nocw : Word
  nocage : Word
  teams : List Team
  saved : List SavedTeam
  grids : List Grid
  spaces : List Space
  funcs : List (Nat × Func)
  engines : List (Nat × Engine)
  routers : List (Nat × Router)
  net : List NetPacket
  mirrors : List (Nat × List MirrorEntry)
  mirrorMsgs : List MirrorMsg
  l2 : List (Nat × List CLine)
  records : List RelLine
  tiles : List TileObj
  intents : List Intent
  partials : List Partial
  tenReqs : List TenReq
  acquires : List Acquire
  trees : List (Nat × Tree)
  routes : List (Nat × RouteClass)
  msgs : List Msg
  answers : List MsgAnswer
  pageReqs : List PageReq
  pageFaults : List (BitVec 16 × Nat)
  invals : List Invalidation
  tlbWaits : List (Pos × List TlbEntry)
  linkWaits : List (Asker × BitVec 16)
  links : List (Nat × Nat)
  exports : List (BitVec 4 × BitVec 16)
  vfEnable : Bool
  devId : Nat
  hostLinkUp : Bool
  poison : List Nat
  dram : List (Nat × List Byte)
  faultRec : Option McRecord
  forwards : List (Pos × Pos)
  nextTid : Nat
  nextGrid : Nat
  freeCtr : Nat
deriving DecidableEq, Repr

/-! ### Memory, agenda and the whole state -/

/-- All memory of the device and of its host in one canonical list of cells: addresses strictly rising, no cell zero.
Device DRAM has its physical addresses (R12); yard memory and host memory follow at the bases of Ops. -/
abbrev Memory := List Host.Cell

/-- A choice of the environment: an event of the device, or which strand the device turns to next. -/
inductive Turn where
  | event (i : Instr)
  | strand (p : Pos)
deriving DecidableEq, Repr

/-- The state of the device. `me` is the strand in the focus of a step and `others` the other strands held in slots. -/
structure State where
  me : Strand
  others : List Strand
  cores : List ((Nat × Bool × Nat) × Core)
  yards : List (Nat × Yard)
  dev : Dev
  mem : Memory
  touches : List Touch
  agenda : List Turn
  cycle : Nat
  patience : Nat
deriving DecidableEq, Repr

/-- Why the machine stops for good. -/
inductive Fault where
  /-- Raised by `step` when bring-up has ended in phase FAILED (R447) and no event is waiting: nothing of the device
  runs before a device reset. Safe. -/
  | bringUpFailed
deriving DecidableEq, Repr

/-- Why a step has no meaning. -/
inductive Refusal where
  /-- An instruction this model gives no meaning. Safe. -/
  | notModelled (mnemonic : String)
  /-- Raised by an event when the rule that would bring it about does not hold in the state (nothing waits for it), or
  when its arguments name nothing. Safe: the device takes no such step. -/
  | notEnabled (event : String)
deriving DecidableEq, Repr

/-! ### Reset -/

/-- The enabled-yard words of the identity record: stops 14 and 15 of each paddock are disabled. R14 leaves the set to
the part (DESIGN CHOICE, log entry 9). -/
def Identity.reset : Identity :=
  { format := 1, length := 5325, minsvn := 0, serial := 0, enabled := [0x3FFF, 0x3FFF, 0x3FFF, 0x3FFF],
    padding := 0, idpub := 0, sig := 0 }

/-- Position of the supervisor of a yard (R88). -/
def supPos (y : Nat) : Pos := ⟨y, true, 0, 0⟩

/-- No events counted. -/
def EvCounts.zero : EvCounts := ⟨0, 0, 0, 0, 0⟩

/-- The entry values of R86 that do not depend on the team: every register zero. -/
def Arch.zero : Arch :=
  { s := Vector.replicate 32 0, v := Vector.replicate 32 0, m := Vector.replicate 8 0, pcw := 0, fpflags := 0, held := [],
    ev := EvCounts.zero, poisoned := [] }

/-- An unconfigured tile (R190). -/
def TileReg.unconfigured : TileReg := ⟨none, .empty, none⟩

/-- K.STATUS at strand creation (R91). -/
def Status.zero : Status := ⟨false, false, false, false, false, false, 0⟩

/-- Trap registers at reset (R95). -/
def TrapRegs.zero : TrapRegs := ⟨0, 0, 0, 0, 0, 0, 0⟩

/-- Modes at strand creation: RNE, no traps, counters, NUDEF 8 (R30, R44, R46, R245). -/
def Modes.creation : Modes := ⟨0, false, false, false, ⟨false, 0, 0, 0, 0, 0⟩, 8, 0, 0, 0⟩

/-- A strand slot without a strand. -/
def Strand.emptyAt (p : Pos) : Strand :=
  { pos := p, run := .empty, tid := 0, index := 0, arch := Arch.zero, st := Status.zero, trap := TrapRegs.zero,
    modes := Modes.creation, tiles := Vector.replicate 8 TileReg.unconfigured, fmt := ⟨0, false, 0, 0⟩, nextSeq := 1, nextLocal := 0,
    window := [], pending := [], storeBuf := [], binds := [], seen := [], fenceRel := none, act := none, pair := none, home := p,
    trapFrom := p, trapAsid := (0, 0, 0), wait := none, sent := none, answers := [], fetchBuf := [],
    poisonTiles := [], stopped := false, resumeMask := none }

/-- The supervisor strand of a yard as bring-up makes it: its slot, supervisor mode, ASID 0 (R88, R343). -/
def Strand.supervisor (y : Nat) : Strand :=
  { Strand.emptyAt (supPos y) with st := { Status.zero with sup := true } }

/-- Reset values of the yard registers (R96, R98, R163, R165, R166, R400). -/
def YardRegs.reset : YardRegs :=
  { evbase := 0, trapmig := 0, share := 0x31, gage := 1024, mwgt := Vector.replicate 16 0x0101010101010101,
    quantum := 2000000, safewait := 65536, park := 20000 }

/-- The heavy core at reset (R164, R167, R193, R205). -/
def Heavy.reset : Heavy :=
  { queue := [], running := [], replies := [], cancels := [], co := 0, cg := 0, credit := [], ptr := 0, matq := [],
    pipes := [], transfers := [], failed := false, tiles := [], granary := [], ownWait := [],
    slotNo := 0, sent := [], lead := none, privCache := [] }

/-- A yard at reset. -/
def Yard.reset : Yard :=
  { regs := YardRegs.reset, heavy := Heavy.reset, notes := [], watches := [], triggers := [], actq := [], skews := [],
    dlq := [], passed := [], mailboxes := [], heldMsgs := [], tlb := [], walks := [], walkWait := [], endedWalks := [], lines := [], domain := [], epoch := 0,
    drained := 0, gens := [], mcHeld := [], mcOverflow := false, corrected := [] }

/-- A core at reset: the first scan of R89 starts at slot 0. -/
def Core.reset : Core := { ev := EvCounts.zero, icache := [], l1 := [], utlb := [], last := 7 }

/-- A function at creation (R250, R251, R421). -/
def Func.reset : Func :=
  { frozen := false, recovered := false, eqbase := 0, eqsize := 0, eqwr := 0, eqrd := 0, eqlost := 0,
    backlog := [], queues := [], aliases := [], counters := [], nuIns := 0, nuHon := 0, nupen := 0, nuHonLast := 0,
    nuWin := 0, closing := [], atomicOps := false }

/-- An engine at reset (R416: transfers are numbered from 1). -/
def Engine.reset : Engine := ⟨1, [], [], []⟩

/-- A router at reset: up, the reset counting as a flit (R371). -/
def Router.reset : Router := ⟨.up, 0, 0, []⟩

/-- An output port at reset (R368): no credit, Q 0, every last-served pointer at input 4. -/
def Port.reset : Port := ⟨[], 0, [], 0⟩

/-- A route class at reset (R374). -/
def RouteClass.reset : RouteClass := ⟨false, 0⟩

/-- BAR2 and power at reset (R446, R453). -/
def BringUp.reset : BringUp :=
  { phase := 0, err := 0, recovery := false, imgbase := 0, imglen := 0, clk := 2000, doe := .empty, thermal := false, power := false,
    plim := 3000, svn := 0, entry := 0, go := false, digest := [] }

/-- The device at reset: K.NUFLOOR 16,384 (R250), K.NOCW with weights 4 and 1 (R367), K.NOCAGE 128 (R367). -/
def Dev.reset : Dev :=
  { boot := BringUp.reset, ident := Identity.reset, idKey := none, nufloor := 16384, nocw := 0x0000141414141414, nocage := 128,
    teams := [], saved := [], grids := [], spaces := [], funcs := [], engines := [], routers := [], net := [],
    mirrors := [], mirrorMsgs := [], l2 := [], records := [], tiles := [], intents := [], partials := [], tenReqs := [], acquires := [], trees := [],
    routes := [], msgs := [], answers := [], pageReqs := [], pageFaults := [], invals := [], tlbWaits := [], linkWaits := [], links := [], exports := [], vfEnable := false, devId := 0, hostLinkUp := true, poison := [], dram := [],
    faultRec := none, forwards := [], nextTid := 1, nextGrid := 1, freeCtr := 0 }

/-- The state right after device reset: bring-up in phase RESET (R447), every slot empty, memory listing nothing. -/
def State.reset : State :=
  { me := Strand.emptyAt (supPos 0), others := [], cores := [], yards := [], dev := Dev.reset, mem := [], touches := [], agenda := [],
    cycle := 0, patience := 0 }

end Sys2Proof.Machine
end

