-- ==== Sys2Proof/Machine/Memory.lean ====
section
/-! DEFINITION. Memory as a canonical list of cells. A byte that nothing has written reads zero (DESIGN CHOICE, log
entry 3). Keys: device DRAM at its physical address (R12), yard memory of yard y at `yardKey` (R225), host memory at
`hostKey` of the host physical address. -/
namespace Sys2Proof.Machine

/-- The byte at a key. -/
def Memory.read : Memory → Nat → Byte
  | [], _ => 0
  | (k, b) :: rest, a => if k = a then b else Memory.read rest a

/-- One byte written, keeping the form: a zero byte is not listed. -/
def Memory.write : Memory → Nat → Byte → Memory
  | [], a, b => if b = 0 then [] else [(a, b)]
  | (k, c) :: rest, a, b =>
    if a < k then (if b = 0 then (k, c) :: rest else (a, b) :: (k, c) :: rest)
    else if a = k then (if b = 0 then rest else (a, b) :: rest)
    else (k, c) :: Memory.write rest a b

/-- The canonical form: keys strictly rising, no zero byte listed. -/
def Memory.wf : Memory → Bool
  | [] => true
  | [(_, b)] => b != 0
  | (k, b) :: (k', b') :: rest => b != 0 && k < k' && Memory.wf ((k', b') :: rest)

/-- `n` bytes from a key on, lowest first. -/
def Memory.readBytes (m : Memory) (a : Nat) : Nat → List Byte
  | 0 => []
  | n + 1 => m.read a :: Memory.readBytes m (a + 1) n

/-- Bytes written from a key on, lowest first (R4). -/
def Memory.writeBytes (m : Memory) (a : Nat) : List Byte → Memory
  | [] => m
  | b :: bs => Memory.writeBytes (m.write a b) (a + 1) bs

/-- The little-endian value of bytes (R4). -/
def leValue : List Byte → Nat
  | [] => 0
  | b :: bs => b.toNat + 256 * leValue bs

/-- The `n` little-endian bytes of a value (R4). -/
def leBytes : Nat → Nat → List Byte
  | 0, _ => []
  | n + 1, x => BitVec.ofNat 8 x :: leBytes n (x / 256)

/-- The end of device DRAM (R12). -/
def dramEnd : Nat := 2 ^ 39

/-- Key of yard address `ya` of yard `y` (R225). -/
def yardKey (y ya : Nat) : Nat := 2 ^ 60 + y * 2 ^ 22 + ya

/-- Key of a host physical address. -/
def hostKey (hpa : Nat) : Nat := 2 ^ 62 + hpa

/-- Whether a key is of device DRAM, of yard memory, of host memory. -/
def isDram (k : Nat) : Bool := k < dramEnd
def isYardMem (k : Nat) : Bool := 2 ^ 60 ≤ k && k < 2 ^ 62
def isHostMem (k : Nat) : Bool := 2 ^ 62 ≤ k

/-- A held store's byte at a key, if it has one. -/
def HeldStore.byteAt (h : HeldStore) (k : Nat) : Option Byte :=
  if h.key ≤ k then h.bytes[k - h.key]? else none

/-- The youngest byte that a list of stores, oldest first, holds at a key. -/
def heldByte (l : List HeldStore) (k : Nat) : Option Byte :=
  l.foldl (fun acc h => (h.byteAt k).orElse fun _ => acc) none

/-- Stores performed in order. -/
def Memory.writeHeld (m : Memory) (l : List HeldStore) : Memory :=
  l.foldl (fun m h => m.writeBytes h.key h.bytes) m

end Sys2Proof.Machine
end

