-- ==== Sys2Proof/Machine/Atomic.lean ====
section
/-! DEFINITION. What an atomic computes (R312, R314, R316) and the partials of accumulate tenure (R275, R276). Operations
are numbered as AMO's FN field numbers them (R68, R311); types are 0 I32, 1 I64, 2 F32, 3 F16, 4 BF16 as AMOV's FN field
numbers them (R313), and 5 for 128 bits. -/
namespace Sys2Proof.Machine

/-- Bytes of an element. -/
def atomWidth (ty : Nat) : Nat :=
  match ty with
  | 0 => 4 | 1 => 8 | 2 => 4 | 3 => 2 | 4 => 2 | _ => 16

/-- One operation on elements: integers wrap, floats are rounded once to nearest even and raise nothing (R312, R314). -/
def atomApply (op ty a b : Nat) : Nat :=
  let w := 8 * atomWidth ty
  match ty with
  | 2 => (FFmt.f32.dest.add .rne (FFmt.f32.value a) (FFmt.f32.value b)).1
  | 3 => (FFmt.f16.dest.add .rne (FFmt.f16.value a) (FFmt.f16.value b)).1
  | 4 => (FFmt.bf16.dest.add .rne (FFmt.bf16.value a) (FFmt.bf16.value b)).1
  | _ =>
    match op with
    | 0 => (a + b) % 2 ^ w
    | 1 => a &&& b
    | 2 => a ||| b
    | 3 => a ^^^ b
    | 4 => laneMinMax true false w a b
    | 5 => laneMinMax false false w a b
    | 6 => laneMinMax true true w a b
    | 7 => laneMinMax false true w a b
    | _ => b

/-- The identity a partial element starts from (R275). -/
def atomIdentity (op ty : Nat) : Nat :=
  let w := 8 * atomWidth ty
  if ty = 2 || ty = 3 || ty = 4 then 2 ^ (w - 1)
  else
    match op with
    | 1 => 2 ^ w - 1
    | 4 => 2 ^ (w - 1) - 1
    | 5 => 2 ^ w - 1
    | 6 => 2 ^ (w - 1)
    | _ => 0

/-- Bytes an atomic covers. -/
def AtomicOp.size : AtomicOp → Nat
  | .amo _ wide _ _ => if wide then 8 else 4
  | .amov _ _ _ => 64
  | .amow _ _ => 16

/-- The ranges of bytes that an atomic touches, by offset: inactive lanes of AMOV touch none (R314). -/
def AtomicOp.spans (o : AtomicOp) : List (Nat × Nat) :=
  match o with
  | .amov ty m _ =>
    let z := atomWidth ty.toNat
    ((List.range (64 / z)).filter (active m)).map (fun i => (i * z, z))
  | _ => [(0, o.size)]

/-- The bytes that replace the old ones; none where nothing is written (a failed CAS). -/
def AtomicOp.apply (o : AtomicOp) (old : List Byte) : Option (List Byte) :=
  match o with
  | .amo op wide x e =>
    let z := if wide then 8 else 4
    let a := leValue old
    if op = 9#4 then if a = e.toNat % 2 ^ (8 * z) then some (leBytes z x.toNat) else none
    else some (leBytes z (atomApply op.toNat (if wide then 1 else 0) a (x.toNat % 2 ^ (8 * z))))
  | .amov ty m x =>
    let t := ty.toNat
    let w := 8 * atomWidth t
    let v := BitVec.ofNat 512 (leValue old)
    some (leBytes 64 (mergeLanes w m v (fun i => atomApply 0 t (lane w v i) (lane w x i))).toNat)
  | .amow op x =>
    let a := leValue old
    let b := x.toNat % 2 ^ 128
    match op.toNat with
    | 0 => some (leBytes 16 (a + b))
    | 1 => some (leBytes 16 b)
    | _ => if a = b then some (leBytes 16 (x.toNat / 2 ^ 128)) else none

/-- The elements an accumulating atomic gives to a partial: offset, operation, type and value (R275). -/
def AtomicOp.elements : AtomicOp → List (Nat × Nat × Nat × Nat)
  | .amo op wide x _ => [(0, op.toNat, if wide then 1 else 0, x.toNat % 2 ^ (if wide then 64 else 32))]
  | .amov ty m x =>
    let w := 8 * atomWidth ty.toNat
    (List.range (512 / w)).filterMap (fun i =>
      if active m i then some (i * atomWidth ty.toNat, 0, ty.toNat, lane w x i) else none)
  | .amow _ x => [(0, 0, 5, x.toNat % 2 ^ 128)]

/-- The bytes that an atomic writes among the new bytes it computes, by offset: inactive lanes of AMOV touch none (R314). -/
def AtomicOp.pieces (o : AtomicOp) (new : List Byte) : List (Nat × List Byte) :=
  match o with
  | .amov _ _ _ => o.elements.map (fun e => (e.1, (new.drop e.1).take (atomWidth e.2.2.1)))
  | _ => [(0, new)]

/-- Whether a form without a result accumulates under A tenure (R275). -/
def AtomicOp.accumulates : AtomicOp → Bool
  | .amo op _ _ _ => op.toNat < 8
  | .amov _ _ _ => true
  | .amow op _ => op = 0#2

/-- The mark of a partial element that has met two operations or types: its combined value is unspecified (R275). -/
def mixedOp : BitVec 4 := 15

/-- Bytes of a partial element. -/
def Partial.width (p : Partial) : Nat := atomWidth p.ty.toNat

/-- A partial element after one more operation; one that has met two types is as wide as the wider. -/
def Partial.step (p : Partial) (op ty x : Nat) : Partial :=
  if p.op = BitVec.ofNat 4 op && p.ty = BitVec.ofNat 4 ty then { p with val := atomApply op ty p.val x }
  else { p with op := mixedOp, ty := if p.width < atomWidth ty then BitVec.ofNat 4 ty else p.ty }

/-- The partials of one combine, those of elements that agents met with two operations or types marked (R275). -/
def markMixed (l : List Partial) : List Partial :=
  l.map (fun p =>
    if l.any (fun q => (q.op != p.op || q.ty != p.ty) && decide (q.key < p.key + p.width) && decide (p.key < q.key + q.width)) then
      { p with op := mixedOp }
    else p)

/-- One element applied to an agent's partials (R275). -/
def partialsAdd (l : List Partial) (agent : Nat) (asid : BitVec 16) (index key va op ty x : Nat) : List Partial :=
  let same := fun (p : Partial) => p.agent == agent && p.asid == asid && p.index == index && p.key == key
  if l.any same then l.map (fun q => if same q then q.step op ty x else q)
  else
    l ++ [⟨agent, asid, index, key, va, BitVec.ofNat 4 op, BitVec.ofNat 4 ty, atomApply op ty (atomIdentity op ty) x⟩]

/-- The bytes that a partial's combine writes over the old ones (R276). -/
def Partial.combined (p : Partial) (m : Memory) : List Byte :=
  let z := atomWidth p.ty.toNat
  leBytes z (atomApply p.op.toNat p.ty.toNat (leValue (m.readBytes p.key z)) p.val)

end Sys2Proof.Machine
end

