-- ==== Sys2Proof/Config.lean ====
section
/-! DEFINITION. What an implementation fixes and the manual leaves open: free values, as constants without a body. -/
namespace Sys2Proof.Config

/-- An unspecified 64-bit value (R3, R7, R60), by the state's counter of free values (log entry 4). -/
opaque freeWord : Nat → Word

/-- An unspecified 512-bit value (R60), by the same counter (log entry 4). -/
opaque freeVec : Nat → Vec

/-- Unspecified bytes (R195, R266, R413), by the same counter (log entry 4). -/
opaque freeByte : Nat → Byte

/-- An unspecified choice of R3 among listed outcomes, by the same counter (log entry 4). -/
opaque freeChoice : Nat → Nat

/-- The 256-bit response of a part's on-die unclonable source, the same at every reset (R444). -/
opaque dieResponse : BitVec 256

/-- SHAKE256 of bytes, with so many bits of output (FIPS 202, log entry 7). -/
opaque shake256 : List Byte → Nat → List Byte

/-- ML-DSA-65 key generation from a seed: the public and the private half (FIPS 204, log entry 7). -/
opaque mldsaKeygen : List Byte → List Byte × List Byte

/-- ML-DSA-65 verification: a public key, the bytes signed, the signature (FIPS 204, log entry 7). -/
opaque mldsaVerify : List Byte → List Byte → List Byte → Bool

/-- Acwen's product public key, which the boot ROM holds (R445). -/
opaque productKey : List Byte

/-- The answer bytes of an SPDM request that the boot block serves, from the private key with which it signs, the bytes of the identity record and the request (R450,
log entry 7). -/
opaque spdmAnswer : Option (List Byte) → List Byte → List Byte → List Byte

end Sys2Proof.Config
end

