-- ==== Sys2Proof/Machine/Act.lean ====
section
/-! DEFINITION. How a step changes the state: effects as plain data, applied in order; the programs that yield them; and
the reads and writes of the strand's registers, the one place where s0 and m0 are special (R116, R139) and where a
register of an outstanding instruction holds an instruction back (R57). -/
namespace Sys2Proof.Machine

/-! ### Association lists -/

/-- The value at a key; the reset value where the key is absent. -/
def assocGet {κ α : Type} [DecidableEq κ] (d : α) (l : List (κ × α)) (k : κ) : α :=
  match l with
  | [] => d
  | (k', a) :: rest => if k' = k then a else assocGet d rest k

/-- The list with a key's value replaced, or added at the end. -/
def assocSet {κ α : Type} [DecidableEq κ] (l : List (κ × α)) (k : κ) (a : α) : List (κ × α) :=
  match l with
  | [] => [(k, a)]
  | (k', b) :: rest => if k' = k then (k, a) :: rest else (k', b) :: assocSet rest k a

/-- The yard of a logical index. -/
def State.yard (s : State) (y : Nat) : Yard := assocGet Yard.reset s.yards y

/-- The core a position lies on. -/
def coreKey (p : Pos) : Nat × Bool × Nat := (p.yidx, p.heavy, p.core)

/-- A core. -/
def State.core (s : State) (k : Nat × Bool × Nat) : Core := assocGet Core.reset s.cores k

/-- A function (R343). -/
def State.func (s : State) (t : Nat) : Func := assocGet Func.reset s.dev.funcs t

/-- A copy engine (R409). -/
def State.engine (s : State) (e : Nat) : Engine := assocGet Engine.reset s.dev.engines e

/-- A router (R11). -/
def State.router (s : State) (t : Nat) : Router := assocGet Router.reset s.dev.routers t

/-- A team by its number. -/
def State.team (s : State) (tid : Nat) : Option Team := s.dev.teams.find? (fun t => t.tid == tid)

/-- A grid by its number. -/
def State.grid (s : State) (g : Nat) : Option Grid := s.dev.grids.find? (fun x => x.gid == g)

/-- A live address space (R343). -/
def State.space (s : State) (a : BitVec 16) : Option Space := s.dev.spaces.find? (fun x => x.asid == a)

/-- Every strand held in a slot. -/
def State.strands (s : State) : List Strand := s.me :: s.others

/-- The strand in a slot, if the slot is not empty. -/
def State.at? (s : State) (p : Pos) : Option Strand :=
  s.strands.find? (fun t => t.pos == p && t.run != .empty)

/-! ### Registers -/

/-- The register a write names. -/
def RegEff.target : RegEff → Option RegId
  | .s r _ => some (.s r)
  | .v r _ => some (.v r)
  | .m r _ => some (.m r)
  | .flags _ _ => none

/-- One event counted, saturating at 32 bits (R45). -/
def bumpEv (n : Nat) (b : Bool) : Nat := if b then min (n + 1) (2 ^ 32 - 1) else n

/-- Events of one instruction's flags (R45). -/
def EvCounts.bump (e : EvCounts) (f : BitVec 6) : EvCounts :=
  ⟨bumpEv e.nv (f.getLsbD 0), bumpEv e.dz (f.getLsbD 1), bumpEv e.ofl (f.getLsbD 2), bumpEv e.uf (f.getLsbD 3),
    bumpEv e.np (f.getLsbD 5)⟩

/-- Counters added, saturating (R45). -/
def EvCounts.add (a b : EvCounts) : EvCounts :=
  ⟨min (a.nv + b.nv) (2 ^ 32 - 1), min (a.dz + b.dz) (2 ^ 32 - 1), min (a.ofl + b.ofl) (2 ^ 32 - 1),
    min (a.uf + b.uf) (2 ^ 32 - 1), min (a.np + b.np) (2 ^ 32 - 1)⟩

/-- A register's value is poisoned no more: it has been written (R431). -/
def Arch.unpoison (a : Arch) (r : RegId) : Arch := { a with poisoned := a.poisoned.filter (fun q => q != r) }

/-- A write to the registers: s0 and m0 discard it (R116, R139). -/
def Arch.apply (a : Arch) : RegEff → Arch
  | .s r x => if r = 0#5 then a else { a with s := a.s.set r.toNat x r.isLt }.unpoison (.s r)
  | .v r x => { a with v := a.v.set r.toNat x r.isLt }.unpoison (.v r)
  | .m r x => if r = 0#3 then a else { a with m := a.m.set r.toNat x r.isLt }.unpoison (.m r)
  | .flags f c => { a with fpflags := a.fpflags ||| f, ev := if c then a.ev.bump f else a.ev }

/-- Reads of registers: s0 reads zero (R116), m0 all ones (R139). -/
def Arch.sreg (a : Arch) (r : BitVec 5) : Word := if r = 0#5 then 0 else a.s[r.toNat]'r.isLt
def Arch.vreg (a : Arch) (r : BitVec 5) : Vec := a.v[r.toNat]'r.isLt
def Arch.mreg (a : Arch) (r : BitVec 3) : Word := if r = 0#3 then BitVec.allOnes 64 else a.m[r.toNat]'r.isLt

/-- The address in a program counter. -/
def pcOf (w : BitVec 62) : Word := w ++ 0#2

/-- The word address in a byte address. -/
def pcwOf (a : Word) : BitVec 62 := a.extractLsb' 2 62

/-- Whether an outstanding instruction of the strand will write a register (R57), or has it as the index vector of a gather or a
scatter (R142); s0 and m0 are never written. -/
def Strand.blocked (x : Strand) (r : RegId) : Bool :=
  r != .s 0 && r != .m 0
    && (x.window.any (fun e => !e.done && (e.dests.contains r || e.index.contains r))
      || x.pending.any (fun p => p.effs.any (fun e => e.target == some r) || p.index.contains r))

/-- No instruction of the strand is outstanding or held. -/
def Strand.settled (x : Strand) : Bool := x.window.isEmpty && x.pending.isEmpty

/-- A store that nothing of its strand holds back any more takes its place: in the hold of an activation before MDONE (R382), or
in the store buffer (R237). -/
def Strand.passStore (x : Strand) (sts : List HeldStore) : Strand :=
  match x.act with
  | some a =>
    if a.mdone then { x with storeBuf := x.storeBuf ++ sts }
    else { x with act := some { a with hold := a.hold ++ [.store sts false] } }
  | none => { x with storeBuf := x.storeBuf ++ sts }

/-- A store of a strand without an outstanding shipped instruction takes its place: in the pair buffer until its interval is agreed
(R439), or as `passStore` says. -/
def Strand.commitStore (x : Strand) (sts : List HeldStore) : Strand :=
  match x.pair with
  | some p => { x with pair := some { p with buf := p.buf ++ sts } }
  | none => x.passStore sts

/-- The stores of one instruction of the strand as it issues. -/
def Strand.putStore (x : Strand) (sts : List HeldStore) : Strand :=
  if x.window.isEmpty then x.commitStore sts else { x with arch := { x.arch with held := x.arch.held ++ [sts] } }

/-- The byte that the strand's own undelivered stores hold at a key, the youngest first in effect (R169, R382, R439). -/
def Strand.ownByte (x : Strand) (k : Nat) : Option Byte :=
  let hold := match x.act with
    | some a => a.hold.flatMap (fun h => match h with
      | .store sts _ => sts
      | _ => [])
    | none => []
  let pairBuf := match x.pair with
    | some p => p.buf
    | none => []
  heldByte (x.storeBuf ++ hold ++ pairBuf ++ x.arch.held.flatten) k

/-! ### Effects -/

/-- One change of the state. -/
inductive Eff where
  | reg (e : RegEff)
  | pc (w : BitVec 62)
  | issued
  | store (sts : List HeldStore)
  | strand (x : Strand)
  | mem (key : Nat) (bytes : List Byte)
  | touches (l : List Touch)
  | others (l : List Strand)
  | core (k : Nat × Bool × Nat) (c : Core)
  | yard (y : Nat) (Y : Yard)
  | dev (d : Dev)
  | focus (p : Pos)
deriving DecidableEq, Repr

/-- The state with another strand in the focus, whose place the one before takes; unchanged if that slot is empty. -/
def State.focusOn (s : State) (p : Pos) : State :=
  if s.me.pos = p then s
  else
    match s.others.find? (fun t => t.pos == p) with
    | none => s
    | some t =>
      { s with
        me := t
        others := if s.me.run = .empty then s.others.filter (fun u => u.pos != p)
          else s.others.map (fun u => if u.pos = p then s.me else u) }

/-- The strand issues: it is Ready (R87), and lookahead counts go down by one (R57). -/
def Strand.countIssue (x : Strand) : Strand :=
  { x with
    run := .ready
    window := x.window.map (fun e => { e with left := e.left - 1 })
    pending := x.pending.map (fun p => { p with left := p.left - 1 }) }

/-- A write by the strand. -/
def Strand.applyReg (x : Strand) (e : RegEff) : Strand := { x with arch := x.arch.apply e }

/-- An effect applied. -/
def applyEff (s : State) : Eff → State
  | .reg e => { s with me := s.me.applyReg e }
  | .pc w => { s with me := { s.me with arch := { s.me.arch with pcw := w } } }
  | .issued => { s with me := s.me.countIssue }
  | .store sts => { s with me := s.me.putStore sts }
  | .strand x => { s with me := x }
  | .mem k bs => { s with mem := s.mem.writeBytes k bs }
  | .touches l => { s with touches := l }
  | .others l => { s with others := l }
  | .core k c => { s with cores := assocSet s.cores k c }
  | .yard y Y => { s with yards := assocSet s.yards y Y }
  | .dev d => { s with dev := d }
  | .focus p => s.focusOn p

/-- Effects applied in order. -/
def applyAll (s : State) : List Eff → State
  | [] => s
  | e :: es => applyAll (applyEff s e) es

/-! ### Programs -/

/-- A program's progress: the state its effects have made so far, and the effects, newest first. -/
structure Run where
  s : State
  log : List Eff

/-- Why a program ends early: a trap (with the effects R93 lets stand), a register of an outstanding instruction (R57), the strand
held back in a run state with effects of its own, or a stop of the machine. -/
inductive Stop where
  | hazard
  | trap (cause : BitVec 8) (faddr : Word) (keep : List Eff)
  | suspend (run : RunState) (effs : List Eff)
  | refuse (r : Refusal)

/-- A program that reads the state and yields effects. -/
abbrev Act (α : Type) := StateT Run (Except Stop) α

/-- The state as the effects so far leave it. -/
def getS : Act State := fun r => .ok (r.s, r)

/-- One effect. -/
def emit (e : Eff) : Act Unit := fun r => .ok ((), { s := applyEff r.s e, log := e :: r.log })

/-- Several effects. -/
def emitAll : List Eff → Act Unit
  | [] => pure ()
  | e :: es => do
    emit e
    emitAll es

/-- The program ends in a trap (R8: no further effect). -/
def raise {α : Type} (cause : BitVec 8) (faddr : Word) : Act α := fun _ => .error (.trap cause faddr [])

/-- What a trap of consumed poison, cause 0x50, carries as its address: the unit of R442 whose poison it is. No handler sees it
(R432). -/
def unitAddr (unit : Nat) : Word := BitVec.ofNat 64 (2 ^ 63 + unit)

/-- The strand is held back in a run state; nothing of the instruction happens. -/
def suspendAs {α : Type} (run : RunState) (effs : List Eff) : Act α := fun _ => .error (.suspend run effs)

/-- The program ends in a trap, and its effects so far stand (the exceptions of R93). -/
def raiseKeeping {α : Type} (cause : BitVec 8) (faddr : Word) : Act α := fun r => .error (.trap cause faddr r.log.reverse)

/-- The strand is held back, and its effects so far stand. -/
def suspendKeeping {α : Type} (run : RunState) : Act α := fun r => .error (.suspend run r.log.reverse)

/-- The strand is Stalled (R87). -/
def stall {α : Type} : Act α := suspendAs .stalled []

/-- The interval of a pair closes before the instruction (R440), once nothing of the strand is outstanding. -/
def closeInterval (x : Strand) (p : Pair) : Act Unit :=
  if x.settled then suspendAs .agreeing [.strand { x with pair := some { p with exchanging := true } }] else stall

/-- An event that is not enabled. -/
def notEnabled {α : Type} (name : String) : Act α := fun _ => .error (.refuse (.notEnabled name))

/-- The condition must hold for the event to be enabled. -/
def require (b : Bool) (name : String) : Act Unit := if b then pure () else notEnabled name

/-- The value of an option, or the event is not enabled. -/
def requireSome {α : Type} (o : Option α) (name : String) : Act α :=
  match o with
  | some a => pure a
  | none => notEnabled name

/-- The strand in the focus. -/
def getMe : Act Strand := do
  let s ← getS
  return s.me

/-- The strand in the focus changed. -/
def modifyMe (f : Strand → Strand) : Act Unit := do
  let x ← getMe
  emit (.strand (f x))

/-- The device record changed. -/
def modifyDev (f : Dev → Dev) : Act Unit := do
  let s ← getS
  emit (.dev (f s.dev))

/-- A yard. -/
def getYard (y : Nat) : Act Yard := do
  let s ← getS
  return s.yard y

/-- A yard changed. -/
def modifyYard (y : Nat) (f : Yard → Yard) : Act Unit := do
  let Y ← getYard y
  emit (.yard y (f Y))

/-- A yard's heavy core changed. -/
def modifyHeavy (y : Nat) (f : Heavy → Heavy) : Act Unit :=
  modifyYard y (fun Y => { Y with heavy := f Y.heavy })

/-- A core changed. -/
def modifyCore (k : Nat × Bool × Nat) (f : Core → Core) : Act Unit := do
  let s ← getS
  emit (.core k (f (s.core k)))

/-- A function changed. -/
def modifyFunc (t : Nat) (f : Func → Func) : Act Unit :=
  modifyDev (fun d => { d with funcs := assocSet d.funcs t (f (assocGet Func.reset d.funcs t)) })

/-- A team's record changed. -/
def modifyTeam (tid : Nat) (f : Team → Team) : Act Unit :=
  modifyDev (fun d => { d with teams := d.teams.map (fun t => if t.tid = tid then f t else t) })

/-- The strand in a slot other than the focus changed, or the focus itself. -/
def modifyAt (p : Pos) (f : Strand → Strand) : Act Unit := do
  let s ← getS
  if s.me.pos = p then emit (.strand (f s.me))
  else emit (.others (s.others.map (fun t => if t.pos = p then f t else t)))

/-- A strand enters a slot. -/
def addStrand (x : Strand) : Act Unit := do
  let s ← getS
  if s.me.pos = x.pos then emit (.strand x)
  else emit (.others (s.others.filter (fun t => t.pos != x.pos) ++ [x]))

/-- A slot becomes empty. -/
def clearSlot (p : Pos) : Act Unit := do
  let s ← getS
  if s.me.pos = p then emit (.strand (Strand.emptyAt p))
  else emit (.others (s.others.filter (fun t => t.pos != p)))

/-- A fresh number for a free value of Config. -/
def freshFree : Act Nat := do
  let s ← getS
  emit (.dev { s.dev with freeCtr := s.dev.freeCtr + 1 })
  return s.dev.freeCtr

/-- A program run for every element of a list, in order. -/
def forAll {α : Type} (l : List α) (f : α → Act Unit) : Act Unit :=
  match l with
  | [] => pure ()
  | a :: rest => do
    f a
    forAll rest f

/-- A program's results for a list, in order. -/
def collect {α β : Type} (l : List α) (f : α → Act β) : Act (List β) :=
  match l with
  | [] => return []
  | a :: rest => do
    let b ← f a
    let bs ← collect rest f
    return b :: bs

/-! ### The strand's registers -/

/-- The instruction names a register of an outstanding one: the strand is Stalled (R57, R87). -/
def hazard {α : Type} : Act α := fun _ => .error .hazard

/-- Held back while an outstanding instruction will write the register (R57); a poisoned register is consumed (R432). -/
def useReg (r : RegId) : Act Unit := do
  let x ← getMe
  if x.blocked r then hazard
  else if x.arch.poisoned.contains r then raise 0x50 (unitAddr 6)
  else pure ()

/-- Reads of a scalar, vector or mask register. -/
def rdS (r : BitVec 5) : Act Word := do
  useReg (.s r)
  let x ← getMe
  return x.arch.sreg r

def rdV (r : BitVec 5) : Act Vec := do
  useReg (.v r)
  let x ← getMe
  return x.arch.vreg r

def rdM (r : BitVec 3) : Act Word := do
  useReg (.m r)
  let x ← getMe
  return x.arch.mreg r

/-- Held back while an outstanding instruction will write the register. -/
def claim (r : RegId) : Act Unit := do
  let x ← getMe
  if x.blocked r then hazard else pure ()

/-- Writes of a scalar, vector or mask register. -/
def wrS (r : BitVec 5) (v : Word) : Act Unit := do
  claim (.s r)
  emit (.reg (.s r v))

def wrV (r : BitVec 5) (v : Vec) : Act Unit := do
  claim (.v r)
  emit (.reg (.v r v))

def wrM (r : BitVec 3) (v : Word) : Act Unit := do
  claim (.m r)
  emit (.reg (.m r v))

/-- K.STATUS.REASON written by a status-returning instruction (R91). -/
def setReason (c : Nat) : Act Unit :=
  modifyMe (fun x => { x with st := { x.st with reason := BitVec.ofNat 8 c } })

/-- Success of a status-returning instruction: a result in sd and REASON 0. -/
def succeed (d : BitVec 5) (v : Word) : Act Unit := do
  wrS d v
  setReason 0

/-- Failure of a status-returning instruction: sd ← 0, REASON ← c, no other effect. -/
def fail (d : BitVec 5) (c : Nat) : Act Unit := do
  wrS d 0
  setReason c

/-- The results of a long-latency instruction with lookahead `la`: written at once for LA 0, since the next instruction
waits for them in any case, and in a window, and otherwise when they return (R57). `hclass`: an H-class form gives them;
`index`: the index vector of a gather (R142); `uses`: the translations that it has taken (R357). -/
def deliverAs (hclass : Bool) (index : List RegId) (uses : List (Nat × Nat)) (la : BitVec 4) (acq : Bool) (effs : List RegEff) : Act Unit := do
  let s ← getS
  if la = 0#4 || !s.me.window.isEmpty then emitAll (effs.map Eff.reg)
  else modifyMe (fun x => { x with pending := x.pending ++ [⟨effs, la.toNat, acq, hclass, false, index, false, uses, s.cycle⟩] })

/-- The results of a long-latency instruction that no H-class form gives, and that uses no translation of host memory. -/
def deliver (la : BitVec 4) (acq : Bool) (effs : List RegEff) : Act Unit := deliverAs false [] [] la acq effs

end Sys2Proof.Machine
end

