-- ==== Sys2Proof/Machine/Mesh.lean ====
section
/-! DEFINITION. The mesh as a graph: enabled yards (R14, R15), where addresses live (R12, R13, R236), routes and transit
(R365, R366). -/
namespace Sys2Proof.Machine

/-- The enabled stops of one paddock's word (R14). -/
def enabledOf (p : Nat) (w : BitVec 16) : List Nat :=
  (List.range 16).filterMap (fun i => if w.getLsbD i then some (p * 16 + i) else none)

/-- The stops of the enabled yards in ascending order: logical yard index to stop (R15). -/
def Identity.yardStops (d : Identity) : List Nat :=
  (List.range 4).flatMap (fun p => enabledOf p (d.enabled.getD p 0))

/-- The stop of a yard (R15). -/
def State.yardStop (s : State) (y : Nat) : Nat := s.dev.ident.yardStops.getD y 0

/-- Whether a logical index names an enabled yard (R15). -/
def State.isYard (s : State) (y : Nat) : Bool := y < s.dev.ident.yardStops.length

/-- The yards, by logical index. -/
def State.yardList (s : State) : List Nat := List.range s.dev.ident.yardStops.length

/-- The physical address that chooses a slice: a host key's host physical address (R236). -/
def paOf (key : Nat) : Nat := if isHostMem key then key - 2 ^ 62 else key

/-- The stop whose channel group or slices serve an address (R12, R13). -/
def paStop (pa : Nat) : Nat := pa / 2 ^ 37 % 4 * 16 + ((pa / 256 % 16) ^^^ (pa / 4096 % 16))

/-- The L2 slice of a key, stop times four plus slice (R236). -/
def sliceOf (key : Nat) : Nat := paStop (paOf key) * 4 + paOf key / 4096 % 4

/-- The set of a key in its slice: PA[21:16], PA[15:14], PA[7] (R236). -/
def sliceSet (key : Nat) : Nat :=
  let pa := paOf key
  pa / 65536 % 64 * 8 + pa / 16384 % 4 * 2 + pa / 128 % 2

/-- The next stop on the route, the port taken and whether the link joins two dies (R365); none at the destination. -/
def nextHop (at_ dst : Nat) : Option (Nat × Nat × Bool) :=
  let p := at_ / 16
  let y := at_ / 4 % 4
  let x := at_ % 4
  let pd := dst / 16
  let yd := dst / 4 % 4
  let xd := dst % 4
  if at_ = dst then none
  else if yd < y then some (at_ - 4, 1, false)
  else if y < yd then some (at_ + 4, 3, false)
  else if p ≠ pd then
    if (pd + 4 - p) % 4 = 3 then
      if x = 0 then some ((p + 3) % 4 * 16 + y * 4 + 3, 4, true) else some (at_ - 1, 4, false)
    else if x = 3 then some ((p + 1) % 4 * 16 + y * 4, 2, true)
    else some (at_ + 1, 2, false)
  else if xd < x then some (at_ - 1, 4, false)
  else some (at_ + 1, 2, false)

/-- The stops after the source, with the kind of the link crossed (R365); no route crosses more than 12 links. -/
def routeFrom : Nat → Nat → Nat → List (Nat × Bool)
  | 0, _, _ => []
  | fuel + 1, at_, dst =>
    match nextHop at_ dst with
    | none => []
    | some (n, _, die) => (n, die) :: routeFrom fuel n dst

/-- The route of R365. -/
def route (a b : Nat) : List (Nat × Bool) := routeFrom 16 a b

/-- Mesh and die-to-die links crossed. -/
def linksOf (a b : Nat) : Nat × Nat :=
  ((route a b).countP (fun l => !l.2), (route a b).countP (fun l => l.2))

/-- Transit without contention (R366). -/
def transit (a b flits : Nat) : Nat := 4 + 3 * (linksOf a b).1 + 12 * (linksOf a b).2 + (flits - 1)

/-- The lag of a clock mirror (R241). -/
def mirrorLag (a b : Nat) : Nat := 4 + 3 * (linksOf a b).1 + 12 * (linksOf a b).2

/-- Flits of a payload that rides after a header (R364). -/
def flitsOf (payload : Nat) : Nat := if payload ≤ 8 then 1 else 1 + (payload + 63) / 64

/-- The stop of a copy engine (R409). -/
def engineStop (e : Nat) : Nat := 16 * (e / 8) + 4 * (e % 8 % 4) + (if e % 8 < 4 then 0 else 3)

/-- The stop from which an access is made: a copy engine's, or that of the yard. -/
def State.stopOf (s : State) (w : Toucher) : Nat :=
  match w.engine with
  | some e => engineStop e
  | none => s.yardStop w.pos.yidx

/-! ### Packets and routers (R362-R372) -/

/-- The channel of a route class's packets: 8 for MSG.P, 9 for MSG.B (R362, R374, R375). -/
def Dev.msgChannel (d : Dev) (cls : BitVec 4) : Nat := if (assocGet RouteClass.reset d.routes cls.toNat).bulk then 9 else 8

/-- Whether the local input of a stop has room on a channel for a packet (R364). -/
def Dev.localRoom (d : Dev) (stop vc flits : Nat) : Bool :=
  ((d.net.filter (fun k => k.stop == stop && k.input == 0 && k.vc == vc)).map (fun k => min k.flits 4)).sum + min flits 4 ≤ 4

/-- A packet at the local input of its source stop, its age 0 (R368), or at the interface before it, in order. -/
def Dev.inject (d : Dev) (src dst vc flits : Nat) (b : NetBody) : Dev :=
  let waits := d.net.any (fun k => k.stop == src && k.input == 5 && k.vc == vc) || !d.localRoom src vc flits
  { d with net := d.net ++ [⟨src, if waits then 5 else 0, dst, vc, 0, flits, false, b⟩] }

/-- The packet that has waited longest at a stop's interface on a channel enters the local input where that has room. -/
def Dev.admitLocal (d : Dev) (stop vc : Nat) : Dev :=
  match d.net.find? (fun k => k.stop == stop && k.input == 5 && k.vc == vc) with
  | some k => if d.localRoom stop vc k.flits then { d with net := d.net.erase k ++ [{ k with input := 0 }] } else d
  | none => d

/-- The stop through which traffic of a message enters or leaves the mesh at its far end: the host interface (R420), a
yard's stop, or, for another device, stop 0, since R427 places the ports at no stop (DESIGN CHOICE, log entry 25). -/
def State.msgStop (s : State) (m : Msg) : Nat := if m.remote || m.dst = 63 then 0 else s.yardStop m.dst

/-- A message on its way from its sender's yard (R364: its record header rides in the header flit). -/
def State.sendMsg (s : State) (m : Msg) (d : Dev) : Dev :=
  d.inject (s.yardStop m.srcy) (s.msgStop m) (d.msgChannel m.cls) (1 + (m.payload.length + 63) / 64) (.message m)

/-- An answer on its way back. -/
def State.sendAnswer (s : State) (m : Msg) (code : Nat) (d : Dev) : Dev :=
  match m.src with
  | none => d
  | some q => d.inject (s.msgStop m) (s.yardStop q.1.yidx) (d.msgChannel m.cls) 1 (.answer ⟨q, code, m.cls⟩)

/-- An access at a slice as the mesh sees it (R362, R364): a read of a line, a write of bytes, or an update of bytes that returns the
old ones. -/
inductive SliceUse where
  | read
  | write (n : Nat)
  | update (n : Nat)
deriving DecidableEq, Repr

/-- The flits of the request of an access; the class and the flits of its reply (R362, R364): data for a read, an acknowledgement of a
write. -/
def SliceUse.flits : SliceUse → Nat × Nat × Nat
  | .read => (1, 3, 3)
  | .write n => (flitsOf n, 1, 1)
  | .update n => (flitsOf n, 3, flitsOf n)

/-- The request of an access on its way to a slice, on channel P, or, where `bulk`, B (R362, R363), with the reply that it will have. -/
def Dev.request (d : Dev) (src dst : Nat) (bulk : Bool) (u : SliceUse) : Dev :=
  let b := if bulk then 1 else 0
  let (n, c, m) := u.flits
  d.inject src dst b n (.traffic (some (src, 2 * c + b, m)))

/-- A writeback of a line on its way to its slice: on DAT.B for an eviction, else on DAT.P (R362). -/
def Dev.writeback (d : Dev) (src dst : Nat) (evicts : Bool) : Dev :=
  d.inject src dst (if evicts then 7 else 6) 3 (.traffic none)

/-- Whether a router has been idle for long enough to power down (R371). -/
def Router.idle (r : Router) (now : Nat) : Bool := r.power == .up && r.idleSince + 2048 ≤ now

/-- A router woken (R372): it accepts flits 40 cycles later and stays up for 256. A wake wins over a power-down that is due. -/
def Router.wake (r : Router) (now : Nat) : Router :=
  match r.power with
  | .down => { r with power := .waking (now + 40), upUntil := now + 256 }
  | _ => if r.idle now then { r with upUntil := now + 256 } else r

/-- The input at which a packet that leaves by a port arrives. -/
def inputOf (port : Nat) : Nat :=
  match port with
  | 1 => 3 | 2 => 4 | 3 => 1 | _ => 2

/-- The child ports that a member's vector takes on its way to the root: stop and input (R383). -/
def pathPorts : Nat → Nat → Nat → Nat → List (Nat × Nat)
  | 0, _, _, _ => []
  | fuel + 1, stop, input, root =>
    (stop, input) :: (match nextHop stop root with
      | none => []
      | some (n, port, _) => pathPorts fuel n (inputOf port) root)

/-- The child ports of a tree's shape: the union of the routes from its members to its root (R383). -/
def State.treePorts (s : State) (t : Tree) : List (Nat × Nat) :=
  (t.members.flatMap (fun y => pathPorts 17 (s.yardStop y) 0 (s.yardStop t.root))).eraseDups

end Sys2Proof.Machine
end

