-- ==== Sys2Proof/Machine/Cache.lean ====
section
/-! DEFINITION. Caches: declared reuse in the yard caches and L2 slices (R235, R243-R251), the recency caches, the bytes
of the yard domains (R297), and lazy release (R298-R302). `mem` holds what the L2 slices and the banks hold. -/
namespace Sys2Proof.Machine

/-! ### Clocks (R238-R242) -/

/-- Whether a team holds a clock number. -/
def Team.resident (t : Team) : Bool :=
  match t.where_ with
  | .placed => true
  | .leaving _ => true
  | _ => false

/-- A team's clock number (R241). -/
def Team.cnum (t : Team) : Nat := t.yidx * 128 + t.clockSlot

/-- The clock number of no team, which nothing ever holds: accesses without a team record it (DEDUCED, log entry 21). -/
def noClock : Nat := 7168

/-- A mirror with an update (R241). -/
def putMirror (l : List MirrorEntry) (m : MirrorMsg) : List MirrorEntry := l.filter (fun e => e.cnum != m.entry.cnum) ++ [m.entry]

/-- What a stop's mirror holds for an access that reaches it at a cycle: the updates due by then have arrived (R241). -/
def State.mirrorAt (s : State) (stop now : Nat) : List MirrorEntry :=
  (s.dev.mirrorMsgs.filter (fun m => m.stop == stop && m.due ≤ now)).foldl putMirror (assocGet [] s.dev.mirrors stop)

/-- The value of a clock number at its yard, or in a mirror; none if it is not resident (R241, R246). -/
def State.clockView (s : State) (mirror : Option (List MirrorEntry)) (cnum : Nat) : Option ClockView :=
  match mirror with
  | none => (s.dev.teams.find? (fun t => t.resident && t.cnum == cnum)).map (fun t => ⟨t.clk, t.period, t.clockGen⟩)
  | some l => (l.find? (fun e => e.cnum == cnum && e.resident)).map (fun e => ⟨e.clk, e.period, e.gen⟩)

/-- A clock at team creation (R239): what a mirror holds of a clock number before its first update, and what accesses
without a team take (DESIGN CHOICE, log entry 21). -/
def ClockView.initial : ClockView := ⟨0, 4096, 0⟩

/-- The clock and the period that an access of a team takes (R244): its yard's, or those that a mirror holds, whether or not they show
the number as resident. -/
def ownClock (mirror : Option (List MirrorEntry)) (t : Option Team) : ClockView :=
  match t, mirror with
  | none, _ => ClockView.initial
  | some t, none => ⟨t.clk, t.period, t.clockGen⟩
  | some t, some l =>
    ((l.find? (fun e => e.cnum == t.cnum)).map (fun e => (⟨e.clk, e.period, e.gen⟩ : ClockView))).getD ClockView.initial

/-- What the mirrors receive of a team. -/
def Team.mirrorEntry (t : Team) : MirrorEntry := ⟨t.cnum, t.clk, t.period, t.clockGen, t.resident⟩

/-- The update of a team's values on its way to every mirror (R241). -/
def sendMirror (t : Team) : Act Unit := do
  let s ← getS
  let src := s.yardStop t.yidx
  modifyDev (fun d =>
    { d with
      mirrorMsgs := d.mirrorMsgs
        ++ (List.range 64).map (fun stop => ⟨stop, t.mirrorEntry, s.cycle + 1 + mirrorLag src stop⟩) })

/-- TICK's effect on a team (R240, R259): `n` of 1 to 255. -/
def Team.tick (t : Team) (n now : Nat) : Team :=
  let ticks := ((now - t.lastTick, n) :: t.ticks).take 16
  let d := (ticks.map (fun e => e.1)).sum
  let m := (ticks.map (fun e => e.2)).sum
  { t with
    clk := t.clk + BitVec.ofNat 32 n
    ticks := ticks
    lastTick := now
    period := min (2 ^ 20) (max 1 (d / m)) }

/-! ### Declared reuse (R243-R248) -/

/-- Distance of a class (R58). -/
def nuDistance (c : Nat) : Nat := if c = 1 then 1 else (2 + c % 2) * 2 ^ ((c - 2) / 2)

/-- K.NUDEF's class: 30 acts as 0 (R245). -/
def nudefClass (n : BitVec 5) : Nat := if n = 30#5 then 0 else n.toNat

/-- The class of an access before the hold budget (R244). -/
def Toucher.cls (w : Toucher) : Nat := if w.nu = 30#5 then nudefClass w.nudef else w.nu.toNat

/-- Remaining distance in cycles of a KIND 2 line; none if dead (R246). -/
def CLine.rank (view : Nat → Option ClockView) (l : CLine) : Option Nat :=
  match view l.cnum with
  | none => none
  | some c =>
    if c.gen ≠ l.cgen then none
    else
      let d := (l.due - c.clk).toInt
      if 0 < d then some (d.toNat * c.period) else if -(l.deff : Int) < d then some 0 else none

/-- Whether the line is dead (R246). -/
def CLine.dead (view : Nat → Option ClockView) (l : CLine) : Bool := l.kind == 2#2 && (l.rank view).isNone

/-- Ways that a tenant records in a set beyond its budget (R247). -/
def excess (set : List CLine) (t : BitVec 4) : Int :=
  let tenants := (set.map (fun l => l.tenant)).eraseDups.length
  (set.countP (fun l => l.tenant == t) : Int) - (16 / tenants : Nat)

/-- The first line of a list that is best under an order. -/
def bestBy {α : Type} (better : α → α → Bool) : List α → Option α
  | [] => none
  | a :: rest =>
    match bestBy better rest with
    | none => some a
    | some b => if better b a then some b else some a

/-- The tie rule of R247: the tenant furthest over its budget, then the lowest way. -/
def tiePick (set cands : List CLine) : Option CLine :=
  bestBy (fun b a => excess set a.tenant < excess set b.tenant
    || (excess set a.tenant == excess set b.tenant && b.way < a.way)) cands

/-- Serial order of two 32-bit times (R238): a before b. -/
def serialBefore (a b : BitVec 32) : Bool := 0 < (b - a).toInt

/-- The line taken when a full set must give a way (R247), and the event it counts (R251): lines of partials are spared
(R276). None when only partial and hold lines are left with a partial among them. Where the ages of hold lines have no
smallest one in serial order, the first found under pairwise comparison goes (DESIGN CHOICE, log entry 57). -/
def victimOf (view : Nat → Option ClockView) (isPartial : Nat → Bool) (set : List CLine) : Option (CLine × Option Nat) :=
  let free := set.filter (fun l => !isPartial l.line)
  let stream := free.filter (fun l => l.kind == 1#2)
  let dead := free.filter (fun l => l.dead view)
  let live := free.filter (fun l => l.kind == 2#2)
  match tiePick set stream with
  | some l => some (l, none)
  | none =>
    match tiePick set dead with
    | some l => some (l, some 6)
    | none =>
      let far := live.foldl (fun a l => max a ((l.rank view).getD 0)) 0
      match tiePick set (live.filter (fun l => (l.rank view).getD 0 == far)) with
      | some l => some (l, some 7)
      | none =>
        if set.any (fun l => isPartial l.line) then none
        else
          let first := (bestBy (fun b a => serialBefore b.hage a.hage) set).map (fun l => l.hage)
          (tiePick set (set.filter (fun l => first == some l.hage))).map (fun l => (l, some 5))

/-- What one access asks of a cache: who asks, the team's clock number and generation, the clock its due time counts from,
the cache's view of the clocks, the penalty shift and the cycle. -/
structure CacheAsk where
  w : Toucher
  cnum : Nat
  cgen : BitVec 8
  own : ClockView
  view : Nat → Option ClockView
  shift : Nat
  now : Nat

/-- What a cache answers: its lines, whether it hit, the line it lost, and events as tenant and index (R251). -/
structure CacheAns where
  lines : List CLine
  hit : Bool
  victim : Option CLine
  counts : List (BitVec 4 × Nat)

/-- The class after the hold budget, and whether a hold was refused (R244, R248). -/
def CacheAsk.resolve (q : CacheAsk) (set : List CLine) (hit : Option CLine) : Nat × Bool :=
  if q.w.cls = 31 then
    let already := match hit with
      | some l => l.kind == 3#2
      | none => false
    if !already && 4 ≤ set.countP (fun l => l.kind == 3#2 && l.tenant == q.w.tenant) then
      let d := nudefClass q.w.nudef
      (if d = 31 then 0 else d, true)
    else (31, false)
  else (q.w.cls, false)

/-- A line with the class of an access recorded (R244). -/
def CacheAsk.record (q : CacheAsk) (c : Nat) (l : CLine) : CLine :=
  let deff := nuDistance c * 2 ^ q.shift
  let l' := { l with tenant := q.w.tenant, cnum := q.cnum, cgen := q.cgen }
  if c = 0 then { l' with kind := 1 }
  else if c = 31 then { l' with kind := 3, hteam := q.w.tid, hage := BitVec.ofNat 32 q.now }
  else { l' with kind := 2, due := q.own.clk + BitVec.ofNat 32 deff, deff := deff }

/-- A hit (R244). -/
def CacheAsk.onHit (q : CacheAsk) (c : Nat) (l : CLine) : CLine × List (BitVec 4 × Nat) :=
  let honoured := l.pend && !l.dead q.view
  let l1 := { l with pend := false }
  let l2 :=
    if l.kind = 3#2 then l1
    else if c = 31 then q.record 31 l1
    else if c = 0 then (if l.kind = 2#2 && !l.dead q.view then l1 else { l1 with kind := 1 })
    else if l.cnum = q.cnum && l.cgen = q.cgen || l.kind = 1#2 || l.dead q.view
        || nuDistance c * 2 ^ q.shift * q.own.period ≤ (l.rank q.view).getD 0 then q.record c l1
    else l1
  (l2, (if honoured then [(l.tenant, 1)] else []) ++ (if c = 31 && l.kind ≠ 3#2 then [(q.w.tenant, 3)] else []))

/-- One access to a cache of 16 ways (R244, R247); none if a partial line must be combined first (R276). -/
def CacheAsk.run (q : CacheAsk) (setOf : Nat → Nat) (isPartial : Nat → Bool) (lines : List CLine) (line : Nat) :
    Option CacheAns :=
  let set := lines.filter (fun l => setOf l.line == setOf line)
  let hit := set.find? (fun l => l.line == line)
  let (c, refused) := q.resolve set hit
  let counts0 := if refused then [(q.w.tenant, 4)] else []
  match hit with
  | some l =>
    let (l', cs) := q.onHit c l
    some ⟨lines.map (fun x => if x.line = line then l' else x), true, none, counts0 ++ cs⟩
  | none =>
    let blank : CLine :=
      { line := line, way := 0, kind := 0, tenant := 0, cnum := 0, cgen := 0, due := 0, deff := 0, pend := false,
        hteam := 0, hage := 0, ins := q.now, tva := none }
    let fresh := q.record c blank
    let fresh := { fresh with pend := fresh.kind == 2#2 }
    let ins := if c = 0 then [(q.w.tenant, 2)] else if c = 31 then [(q.w.tenant, 3)] else [(q.w.tenant, 0)]
    match (List.range 16).find? (fun w => !set.any (fun l => l.way == w)) with
    | some w => some ⟨lines ++ [{ fresh with way := w }], false, none, counts0 ++ ins⟩
    | none =>
      match victimOf q.view isPartial set with
      | none => none
      | some (v, ev) =>
        some ⟨lines.filter (fun l => l.line != v.line) ++ [{ fresh with way := v.way }], false, some v,
          counts0 ++ (match ev with
            | some i => [(v.tenant, i)]
            | none => []) ++ ins⟩

/-! ### Windows of R249 -/

/-- A 64-bit counter of R251 advanced by one. -/
def Func.bump (f : Func) (i : Nat) : Func :=
  { f with counters := assocSet f.counters i (assocGet 0 f.counters i + 1) }

/-- One event of a tenant (R249, R251): an insertion of KIND 2 that is the 65,536th closes the window, whose honoured hits
are compared with K.NUFLOOR as it then stands; later honoured hits of the closing cycle count for it. -/
def Func.countEvent (f : Func) (i now floor : Nat) : Func :=
  let f := f.bump i
  if i = 0 then
    if 65536 ≤ f.nuIns + 1 then
      { f with nuIns := 0, nuHon := 0, closing := f.closing ++ [(now + 2048, f.nuHon, floor % 2 ^ 17)] }
    else { f with nuIns := f.nuIns + 1 }
  else if i = 1 then
    if f.closing.any (fun c => c.1 == now + 2048) then
      { f with closing := f.closing.map (fun c => if c.1 = now + 2048 then (c.1, c.2.1 + 1, c.2.2) else c) }
    else { f with nuHon := f.nuHon + 1 }
  else f

/-- Events of one access, in order. -/
def countEvents (cs : List (BitVec 4 × Nat)) : Act Unit :=
  if cs.isEmpty then pure ()
  else do
    let s ← getS
    modifyDev (fun d =>
      { d with
        funcs := cs.foldl (fun fs c =>
          assocSet fs c.1.toNat ((assocGet Func.reset fs c.1.toNat).countEvent c.2 s.cycle d.nufloor.toNat)) d.funcs })

/-! ### Yard domains (R297) -/

/-- Bits for a range of bytes of a line. -/
def byteMask (off n : Nat) : BitVec 128 := BitVec.ofNat 128 ((2 ^ n - 1) * 2 ^ off)

/-- A byte of a line's data. -/
def lineByte (d : BitVec 1024) (i : Nat) : Byte := d.extractLsb' (8 * i) 8

/-- Data with one byte replaced. -/
def setByte (d : BitVec 1024) (i : Nat) (b : Byte) : BitVec 1024 :=
  (d &&& ~~~(BitVec.ofNat 1024 (255 * 2 ^ (8 * i)))) ||| BitVec.ofNat 1024 (b.toNat * 2 ^ (8 * i))

/-- Data with bytes replaced from an offset on. -/
def setBytes (d : BitVec 1024) (i : Nat) : List Byte → BitVec 1024
  | [] => d
  | b :: bs => setBytes (setByte d i b) (i + 1) bs

/-- The line that the yard cache, or, `heavy`, the private cache has of a domain. -/
def domLine (l : List DomLine) (heavy : Bool) (line : Nat) : Option DomLine := l.find? (fun d => d.line == line && d.heavy == heavy)

/-- A domain without the line of one of its caches. -/
def domDrop (l : List DomLine) (heavy : Bool) (line : Nat) : List DomLine := l.filter (fun x => !(x.line == line && x.heavy == heavy))

/-- A domain with a line entered or replaced; a line without a valid byte leaves. -/
def domPut (l : List DomLine) (d : DomLine) : List DomLine :=
  if d.valid = 0 then domDrop l d.heavy d.line
  else if l.any (fun x => x.line == d.line && x.heavy == d.heavy) then
    l.map (fun x => if x.line = d.line && x.heavy == d.heavy then d else x)
  else l ++ [d]

/-- The dirty bytes of a line with their keys, in ascending order. -/
def DomLine.writes (d : DomLine) : List (Nat × Byte) :=
  (List.range 128).filterMap (fun i => if d.dirty.getLsbD i then some (d.line * 128 + i, lineByte d.data i) else none)

/-- The bits of one of the two 64-byte blocks of a line. -/
def blockMask (b : Nat) : BitVec 128 := byteMask (64 * b) 64

/-- The dirty byte of a yard at a key, if one of its caches has one. -/
def State.dirtyByte (s : State) (y key : Nat) : Option Byte :=
  ((s.yard y).domain.find? (fun d => d.line == key / 128 && d.dirty.getLsbD (key % 128))).map
    (fun d => lineByte d.data (key % 128))

/-- A yard's byte at a key: its dirty byte, or what the slice or bank holds. -/
def State.domByte (s : State) (y key : Nat) : Byte := (s.dirtyByte y key).getD (s.mem.read key)

/-- The byte that a load through the yard cache, or, `heavy`, through the private cache gives: that of its own copy, which may
be stale (R296), else the other's dirty byte, else what the slice or bank holds (R297). -/
def State.cachedByte (s : State) (y : Nat) (heavy : Bool) (key : Nat) : Byte :=
  match domLine (s.yard y).domain heavy (key / 128) with
  | some d => if d.valid.getLsbD (key % 128) then lineByte d.data (key % 128) else s.domByte y key
  | none => s.domByte y key

/-- The byte a load by a core receives: its L1, else its cache, else the slice or bank; at the slice, only the domain's
own dirty bytes go before (R296, R300). -/
def State.coreByte (s : State) (p : Pos) (atSlice : Bool) (key : Nat) : Byte :=
  if isYardMem key then s.mem.read key
  else if atSlice then s.domByte p.yidx key
  else
    match (s.core (coreKey p)).l1.find? (fun l => l.line == key / 128) with
    | some l => lineByte l.data (key % 128)
    | none => s.cachedByte p.yidx p.heavy key

/-- Dirty bytes written back, by mask (R298-R300), with their blocks' poison: a block written back whole is as the line has it
(R431). -/
def writeBack (d : DomLine) : Act Unit := do
  forAll d.writes (fun w => emit (.mem w.1 [w.2]))
  let s ← getS
  let at_ := fun (b : Nat) => d.line * 2 + b
  let bad := [0, 1].filter (fun b => d.poison.getLsbD b && d.dirty &&& blockMask b != 0 && !s.dev.poison.contains (at_ b))
  let good := [0, 1].filter (fun b => !d.poison.getLsbD b && d.dirty &&& blockMask b == blockMask b && s.dev.poison.contains (at_ b))
  if bad.isEmpty && good.isEmpty then pure ()
  else modifyDev (fun v =>
    { v with poison := (v.poison ++ bad.map at_).filter (fun b => !(good.map at_).contains b) })

/-- A line's writeback from a yard sets out for its slice, and takes place (R298-R300). -/
def sendBack (y : Nat) (evicts : Bool) (d : DomLine) : Act Unit := do
  let s ← getS
  if d.dirty = 0 then pure ()
  else modifyDev (fun v => v.writeback (s.yardStop y) (sliceOf (d.line * 128) / 4) evicts)
  writeBack d

/-- A line written back and clean. -/
def cleanLine (y : Nat) (d : DomLine) : Act Unit := do
  sendBack y false d
  modifyYard y (fun Y => { Y with domain := domPut Y.domain { d with dirty := 0 } })

/-- A line's tag removed from one of a yard's caches. -/
def Yard.dropTag (Y : Yard) (heavy : Bool) (line : Nat) : Yard :=
  if heavy then { Y with heavy := { Y.heavy with privCache := Y.heavy.privCache.filter (fun l => l.line != line) } }
  else { Y with lines := Y.lines.filter (fun l => l.line != line) }

/-- A line's tag removed from a yard's caches. -/
def Yard.dropTags (Y : Yard) (line : Nat) : Yard := (Y.dropTag false line).dropTag true line

/-- Whether one of a yard's caches has a line's tag. -/
def Yard.holds (Y : Yard) (heavy : Bool) (line : Nat) : Bool :=
  if heavy then Y.heavy.privCache.any (fun l => l.line == line) else Y.lines.any (fun l => l.line == line)

/-- The cores of a yard that hold a line in their L1. -/
def State.l1Holders (s : State) (y line : Nat) : List (Nat × Bool × Nat) :=
  (s.cores.filter (fun c => c.1.1 == y && c.2.l1.any (fun l => l.line == line))).map (fun c => c.1)

/-- The domain writes back its own dirty bytes of a line and drops its copies (R298, R307). -/
def dropLine (y line : Nat) : Act Unit := do
  let s ← getS
  forAll ((s.yard y).domain.filter (fun d => d.line == line)) (sendBack y false)
  modifyYard y (fun Y => { Y.dropTags line with domain := Y.domain.filter (fun x => x.line != line) })
  forAll (s.l1Holders y line) (fun k => modifyCore k (fun c => { c with l1 := c.l1.filter (fun l => l.line != line) }))

/-- Whether a cache holds a line of device memory newer than DRAM has it (R426). -/
def State.dirtyLine (s : State) (line : Nat) : Bool := s.dev.dram.any (fun e => e.1 == line)

/-- Whether the slice of a key has its line. -/
def State.inSlice (s : State) (key : Nat) : Bool := (assocGet [] s.dev.l2 (sliceOf key)).any (fun l => l.line == key / 128)

/-- Tiled lines that a yard's cache holds newer go back to their slices (R272), and on to DRAM where the slice does not have them. -/
def writeBackTiled (y : Nat) (evicts : Bool) (lines : List Nat) : Act Unit := do
  let s ← getS
  let out := lines.filter s.dirtyLine
  if out.isEmpty then pure ()
  else modifyDev (fun d =>
    let d := out.foldl (fun d l => d.writeback (s.yardStop y) (sliceOf (l * 128) / 4) evicts) d
    { d with dram := d.dram.filter (fun e => !(out.contains e.1 && !s.inSlice (e.1 * 128))) })

/-- A line leaves one of a domain's caches: its dirty bytes are written back. -/
def evictLine (y : Nat) (heavy : Bool) (line : Nat) : Act Unit := do
  let s ← getS
  match domLine (s.yard y).domain heavy line with
  | none => writeBackTiled y true [line]
  | some d => do
    sendBack y true d
    modifyYard y (fun Y => { Y with domain := domDrop Y.domain heavy line })

/-- The release records of a line that still stand (R299). -/
def State.lineRecords (s : State) (line : Nat) : List (Nat × BitVec 32) :=
  match s.dev.records.find? (fun r => r.line == line) with
  | none => []
  | some r => r.recs.filter (fun e => !serialBefore e.2 (s.yard e.1).drained)

/-- A line of one of a domain's caches filled: its own dirty bytes stay, the other's dirty bytes come from there, and the rest
from the slice with its records and its poison (R297, R299, R300, R431). -/
def fillLine (y : Nat) (heavy : Bool) (line : Nat) (tenant : BitVec 4) : Act Unit := do
  let s ← getS
  let Y := s.yard y
  let old := (domLine Y.domain heavy line).getD ⟨line, heavy, 0, 0, 0, tenant, 0, 0, []⟩
  let otherDirty := ((domLine Y.domain (!heavy) line).map (fun d => d.dirty)).getD 0
  let otherPoison := ((domLine Y.domain (!heavy) line).map (fun d => d.poison)).getD 0
  let bytes := (List.range 128).map (fun i =>
    if old.dirty.getLsbD i then lineByte old.data i else s.domByte y (line * 128 + i))
  let bad := fun (b : Nat) =>
    (old.poison.getLsbD b && old.dirty &&& blockMask b != 0)
      || (otherPoison.getLsbD b && otherDirty &&& blockMask b != 0)
      || (s.dev.poison.contains (line * 2 + b) && (old.dirty ||| otherDirty) &&& blockMask b != blockMask b)
  modifyYard y (fun Y =>
    { Y with
      domain := domPut Y.domain
        { old with
          valid := BitVec.allOnes 128, data := BitVec.ofNat 1024 (leValue bytes), tenant := tenant
          poison := BitVec.ofNat 2 ((if bad 0 then 1 else 0) + (if bad 1 then 2 else 0)), recs := s.lineRecords line } })

/-- Dirty bytes written into one of a domain's caches (R298): a line newly dirty takes the domain's epoch. The other's copy goes,
and what it has dirty goes on here (R297; DEDUCED, log entry 75). A block written whole is poisoned no more (R431). -/
def dirtyLine (y : Nat) (heavy : Bool) (key : Nat) (tenant : BitVec 4) (bytes : List Byte) : Act Unit := do
  let s ← getS
  let Y := s.yard y
  let line := key / 128
  let old := (domLine Y.domain heavy line).getD ⟨line, heavy, 0, 0, 0, tenant, 0, 0, []⟩
  let other := (domLine Y.domain (!heavy) line).getD ⟨line, !heavy, 0, 0, 0, tenant, 0, 0, []⟩
  let taken := other.writes.foldl (fun v w => setByte v (w.1 % 128) w.2) old.data
  let m := byteMask (key % 128) bytes.length
  let dirty := old.dirty ||| other.dirty
  let moved := fun (b : Nat) => other.poison.getLsbD b && other.dirty &&& blockMask b != 0
  let bad := fun (b : Nat) => (old.poison.getLsbD b || moved b) && m &&& blockMask b != blockMask b
  let Y := Y.dropTag (!heavy) line
  emit (.yard y
    { Y with
      domain := domPut (domDrop Y.domain (!heavy) line)
        { old with
          valid := old.valid ||| other.dirty ||| m
          dirty := dirty ||| m
          epoch := if dirty = 0 then Y.epoch else if old.dirty = 0 then other.epoch else old.epoch
          data := setBytes taken (key % 128) bytes
          poison := BitVec.ofNat 2 ((if bad 0 then 1 else 0) + (if bad 1 then 2 else 0)) } })

/-- Whether one of a domain's caches gives the bytes of a mask itself, or is supplied with them from the other's dirty copy
(R297). -/
def Yard.gives (Y : Yard) (heavy : Bool) (line : Nat) (need : BitVec 128) : Bool :=
  let valid := ((domLine Y.domain heavy line).map (fun d => d.valid)).getD 0
  let dirty := ((domLine Y.domain (!heavy) line).map (fun d => d.dirty)).getD 0
  (valid ||| dirty) &&& need == need

/-! ### Poison (R431) -/

/-- Poison of the 64-byte blocks that a write covers whole is cleared (R431). -/
def clearPoison (key n : Nat) : Act Unit := do
  let s ← getS
  let gone := s.dev.poison.filter (fun b => key ≤ b * 64 && b * 64 + 64 ≤ key + n)
  if gone.isEmpty then pure ()
  else modifyDev (fun d => { d with poison := d.poison.filter (fun b => !gone.contains b) })

/-- Whether a segment has a poisoned byte at the slices or in the banks (R431). -/
def State.poisoned (s : State) (segs : List (Nat × Nat)) : Bool :=
  segs.any (fun g => s.dev.poison.any (fun b => b * 64 < g.1 + g.2 && g.1 < b * 64 + 64))

/-- Whether an access through one of a yard's caches meets a poisoned block there (R431, R432): a block that the cache has whole
is as the cache has it. -/
def State.poisonedAt (s : State) (y : Nat) (heavy : Bool) (segs : List (Nat × Nat)) : Bool :=
  let copy := fun (b : Nat) => domLine (s.yard y).domain heavy (b / 2)
  s.dev.poison.any (fun b => segs.any (fun g => b * 64 < g.1 + g.2 && g.1 < b * 64 + 64)
      && !(match copy b with
        | some d => d.valid &&& blockMask (b % 2) == blockMask (b % 2)
        | none => false))
    || (s.yard y).domain.any (fun d => [0, 1].any (fun i => d.poison.getLsbD i && (d.heavy == heavy || d.dirty &&& blockMask i != 0)
      && segs.any (fun g => (d.line * 2 + i) * 64 < g.1 + g.2 && g.1 < (d.line * 2 + i) * 64 + 64)))

/-- The unit of R442 where a block of memory lies: yard memory, the L2 slice that has its line, or DRAM. -/
def State.blockUnit (s : State) (key : Nat) : Nat := if isYardMem key then 4 else if s.inSlice key then 2 else 1

/-- The address that a consumption of poison in segments carries, for the unit that has it (R442): the private cache or the yard cache,
or where the block lies. -/
def State.poisonAddr (s : State) (y : Nat) (heavy : Bool) (segs : List (Nat × Nat)) : Word :=
  let hit := fun (d : DomLine) => [0, 1].any (fun i => d.poison.getLsbD i && (d.heavy == heavy || d.dirty &&& blockMask i != 0)
    && segs.any (fun g => (d.line * 2 + i) * 64 < g.1 + g.2 && g.1 < (d.line * 2 + i) * 64 + 64))
  unitAddr (match (s.yard y).domain.find? hit with
    | some d => if d.heavy then 7 else 3
    | none => s.blockUnit ((segs.head?.map (fun g => g.1)).getD 0))

/-! ### Partial lines (R276) -/

/-- Bytes of a free value, numbered from a fresh counter. -/
def freeBytes (n : Nat) : Act (List Byte) := do
  let c ← freshFree
  return (List.range n).map (fun i => Config.freeByte (c * 65536 + i))

/-- A partial applied to memory (R276); unspecified where operations or types were mixed (R275). -/
def combineOne (p : Partial) : Act Unit := do
  let s ← getS
  if p.op = mixedOp then do
    let bs ← freeBytes p.width
    emit (.mem p.key bs)
  else emit (.mem p.key (p.combined s.mem))

/-- Partials in the order of R276: ascending agent, and ascending address of one agent. -/
def sortPartials (l : List Partial) : List Partial :=
  l.mergeSort (fun a b => a.agent < b.agent || (a.agent == b.agent && a.va ≤ b.va))

/-- An agent's partial lines among given lines dropped (R276). -/
def dropPartialLines (agent : Nat) (lines : List Nat) : Act Unit :=
  if agent < 64 then modifyYard agent (fun Y => { Y with lines := Y.lines.filter (fun l => !lines.contains l.line) })
  else if agent < 128 then
    modifyHeavy (agent - 64) (fun H => { H with privCache := H.privCache.filter (fun l => !lines.contains l.line) })
  else pure ()

/-- Partials combined, agent by agent, and gone, with the agents' partial lines (R276). -/
def combineAll (ps : List Partial) : Act Unit := do
  forAll (markMixed (sortPartials ps)) combineOne
  modifyDev (fun d => { d with partials := d.partials.filter (fun p => !ps.contains p) })
  forAll ((ps.map (fun p => p.agent)).eraseDups) (fun g =>
    dropPartialLines g ((ps.filter (fun p => p.agent == g)).map (fun p => p.key / 128)))

/-- A forced combine of one line, across the agents that hold partials of it; the tiles' FORCED bits are set (R276). -/
def forcedCombine (line : Nat) : Act Unit := do
  let s ← getS
  let ps := s.dev.partials.filter (fun p => p.key / 128 == line)
  combineAll ps
  modifyDev (fun d =>
    { d with
      tiles := d.tiles.map (fun t =>
        if ps.any (fun p => p.asid == t.asid && p.index == t.index) then { t with forced := true } else t) })

/-- Whether an agent holds a partial on a line. -/
def State.isPartial (s : State) (agent line : Nat) : Bool :=
  s.dev.partials.any (fun p => p.agent == agent && p.key / 128 == line)

/-! ### Accesses to the caches -/

/-- The clock number, generation and penalty of an access. -/
def State.ask (s : State) (w : Toucher) (mirror : Option (List MirrorEntry)) : CacheAsk :=
  let t := s.team w.tid
  { w := w
    cnum := (t.map Team.cnum).getD noClock
    cgen := (t.map (fun x => x.clockGen)).getD 0
    own := match w.clock with
      | some c => c
      | none => ownClock mirror t
    view := s.clockView mirror
    shift := (s.func w.tenant.toNat).nupen.toNat
    now := s.cycle }

/-- An access acts on the yard cache (R244, R247); answers whether it hit. -/
def yardTouch (w : Toucher) (line : Nat) (tva : Option (BitVec 16 × Nat)) : Act Bool := do
  let y := w.pos.yidx
  let s ← getS
  let set := (s.yard y).lines.filter (fun l => l.line % 1024 == line % 1024)
  -- the forced combine of R276, where no other way is left
  match (s.ask w none).run (fun l => l % 1024) (s.isPartial y) (s.yard y).lines line with
  | some _ => pure ()
  | none =>
    match bestBy (fun b a => b.ins < a.ins) (set.filter (fun l => s.isPartial y l.line)) with
    | some l => forcedCombine l.line
    | none => pure ()
  let s ← getS
  match (s.ask w none).run (fun l => l % 1024) (s.isPartial y) (s.yard y).lines line with
  | none => return false
  | some a => do
    modifyYard y (fun Y =>
      { Y with lines := a.lines.map (fun x => if x.line = line then { x with tva := tva } else x) })
    countEvents (a.counts ++ [(w.tenant, if a.hit then 8 else 9)])
    match a.victim with
    | some v => evictLine y false v.line
    | none => pure ()
    return a.hit

/-- Whether an access travels on channel B: it has class 0 as resolved at its cache, or a copy engine makes it (R363). -/
def CacheAsk.bulk (q : CacheAsk) (set : List CLine) (line : Nat) : Bool :=
  q.w.engine.isSome || (q.resolve set (set.find? (fun l => l.line == line))).1 == 0

/-- An access acts on the L2 slice of a key (R244, R251), whose mirror has the updates that arrive before its request does (R241,
R366); its packets set out (R362). -/
def sliceTouch (w : Toucher) (key : Nat) (u : SliceUse) : Act Unit := do
  let s ← getS
  let sl := sliceOf key
  let stop := sl / 4
  let lines := assocGet [] s.dev.l2 sl
  let q := s.ask w (some (s.mirrorAt stop (s.cycle + mirrorLag (s.stopOf w) stop)))
  let bulk := q.bulk (lines.filter (fun l => sliceSet (l.line * 128) == sliceSet key)) (key / 128)
  modifyDev (fun d => d.request (s.stopOf w) stop bulk u)
  match q.run (fun l => sliceSet (l * 128)) (fun _ => false) lines (key / 128) with
  | none => pure ()
  | some a => do
    modifyDev (fun d => { d with l2 := assocSet d.l2 sl a.lines })
    countEvents (a.counts ++ [(w.tenant, if a.hit then 10 else 11)])

/-- An access acts on the heavy core's private cache (R235): 512 sets, 16 ways, least recent first out, class 0 not
allocated; partial lines are spared and at last combined (R276). -/
def privTouch (w : Toucher) (line : Nat) (tva : Option (BitVec 16 × Nat)) : Act Unit := do
  let y := w.pos.yidx
  let s ← getS
  let l := (s.yard y).heavy.privCache
  match l.find? (fun e => e.line == line) with
  | some e => modifyHeavy y (fun H => { H with privCache := { e with tva := tva } :: l.erase e })
  | none =>
    if w.cls = 0 then pure ()
    else do
      let set := l.filter (fun e => e.line % 512 == line % 512)
      if set.length < 16 then modifyHeavy y (fun H => { H with privCache := ⟨line, s.cycle, tva⟩ :: l })
      else do
        let spare := (set.filter (fun e => !s.isPartial (64 + y) e.line)).reverse.head?
        let out := match spare with
          | some e => some e
          | none => bestBy (fun b a => b.ins < a.ins) set
        match out with
        | none => pure ()
        | some v => do
          if s.isPartial (64 + y) v.line then forcedCombine v.line else pure ()
          modifyHeavy y (fun H => { H with privCache := ⟨line, s.cycle, tva⟩ :: H.privCache.erase v })
          evictLine y true v.line

/-- An access acts on the cache of its domain that it goes through: the private cache of the heavy core, or the yard cache;
answers whether it hit. -/
def cacheTouch (w : Toucher) (line : Nat) (tva : Option (BitVec 16 × Nat)) : Act Bool :=
  if w.heavy then do
    let Y ← getYard w.pos.yidx
    let hit := Y.holds true line
    privTouch w line tva
    return hit
  else yardTouch w line tva

/-- A line entered in a lean L1: 32 sets, 4 ways, least recent out (R235). -/
def l1Insert (l : List L1Line) (n : L1Line) : List L1Line :=
  let rest := l.filter (fun e => e.line != n.line)
  let set := rest.filter (fun e => e.line % 32 == n.line % 32)
  let rest := match set.reverse.head? with
    | some v => if 4 ≤ set.length then rest.erase v else rest
    | none => rest
  n :: rest

/-- Records that came with a strand's data join its seen set (R300). -/
def Strand.see (x : Strand) (recs : List (Nat × BitVec 32)) : Strand :=
  { x with
    seen := recs.foldl (fun l e => assocSet l e.1 (max (assocGet 0 l e.1) e.2.toNat)) x.seen }

/-- Records that came with data join the seen set of the strand that loads it: those with bytes of a cached line too, whoever
brought the line (R294, R300). -/
def seeRecords (w : Toucher) (recs : List (Nat × BitVec 32)) : Act Unit :=
  if recs.isEmpty then pure () else modifyAt w.pos (fun x => x.see recs)

/-- Data comes from the slice to a strand: the slice is touched and its records are seen. -/
def fromSlice (w : Toucher) (key : Nat) (u : SliceUse := .read) : Act Unit := do
  sliceTouch w key u
  let s ← getS
  seeRecords w (s.lineRecords (key / 128))

/-- The records that came with the line of one of a domain's caches. -/
def Yard.lineRecs (Y : Yard) (heavy : Bool) (line : Nat) : List (Nat × BitVec 32) :=
  ((domLine Y.domain heavy line).map (fun d => d.recs)).getD []

/-- The cache that an access went through gives the bytes of a mask of an untiled line, or takes the line from the slice, which
fills it where the cache has allocated it (R235, R297). -/
def supplyLine (w : Toucher) (key : Nat) (need : BitVec 128) (atSlice : Bool) : Act Unit := do
  let y := w.pos.yidx
  let line := key / 128
  let Y ← getYard y
  if Y.gives w.heavy line need && !atSlice then seeRecords w (Y.lineRecs w.heavy line)
  else do
    fromSlice w key
    if Y.holds w.heavy line then fillLine y w.heavy line w.tenant else pure ()

/-- A lean core's L1 allocates the line of a load that missed it, whole (R235); class 0 does not allocate. Tiled bytes of the line
are never read there: memory has them as their holder left them. -/
def l1Fill (w : Toucher) (line : Nat) : Act Unit := do
  let s ← getS
  if w.cls = 0 then pure ()
  else
    let y := w.pos.yidx
    let data : BitVec 1024 := BitVec.ofNat 1024 (leValue ((List.range 128).map (fun i => s.cachedByte y false (line * 128 + i))))
    modifyCore (coreKey w.pos) (fun c => { c with l1 := l1Insert c.l1 ⟨line, data, (s.yard y).lineRecs false line⟩ })

/-- What a load leaves in the caches (R235, R244, R297), after its value is known. Uncovered reads of tiled bytes bring no
records (R303). -/
def touchRead (w : Toucher) (key n : Nat) (atSlice uncovered : Bool) (tva : Option (BitVec 16 × Nat)) : Act Unit := do
  let tiled := tva.isSome
  let s ← getS
  let line := key / 128
  let need := byteMask (key % 128) n
  if isYardMem key then pure ()
  else if uncovered then (if tiled then sliceTouch w key .read else fromSlice w key)
  else
    match (if w.heavy then none else (s.core (coreKey w.pos)).l1.find? (fun l => l.line == line)) with
    | some l =>
      if atSlice then do
        let _ ← yardTouch w line tva
        if tiled then sliceTouch w key .read else supplyLine w key need true
      else do
        modifyCore (coreKey w.pos) (fun c => { c with l1 := l :: c.l1.erase l })
        seeRecords w l.recs
    | none => do
      let hit ← cacheTouch w line tva
      if tiled then (if hit then pure () else sliceTouch w key .read)
      else supplyLine w key (if w.heavy || w.cls = 0 then need else BitVec.allOnes 128) atSlice
      if w.heavy then pure () else l1Fill w line

/-! ### Lazy release (R298-R302) -/

/-- A yard has drained up to the epoch of the oldest line that is still dirty, or up to its open epoch (R299). -/
def advanceDrained (y : Nat) : Act Unit := do
  let Y ← getYard y
  let oldest := (Y.domain.filter (fun d => d.dirty != 0)).foldl
    (fun e d => if serialBefore d.epoch e then d.epoch else e) Y.epoch
  if serialBefore Y.drained oldest then modifyYard y (fun Y => { Y with drained := oldest }) else pure ()

/-- A yard writes back its dirty lines of an epoch or less, in ascending address, and has drained to it (R299, R300). -/
def drainYard (y : Nat) (e : BitVec 32) : Act Unit := do
  let s ← getS
  let old := ((s.yard y).domain.filter (fun d => d.dirty != 0 && !serialBefore e d.epoch)).mergeSort
    (fun a b => a.line ≤ b.line)
  forAll old (cleanLine y)
  advanceDrained y

/-- Every dirty line of a domain written back; `host` tells whether lines of host memory are among them (R302, R310). -/
def writeBackAll (y : Nat) (host : Bool) : Act Unit := do
  let s ← getS
  let ls := ((s.yard y).domain.filter (fun d => d.dirty != 0 && (host || isDram (d.line * 128)))).mergeSort
    (fun a b => a.line ≤ b.line)
  forAll ls (cleanLine y)
  advanceDrained y

/-- A release closes the epoch (R298 step 2). -/
def closeEpoch (y : Nat) : Act (BitVec 32) := do
  let Y ← getYard y
  modifyYard y (fun Y => { Y with epoch := Y.epoch + 1 })
  return Y.epoch

/-- A release record deposited at the slice of a line (R299). -/
def depositRecord (line y : Nat) (e : BitVec 32) : Act Unit := do
  let s ← getS
  let recs := s.lineRecords line
  let mine := recs.find? (fun r => r.1 == y)
  let e' := match mine with
    | some r => if serialBefore e r.2 then r.2 else e
    | none => e
  let others := recs.filter (fun r => r.1 != y)
  let retired := if mine.isNone && 4 ≤ others.length then others.take 1 else []
  let kept := if mine.isNone && 4 ≤ others.length then others.drop 1 else others
  let stands := fun (r : RelLine) => r.recs.any (fun e => !serialBefore e.2 (s.yard e.1).drained)
  let rest := s.dev.records.filter (fun r => r.line != line && stands r)
  let same := rest.filter (fun r => sliceOf (r.line * 128) == sliceOf (line * 128))
  let full := if 16384 ≤ same.length then same.head? else none
  let rest := match full with
    | some r => rest.filter (fun q => q.line != r.line)
    | none => rest
  modifyDev (fun d => { d with records := rest ++ [⟨line, kept ++ [(y, e')]⟩] })
  forAll retired (fun r => drainYard r.1 r.2)
  match full with
  | some r => forAll r.recs (fun r => drainYard r.1 r.2)
  | none => pure ()

/-- The clean untiled lines that an acquire invalidates, device or host lines of a tenant: dirty bytes stay (R300, R302). -/
def Yard.invalidate (Y : Yard) (tenant : BitVec 4) (host : Bool) : Yard :=
  let hit := fun (d : DomLine) => d.tenant == tenant && isHostMem (d.line * 128) == host
  let gone := Y.domain.filter (fun d => hit d && d.dirty == 0)
  let left := fun (heavy : Bool) (line : Nat) => !gone.any (fun d => d.line == line && d.heavy == heavy)
  { Y with
    domain := (Y.domain.filter (fun d => left d.heavy d.line)).map (fun d => if hit d then { d with valid := d.dirty, recs := [] } else d)
    lines := Y.lines.filter (fun l => left false l.line)
    heavy := { Y.heavy with privCache := Y.heavy.privCache.filter (fun l => left true l.line) } }

/-- The L1 of a core emptied. -/
def dropL1 (k : Nat × Bool × Nat) : Act Unit := do
  let s ← getS
  if (s.core k).l1.isEmpty then pure () else modifyCore k (fun c => { c with l1 := [] })

/-- The end of an acquire (R300 step 3, R302): clean copies go, the seen set is cleared, and at system scope host lines are
written back and go too. -/
def finishAcquire (w : Toucher) (scope : BitVec 2) : Act Unit := do
  let y := w.pos.yidx
  modifyYard y (fun Y => Y.invalidate w.tenant false)
  if scope = 3#2 then do
    let s ← getS
    let ls := (s.yard y).domain.filter (fun d => d.dirty != 0 && isHostMem (d.line * 128) && d.tenant == w.tenant)
    forAll ls (cleanLine y)
    modifyYard y (fun Y => Y.invalidate w.tenant true)
  else pure ()
  dropL1 (coreKey w.pos)
  let s ← getS
  if s.strands.any (fun t => t.pos == w.pos && !t.seen.isEmpty) then modifyAt w.pos (fun x => { x with seen := [] }) else pure ()

/-- An acquire by a strand at a scope (R300-R302): it ends at once where no yard of the seen set must drain, and otherwise when
every drain request has its answer. -/
def acquireAt (w : Toucher) (scope : BitVec 2) : Act Unit := do
  if scope = 0#2 then dropL1 (coreKey w.pos)
  else do
    let s ← getS
    let seen := ((s.strands.find? (fun t => t.pos == w.pos)).map (fun t => t.seen)).getD []
    let asks := seen.filter (fun e => !serialBefore (BitVec.ofNat 32 e.2) (s.yard e.1).drained)
    if asks.isEmpty then finishAcquire w scope else modifyDev (fun d => { d with acquires := d.acquires ++ [⟨w, scope, asks⟩] })

/-- A drain request of an acquire answered: the yard drains, and the last answer ends the acquire (R300). -/
def answerDrain (q : Acquire) (e : Nat × Nat) : Act Unit := do
  drainYard e.1 (BitVec.ofNat 32 e.2)
  let q' := { q with asks := q.asks.erase e }
  if q'.asks.isEmpty then do
    modifyDev (fun d => { d with acquires := d.acquires.erase q })
    finishAcquire q.w q.scope
  else modifyDev (fun d => { d with acquires := d.acquires.map (fun a => if a = q then q' else a) })

/-- A write performs at the slice of its line (R298 step 3, R307): the domain's copies go first; a record of a release
is deposited. -/
def writeAtSlice (w : Toucher) (key : Nat) (bytes : List Byte) (rel : Option (BitVec 32)) : Act Unit := do
  dropLine w.pos.yidx (key / 128)
  emit (.mem key bytes)
  clearPoison key bytes.length
  sliceTouch w key (.write bytes.length)
  match rel with
  | some e => depositRecord (key / 128) w.pos.yidx e
  | none => pure ()

/-- Bytes written into the cache of the domain that the writer goes through, which has been touched: the other's copy goes
(R297), a lean L1 is written through (R235), and a line that the private cache has not allocated is written at the slice. -/
def writeCache (w : Toucher) (key : Nat) (bytes : List Byte) : Act Unit := do
  let y := w.pos.yidx
  let Y ← getYard y
  if !Y.holds w.heavy (key / 128) then writeAtSlice w key bytes none
  else do
    dirtyLine y w.heavy key w.tenant bytes
    let s ← getS
    let k := coreKey w.pos
    if !w.heavy && (s.core k).l1.any (fun l => l.line == key / 128) then
      modifyCore k (fun c =>
        { c with l1 := c.l1.map (fun l => if l.line = key / 128 then { l with data := setBytes l.data (key % 128) bytes } else l) })
    else pure ()

/-- A plain store into the domain (R235, R297). -/
def storeInDomain (w : Toucher) (key : Nat) (bytes : List Byte) : Act Unit := do
  let _ ← cacheTouch w (key / 128) none
  writeCache w key bytes

/-- Pieces of a write that lie in one line each. -/
def linePieces : Nat → Nat → List Byte → List (Nat × List Byte)
  | 0, _, _ => []
  | fuel + 1, key, bytes =>
    if bytes.isEmpty then []
    else
      let room := 128 - key % 128
      (key, bytes.take room) :: linePieces fuel (key + room) (bytes.drop room)

/-- How a store meets tenure (R270, R273): untiled, covered with its virtual line, or uncovered. -/
inductive StoreWay where
  | untiled
  | covered (tva : BitVec 16 × Nat)
  | uncovered
deriving DecidableEq, Repr

/-- The bytes of a piece cut into runs that a test agrees on: key, bytes, and what the test says. -/
def cutRuns (f : Nat → Bool) (key : Nat) : List Byte → List (Nat × List Byte × Bool)
  | [] => []
  | b :: bs =>
    match cutRuns f (key + 1) bs with
    | (k, l, v) :: rest => if v = f key then (key, b :: l, v) :: rest else (key, [b], f key) :: (k, l, v) :: rest
    | [] => [(key, [b], f key)]

/-- The pieces of bytes in one line each; where the access meets tiles, each piece all tiled or all untiled (R267). -/
def lineRuns (meets : Bool) (tiled : Nat → Bool) (key : Nat) (bytes : List Byte) : List (Nat × List Byte × Bool) :=
  let ps := linePieces 4 key bytes
  if meets then ps.flatMap (fun p => cutRuns tiled p.1 p.2) else ps.map (fun p => (p.1, p.2, false))

/-- A release, or a store in the span after a FENCE, to tiled bytes, which carry no record (R303): the yard's dirty lines of device
memory are written back, so that what precedes it has performed at its scope (R293, R294; DEDUCED, log entry 76). -/
def releaseTiled (y : Nat) (rel : Option (BitVec 32)) (tiled : Bool) : Act Unit :=
  if rel.isSome && tiled then writeBackAll y false else pure ()

/-- One store leaves a store buffer (R237, R298, R301, R302). `fence` is the epoch of the span after a FENCE (R298); `tiled` tells
which of its bytes are tiled, where it meets tiles. Stores to tiled bytes leave no record (R303). -/
def performStore (w : Toucher) (st : HeldStore) (fence : Option (BitVec 32)) (way : StoreWay) (tiled : Nat → Bool) : Act Unit := do
  if isYardMem st.key then do
    clearPoison st.key st.bytes.length
    emit (.mem st.key st.bytes)
  else do
    let runs := lineRuns (way != .untiled) tiled st.key st.bytes
    let wide := match st.rel with
      | some sc => sc != 0#2
      | none => false
    let rel ← (if wide then do
      if st.rel = some 3#2 then writeBackAll w.pos.yidx true else pure ()
      let e ← closeEpoch w.pos.yidx
      return some e
    else return fence)
    releaseTiled w.pos.yidx rel (runs.any (fun p => p.2.2))
    forAll runs (fun p =>
      if !p.2.2 then
        match rel with
        | some e => writeAtSlice w p.1 p.2.1 (some e)
        | none => storeInDomain w p.1 p.2.1
      else do
        emit (.mem p.1 p.2.1)
        clearPoison p.1 p.2.1.length
        match way with
        | .covered tva => do
          let _ ← cacheTouch w (p.1 / 128) (some (tva.1, tva.2 + (p.1 / 128 - st.key / 128)))
        | _ => sliceTouch w p.1 (.write p.2.1.length))

/-! ### What DRAM has (R426) -/

/-- Whether a cache holds a line whose bytes stand in `mem`: its slice, or, of a tiled line, a cache of a yard. -/
def State.cachesLine (s : State) (line : Nat) : Bool :=
  s.inSlice (line * 128) || s.yards.any (fun e => e.2.lines.any (fun l => l.line == line && l.tva.isSome)
    || e.2.heavy.privCache.any (fun l => l.line == line && l.tva.isSome))

/-- The lines of device memory in which two memories differ. -/
def changedLines (a b : Memory) : List Nat :=
  ((((a.filter (fun c => !b.contains c)) ++ b.filter (fun c => !a.contains c)).map (fun c => c.1)).filter isDram |>.map (fun k => k / 128)).eraseDups

/-- What DRAM has of the lines that caches hold newer, after memory was as given: a line written while a cache holds it stands in DRAM
as it was, until no cache holds it. -/
def State.trackDram (s : State) (before : Memory) : State :=
  let fresh := if before = s.mem then [] else
    ((changedLines before s.mem).filter (fun l => !s.dirtyLine l)).map (fun l => (l, before.readBytes (l * 128) 128))
  { s with
    dev := { s.dev with
      dram := (s.dev.dram ++ fresh).filter (fun e => s.cachesLine e.1 && s.mem.readBytes (e.1 * 128) 128 != e.2) } }

/-- Memory with every cache lost: DRAM's bytes (R426). -/
def loseCaches : Act Unit := do
  let s ← getS
  forAll s.dev.dram (fun e => emit (.mem (e.1 * 128) e.2))

/-- What the caches record after a step, in order. -/
def runTouch : Touch → Act Unit
  | .read w key n atSlice uncovered tva => touchRead w key n atSlice uncovered tva
  | .acquire w scope => acquireAt w scope

/-- A touch left for the end of the step. -/
def queueTouch (t : Touch) : Act Unit := do
  let s ← getS
  emit (.touches (s.touches ++ [t]))

end Sys2Proof.Machine
end

