-- ==== Sys2Proof/Machine/Translate.lean ====
section
/-! DEFINITION. Translation (R343-R357): the order of checks, TLBs, the page walk, the yard-memory window, and host pages
through ATS. -/
namespace Sys2Proof.Machine

/-- The kinds of access of R349. -/
inductive Access where
  | fetch | load | store | atomic
deriving DecidableEq, Repr

/-- Translation and permission causes (R346, R349). -/
def Access.missCause : Access → BitVec 8
  | .fetch => 0x08 | .load => 0x10 | .store => 0x11 | .atomic => 0x11

/-- Who makes an access: the slot of the strand, its address space, mode and team, and whether it is made at the heavy
core (shipped work, and strands there); and for whom its translation is asked. -/
structure Who where
  pos : Pos
  asid : BitVec 16
  sup : Bool
  tid : Nat
  heavy : Bool
  asker : Asker
deriving DecidableEq, Repr

/-- The strand in the focus as the maker of an access. -/
def Strand.who (x : Strand) : Who := ⟨x.pos, x.modes.asid, x.st.sup, x.tid, x.pos.heavy, .strand x.pos x.pos.heavy x.nextLocal⟩

/-- Base of the yard-memory aperture and its size (R223). -/
def apertureBase : Nat := 0x00FFFF0000000000
def apertureSize : Nat := 2 ^ 32

/-- Whether an address lies in the aperture. -/
def inAperture (va : Nat) : Bool := apertureBase ≤ va && va < apertureBase + apertureSize

/-- Bytes of a team's allotment (R224). -/
def Team.allotment (t : Team) : Nat := t.granules.length * 4096

/-- Bytes of the allotment that a team number reaches; none without a team. -/
def State.allotment (s : State) (tid : Nat) : Nat :=
  match s.team tid with
  | some t => t.allotment
  | none => 0

/-- The key of a window offset (R225). -/
def State.windowKey (s : State) (tid off : Nat) : Nat :=
  match s.team tid with
  | some t => yardKey t.yidx (t.granules.getD (off / 4096) 0 * 4096 + off % 4096)
  | none => 0

/-- Whether an access to `n` bytes meets the aperture beyond the allotment (R223). -/
def State.outsideAllotment (s : State) (tid va n : Nat) : Bool :=
  let last := va + n - 1
  (inAperture va || inAperture last) &&
    (last < apertureBase || apertureBase + apertureSize ≤ last || s.allotment tid ≤ last - apertureBase)

/-! ### Page tables -/

/-- Bits of the page a level's leaf maps, and of a table at the next level (R347). -/
def levelBits : Nat → Nat
  | 0 => 43 | 1 => 31 | 2 => 25 | _ => 19
def tableBits : Nat → Nat
  | 0 => 16 | 1 => 15 | _ => 9

/-- Number of index bits of a level (R347). -/
def indexBits : Nat → Nat
  | 0 => 13 | 1 => 12 | _ => 6

/-- Whether a valid entry is malformed as a leaf or a pointer at a level (R348). -/
def malformed (level e : Nat) : Bool :=
  let bit := fun i => e / 2 ^ i % 2 == 1
  let leaf := bit 1
  let r := bit 2
  let w := bit 3
  let x := bit 4
  let host := bit 5
  let su := bit 6
  let addr := e % 2 ^ 52 / 2 ^ 9 * 2 ^ 9
  bit 7 || bit 8 || e / 2 ^ 52 != 0
    || (leaf && level == 0) || (!leaf && level == 3)
    || (!leaf && (r || w || x || host || su || addr % 2 ^ tableBits (level + 1) != 0))
    || (leaf && w && !r)
    || (leaf && !host && (addr % 2 ^ levelBits level != 0 || dramEnd < addr + 2 ^ levelBits level))
    || (leaf && host && addr != 0)

/-- The TLB entry of a well-formed leaf. -/
def leafEntry (asid : BitVec 16) (va level e : Nat) (pin : Bool) : TlbEntry :=
  let bit := fun i => e / 2 ^ i % 2 == 1
  let p := levelBits level
  { asid := asid, vpage := va / 2 ^ p, bits := p, r := bit 2, w := bit 3, x := bit 4, su := bit 6, hostLeaf := bit 5,
    hostR := false, hostW := false, ppage := e % 2 ^ 52 / 2 ^ p, pinned := pin, ats := false }

/-- The walk from a table down (R347, R348); none for the translation cause. A table entry outside device DRAM ends the
walk (DEDUCED, log entry 12). -/
def walkFrom (m : Memory) (asid : BitVec 16) (va : Nat) : Nat → Nat → Nat → Option TlbEntry
  | 0, _, _ => none
  | fuel + 1, level, table =>
    let at_ := table + 8 * (va / 2 ^ levelBits level % 2 ^ indexBits level)
    if dramEnd ≤ at_ then none
    else
      let e := leValue (m.readBytes at_ 8)
      if e % 2 = 0 || malformed level e then none
      else if e / 2 % 2 = 1 then some (leafEntry asid va level e false)
      else walkFrom m asid va fuel (level + 1) (e % 2 ^ 52 / 2 ^ 9 * 2 ^ 9)

/-- The walk of an address space (R345, R347). -/
def State.walk (s : State) (asid : BitVec 16) (va : Nat) : Option TlbEntry :=
  match s.space asid with
  | none => none
  | some sp =>
    if sp.ptbase.getLsbD 0 then walkFrom s.mem asid va 4 0 (sp.ptbase.toNat % 2 ^ 52 / 2 ^ 16 * 2 ^ 16) else none

/-! ### TLBs (R351) -/

/-- Whether an entry maps an address. -/
def TlbEntry.maps (e : TlbEntry) (asid : BitVec 16) (va : Nat) : Bool := e.asid == asid && va / 2 ^ e.bits == e.vpage

/-- The set of an entry in the heavy TLB. -/
def TlbEntry.set (e : TlbEntry) : Nat := (e.vpage % 256) ^^^ (e.asid.toNat % 256)

/-- The last element that satisfies a test, removed. -/
def dropLast {α : Type} [DecidableEq α] (p : α → Bool) (l : List α) : List α :=
  match l.reverse.find? p with
  | some a => (l.reverse.erase a).reverse
  | none => l

/-- An entry entered in the heavy TLB: eight ways, least recent unpinned entry of the set out; one that is there becomes the
most recent. -/
def heavyInsert (l : List TlbEntry) (e : TlbEntry) : List TlbEntry :=
  let l := l.filter (fun f => f != e)
  let same := fun (f : TlbEntry) => f.set == e.set
  let l' := if 8 ≤ (l.filter same).length then dropLast (fun f => same f && !f.pinned) l else l
  e :: l'

/-- An entry entered in a micro-TLB of 32 entries. -/
def microInsert (l : List TlbEntry) (e : TlbEntry) : List TlbEntry :=
  let e := { e with pinned := false }
  e :: (l.filter (fun f => f != e)).take 31

/-- An entry moved to the front of a recency list. -/
def touchFront {α : Type} [DecidableEq α] (l : List α) (e : α) : List α := e :: l.erase e

/-- A core's micro-TLB as an access uses it: none at a heavy core. -/
def State.microTlb (s : State) (w : Who) : List TlbEntry := if w.heavy then [] else (s.core (coreKey w.pos)).utlb

/-- The entry for an access: in the core's micro-TLB for a lean core, then in the heavy TLB; the host's translation of a page
before its leaf. -/
def State.tlbLookup (s : State) (w : Who) (va : Nat) : Option TlbEntry :=
  let l := (s.microTlb w ++ (s.yard w.pos.yidx).tlb).filter (fun e => e.maps w.asid va)
  (l.find? (fun e => e.ats)).orElse fun _ => l.head?

/-- Recency and copies after a hit (R351): an entry found in the heavy TLB is copied to the micro-TLB. -/
def noteTlb (w : Who) (e : TlbEntry) : Act Unit := do
  let s ← getS
  let Y := s.yard w.pos.yidx
  let c := s.core (coreKey w.pos)
  if !w.heavy && c.utlb.contains e then
    if c.utlb.head? = some e then pure () else emit (.core (coreKey w.pos) { c with utlb := touchFront c.utlb e })
  else do
    if Y.tlb.head? = some e then pure () else emit (.yard w.pos.yidx { Y with tlb := touchFront Y.tlb e })
    if w.heavy then pure () else emit (.core (coreKey w.pos) { c with utlb := microInsert c.utlb e })

/-- The permission check of R349: none if the leaf grants the access. -/
def TlbEntry.refuses (e : TlbEntry) (sup : Bool) (k : Access) : Option (BitVec 8) :=
  let su := e.su && !sup
  match k with
  | .fetch => if su || !e.x || e.hostLeaf then some 0x0A else none
  | .load => if su || !e.r then some 0x12 else none
  | .store => if su || !e.w then some 0x13 else none
  | .atomic => if su || !e.r then some 0x12 else if !e.w then some 0x13 else none

/-- Whether a host translation grants an access (R355). -/
def TlbEntry.hostGrants (e : TlbEntry) (k : Access) : Bool :=
  match k with
  | .fetch => false
  | .load => e.hostR
  | .store => e.hostW
  | .atomic => e.hostR && e.hostW

/-! ### Walks (R352) -/

/-- Whether a walk is for an address space and the smallest page that holds an address: misses of one page merge. -/
def WalkReq.covers (r : WalkReq) (asid : BitVec 16) (va : Nat) : Bool := r.asid == asid && r.va.toNat / 2 ^ 19 == va / 2 ^ 19

/-- Whether one of a list of walks is for an asker's page. -/
def askedFor (l : List WalkReq) (who : Asker) (asid : BitVec 16) (va : Nat) : Bool :=
  l.any (fun r => r.covers asid va && r.askers.contains who)

/-- A miss given to the walker: merged with a walk of its page, among the 8 walks and 64 queued ones, or waiting at its source
for an entry of the queue, in order of arrival. -/
def Yard.askWalk (Y : Yard) (who : Asker) (asid : BitVec 16) (va : Word) : Yard :=
  if Y.walks.any (fun r => r.covers asid va.toNat) then
    { Y with
      walks := Y.walks.map (fun r =>
        if r.covers asid va.toNat && !r.askers.contains who then { r with askers := r.askers ++ [who] } else r) }
  else if Y.walks.length < 72 then { Y with walks := Y.walks ++ [⟨asid, va, [who]⟩] }
  else if askedFor Y.walkWait who asid va.toNat then Y
  else { Y with walkWait := Y.walkWait ++ [⟨asid, va, [who]⟩] }

/-- Walks without those that nobody asks for once an asker has gone. -/
def leaveWalks (gone : Asker → Bool) (l : List WalkReq) : List WalkReq :=
  (l.map (fun r => { r with askers := r.askers.filter (fun a => !gone a) })).filter (fun r => !r.askers.isEmpty)

/-- Waiting misses take entries of the walker's queue, in the order in which they reached it (R352). -/
def Yard.admitWalks (Y : Yard) : Yard :=
  Y.walkWait.foldl (fun Y r => r.askers.foldl (fun Y a => Y.askWalk a r.asid r.va) Y) { Y with walkWait := [] }

/-- Ended walks without askers who are gone. -/
def leaveEnded (gone : WalkReq → Asker → Bool) (l : List EndedWalk) : List EndedWalk :=
  (l.map (fun e => { e with req := { e.req with askers := e.req.askers.filter (fun a => !gone e.req a) } })).filter
    (fun e => !e.req.askers.isEmpty)

/-- A yard without the ended walks of a page with which an asker has gone on. -/
def Yard.takeEnded (Y : Yard) (who : Asker) (asid : BitVec 16) (va : Nat) : Yard :=
  { Y with endedWalks := leaveEnded (fun r a => r.covers asid va && a == who) Y.endedWalks }

/-- How an asker's walk of a page has ended. -/
def Yard.ended (Y : Yard) (who : Asker) (asid : BitVec 16) (va : Nat) : Option EndedWalk :=
  Y.endedWalks.find? (fun e => e.req.covers asid va && e.req.askers.contains who)

/-! ### Host pages (R355, R356) -/

/-- The request of an address space for a page. -/
def Dev.pageReq (d : Dev) (asid : BitVec 16) (page : Nat) (sup : Bool) : Option PageReq :=
  d.pageReqs.find? (fun r => r.asid == asid && r.page == page && r.sup == sup)

/-- A host page request changed; one that nothing waits for goes. -/
def Dev.mapReq (d : Dev) (asid : BitVec 16) (page : Nat) (f : PageWaiter → Option PageWaiter) : Dev :=
  { d with
    pageReqs := (d.pageReqs.map (fun r =>
      if r.asid == asid && r.page == page then { r with waiters := r.waiters.filterMap f } else r)).filter
        (fun r => !r.waiters.isEmpty) }

/-- An asker waits for no page of an address space any more. -/
def Dev.dropWaiter (d : Dev) (asid : BitVec 16) (page : Nat) (who : Asker) : Dev :=
  d.mapReq asid page (fun w => if w.who = who then none else some w)

/-- Whether a kind of access reads or writes, as the host grants it (R355). -/
def Access.reads (k : Access) : Bool := k == .load || k == .atomic
def Access.writes (k : Access) : Bool := k == .store || k == .atomic

/-- An asker waits for a page: its Translation Request stands, or, while a page request of its address space stands for the page, it
waits for that one (R355, R356). -/
def Dev.addReq (d : Dev) (page : Nat) (sup read write : Bool) (who : Asker) (leaf : TlbEntry) (now : Nat) : Dev :=
  let asid := leaf.asid
  let wait := d.pageReqs.any (fun q => q.asid == asid && q.page == page && q.waiters.any (fun v => v.pri))
  let w : PageWaiter :=
    { who := who, leaf := leaf, read := read, write := write, asked := !wait, since := now, tries := 0, pri := wait, failed := false }
  match d.pageReq asid page sup with
  | some _ =>
    { d with
      pageReqs := d.pageReqs.map (fun q =>
        if q.asid == asid && q.page == page && q.sup == sup then
          { q with
            waiters := if q.waiters.any (fun v => v.who == who) then
                q.waiters.map (fun v =>
                  if v.who = who then
                    { v with leaf := leaf, read := v.read || read, write := v.write || write, asked := v.asked || !v.pri,
                             since := if v.asked || v.pri then v.since else now }
                  else v)
              else q.waiters ++ [w] }
        else q) }
  | none => { d with pageReqs := d.pageReqs ++ [⟨asid, page, sup, [w]⟩] }

/-- Whether the host has refused a page to an asker (R356). -/
def Dev.refusedPage (d : Dev) (asid : BitVec 16) (page : Nat) (who : Asker) : Bool :=
  d.pageReqs.any (fun r => r.asid == asid && r.page == page && r.waiters.any (fun v => v.who == who && v.failed))

/-- An access to host memory is refused (0x16) when its function is frozen, and waits while the link is isolated (R424). -/
def checkLink (w : Who) (va : Word) : Act Unit := do
  let s ← getS
  let tenant := match s.space w.asid with
    | some sp => sp.tenant.toNat
    | none => 0
  if (s.func tenant).frozen then raise 0x16 va
  else if !s.dev.hostLinkUp then stall
  else pure ()

/-- The access has no host translation that grants it: it is refused (0x16) if the host refused the page (R356), and
otherwise the strand waits for ATS. `leaf` is the HOST leaf that it has met. -/
def awaitHost {α : Type} (w : Who) (va : Word) (k : Access) (leaf : TlbEntry) : Act α := do
  let s ← getS
  let page := va.toNat / 4096
  let Y := (s.yard w.pos.yidx).takeEnded w.asker w.asid va.toNat
  let took : List Eff := if Y = s.yard w.pos.yidx then [] else [.yard w.pos.yidx Y]
  if s.dev.refusedPage w.asid page w.asker then
    fun _ => .error (.trap 0x16 va (.dev (s.dev.dropWaiter w.asid page w.asker) :: took))
  else do
    checkLink w va
    suspendAs .pageWait (.dev (s.dev.addReq page w.sup k.reads k.writes w.asker leaf s.cycle) :: took)

/-- Whether an asker's translation still has a request under way (R352, R355, R356). -/
def State.awaits (s : State) (y : Nat) (who : Asker) : Bool :=
  ((s.yard y).walks ++ (s.yard y).walkWait).any (fun r => r.askers.contains who)
    || s.dev.pageReqs.any (fun r => r.waiters.any (fun v => v.who == who && (v.asked || v.pri) && !v.failed))

/-- The key of an entry's byte for an address. -/
def TlbEntry.key (e : TlbEntry) (va : Nat) : Nat :=
  let pa := e.ppage * 2 ^ e.bits + va % 2 ^ e.bits
  if e.hostLeaf then hostKey pa else pa

/-- Translation of one address (R346). An access that misses every TLB waits for the walker, and is made again once the
entry is there; after a failed walk it takes the walk's fault (R352), and from a HOST leaf, which no TLB takes, it goes to the host
(R355). -/
def translate (w : Who) (va : Word) (k : Access) : Act Nat := do
  let s ← getS
  let a := va.toNat
  if 2 ^ 56 ≤ a then raise k.missCause va
  else if inAperture a then
    if s.allotment w.tid ≤ a - apertureBase then raise k.missCause va
    else return s.windowKey w.tid (a - apertureBase)
  else if w.asid = 0#16 && w.sup then
    if a < dramEnd then return a else raise k.missCause va
  else
    let Y := s.yard w.pos.yidx
    match s.tlbLookup w a with
    | some e =>
      match e.refuses w.sup k with
      | some c => raise c va
      | none =>
        if e.hostLeaf && !(e.ats && e.hostGrants k) then awaitHost w va k e
        else do
          if e.hostLeaf then checkLink w va else pure ()
          noteTlb w e
          return e.key a
    | none =>
      let fault : BitVec 8 → Act Nat := fun c _ =>
        .error (.trap c va [.yard w.pos.yidx (Y.takeEnded w.asker w.asid a), .dev (s.dev.dropWaiter w.asid (a / 4096) w.asker)])
      match Y.ended w.asker w.asid a with
      | none =>
        if s.dev.refusedPage w.asid (a / 4096) w.asker then fault 0x16
        else suspendAs .walking [.yard w.pos.yidx (Y.askWalk w.asker w.asid va)]
      | some ⟨_, none⟩ => fault k.missCause
      | some ⟨_, some e⟩ =>
        match e.refuses w.sup k with
        | some c => fault c
        | none => awaitHost w va k e

/-- Translation of an access to `n` bytes: one segment, or two where it crosses a 4 KiB boundary (R252, R346). A segment
is a key and a length. -/
def translateRange (w : Who) (va : Word) (n : Nat) (k : Access) : Act (List (Nat × Nat)) := do
  let s ← getS
  if va.toNat < 2 ^ 56 && s.outsideAllotment w.tid va.toNat n then raise k.missCause va
  else
    let room := 4096 - va.toNat % 4096
    let k1 ← translate w va k
    if n ≤ room then return [(k1, n)]
    else
      let k2 ← translate w (va + BitVec.ofNat 64 room) k
      return [(k1, room), (k2, n - room)]

end Sys2Proof.Machine
end

