-- ==== Sys2Proof/Machine/Tenure.lean ====
section
/-! DEFINITION. Tile handles and tenure (R260-R288): descriptors, handles, pieces, requests at the homes, recalls and
combines. Tiled bytes stand in memory at all times: a store under W goes there at once, as the writeback of any recall
or downgrade would bring it before another agent reads (DEDUCED, log entry 22). -/
namespace Sys2Proof.Machine

/-- The tenure agent of a slot (R260). -/
def agentOf (p : Pos) : Nat := if p.heavy then 64 + p.yidx else p.yidx

/-! ### Descriptors (R261) -/

/-- S(d) of R261. -/
def Desc.stride (d : Desc) (k : Nat) : Nat := d.str.getD k 0

/-- EXT[d] of R261. -/
def Desc.extent (d : Desc) (k : Nat) : Nat := d.ext.getD k 0

/-- The outer extent EXT[RANK - 1]. -/
def Desc.outerExt (d : Desc) : Nat := d.extent (d.rank - 1)

/-- The sum of (EXT[d] - 1) S(d) below a dimension. -/
def Desc.reach (d : Desc) : Nat → Nat
  | 0 => 0
  | k + 1 => d.reach k + (d.extent k - 1) * d.stride k

/-- One past the last byte. -/
def Desc.endByte (d : Desc) : Nat := d.base + d.reach d.rank + d.stride 0

/-- FLAGS of R261. -/
def Desc.split (d : Desc) : Bool := d.flags % 2 == 1
def Desc.teamScope (d : Desc) : Bool := d.flags / 2 % 2 == 1

/-- The fields of 64 bytes, before validity. -/
def Desc.fields (b : List Byte) : Desc :=
  let at_ := fun (o n : Nat) => leValue ((b.drop o).take n)
  let z := 2 ^ (at_ 48 1 % 4)
  { base := at_ 0 8, ext := [at_ 8 4, at_ 12 4, at_ 16 4, at_ 20 4], str := [z, at_ 24 8, at_ 32 8, at_ 40 8],
    eszl2 := at_ 48 1, rank := at_ 49 1, flags := at_ 50 1 }

/-- Validity (R261); `b` is the descriptor's 64 bytes. -/
def Desc.valid (d : Desc) (b : List Byte) : Bool :=
  d.eszl2 ≤ 3 && 1 ≤ d.rank && d.rank ≤ 4 && d.flags < 8 && (b.drop 51).all (fun x => x == 0)
    && (List.range 4).all (fun k => if k < d.rank then 1 ≤ d.extent k else d.extent k == 0)
    && (List.range 4).all (fun k => k == 0 || k < d.rank || d.stride k == 0)
    && (List.range 4).all (fun k => k == 0 || d.rank ≤ k
        || (d.stride k % d.stride 0 == 0 && d.extent (k - 1) * d.stride (k - 1) ≤ d.stride k))
    && d.base % d.stride 0 == 0 && d.endByte ≤ 2 ^ 56

/-- A descriptor read from memory, if valid. -/
def Desc.ofBytes (b : List Byte) : Option Desc := if (Desc.fields b).valid b then some (Desc.fields b) else none

/-- The remaining offset below dimension `k`, if an element holds the byte. -/
def Desc.inner (d : Desc) : Nat → Nat → Bool
  | 0, off => off < d.extent 0 * d.stride 0
  | k + 1, off => off / d.stride (k + 1) < d.extent (k + 1) && d.inner k (off % d.stride (k + 1))

/-- The outer index of the element that holds a byte (R269), exactly. -/
def Desc.outer (d : Desc) (va : Nat) : Option Nat :=
  if va < d.base then none
  else
    let off := va - d.base
    if d.inner (d.rank - 1) off then some (off / d.stride (d.rank - 1)) else none

/-- Regions from one to another, at most 65 of them (R266). -/
def regionRange (a b : Nat) : List Nat := (List.range (min (b - a) 64 + 1)).map (fun i => a + i)

/-- The regions that blocks of dimension `k` touch: `n` blocks from `start`, exactly, stopping past 64 (R266). -/
def Desc.regionWalk (d : Desc) : Nat → Nat → Nat → List Nat → List Nat
  | 0, start, n, acc => acc ++ regionRange (start / 2 ^ 19) ((start + n * d.stride 0 - 1) / 2 ^ 19)
  | k + 1, start, n, acc =>
    let st := d.stride (k + 1)
    if st ≤ 2 ^ 19 then
      d.regionWalk k (start + (n - 1) * st) (d.extent k)
        (acc ++ regionRange (start / 2 ^ 19) ((start + (n - 1) * st) / 2 ^ 19))
    else
      (List.range (min n 65)).foldl (fun a i => d.regionWalk k (start + i * st) (d.extent k) a) acc

/-- The regions a tile's outer indices from `lo` to `hi` touch, ascending. -/
def Desc.regions (d : Desc) (lo hi : Nat) : List Nat :=
  if hi ≤ lo then []
  else (d.regionWalk (d.rank - 1) (d.base + lo * d.stride (d.rank - 1)) (hi - lo) []).eraseDups

/-- Whether a block of dimension `k` from `start` has a byte in a range. -/
def Desc.meetsFrom (d : Desc) (a b : Nat) : Nat → Nat → Bool
  | 0, start => start < b && a < start + d.extent 0 * d.stride 0
  | k + 1, start =>
    let st := d.stride (k + 1)
    let i := if start < a then (a - start + st - 1) / st else 0
    if i < d.extent (k + 1) && start + i * st < b then true
    else if min i (d.extent (k + 1)) = 0 then false
    else d.meetsFrom a b k (start + (min i (d.extent (k + 1)) - 1) * st)

/-- Whether a byte of the tile lies in [a, b) (R269). -/
def Desc.meets (d : Desc) (a b : Nat) : Bool := d.meetsFrom a b (d.rank - 1) d.base

/-- Whether the block of an outer index has a byte in [a, b). -/
def Desc.blockMeets (d : Desc) (a b i : Nat) : Bool :=
  let start := d.base + i * d.stride (d.rank - 1)
  if d.rank ≤ 1 then start < b && a < start + d.stride 0 else d.meetsFrom a b (d.rank - 2) start

/-- The outer indices whose blocks have a byte in [a, b), which are consecutive: every block that starts within the range has
one, and only the block before them must be tested (R269). -/
def Desc.spanIn (d : Desc) (a b : Nat) : Option (Nat × Nat) :=
  if b ≤ max a d.base || d.endByte ≤ a then none
  else
    let st := d.stride (d.rank - 1)
    let first := (a - d.base) / st
    let lo := if d.blockMeets a b first then first else first + 1
    let hi := min ((b - 1 - d.base) / st + 1) d.outerExt
    if lo < hi then some (lo, hi) else none

/-- The runs of contiguous bytes of blocks of a dimension: first byte and length. -/
def Desc.runsOf (d : Desc) : Nat → Nat → Nat → List (Nat × Nat)
  | 0, start, n => [(start, n * d.stride 0)]
  | k + 1, start, n => (List.range n).flatMap (fun i => d.runsOf k (start + i * d.stride (k + 1)) (d.extent k))

/-- The runs of the outer indices from `lo` to `hi`. -/
def Desc.runs (d : Desc) (lo hi : Nat) : List (Nat × Nat) :=
  d.runsOf (d.rank - 1) (d.base + lo * d.stride (d.rank - 1)) (hi - lo)

/-- The spans of outer indices of a tile that runs of bytes meet. -/
def Desc.spansOf (d : Desc) (l : List (Nat × Nat)) : List (Nat × Nat) :=
  (l.filterMap (fun r => d.spanIn r.1 (r.1 + r.2))).eraseDups

/-- The home slice of a region (R265). -/
def homeOf (asid : BitVec 16) (r : Nat) : Nat :=
  (asid.toNat % 256) ^^^ (asid.toNat / 256) ^^^ (r % 256) ^^^ (r / 256 % 256) ^^^ (r / 65536 % 256)
    ^^^ (r / 2 ^ 24 % 256) ^^^ (r / 2 ^ 32 % 32)

/-- Registrations that a home holds (R266). -/
def State.registrations (s : State) (home : Nat) : Nat :=
  (s.dev.tiles.map (fun t => t.regions.countP (fun r => homeOf t.asid r == home))).sum

/-! ### Pieces and kinds (R268-R271) -/

/-- The kind an agent holds on a piece. -/
def Piece.kindOf (p : Piece) (agent : Nat) : Option Tenure := (p.held.find? (fun h => h.1 == agent)).map (fun h => h.2)

/-- The kind an agent holds set or ended. -/
def Piece.setKind (p : Piece) (agent : Nat) (k : Option Tenure) : Piece :=
  let rest := p.held.filter (fun h => h.1 != agent)
  { p with held := match k with
    | some k => rest ++ [(agent, k)]
    | none => rest }

/-- Whether a piece meets spans of outer indices. -/
def Piece.meets (p : Piece) (spans : List (Nat × Nat)) : Bool := spans.any (fun r => p.lo < r.2 && r.1 < p.hi)

/-- The span of the indices of a piece that spans meet (R268). -/
def Piece.within (p : Piece) (spans : List (Nat × Nat)) : Nat × Nat :=
  let l := spans.filter (fun r => p.lo < r.2 && r.1 < p.hi)
  (l.foldl (fun m r => min m (max p.lo r.1)) p.hi, l.foldl (fun m r => max m (min p.hi r.2)) p.lo)

/-- A kind covers a need (R270): S or W a load, W a store, A or W an accumulating atomic. -/
def Tenure.covers (k need : Tenure) : Bool := k == .w || k == need

/-- What a home does to a held kind for a requested one (R271): none where it is kept. -/
inductive Recall where
  | recall | downgrade | combine
deriving DecidableEq, Repr

def recallFor (held req : Tenure) : Option Recall :=
  match held, req with
  | .s, .s => none
  | .s, _ => some .recall
  | .w, .s => some .downgrade
  | .w, _ => some .recall
  | .a, .a => none
  | .a, _ => some .combine

/-- A piece cut at a range, where its tile may split and stays within 16 pieces (R268). -/
def TileObj.cutPiece (t : TileObj) (p : Piece) (a b : Nat) : TileObj :=
  let l := max p.lo a
  let h := min p.hi b
  let parts := ([{ p with hi := l }, { p with lo := l, hi := h }, { p with lo := h }] : List Piece).filter
    (fun q => q.lo < q.hi)
  if t.desc.split && t.pieces.length - 1 + parts.length ≤ 16 then
    { t with pieces := t.pieces.flatMap (fun q => if q.lo = p.lo then parts else [q]) }
  else t

/-- The pieces of a tile that meet spans. -/
def TileObj.meeting (t : TileObj) (spans : List (Nat × Nat)) : List Piece := t.pieces.filter (fun p => p.meets spans)

/-- Whether a grant would change what the agent holds on some piece (R271). -/
def Piece.wants (p : Piece) (agent : Nat) (k : Tenure) : Bool :=
  !(p.kindOf agent == some k || (k == .s && (p.kindOf agent).isSome))

/-- The first holder that a request must act on, its piece and what is done: another agent in conflict (R271), or the asker's
own A for another kind (R276). Nothing is done on a piece on which a request that is to be granted is satisfied already. -/
def TileObj.conflict (t : TileObj) (agent : Nat) (k : Tenure) (grant : Bool) (spans : List (Nat × Nat)) :
    Option (Piece × Nat × Recall) :=
  (t.meeting spans).findSome? (fun p =>
    p.held.findSome? (fun h =>
      if grant && !p.wants agent k then none
      else if h.1 = agent then (if h.2 = .a && k != .a then some (p, h.1, Recall.combine) else none)
      else (recallFor h.2 k).map (fun r => (p, h.1, r))))

/-- The kind granted on spans: pieces met in part are cut first (R268, R271). That a grant which meets no conflict cuts them too is
the model's choice (DEDUCED, log entry 77). -/
def TileObj.grant (t : TileObj) (agent : Nat) (k : Tenure) (spans : List (Nat × Nat)) : TileObj :=
  let t := ((t.meeting spans).filter (fun p => p.wants agent k)).foldl
    (fun t p => t.cutPiece p (p.within spans).1 (p.within spans).2) t
  { t with
    pieces := t.pieces.map (fun p => if p.meets spans && p.wants agent k then p.setKind agent (some k) else p) }

/-- Whether an agent holds covering tenure on every piece that spans meet (R273). -/
def TileObj.coveredBy (t : TileObj) (agent : Nat) (need : Tenure) (spans : List (Nat × Nat)) : Bool :=
  (t.meeting spans).all (fun p => match p.kindOf agent with
    | some k => k.covers need
    | none => false)

/-- The tile of a handle's index. -/
def State.tile (s : State) (asid : BitVec 16) (index : Nat) : Option TileObj :=
  s.dev.tiles.find? (fun t => t.asid == asid && t.index == index)

/-- A tile replaced in the device. -/
def Dev.putTile (d : Dev) (t : TileObj) : Dev :=
  { d with tiles := d.tiles.map (fun u => if u.asid = t.asid && u.index = t.index then t else u) }

/-- The intent of a team at an agent (R270). -/
def State.intent (s : State) (t : TileObj) (agent tid : Nat) : Option Tenure :=
  (s.dev.intents.find? (fun i => i.asid == t.asid && i.index == t.index && i.agent == agent && i.tid == tid)).map
    (fun i => i.kind)

/-- The tiles that hold bytes of a range, with the outer indices met (R269). -/
def State.touching (s : State) (asid : BitVec 16) (va n : Nat) : List (TileObj × Nat × Nat) :=
  s.dev.tiles.filterMap (fun t =>
    if t.asid = asid then (t.desc.spanIn va (va + n)).map (fun r => (t, r.1, r.2)) else none)

/-- The other tiles of an address space that hold bytes of the outer indices of a tile, with the spans met (R269). -/
def State.overlapping (s : State) (t : TileObj) (spans : List (Nat × Nat)) : List (TileObj × List (Nat × Nat)) :=
  let others := s.dev.tiles.filter (fun u =>
    u.asid == t.asid && u.index != t.index && u.desc.base < t.desc.endByte && t.desc.base < u.desc.endByte)
  (others.map (fun u => (u, u.desc.spansOf (spans.flatMap (fun r => t.desc.runs r.1 r.2))))).filter (fun e => !e.2.isEmpty)

/-! ### Recalls and combines (R272, R276) -/

/-- The device page behind a virtual address, whatever its permissions; none if there is none. -/
def State.devicePage (s : State) (asid : BitVec 16) (va : Nat) : Option Nat :=
  if asid = 0#16 then (if va < dramEnd then some (va / 4096) else none)
  else
    match s.walk asid va with
    | some e => if e.hostLeaf then none else some (e.key va / 4096)
    | none => none

/-- Whether a line of device memory holds bytes of a tile's outer indices from `lo` to `hi`. -/
def State.tileLine (s : State) (asid : BitVec 16) (d : Desc) (lo hi line : Nat) : Bool :=
  (d.regions lo hi).any (fun r =>
    (List.range 128).any (fun i =>
      let va := r * 2 ^ 19 + i * 4096
      let lva := va + line * 128 % 4096
      s.devicePage asid va == some (line * 128 / 4096) && (match d.spanIn lva (lva + 128) with
        | some (a, b) => a < hi && lo < b
        | none => false)))

/-- The lines of which a yard's lean L1s hold copies. -/
def State.l1Lines (s : State) (y : Nat) : List Nat :=
  ((s.cores.filter (fun c => c.1.1 == y)).flatMap (fun c => c.2.l1.map (fun l => l.line))).eraseDups

/-- A line's copies leave a yard's lean L1s. -/
def dropL1Line (y line : Nat) : Act Unit := do
  let s ← getS
  forAll (s.l1Holders y line) (fun k => modifyCore k (fun c => { c with l1 := c.l1.filter (fun l => l.line != line) }))

/-- Whether a cached line is of a piece of a tile. -/
def TileObj.hasLine (t : TileObj) (lo hi : Nat) (tva : Option (BitVec 16 × Nat)) : Bool :=
  match tva with
  | some (a, vl) => a == t.asid && (match t.desc.spanIn (vl * 128) (vl * 128 + 128) with
    | some (x, y) => x < hi && lo < y
    | none => false)
  | none => false

/-- A holder's dirty lines of a piece written back (R272). -/
def cleanPieceLines (t : TileObj) (agent lo hi : Nat) : Act Unit := do
  let s ← getS
  if agent < 64 then
    writeBackTiled agent false (((s.yard agent).lines.filter (fun l => t.hasLine lo hi l.tva)).map (fun l => l.line))
  else if agent < 128 then
    writeBackTiled (agent - 64) false (((s.yard (agent - 64)).heavy.privCache.filter (fun l => t.hasLine lo hi l.tva)).map (fun l => l.line))
  else pure ()

/-- A holder's cached lines of a piece written back and invalidated, for a yard in its lean L1s too (R272). -/
def dropPieceLines (t : TileObj) (agent lo hi : Nat) : Act Unit := do
  cleanPieceLines t agent lo hi
  let s ← getS
  let hit := t.hasLine lo hi
  if agent < 64 then do
    modifyYard agent (fun Y => { Y with lines := Y.lines.filter (fun l => !hit l.tva) })
    forAll ((s.l1Lines agent).filter (fun l => s.tileLine t.asid t.desc lo hi l)) (fun l => dropL1Line agent l)
  else if agent < 128 then
    modifyHeavy (agent - 64) (fun H => { H with privCache := H.privCache.filter (fun l => !hit l.tva) })
  else pure ()

/-- The outer index of the tile's first byte in a partial element (R275). -/
def Partial.outer (p : Partial) (d : Desc) : Option Nat := (List.range p.width).findSome? (fun i => d.outer (p.va + i))

/-- A combine of a piece (R276): partials of its elements in the order of agents, whose partial lines go; then every A on it
ends. -/
def combinePiece (t : TileObj) (lo hi : Nat) : Act Unit := do
  let s ← getS
  let mine := s.dev.partials.filter (fun p => p.asid == t.asid && p.index == t.index && (match p.outer t.desc with
    | some o => lo ≤ o && o < hi
    | none => false))
  combineAll mine
  let s ← getS
  match s.tile t.asid t.index with
  | some u =>
    modifyDev (fun d => d.putTile
      { u with
        pieces := u.pieces.map (fun p =>
          if p.lo = lo && p.hi = hi then { p with held := p.held.filter (fun h => h.2 != .a) } else p) })
  | none => pure ()

/-- A home acts on one holder of a piece, which is cut first to the span that the request meets (R268, R271, R272). -/
def recallPiece (t : TileObj) (p : Piece) (holder : Nat) (r : Recall) (spans : List (Nat × Nat)) : Act Unit := do
  let (lo, hi) := p.within spans
  let t' := t.cutPiece p lo hi
  modifyDev (fun d => d.putTile t')
  match t'.pieces.find? (fun q => q.lo ≤ lo && lo < q.hi) with
  | none => pure ()
  | some q =>
    match r with
    | .combine => combinePiece t' q.lo q.hi
    | .downgrade => do
      cleanPieceLines t' holder q.lo q.hi
      modifyDev (fun d => d.putTile
        { t' with pieces := t'.pieces.map (fun x => if x.lo = q.lo then x.setKind holder (some .s) else x) })
    | .recall => do
      dropPieceLines t' holder q.lo q.hi
      modifyDev (fun d => d.putTile
        { t' with pieces := t'.pieces.map (fun x => if x.lo = q.lo then x.setKind holder none else x) })

/-- Every piece combined and every tenure recalled (R277 steps 1 and 2, R286). -/
def recallAll (t : TileObj) : Act Unit := do
  forAll t.pieces (fun p => combinePiece t p.lo p.hi)
  let s ← getS
  match s.tile t.asid t.index with
  | none => pure ()
  | some u => do
    forAll u.pieces (fun p => forAll p.held (fun h => dropPieceLines u h.1 p.lo p.hi))
    modifyDev (fun d => d.putTile { u with pieces := u.pieces.map (fun p => { p with held := [] }) })

/-! ### Untiled copies of a tile's lines (R267) -/

/-- The lines of which a yard has copies, in its domain or in its lean L1s. -/
def State.copyLines (s : State) (y : Nat) : List Nat :=
  (((s.yard y).domain.map (fun l => l.line)) ++ s.l1Lines y).eraseDups

/-- Every agent writes back and drops its untiled copies of the lines that a test names (R267, R306). -/
def drainLines (test : Nat → Bool) : Act Unit := do
  let s ← getS
  forAll s.yardList (fun y => forAll ((s.copyLines y).filter test) (fun line => dropLine y line))

/-- Every agent, the copy engines with the source lines they hold among them, writes back and drops its untiled copies of a tile's
lines (R260, R267). -/
def drainTile (asid : BitVec 16) (d : Desc) : Act Unit := do
  let s ← getS
  drainLines (fun line => isDram (line * 128) && s.tileLine asid d 0 d.outerExt line)
  modifyDev (fun v =>
    { v with
      engines := v.engines.map (fun e => (e.1, { e.2 with queue := e.2.queue.map (fun t => match t.line with
        | some l => if isDram (l.1 * 128) && s.tileLine asid d 0 d.outerExt l.1 then { t with line := none } else t
        | none => t) })) })

/-! ### Handles (R262-R264) -/

/-- K.HTBASE and K.HTFREE of an address space; a space the supervisor has not made has their reset values. -/
def State.spaceOf (s : State) (asid : BitVec 16) : Space := (s.space asid).getD ⟨asid, 0, 0, 0, 0, 0⟩

def Space.log2n (x : Space) : Nat := x.htbase.toNat % 32
def Space.entryVa (x : Space) (i : Nat) : Word := (x.htbase.extractLsb' 12 44 ++ 0#12).setWidth 64 + BitVec.ofNat 64 (128 * i)
def Space.head (x : Space) : Nat := x.htfree.toNat % 2 ^ 20
def Space.tail (x : Space) : Nat := x.htfree.toNat / 2 ^ 20 % 2 ^ 20
def Space.count (x : Space) : Nat := x.htfree.toNat / 2 ^ 40 % 2 ^ 21

/-- K.HTFREE from its fields. -/
def htfreeOf (head tail count : Nat) : Word := BitVec.ofNat 64 (head % 2 ^ 20 + tail % 2 ^ 20 * 2 ^ 20 + count * 2 ^ 40)

/-- An address space changed. -/
def Dev.putSpace (d : Dev) (x : Space) : Dev :=
  if d.spaces.any (fun y => y.asid == x.asid) then
    { d with spaces := d.spaces.map (fun y => if y.asid = x.asid then x else y) }
  else { d with spaces := d.spaces ++ [x] }

/-- The key of a table entry, translated as a supervisor access of its address space (R263). -/
def entryKey (w : Who) (i : Nat) (k : Access) : Act Nat := do
  let s ← getS
  let segs ← translateRange { w with sup := true } ((s.spaceOf w.asid).entryVa i) 128 k
  return (segs.head?.map (fun g => g.1)).getD 0

/-- GEN and NEXT of an entry. -/
def State.entryGen (s : State) (key : Nat) : Nat := leValue (s.mem.readBytes (key + 68) 2) % 4096
def State.entryNext (s : State) (key : Nat) : Nat := leValue (s.mem.readBytes (key + 64) 4) % 2 ^ 20

/-- CheckHandle (R263). -/
def checkHandle (w : Who) (h : Word) : Act TileObj := do
  let s ← getS
  let i := h.toNat % 2 ^ 20
  let g := h.toNat / 2 ^ 20 % 4096
  let n := (s.spaceOf w.asid).log2n
  if i = 0 || 20 < n || 2 ^ n ≤ i then raise 0x19 0
  else do
    let key ← entryKey w i .load
    let s ← getS
    if g ≠ s.entryGen key then raise 0x18 0
    else
      match s.tile w.asid i with
      | some t => return t
      | none => raise 0x19 0

/-- The range word of R281: outer indices and agent. -/
def rangeOf (p : Pos) (t : TileObj) (r : Word) : Act (Nat × Nat × Nat) :=
  let first := (r.extractLsb' 32 16).toNat
  let count := (r.extractLsb' 48 16).toNat
  let e := t.desc.outerExt
  let agent := if r.getLsbD 0 then 64 + p.yidx else agentOf p
  if e ≤ first || (count ≠ 0 && e < first + count) then
    raise 0x1A (BitVec.ofNat 64 (t.desc.base + first * t.desc.stride (t.desc.rank - 1)))
  else return (first, if count = 0 then e else first + count, agent)

/-- An entry appended to the free list, its GEN one higher (R264). Writes that cannot be made are left out. -/
def freeEntry (w : Who) (i : Nat) (key : Nat) (tailKey : Option Nat) : Act Unit := do
  let s ← getS
  let x := s.spaceOf w.asid
  emit (.mem (key + 68) (leBytes 2 ((s.entryGen key + 1) % 4096)))
  emit (.mem (key + 64) (leBytes 4 0))
  match tailKey with
  | some k => emit (.mem (k + 64) (leBytes 4 i))
  | none => pure ()
  modifyDev (fun d => d.putSpace
    { x with htfree := htfreeOf (if x.count = 0 then i else x.head) i (x.count + 1) })

/-- A tile gone from every home: its registrations, the intents on it, those of saved teams too, and the requests that wait for
it, whose accesses are made anew (R277). -/
def Dev.removeTile (d : Dev) (t : TileObj) : Dev :=
  let mine := fun (i : Intent) => i.asid == t.asid && i.index == t.index
  { d with
    tiles := d.tiles.filter (fun u => !(u.asid == t.asid && u.index == t.index))
    intents := d.intents.filter (fun i => !mine i)
    saved := d.saved.map (fun v => { v with intents := v.intents.filter (fun i => !mine i) })
    tenReqs := d.tenReqs.filter (fun r => !(r.asid == t.asid && r.index == t.index)) }

/-- The end of a tile whose table entry was translated (R277). -/
def closeTile (w : Who) (t : TileObj) (key : Nat) (tailKey : Option Nat) : Act Unit := do
  recallAll t
  drainTile t.asid t.desc
  modifyDev (fun d => d.removeTile t)
  freeEntry w t.index key tailKey

/-- The entry that a close writes, and the one at TAIL where the list has one, translated; then the close. -/
def translateAndClose (w : Who) (t : TileObj) : Act Unit := do
  let key ← entryKey w t.index .store
  let s ← getS
  let x := s.spaceOf t.asid
  if x.count = 0 then closeTile w t key none
  else do
    let k ← entryKey w x.tail .store
    closeTile w t key (some k)

/-- A tile closed on the device's own behalf (R278, R361). Where the translation of its entry waits, the tile closes when that
has ended; an entry that cannot be written is left as it stands (DESIGN CHOICE, log entry 58). -/
def closeTileQuietly (t : TileObj) : Act Unit := do
  let s ← getS
  let y := ((s.team t.owner).map (fun m => m.yidx)).getD 0
  let w : Who := { pos := supPos y, asid := t.asid, sup := true, tid := 0, heavy := true, asker := .tile t.asid t.index }
  fun r =>
    match translateAndClose w t r with
    | .ok x => .ok x
    | .error (.suspend _ effs) =>
      (do
        emitAll effs
        modifyDev (fun d => d.putTile { t with closing := true })) r
    | .error _ =>
      (do
        recallAll t
        drainTile t.asid t.desc
        modifyDev (fun d => d.removeTile t)) r

/-- The tiles that wait to be closed are closed where their entries have been translated (R278). -/
def retryClosings : Act Unit := do
  let s ← getS
  forAll (s.dev.tiles.filter (fun t =>
      t.closing && !s.yardList.any (fun y => s.awaits y (.tile t.asid t.index)))) (fun t => do
    let s ← getS
    match s.tile t.asid t.index with
    | some u => closeTileQuietly u
    | none => pure ())

/-! ### Requests (R271-R274) -/

/-- The requests of an asker of a slot. -/
def State.reqsOf (s : State) (p : Pos) (b : ReqBy) : List TenReq := s.dev.tenReqs.filter (fun r => r.pos == p && r.by_ == b)

/-- An asker's requests dropped. -/
def Dev.dropReqs (d : Dev) (p : Pos) (b : ReqBy) : Dev :=
  { d with tenReqs := d.tenReqs.filter (fun r => !(r.pos == p && r.by_ == b)) }

/-- How an access meets tenure (R270, R273, R274). -/
inductive TenWay where
  | untiled
  | covered
  | partials
  | uncovered

/-- What an access or a TACQ asks of one tile: the kind, the outer indices, and whether it is granted. -/
structure TenAsk where
  tile : TileObj
  kind : Tenure
  spans : List (Nat × Nat)
  grant : Bool

/-- Whether another asker's request for a tile still waits: those of one registration are served in order (R272 step 2). -/
def State.queuedOn (s : State) (p : Pos) (b : ReqBy) (t : TileObj) : Bool :=
  s.dev.tenReqs.any (fun r => !r.done && r.asid == t.asid && r.index == t.index && !(r.pos == p && r.by_ == b))

/-- Whether a list of asks can be met now: nothing stands against them, and no other request is ahead unless their turn has
come. -/
def State.meetable (s : State) (p : Pos) (b : ReqBy) (agent : Nat) (served : Bool) (l : List TenAsk) : Bool :=
  l.all (fun a => (a.tile.conflict agent a.kind a.grant a.spans).isNone && (served || !s.queuedOn p b a.tile))

/-- The grants of a list of asks. -/
def Dev.grantAll (d : Dev) (agent : Nat) (l : List TenAsk) : Dev :=
  l.foldl (fun d a =>
    if a.grant then
      { d with
        tiles := d.tiles.map (fun u =>
          if u.asid = a.tile.asid && u.index = a.tile.index then u.grant agent a.kind a.spans else u) }
    else d) d

/-- The requests of a list of asks. -/
def askFor (p : Pos) (b : ReqBy) (va agent : Nat) (l : List TenAsk) : List TenReq :=
  l.map (fun a => ⟨p, b, va, agent, a.tile.asid, a.tile.index, a.kind, a.spans, a.grant, false⟩)

/-- What an agent asks again of a tile that an access needs (R270, R274): the kind of its intent where that permits the access,
or, holding S, the kind the access needs: that it does so without an intent is R270's table, where R274 would have the access
uncovered (DEDUCED, log entry 78). It does not ask again where it holds A: such an access is handled as uncovered (R270). -/
def State.reasks (s : State) (t : TileObj) (agent tid : Nat) (need : Tenure) (spans : List (Nat × Nat)) : Option Tenure :=
  let short := (t.meeting spans).filter (fun p => !(match p.kindOf agent with
    | some k => k.covers need
    | none => false))
  let fromS := need != .s && short.all (fun p => p.kindOf agent == some .s)
  if short.any (fun p => p.kindOf agent == some .a) then none
  else match s.intent t agent tid with
  | some k => if k.covers need then some k else if fromS then some need else none
  | none => if fromS then some need else none

/-- What an access of an agent to a byte range asks of the open tiles (R269, R273, R274), and whether it is uncovered: of a
tile whose kind it asks again, whole pieces, and of the tiles that overlap those; where some tiled byte stays without
covering tenure, of every tile it touches as for S or W. A `plain` access is uncovered (R317). -/
def State.tenPlan (s : State) (agent tid : Nat) (asid : BitVec 16) (va n : Nat) (need : Tenure) (plain : Bool) :
    List TenAsk × Bool :=
  let touch := s.touching asid va n
  let again := if plain then [] else touch.filterMap (fun e =>
    if e.1.coveredBy agent need [e.2] then none
    else (s.reasks e.1 agent tid need [e.2]).map (fun k =>
      (⟨e.1, k, ((e.1.meeting [e.2]).filter (fun p => !(match p.kindOf agent with
        | some h => h.covers need
        | none => false))).map (fun p => (p.lo, p.hi)), true⟩ : TenAsk)))
  let beside := again.flatMap (fun a => (s.overlapping a.tile a.spans).map (fun e => (⟨e.1, a.kind, e.2, false⟩ : TenAsk)))
  let good := touch.filter (fun e =>
    e.1.coveredBy agent need [e.2] || again.any (fun a => a.tile.asid == e.1.asid && a.tile.index == e.1.index))
  let covered := !plain && (List.range n).all (fun i =>
    !touch.any (fun e => (e.1.desc.outer (va + i)).isSome) || good.any (fun e => (e.1.desc.outer (va + i)).isSome))
  let rest := if covered then [] else
    touch.map (fun e => (⟨e.1, if need = .s then .s else .w, [e.2], false⟩ : TenAsk))
  (again ++ beside ++ rest, !covered)

/-- The tile into whose partial an accumulating atomic of an agent on a byte range goes: one of which the agent holds A there
(R275). -/
def State.partialTile (s : State) (agent : Nat) (asid : BitVec 16) (va n : Nat) : Option TileObj :=
  ((s.touching asid va n).find? (fun e => e.1.coveredBy agent .a [e.2] && !e.1.coveredBy agent .w [e.2])).map (fun e => e.1)

/-- How a covered access meets its tiles: into partials where it accumulates under A (R275). -/
def State.coveredWay (s : State) (agent : Nat) (asid : BitVec 16) (va n : Nat) (need : Tenure) : TenWay :=
  if need == .a && (s.partialTile agent asid va n).isSome then .partials else .covered

/-- An access of an agent meets the open tiles, before it is made: the device with its grants, and its way; or the requests for
which it waits. -/
def State.meetAccess (s : State) (p : Pos) (b : ReqBy) (agent tid : Nat) (asid : BitVec 16) (va n : Nat) (need : Tenure)
    (plain : Bool) : Except (List TenReq) (Dev × TenWay) :=
  let (l, unc) := s.tenPlan agent tid asid va n need plain
  let served := (s.reqsOf p b).any (fun r => r.va == va)
  if (s.touching asid va n).isEmpty then .ok (s.dev, .untiled)
  else if s.meetable p b agent served l then
    let d := s.dev.grantAll agent l
    .ok (d, if unc then .uncovered else { s with dev := d }.coveredWay agent asid va n need)
  else .error (askFor p b va agent l)

/-- Several ranges of one access, in order: the device with the grants, and the ways, or all the requests. -/
def State.meetAll (s : State) (p : Pos) (b : ReqBy) (agent tid : Nat) (asid : BitVec 16) (need : Tenure) (plain : Bool) :
    List (Nat × Nat) → Dev × List TenWay × List TenReq
  | [] => (s.dev, [], [])
  | r :: rest =>
    match s.meetAccess p b agent tid asid r.1 r.2 need plain with
    | .ok (d, way) =>
      let (d', ways, asks) := { s with dev := d }.meetAll p b agent tid asid need plain rest
      (d', way :: ways, asks)
    | .error rs =>
      let (d', ways, asks) := s.meetAll p b agent tid asid need plain rest
      (d', ways, rs ++ asks)

/-- The tenure step of an access of an agent to byte ranges: it waits while its requests are served (R272, R274), and its
grants stand until it is made. -/
def meetTenure (w : Who) (b : ReqBy) (agent : Nat) (rows : List (Nat × Nat)) (need : Tenure) (plain : Bool) : Act (List TenWay) := do
  let s ← getS
  if (s.reqsOf w.pos b).any (fun r => !r.done) then stall
  else do
    let (d, ways, asks) := s.meetAll w.pos b agent w.tid w.asid need plain rows
    let ours := fun (r : TenReq) => r.pos == w.pos && r.by_ == b && rows.any (fun g => g.1 == r.va)
    if asks.isEmpty then do
      emit (.dev { d with tenReqs := d.tenReqs.filter (fun r => !ours r) })
      return ways
    else suspendAs .stalled [.dev { d with tenReqs := d.tenReqs.filter (fun r => !ours r) ++ asks }]

/-- Whether a request comes from a transfer of a copy engine. -/
def ReqBy.isEngine : ReqBy → Bool
  | .engine _ _ => true
  | _ => false

/-- Whether a holder has been granted indices of a tile for an access that is still to come: it completes first (R272 step 4). What an
engine holds for a transfer is recalled between its lines, so that no two transfers wait for each other (R272 step 3; DEDUCED, log
entry 67): others' accesses to its destination wait in any case (R306). -/
def State.graceFor (s : State) (t : TileObj) (p : Piece) (holder : Nat) : Bool :=
  s.dev.tenReqs.any (fun r =>
    r.done && r.grant && !r.by_.isEngine && r.agent == holder && r.asid == t.asid && r.index == t.index && p.meets r.spans)

/-- Whether a grant whose access is still to come stands against asks (R272 step 4). -/
def State.graced (s : State) (agent : Nat) (l : List TenAsk) : Bool :=
  l.any (fun a => (a.tile.meeting a.spans).any (fun p => p.held.any (fun h =>
    h.1 != agent && (recallFor h.2 a.kind).isSome && s.graceFor a.tile p h.1)))

/-- The homes act at once on what stands against asks (R272 step 3, R273), one holder after another. -/
def recallAsks (agent : Nat) (l : List TenAsk) : Nat → Act Unit
  | 0 => pure ()
  | fuel + 1 => do
    let s ← getS
    match l.findSome? (fun a => (s.tile a.tile.asid a.tile.index).bind (fun t =>
        (t.conflict agent a.kind a.grant a.spans).map (fun c => (a, t, c)))) with
    | none => pure ()
    | some (a, t, p, h, r) => do
      recallPiece t p h r a.spans
      recallAsks agent l fuel

/-- No more recalls than the tiles have holders, whose pieces may be cut in three. -/
def holdersOf (l : List TenAsk) : Nat := (l.map (fun a => 3 * (a.tile.pieces.map (fun p => p.held.length)).sum + 1)).sum

/-- What an uncovered access that no strand makes asks of the tiles it touches (R273). -/
def uncoveredAsks (need : Tenure) (touch : List (TileObj × Nat × Nat)) : List TenAsk :=
  touch.map (fun e => ⟨e.1, need, [e.2], false⟩)

/-- The number under which accesses of the host and of other devices stand among the agents, which they are not (R260). -/
def outsideAgent : Nat := 192

/-- Tiles that hold bytes of a short range of device memory, through any address space (R273). -/
def State.touchingKey (s : State) (key n : Nat) : List (TileObj × Nat × Nat) :=
  s.dev.tiles.flatMap (fun t => t.regions.flatMap (fun r =>
    (List.range 128).filterMap (fun i =>
      let va := r * 2 ^ 19 + i * 4096
      if s.devicePage t.asid va = some (key / 4096) then
        (t.desc.spanIn (va + key % 4096) (va + key % 4096 + n)).map (fun q => (t, q.1, q.2))
      else none)))

/-- The homes act on the tiled bytes of a short range as for an uncovered access of an agent (R273). -/
def meetOutside (agent key n : Nat) (need : Tenure) : Act Unit := do
  let s ← getS
  let l := uncoveredAsks need (s.touchingKey key n)
  recallAsks agent l (holdersOf l)

end Sys2Proof.Machine
end

