-- ==== Sys2Proof/Machine/Access.lean ====
section
/-! DEFINITION. Accesses to memory: loads, stores and atomics of strands and of work at a heavy core (R252, R291-R307),
with the waits that hold an access back: engine destinations (R306), skewed regions under rearrangement (R234), and an
acquire still outstanding (R291). -/
namespace Sys2Proof.Machine

/-! ### What holds an access back -/

/-- The bytes a transfer writes on this device, and those it reads there, as runs: a put has no destination here, a get no
source (R416, R418). -/
def Transfer.dstRuns (t : Transfer) : List (Nat × Nat) :=
  if t.ctl.extractLsb' 42 2 = 1#2 || t.len = 0 then []
  else match t.dstDesc with
    | some d => d.runs 0 d.outerExt
    | none => [(t.dst.toNat, t.len)]
def Transfer.srcRuns (t : Transfer) : List (Nat × Nat) :=
  if t.ctl.extractLsb' 42 2 = 2#2 || t.len = 0 then []
  else match t.srcDesc with
    | some d => d.runs 0 d.outerExt
    | none => [(t.src.toNat, t.len)]

/-- The pieces of a range that lie in one page each. -/
def pagePieces (va n : Nat) : List (Nat × Nat) :=
  (List.range ((va + n + 4095) / 4096 - va / 4096)).map (fun i =>
    let lo := max va ((va / 4096 + i) * 4096)
    (lo, min (va + n) ((va / 4096 + i + 1) * 4096) - lo))

/-- The key behind an address of an address space, for a team's window too: of a host page, as some TLB has its translation. -/
def State.rangeKey (s : State) (asid : BitVec 16) (tid va : Nat) : Option Nat :=
  if inAperture va then (if va - apertureBase < s.allotment tid then some (s.windowKey tid (va - apertureBase)) else none)
  else
    match s.devicePage asid va with
    | some p => some (p * 4096 + va % 4096)
    | none =>
      ((s.yards.flatMap (fun e => e.2.tlb) ++ s.dev.engines.flatMap (fun e => e.2.tlb)).find?
        (fun e => e.ats && e.maps asid va)).map (fun e => e.key va)

/-- Whether runs of an address space have bytes at keys. -/
def State.runsHit (s : State) (asid : BitVec 16) (tid : Nat) (runs : List (Nat × Nat)) (key n : Nat) : Bool :=
  runs.any (fun r => (pagePieces r.1 r.2).any (fun p => match s.rangeKey asid tid p.1 with
    | some k => k < key + n && key < k + p.2
    | none => false))

/-- Whether a transfer's destination, from its issue to its end, has bytes at keys (R306, R412). -/
def State.locks (s : State) (t : Transfer) (key n : Nat) : Bool := s.runsHit t.asid t.tid t.dstRuns key n

/-- Whether an access to bytes at keys must wait for a copy engine, whoever makes it (R306): queued and running transfers hold
their destinations. -/
def State.engineLocked (s : State) (key n : Nat) : Bool := s.dev.engines.any (fun e => e.2.queue.any (fun t => s.locks t key n))

/-- Whether a transfer's source or destination lies in its team's window. -/
def Transfer.inWindow (t : Transfer) : Bool :=
  let hit := fun (d : Option Desc) (a : Word) => match d with
    | some d => d.meets apertureBase (apertureBase + apertureSize)
    | none => a.toNat < apertureBase + apertureSize && apertureBase < a.toNat + t.len
  let dir := t.ctl.extractLsb' 42 2
  (dir != 1#2 && hit t.dstDesc t.dst) || (dir != 2#2 && hit t.srcDesc t.src)

/-- Whether a transfer under way or queued touches a team's allotment (R402, R415). -/
def State.transferOf (s : State) (tid : Nat) : Bool :=
  s.dev.engines.any (fun e => e.2.queue.any (fun t => t.tid == tid && t.inWindow))

/-- Whether a key of yard memory lies in a skewed region under rearrangement, whose accesses wait whoever makes them (R234). -/
def State.skewBusyKey (s : State) (key n : Nat) : Bool :=
  isYardMem key && s.yards.any (fun e => e.2.skews.any (fun k =>
    k.busyUntil != 0 && (List.range (k.rows * k.pitch / 4096 + 2)).any (fun i =>
      let lo := max (k.base) ((k.base / 4096 + i) * 4096)
      let hi := min (k.base + k.rows * k.pitch) ((k.base / 4096 + i + 1) * 4096)
      lo < hi && s.windowKey k.tid lo < key + n && key < s.windowKey k.tid lo + (hi - lo))))

/-- Whether an access to bytes at keys must wait (R306, R234). -/
def State.keyHeld (s : State) (key n : Nat) : Bool := s.engineLocked key n || s.skewBusyKey key n

/-- An access waits for its bytes (R306, R234). -/
def awaitKeys (segs : List (Nat × Nat)) : Act Unit := do
  let s ← getS
  if segs.any (fun g => s.keyHeld g.1 g.2) then stall else pure ()

/-- Whether an access that no strand makes must wait: for its bytes, or for an access that a grant has been made for (R272
step 4). -/
def State.outsideHeld (s : State) (agent key n : Nat) (need : Tenure) : Bool :=
  s.keyHeld key n || s.graced agent (uncoveredAsks need (s.touchingKey key n))

/-- Whether an acquire of a strand is outstanding: its value or its wait, or the drains that it has asked for (R291, R300). -/
def State.acquiring (s : State) (x : Strand) : Bool :=
  x.pending.any (fun p => p.acq) || x.window.any (fun e => e.acq && !e.done) || s.dev.acquires.any (fun q => q.w.pos == x.pos)

/-- No access issues while an older acquire is outstanding (R291). -/
def awaitAcquires : Act Unit := do
  let s ← getS
  if s.acquiring s.me then stall else pure ()

/-- The store buffer must have drained (R298, R301, R310). -/
def awaitStores : Act Unit := do
  let x ← getMe
  if x.storeBuf.isEmpty then pure () else stall

/-! ### Loads -/

/-- Order of a load or store: relaxed, or at a scope (R293). -/
abbrev Order := Option (BitVec 2)

/-- The strand in the focus as the caches see it, with an access's class. -/
def Strand.toucher (x : Strand) (nu : BitVec 5) : Toucher := ⟨x.pos, x.tid, x.modes.tenant, nu, x.modes.nudef, x.pos.heavy, none, none⟩

/-- Keys of a range, byte by byte. -/
def segKeys (segs : List (Nat × Nat)) : List Nat := segs.flatMap (fun g => (List.range g.2).map (fun i => g.1 + i))

/-- Whether a byte of an address space, at a key, is tiled: bytes in host memory and in yard memory never are (R267, R223). -/
def State.tiledByte (s : State) (asid : BitVec 16) (va key : Nat) : Bool :=
  isDram key && s.dev.tiles.any (fun t => t.asid == asid && (t.desc.outer va).isSome)

/-- A segment of an access: its key, its virtual address, its length, and how its bytes meet tiles. -/
structure Seg where
  key : Nat
  va : Nat
  n : Nat
  way : TenWay

/-- Whether a segment meets tiles. -/
def Seg.meets (g : Seg) : Bool := match g.way with
  | .untiled => false
  | _ => true

/-- Whether a segment's tiled bytes are accessed uncovered. -/
def Seg.uncovered (g : Seg) : Bool := match g.way with
  | .uncovered => true
  | _ => false

/-- Whether the byte of a segment at a key is tiled. -/
def State.tiledIn (s : State) (asid : BitVec 16) (g : Seg) (k : Nat) : Bool :=
  g.meets && s.tiledByte asid (g.va + (k - g.key)) k

/-- Keys and lengths with the virtual address of each. -/
def placeSegs : Nat → List (Nat × Nat) → List (Nat × Nat × Nat)
  | _, [] => []
  | va, g :: rest => (g.1, va, g.2) :: placeSegs (va + g.2) rest

/-- Touches of a segment: one for each run of tiled or untiled bytes of each line, with the virtual line of tiled bytes. -/
def State.segTouches (s : State) (w : Toucher) (asid : BitVec 16) (atSlice : Bool) (g : Seg) : List Touch :=
  (lineRuns g.meets (s.tiledIn asid g) g.key (List.replicate g.n 0)).map (fun p =>
    .read w p.1 p.2.1.length atSlice (p.2.2 && g.uncovered)
      (if p.2.2 then some (asid, (g.va + (p.1 - g.key)) / 128) else none))

/-- How the segments of an access meet the open tiles (R267, R269). -/
def tileWays (w : Who) (b : ReqBy) (agent : Nat) (va : Nat) (segs : List (Nat × Nat)) (need : Tenure) (plain : Bool) :
    Act (List Seg) := do
  let s ← getS
  let l := placeSegs va segs
  if s.dev.tiles.isEmpty || l.all (fun g => !isDram g.1) then return l.map (fun g => ⟨g.1, g.2.1, g.2.2, .untiled⟩)
  else do
    let ways ← meetTenure w b agent ((l.filter (fun g => isDram g.1)).map (fun g => (g.2.1, g.2.2))) need plain
    let dram := l.filter (fun g => isDram g.1)
    return l.map (fun g => ⟨g.1, g.2.1, g.2.2,
      if isDram g.1 then ways.getD (dram.findIdx (fun h => h == g)) .untiled else .untiled⟩)

/-- The bytes of a segment that a load receives: the strand's own undelivered stores, then the caches or memory (R169, R295,
R296). -/
def State.loadBytes (s : State) (asid : BitVec 16) (atSlice : Bool) (g : Seg) : List Byte :=
  (List.range g.n).map (fun i =>
    match s.me.ownByte (g.key + i) with
    | some b => b
    | none => if s.tiledIn asid g (g.key + i) then s.mem.read (g.key + i) else s.coreByte s.me.pos atSlice (g.key + i))

/-- A load by the strand in the focus of `n` bytes (R252): translated, permitted, not held back, not poisoned. An
acquire at a scope wider than the yard is performed at the slice (R300). -/
def loadMem (va : Word) (n : Nat) (nu : BitVec 5) (acq : Order) : Act (List Byte) := do
  awaitAcquires
  let x ← getMe
  let segs ← translateRange x.who va n .load
  awaitKeys segs
  let gs ← tileWays x.who .access (agentOf x.pos) va.toNat segs .s false
  let s ← getS
  if s.poisonedAt x.pos.yidx x.pos.heavy segs then raise 0x50 (s.poisonAddr x.pos.yidx x.pos.heavy segs)
  else do
    let atSlice := match acq with
      | some sc => sc != 0#2
      | none => false
    let bs := gs.flatMap (s.loadBytes x.modes.asid atSlice)
    emit (.touches (s.touches ++ gs.flatMap (s.segTouches (x.toucher nu) x.modes.asid atSlice)))
    match acq with
    | some sc => queueTouch (.acquire (x.toucher nu) sc)
    | none => pure ()
    return bs

/-! ### Stores -/

/-- The stores of one access: one for each segment. -/
def storesOf (va : Nat) (segs : List (Nat × Nat)) (bytes : List Byte) (nu nudef : BitVec 5) (rel : Order) : List HeldStore :=
  (placeSegs va segs).map (fun g =>
    { key := g.1, va := BitVec.ofNat 64 g.2.1, bytes := (bytes.drop (g.2.1 - va)).take g.2.2, nu := nu, nudef := nudef,
      rel := rel, mark := none })

/-- Checks of a store by the strand in the focus; its stores, not yet issued (R252, R253). -/
def checkStore (va : Word) (bytes : List Byte) (nu : BitVec 5) (rel : Order) : Act (List HeldStore) := do
  awaitAcquires
  let x ← getMe
  let segs ← translateRange x.who va bytes.length .store
  awaitKeys segs
  return storesOf va.toNat segs bytes nu x.modes.nudef rel

/-- How a store that leaves for memory meets its tiles. -/
def TenWay.ofStore (way : TenWay) (asid : BitVec 16) (va : Nat) : StoreWay :=
  match way with
  | .untiled => .untiled
  | .uncovered => .uncovered
  | _ => .covered (asid, va / 128)

/-- A store that has met its tiles performs. -/
def performMet (w : Toucher) (asid : BitVec 16) (st : HeldStore) (fence : Option (BitVec 32)) (way : TenWay) : Act Unit := do
  let s ← getS
  performStore w st fence (way.ofStore asid st.va.toNat) (fun k => s.tiledByte asid (st.va.toNat + (k - st.key)) k)

/-! ### Atomics (R307, R312) -/

/-- What an atomic leaves at its place, and the old bytes: only the bytes it updates are written (R314). -/
def rmwMem (key : Nat) (op : AtomicOp) : Act (List Byte) := do
  let s ← getS
  let old := s.mem.readBytes key op.size
  match op.apply old with
  | some new =>
    forAll (op.pieces new) (fun p => do
      clearPoison (key + p.1) p.2.length
      emit (.mem (key + p.1) p.2))
  | none => pure ()
  return old

/-- An atomic executed in the yard domain (scope .Y, R307): one access to the cache of the domain. -/
def rmwDomain (w : Toucher) (key : Nat) (op : AtomicOp) : Act (List Byte) := do
  let _ ← cacheTouch w (key / 128) none
  supplyLine w key (BitVec.allOnes 128) false
  let s ← getS
  let old := (List.range op.size).map (fun i => s.cachedByte w.pos.yidx w.heavy (key + i))
  match op.apply old with
  | some new => forAll (op.pieces new) (fun p => writeCache w (key + p.1) p.2)
  | none => pure ()
  return old

/-- Whether an atomic travels to host memory as a PCIe AtomicOp (R307): ADD, SWAP and CAS. -/
def AtomicOp.travels : AtomicOp → Bool
  | .amo op _ _ _ => op == 0#4 || op == 8#4 || op == 9#4
  | .amov _ _ _ => false
  | .amow _ _ => true

/-- An atomic on untiled bytes executes at its point (R307): in the yard domain at scope .Y, else at the slice, where every
atomic on host memory executes too while the function sends no AtomicOp requests, and every one on device memory in the span after a
FENCE (R298), whose epoch is `epoch`. -/
def atomicUntiled (w : Toucher) (key : Nat) (op : AtomicOp) (scope : BitVec 2) (epoch : Option (BitVec 32)) : Act (List Byte) := do
  let y := w.pos.yidx
  let line := key / 128
  let s ← getS
  let ops := (s.func w.tenant.toNat).atomicOps
  if scope = 0#2 && !(isHostMem key && !ops) && (epoch.isNone || isHostMem key) then rmwDomain w key op
  else do
    dropLine y line
    let old ← rmwMem key op
    if isHostMem key && scope = 3#2 && op.travels && ops then pure () else fromSlice w key (.update op.size)
    match epoch with
    | some e => depositRecord line y e
    | none => pure ()
    return old

/-- The lanes of an AMOV for which a test of the element's offset holds; other atomics have one element. -/
def AtomicOp.restrict (o : AtomicOp) (f : Nat → Bool) : AtomicOp :=
  match o with
  | .amov ty _ x =>
    .amov ty (BitVec.ofNat 64 (((o.elements.filter (fun e => f e.1)).map (fun e => 2 ^ (e.1 / atomWidth ty.toNat))).sum)) x
  | o => o

/-- An atomic on tiled bytes (R273, R275): into the agent's partials, in its cache, or at the slice. It leaves no record (R303). Of
an AMOV, each element goes into a partial of the tile whose A covers it, or, under W, is added in place (R270). -/
def atomicTiled (w : Toucher) (agent : Nat) (asid : BitVec 16) (va key : Nat) (op : AtomicOp) (way : TenWay) :
    Act (List Byte) := do
  match way with
  | .uncovered => do
    let old ← rmwMem key op
    sliceTouch w key (.update op.size)
    return old
  | _ => do
    let s ← getS
    let into := fun (e : Nat × Nat × Nat × Nat) =>
      if op.accumulates then s.partialTile agent asid (va + e.1) (atomWidth e.2.2.1) else none
    let parts := op.elements.filterMap (fun e => (into e).map (fun t => (e, t)))
    if parts.isEmpty then do
      let old ← rmwMem key op
      let _ ← cacheTouch w (key / 128) (some (asid, va / 128))
      return old
    else do
      modifyDev (fun d =>
        { d with
          partials := parts.foldl (fun l p =>
            partialsAdd l agent asid p.2.index (key + p.1.1) (va + p.1.1) p.1.2.1 p.1.2.2.1 p.1.2.2.2) d.partials })
      let _ ← (if parts.length = op.elements.length then return []
        else rmwMem key (op.restrict (fun i => !parts.any (fun p => p.1.1 == i))))
      let _ ← cacheTouch w (key / 128) (some (asid, va / 128))
      return []

/-- The atomic update of bytes at a key, at the point of R307. `rel`: it is a release; `way` tells how the bytes lie to tiles,
`agent` who executes it. An AMOV of which some lanes are tiled acts on those as tiled and on the others as untiled (R267). -/
def atomicAt (w : Toucher) (agent : Nat) (asid : BitVec 16) (va key : Nat) (op : AtomicOp) (scope : BitVec 2) (rel : Bool)
    (way : TenWay) (fence : Option (BitVec 32)) : Act (List Byte) := do
  let y := w.pos.yidx
  let wide := scope != 0#2
  if isYardMem key then rmwMem key op
  else do
    if scope = 3#2 then writeBackAll y true else pure ()
    let epoch ← (if rel && wide then do
      let e ← closeEpoch y
      return some e
    else return fence)
    match way with
    | .untiled => atomicUntiled w key op scope epoch
    | way => do
      releaseTiled y epoch true
      let s ← getS
      let tiled := fun (i : Nat) => s.tiledByte asid (va + i) (key + i)
      match op with
      | .amov _ _ _ =>
        let plain := op.restrict (fun i => !tiled i)
        if plain.elements.isEmpty then pure ()
        else do
          let _ ← atomicUntiled w key plain scope epoch
        atomicTiled w agent asid va key (op.restrict tiled) way
      | _ => atomicTiled w agent asid va key op way

/-- A release ends the span after a FENCE (R298). -/
def endFence : Act Unit := do
  let x ← getMe
  match x.fenceRel with
  | some _ => emit (.strand { x with fenceRel := none })
  | none => pure ()

/-- The epoch of the span after a FENCE, if the strand stands in one (R298). -/
def Strand.fenceEpoch (x : Strand) : Option (BitVec 32) := x.fenceRel.map (fun f => f.2)

/-- The way of an access that may touch several ranges of bytes: untiled where all are, and uncovered where one is (R269, R273). -/
def wayOf (l : List Seg) : TenWay :=
  match l.filter Seg.meets with
  | [] => .untiled
  | g :: rest => if (g :: rest).any Seg.uncovered then .uncovered else g.way

/-- How the ranges of bytes that an atomic touches meet the open tiles, by offset from its address and key (R269, R314). -/
def atomicWay (w : Who) (b : ReqBy) (agent va key : Nat) (spans : List (Nat × Nat)) (need : Tenure) (plain : Bool) : Act TenWay := do
  let s ← getS
  if s.dev.tiles.isEmpty || !isDram key then return .untiled
  else do
    let ways ← meetTenure w b agent (spans.map (fun p => (va + p.1, p.2))) need plain
    return wayOf (ways.map (fun way => ⟨key, va, 0, way⟩))

/-- Translation and waits of an atomic by the strand in the focus, which touches ranges of its `n` bytes by offset: its key and how
it meets tiles. -/
def checkAtomic (va : Word) (n : Nat) (spans : List (Nat × Nat)) (k : Access) (accum plain : Bool) : Act (Nat × TenWay) := do
  awaitAcquires
  let x ← getMe
  awaitStores
  let segs ← translateRange x.who va n k
  let key := (segs.head?.map (fun g => g.1)).getD 0
  let bytes := spans.map (fun p => (key + p.1, p.2))
  awaitKeys bytes
  let need : Tenure := if accum then .a else if k = .load then .s else .w
  let way ← atomicWay x.who .access (agentOf x.pos) va.toNat key spans need plain
  let s ← getS
  if s.poisonedAt x.pos.yidx x.pos.heavy bytes then raise 0x50 (s.poisonAddr x.pos.yidx x.pos.heavy bytes)
  else return (key, way)

end Sys2Proof.Machine
end

