-- ==== Sys2Proof/Machine/Counter.lean ====
section
/-! DEFINITION. Counters, triggers, watches and sheaves (R317-R342), and the host event rings (R423). -/
namespace Sys2Proof.Machine

/-! ### Watches and triggers -/

/-- The largest 64-bit value. -/
def maxU64 : Nat := 2 ^ 64 - 1

/-- A yard's watches on a key woken, and its triggers at or below a value fired (R320, R324). -/
def Yard.evaluate (Y : Yard) (key v : Nat) : Yard :=
  let hits := Y.triggers.filter (fun t => !t.fired && t.key == key && t.target.toNat ≤ v)
  { Y with
    watches := Y.watches.map (fun w => if w.key = key then { w with woken := true } else w)
    triggers := Y.triggers.map (fun t => if !t.fired && t.key = key && t.target.toNat ≤ v then { t with fired := true } else t)
    actq := Y.actq ++ hits.map (fun t => ⟨t.tid, .trigger t.entry t.arg (isYardMem t.key) t.token, 0⟩) }

/-- Whether a yard has a watch or trigger on a key. -/
def Yard.listens (Y : Yard) (key : Nat) : Bool :=
  Y.watches.any (fun w => w.key == key) || Y.triggers.any (fun t => t.key == key)

/-- The watches on a key woken in every yard. -/
def wakeKey (key : Nat) : Act Unit := do
  let s ← getS
  forAll (s.yards.filter (fun e => e.2.watches.any (fun w => w.key == key))) (fun e =>
    modifyYard e.1 (fun Y =>
      { Y with watches := Y.watches.map (fun w => if w.key = key then { w with woken := true } else w) }))

/-- A new value of a counter sent to every yard that listens (R320, R324). -/
def evaluateKey (key v : Nat) : Act Unit := do
  let s ← getS
  forAll (s.yards.filter (fun e => e.2.listens key)) (fun e => modifyYard e.1 (fun Y => Y.evaluate key v))

/-- A counter add (R318): the old value, and whether the sum saturated. -/
def counterAdd (key : Nat) (v : Word) : Act (Word × Bool) := do
  let s ← getS
  let old := leValue (s.mem.readBytes key 8)
  let new := min (old + v.toNat) maxU64
  emit (.mem key (leBytes 8 new))
  evaluateKey key new
  return (BitVec.ofNat 64 old, maxU64 < old + v.toNat)

/-- The counter at a key (R317). -/
def State.counter (s : State) (key : Nat) : Nat := leValue (s.mem.readBytes key 8)

/-- A strand's watch entry, taken when there is room (R320). -/
def Yard.watch (Y : Yard) (p : Pos) (key : Nat) : Yard :=
  if Y.watches.any (fun w => w.pos == p) then
    { Y with watches := Y.watches.map (fun w => if w.pos = p then { w with key := key, woken := false } else w) }
  else if Y.watches.length < 256 then { Y with watches := Y.watches ++ [⟨p, key, false⟩] }
  else Y

/-- A strand's watch entry given up. -/
def Yard.unwatch (Y : Yard) (p : Pos) : Yard := { Y with watches := Y.watches.filter (fun w => w.pos != p) }

/-- The next serial of a team's triggers: 1 to 2^24 - 1, skipping armed ones (R323). -/
def nextSerial (armed : List (BitVec 24)) : Nat → BitVec 24 → BitVec 24
  | 0, n => n
  | fuel + 1, n =>
    let n' := if n = 0#24 then 1#24 else n
    if armed.contains n' then nextSerial armed fuel (n' + 1) else n'

/-! ### Waiting (R321, R322) -/

/-- The wait of the strand's instruction: the one it began, or a new one whose deadline is now plus a timeout. -/
def waitOf (kind : WaitKind) (timeout : Word) : Act Wait := do
  let s ← getS
  match s.me.wait with
  | some w => return w
  | none =>
    let park := (s.yard s.me.pos.yidx).regs.park.toNat % 2 ^ 32
    return ⟨kind, if timeout = BitVec.allOnes 64 then none else some (s.cycle + timeout.toNat),
      if park = 0 then none else some (s.cycle + park), s.cycle + 256⟩

/-- Whether a wait's deadline has passed. -/
def Wait.over (w : Wait) (now : Nat) : Bool :=
  match w.deadline with
  | some d => d ≤ now
  | none => false

/-- The strand waits on a key, with a watch entry if there is room. -/
def waitOn {α : Type} (w : Wait) (key : Option Nat) : Act α := do
  let s ← getS
  let x := { s.me with wait := some { w with pollAt := s.cycle + 256 } }
  match key with
  | some k => suspendAs (.waiting w.kind) [.strand x, .yard x.pos.yidx ((s.yard x.pos.yidx).watch x.pos k)]
  | none => suspendAs (.waiting w.kind) [.strand x]

/-- A waiting instruction from its issue on: whatever holds it back, its wait stands, with the deadline of its issue (R321,
R334). -/
def holdWait {α : Type} (kind : WaitKind) (timeout : Word) (body : Wait → Act α) : Act α := do
  let w ← waitOf kind timeout
  fun r =>
    match body w r with
    | .error (.suspend run effs) => .error (.suspend run (.strand { r.s.me with wait := some w } :: effs))
    | o => o

/-- The wait is over: the instruction completes. -/
def endWait : Act Unit := do
  let s ← getS
  let y := s.me.pos.yidx
  if (s.yard y).watches.any (fun w => w.pos == s.me.pos) then modifyYard y (fun Y => Y.unwatch s.me.pos) else pure ()
  match s.me.wait with
  | some _ => modifyMe (fun x => { x with wait := none })
  | none => pure ()

/-! ### Counter accesses -/

/-- The check of a counter address, its key, and whether its bytes are tiled (R317): `adds` for CADD. -/
def counterKey (a : Word) (adds : Bool) : Act (Nat × Bool) := do
  if a.extractLsb' 0 3 ≠ 0#3 then raise 0x31 a
  else do
    let (k, way) ← checkAtomic a 8 [(0, 8)] (if adds then .atomic else .load) false true
    if isHostMem k then raise (if adds then 0x13 else 0x12) a
    else return (k, match way with
      | .untiled => false
      | _ => true)

/-- A counter operation reaches its counter point: the domain's own copies of the line go first (R307, R317). `tva`: the virtual
line of a tiled counter. -/
def atCounter (w : Toucher) (key : Nat) (tva : Option (BitVec 16 × Nat)) : Act Unit := do
  if isYardMem key then pure ()
  else do
    dropLine w.pos.yidx (key / 128)
    queueTouch (.read w key 8 true true tva)

/-- A release of the strand at a scope (R298, R301, R302): `key`, if any, is of the untiled line where its record goes; `tiled` tells
that its target is tiled (R303). -/
def releaseAt (w : Toucher) (scope : BitVec 2) (key : Option Nat) (tiled : Bool) : Act Unit := do
  awaitStores
  endFence
  if scope = 0#2 then pure ()
  else do
    if scope = 3#2 then writeBackAll w.pos.yidx true else pure ()
    let e ← closeEpoch w.pos.yidx
    match key with
    | some k => if isYardMem k then pure () else depositRecord (k / 128) w.pos.yidx e
    | none => releaseTiled w.pos.yidx (some e) tiled

/-- An acquire of the strand at a scope, left for the caches. -/
def acquireLater (scope : BitVec 2) : Act Unit := do
  let x ← getMe
  queueTouch (.acquire (x.toucher 30) scope)

/-! ### Sheaves (R326-R330) -/

/-- The fields of a sheaf (R326). -/
structure Sheaf where
  arrived : Nat
  bytes : Nat
  arrMark : Nat
  bytesMark : Nat
  expArr : Nat
  expBytes : Nat
  phase : Nat
  flags : Nat
deriving DecidableEq, Repr

/-- A sheaf read from memory. -/
def State.sheaf (s : State) (key : Nat) : Sheaf :=
  let f := fun (o n : Nat) => leValue (s.mem.readBytes (key + o) n)
  ⟨f 0 8, f 8 8, f 16 8, f 24 8, f 32 4, f 36 4, f 40 4, f 44 4⟩

/-- The first 44 bytes of a sheaf, those that updates change. -/
def Sheaf.store (h : Sheaf) : List Byte :=
  leBytes 8 h.arrived ++ leBytes 8 h.bytes ++ leBytes 8 h.arrMark ++ leBytes 8 h.bytesMark ++ leBytes 4 h.expArr
    ++ leBytes 4 h.expBytes ++ leBytes 4 h.phase

/-- STAT and SCOPE of FLAGS. -/
def Sheaf.stat (h : Sheaf) : Bool := h.flags % 2 == 1
def Sheaf.scope (h : Sheaf) : BitVec 2 := BitVec.ofNat 2 (h.flags / 2)

/-- The rule of R327. -/
def Sheaf.advance (h : Sheaf) : Sheaf :=
  if h.arrMark ≤ h.arrived && h.bytesMark ≤ h.bytes then
    { h with
      phase := (h.phase + 1) % 2 ^ 32
      arrMark := min (h.arrMark + h.expArr) maxU64
      bytesMark := min (h.bytesMark + h.expBytes) maxU64 }
  else h

/-- Arrivals and bytes added, before the rule. -/
def Sheaf.add (h : Sheaf) (arr bytes : Nat) : Sheaf :=
  { h with arrived := min (h.arrived + arr) maxU64, bytes := min (h.bytes + bytes) maxU64 }

/-- An update of a sheaf: the rule is applied after one that changes ARRIVED, BYTES or EXPECT_ARR (R327). -/
def Sheaf.updated (old new : Sheaf) : Sheaf :=
  if new.arrived = old.arrived && new.bytes = old.bytes && new.expArr = old.expArr then new else new.advance

/-- The sheaf after SLEAVE (R330); `counts` tells whether the strand still arrives. -/
def Sheaf.leave (h : Sheaf) (counts : Bool) : Sheaf :=
  let h' := { h with expArr := h.expArr - 1 }
  h.updated (if counts then h'.add 1 0 else h')

/-- An updated sheaf stored at its bank: waiters wake; a completed STAT phase waits for its gather (R45, R327). `off` is the
sheaf's window offset. -/
def putSheaf (tid off key : Nat) (old new : Sheaf) : Act Unit := do
  emit (.mem key new.store)
  if new.stat && new.phase ≠ old.phase then modifyTeam tid (fun t => { t with statWaits := t.statWaits ++ [off] })
  else wakeKey key

/-- The phase that waiters see: completed STAT phases count once gathered (R327). -/
def State.visiblePhase (s : State) (tid off key : Nat) : Nat :=
  let waits := match s.team tid with
    | some t => t.statWaits.count off
    | none => 0
  ((s.sheaf key).phase + 2 ^ 32 - waits) % 2 ^ 32

/-- Whether a phase token has passed (R329). -/
def tokenPassed (phase : Nat) (t : Word) : Bool := 0 < (BitVec.ofNat 32 phase - t.extractLsb' 0 32).toInt

/-- A strand's binding of a slot (R328). -/
def Strand.binding (x : Strand) (n : BitVec 5) : Option SheafBind := x.binds.find? (fun b => b.n == n)

/-- The window offset of a bound sheaf. -/
def SheafBind.off (b : SheafBind) : Nat := b.addr.toNat - apertureBase

/-- The bound sheaf of a slot, as any access of the strand reaches it (R234, R291); cause 0x30 if it is not bound (R328). -/
def boundSheaf (n : BitVec 5) : Act (SheafBind × Nat) := do
  let s ← getS
  match s.me.binding n with
  | none => raise 0x30 0
  | some b => do
    awaitAcquires
    let key := s.windowKey s.me.tid b.off
    awaitKeys [(key, 64)]
    let x := s.me
    if s.poisonedAt x.pos.yidx x.pos.heavy [(key, 64)] then raise 0x50 (s.poisonAddr x.pos.yidx x.pos.heavy [(key, 64)])
    else return (b, key)

/-- A strand's last arrival recorded (R328). -/
def Strand.setLast (x : Strand) (n : BitVec 5) (v : Option (BitVec 32)) : Strand :=
  { x with binds := x.binds.map (fun b => if b.n = n then { b with last := v } else b) }

/-- The address that slot `n` of a core holds, from the strands bound to it (R328). -/
def State.slotAddr (s : State) (core : Nat × Bool × Nat) (n : BitVec 5) : Option Word :=
  s.strands.findSome? (fun t => if coreKey t.home = core then (t.binding n).map (fun b => b.addr) else none)

/-- SLEAVE on a binding of the strand in the focus (R330, R342). -/
def leaveSheaf (n : BitVec 5) : Act Unit := do
  let (b, key) ← boundSheaf n
  let s ← getS
  let old := s.sheaf key
  let new := old.leave (b.last != some (BitVec.ofNat 32 old.phase))
  putSheaf s.me.tid b.off key old new
  modifyMe (fun x => x.setLast n (some (BitVec.ofNat 32 new.phase)))

/-- An arrival's release at the sheaf's scope (R327). -/
def sheafRelease (h : Sheaf) : Act Unit := do
  let x ← getMe
  releaseAt (x.toucher 30) h.scope none false

/-- SLEAVE (R330, R342): a release at the sheaf's scope, then the update. -/
def leaveReleased (n : BitVec 5) : Act Unit := do
  let (_, key) ← boundSheaf n
  let s ← getS
  sheafRelease (s.sheaf key)
  leaveSheaf n

/-! ### The host event ring (R423) -/

/-- An entry's 320 bytes. -/
def HostEvent.bytes (e : HostEvent) : List Byte :=
  leBytes 1 e.typ ++ leBytes 1 e.code ++ leBytes 2 e.payload.length ++ leBytes 1 e.srcy ++ leBytes 1 e.cls ++ leBytes 2 0
    ++ leBytes 4 e.seq ++ leBytes 4 e.tid ++ leBytes 8 e.info ++ leBytes 8 e.cycle ++ List.replicate 32 0
    ++ (e.payload ++ List.replicate (256 - e.payload.length) 0)

/-- Whether a ring has no room (R423). -/
def Func.ringFull (f : Func) : Bool := f.eqwr - f.eqrd == f.eqsize

/-- An entry written to the ring (R423). -/
def writeEvent (t : Nat) (e : HostEvent) : Act Unit := do
  let s ← getS
  let f := s.func t
  emit (.mem (hostKey (f.eqbase.toNat + 320 * (f.eqwr.toNat % f.eqsize.toNat))) e.bytes)
  modifyFunc t (fun f => { f with eqwr := f.eqwr + 1 })

/-- A device event posted: to the ring, to the backlog of 64, or lost (R423). -/
def postEvent (t : Nat) (e : HostEvent) : Act Unit := do
  let s ← getS
  let f := s.func t
  let e := { e with cycle := s.cycle }
  if f.eqsize != 0 && !f.ringFull && f.backlog.isEmpty && s.dev.hostLinkUp then writeEvent t e
  else if f.backlog.length < 64 then modifyFunc t (fun f => { f with backlog := f.backlog ++ [e] })
  else modifyFunc t (fun f => { f with eqlost := f.eqlost + 1 })

/-- An event with its fields zero but for some. -/
def HostEvent.of (typ code seq tid info : Nat) : HostEvent := ⟨typ, code, 0, 0, seq, tid, info, 0, []⟩

end Sys2Proof.Machine
end

