-- ==== Sys2Proof/Machine/Message.lean ====
section
/-! DEFINITION. Messages, mailboxes and the holds of activations (R374-R389), and where a swapped-out team's memory
stands in its save area (R319, R380, R401). -/
namespace Sys2Proof.Machine

/-! ### Save areas (R401) -/

/-- Lean cores of a team's save area. R401 reads 'C cores (2C when PAIRED = 1 counts as C here)', which leaves open whether the
2C cores of a paired grid count as C or its C leaders as 2C: the second is taken (DESIGN CHOICE, log entry 59). -/
def Grid.cores (g : Grid) : Nat := (if g.paired then 2 else 1) * ((g.strands + 7) / 8)

/-- Offsets X, Y and Z of R401. -/
def Grid.stackOff (g : Grid) : Nat := 0x4000 + 0x8000 * (8 * g.cores)
def Grid.granOff (g : Grid) : Nat := g.stackOff + 0x4000 * (8 * g.cores)
def Grid.imageOff (g : Grid) : Nat := g.granOff + 0x1000 * g.granary

/-- The key of a byte of a team's save area, through the page tables of its address space. -/
def State.areaKey (s : State) (t : Team) (off : Nat) : Option Nat :=
  (s.grid t.grid).bind (fun g =>
    let va := t.savebase.toNat + off
    (s.devicePage g.asid va).map (fun p => p * 4096 + va % 4096))

/-- The key of a window offset of a team: its granule while placed, its image while saved (R319, R380). -/
def State.teamKey (s : State) (tid off : Nat) : Option Nat :=
  match s.team tid with
  | none => none
  | some t =>
    if t.resident then some (s.windowKey tid off)
    else (s.grid t.grid).bind (fun g => s.areaKey t (g.imageOff + off))

/-- Bytes written to a team's window, page by page. -/
def writeTeam (tid : Nat) : Nat → Nat → List Byte → Act Unit
  | 0, _, _ => pure ()
  | fuel + 1, off, bytes => do
    if bytes.isEmpty then pure ()
    else do
      let s ← getS
      let room := 4096 - off % 4096
      match s.teamKey tid off with
      | some k => emit (.mem k (bytes.take room))
      | none => pure ()
      writeTeam tid fuel (off + room) (bytes.drop room)

/-- Bytes read from a team's window; bytes that cannot be reached read zero. -/
def State.readTeam (s : State) (tid off n : Nat) : List Byte :=
  (List.range n).map (fun i => match s.teamKey tid (off + i) with
    | some k => s.mem.read k
    | none => 0)

/-! ### Mailboxes (R376-R378) -/

/-- A mailbox's control block. -/
structure MbCtl where
  wr : Nat
  rd : Nat
  used : Nat
  received : Nat
  refused : Nat
deriving DecidableEq, Repr

def State.mbCtl (s : State) (m : Mailbox) : MbCtl :=
  let f := fun (o n : Nat) => leValue (s.readTeam m.tid (m.mb + o) n)
  ⟨f 0 4, f 4 4, f 8 4, f 16 8, f 24 8⟩

def MbCtl.bytes (c : MbCtl) : List Byte :=
  leBytes 4 c.wr ++ leBytes 4 c.rd ++ leBytes 4 c.used ++ leBytes 4 0 ++ leBytes 8 c.received ++ leBytes 8 c.refused

/-- The control block written. -/
def putCtl (m : Mailbox) (c : MbCtl) : Act Unit := writeTeam m.tid 2 m.mb c.bytes

/-- A record's header (R377). -/
def recordHeader (len : Nat) (cls : BitVec 4) (pad : Bool) (srcy : Nat) (remote : Bool) (srcdev seq : Nat) : List Byte :=
  leBytes 8 (len + cls.toNat * 2 ^ 9 + (if pad then 2 ^ 15 else 0) + srcy % 64 * 2 ^ 16 + (if remote then 2 ^ 22 else 0)
    + srcdev % 2 ^ 16 * 2 ^ 32 + seq % 2 ^ 16 * 2 ^ 48)

/-- A yard's mailbox of a class. -/
def Yard.mailbox (Y : Yard) (cls : BitVec 4) : Option Mailbox := Y.mailboxes.find? (fun m => m.cls == cls)

/-- A mailbox replaced. -/
def Yard.putMailbox (Y : Yard) (m : Mailbox) : Yard :=
  { Y with mailboxes := Y.mailboxes.map (fun x => if x.cls = m.cls then m else x) }

/-- Whether accesses to a range of a team's window, or of its image (R380), must wait (R234, R306). -/
def State.windowHeld (s : State) (tid off n : Nat) : Bool :=
  (pagePieces off n).any (fun p => (s.teamKey tid p.1).any (fun k => s.keyHeld k p.2))

/-- Placement of a message (R378), where nothing holds its mailbox; answers whether there was space. A pad record has its sender's fields and number, as every
record header has them (R377). -/
def placeRecord (y : Nat) (m : Mailbox) (g : Msg) : Act Bool := do
  let s ← getS
  let c := s.mbCtl m
  let r := 8 + g.payload.length
  let header := fun (len : Nat) (pad : Bool) =>
    recordHeader len m.cls pad g.srcy g.remote (if g.remote then g.srcdev else 0) c.received
  let rec_ := header g.payload.length false ++ g.payload
  if c.wr + r ≤ m.size && c.used + r ≤ m.size - 64 then do
    writeTeam m.tid 2 (m.mb + c.wr) rec_
    putCtl m { c with wr := c.wr + r, used := c.used + r, received := (c.received + 1) % 2 ^ 64 }
    modifyYard y (fun Y => Y.putMailbox { m with unstarted := m.unstarted ++ [c.wr] })
    return true
  else if c.used + (m.size - c.wr) + r ≤ m.size - 64 then do
    if c.wr < m.size then
      writeTeam m.tid 2 (m.mb + c.wr) (header (m.size - c.wr) true)
    else pure ()
    writeTeam m.tid 2 (m.mb + 64) rec_
    putCtl m { c with wr := 64 + r, used := c.used + (m.size - c.wr) + r, received := (c.received + 1) % 2 ^ 64 }
    modifyYard y (fun Y => Y.putMailbox { m with unstarted := m.unstarted ++ [64] })
    return true
  else return false

/-- Messages refused or dropped counted in the control block (R376). -/
def countRefused (m : Mailbox) (n : Nat) : Act Unit := do
  let s ← getS
  let c := s.mbCtl m
  putCtl m { c with refused := (c.refused + n) % 2 ^ 64 }

/-- A record consumed with the pad that follows it (R376, R389 step 3). -/
def consumeRecord (y : Nat) (m : Mailbox) (off : Nat) : Act Unit := do
  let s ← getS
  let c := s.mbCtl m
  let r := 8 + leValue (s.readTeam m.tid (m.mb + off) 2) % 512
  let next := off + r
  let pad := next < m.size && r < c.used && leValue (s.readTeam m.tid (m.mb + next) 2) / 2 ^ 15 % 2 == 1
  let p := if pad then m.size - next else 0
  let used := c.used - r - p
  let rd := if next + p < m.size then next + p else 64
  putCtl m (if used = 0 then { c with rd := 64, wr := 64, used := 0 } else { c with rd := rd, used := used })
  modifyYard y (fun Y => Y.putMailbox { m with unstarted := m.unstarted.filter (fun o => o != off) })

/-! ### Sending (R386) -/

/-- Fields of a destination word (R386). -/
def destYard (w : Word) : Nat := w.toNat % 64
def destClass (w : Word) : BitVec 4 := w.extractLsb' 8 4
def destLen (w : Word) : Nat := (w.extractLsb' 16 9).toNat
def destDev (w : Word) : Nat := (w.extractLsb' 32 16).toNat
def destRemote (w : Word) : Bool := w.getLsbD 48

/-- Whether a destination word is well formed (R386): a remote yard index is the other device's. -/
def State.destOk (s : State) (w : Word) : Bool :=
  w.extractLsb' 6 2 == 0#2 && w.extractLsb' 12 4 == 0#4 && w.extractLsb' 25 7 == 0#7 && w.extractLsb' 49 15 == 0#15
    && destLen w % 8 == 0 && 8 ≤ destLen w && destLen w ≤ 256
    && (destYard w == 63 || (if destRemote w then destYard w < 56 else s.isYard (destYard w)))

/-- Whether a strand may send on a class (R374). -/
def State.maySend (s : State) (x : Strand) (cls : BitVec 4) : Bool :=
  (cls == 15#4 && x.st.sup) || (assocGet RouteClass.reset s.dev.routes cls.toNat).tenants.getLsbD x.modes.tenant.toNat

/-- The SEQ of a team's launch record; 0 without a team (R423). -/
def State.launchSeq (s : State) (tid : Nat) : Nat := (((s.team tid).bind (fun t => s.grid t.grid)).map (fun g => g.seq)).getD 0

/-- A message of the strand in the focus on its way. -/
def State.message (s : State) (w : Word) (payload : List Byte) (n : Nat) : Msg :=
  { cls := destClass w, srcy := s.me.pos.yidx, dst := destYard w, remote := destRemote w, srcdev := destDev w,
    tenant := s.me.modes.tenant, payload := payload, since := s.cycle, src := some (s.me.pos, n), seq := s.launchSeq s.me.tid,
    tid := s.me.tid }

/-- A release of the strand with no line to hold a record: what the yard holds dirty reaches the slices (DEDUCED, log
entry 23). -/
def releaseWhole (scope : BitVec 2) : Act Unit := do
  awaitStores
  endFence
  let x ← getMe
  if scope = 0#2 then pure ()
  else do
    writeBackAll x.pos.yidx (scope == 3#2)
    let _ ← closeEpoch x.pos.yidx

/-! ### The hold of an activation (R382, R389) -/

/-- Whether the strand holds its effects: an activation before MDONE. -/
def Strand.holding (x : Strand) : Bool :=
  match x.act with
  | some a => !a.mdone
  | none => false

/-- One more held effect. -/
def Strand.hold (x : Strand) (h : HoldItem) : Strand :=
  { x with act := x.act.map (fun a => { a with hold := a.hold ++ [h] }) }

/-- How a held access meets its tiles, made by its agent (R260). -/
def heldWay (x : Strand) (heavy : Bool) (va : Nat) (key n : Nat) (need : Tenure) (plain : Bool) : Act TenWay := do
  awaitKeys [(key, n)]
  let gs ← tileWays x.who .access (if heavy then 64 + x.pos.yidx else agentOf x.pos) va [(key, n)] need plain
  return (gs.head?.map (fun g => g.way)).getD .untiled

/-- How a held atomic meets its tiles. -/
def heldAtomicWay (x : Strand) (heavy : Bool) (va key : Nat) (op : AtomicOp) : Act TenWay := do
  awaitKeys (op.spans.map (fun p => (key + p.1, p.2)))
  atomicWay x.who .access (if heavy then 64 + x.pos.yidx else agentOf x.pos) va key op.spans (if op.accumulates then .a else .w) false

/-- A held effect that reads poisoned bytes consumes them; what was released before it stands (R432). -/
def heldPoison (heavy : Bool) (segs : List (Nat × Nat)) : Act Unit := do
  let s ← getS
  let y := s.me.pos.yidx
  let h := heavy || s.me.pos.heavy
  if s.poisonedAt y h segs then raiseKeeping 0x50 (s.poisonAddr y h segs) else pure ()

/-- A held access waits with everything released before it done. -/
def keepOnWait {α : Type} (a : Act α) : Act α := fun r =>
  match a r with
  | .error (.suspend run effs) => .error (.suspend run (r.log.reverse ++ effs))
  | o => o

/-- The strand in the focus as the caches see a held access. -/
def Strand.heldToucher (x : Strand) (nu nudef : BitVec 5) (heavy : Bool) : Toucher :=
  ⟨x.pos, x.tid, x.modes.tenant, nu, nudef, heavy || x.pos.heavy, none, none⟩

/-- One held effect takes place; one that must wait for tenure suspends the strand before any effect of its own. -/
def performHeld (h : HoldItem) : Act Unit := do
  let x ← getMe
  match h with
  | .store sts heavy => do
    if sts.any (fun st => st.rel.isSome) then keepOnWait awaitStores else pure ()
    let ways ← keepOnWait (collect sts (fun st => heldWay x heavy st.va.toNat st.key st.bytes.length .w false))
    forAll (sts.zip ways) (fun e => do
      let x ← getMe
      performMet (x.heldToucher e.1.nu e.1.nudef heavy) x.modes.asid e.1 x.fenceEpoch e.2
      if e.1.rel.isSome then endFence else pure ())
  | .atomic key va op sc rel heavy nu nudef => do
    if rel then keepOnWait awaitStores else pure ()
    let way ← keepOnWait (heldAtomicWay x heavy va.toNat key op)
    heldPoison heavy (op.spans.map (fun p => (key + p.1, p.2)))
    let _ ← atomicAt (x.heldToucher nu nudef heavy) (if heavy then 64 + x.pos.yidx else agentOf x.pos) x.modes.asid
      va.toNat key op sc rel way x.fenceEpoch
    if rel then endFence else pure ()
  | .cadd key va v sc => do
    let way ← keepOnWait (heldWay x false va.toNat key 8 .w true)
    let tiled := match way with
      | .untiled => false
      | _ => true
    heldPoison false [(key, 8)]
    keepOnWait awaitStores
    releaseAt (x.toucher 30) sc (if tiled then none else some key) tiled
    atCounter (x.toucher 30) key (if tiled then some (x.modes.asid, va.toNat / 128) else none)
    let (_, sat) ← counterAdd key v
    if sat then modifyMe (fun x => { x with act := x.act.map (fun a => { a with saturated := true }) }) else pure ()
  | .msg _ _ _ => pure ()

/-- Whether a held effect is a message. -/
def HoldItem.isMessage : HoldItem → Bool
  | .msg _ _ _ => true
  | _ => false

/-- Held effects take place in program order, each leaving the hold as it does. -/
def performHold : List HoldItem → Act Unit
  | [] => pure ()
  | h :: rest => do
    performHeld h
    if h.isMessage then pure ()
    else modifyMe (fun x => { x with act := x.act.map (fun a => { a with hold := a.hold.erase h }) })
    performHold rest

/-- The held messages of an activation. -/
def Activation.messages (a : Activation) : List (Word × List Byte × Bool) :=
  a.hold.filterMap (fun h => match h with
    | .msg d p t => some (d, p, t)
    | _ => none)

/-- The hold takes effect in program order; its messages are sent (R382, R389 steps 1 and 2), after a release at device scope, as any
message is (R381, R386). -/
def startRelease (a : Activation) : Act Unit := do
  modifyMe (fun x => { x with act := x.act.map (fun a => { a with released := true, releasing := true }) })
  performHold a.hold
  if a.messages.isEmpty then pure () else keepOnWait (releaseWhole 2)
  let s ← getS
  let ms := a.messages.zipIdx
  modifyMe (fun x =>
    { x with
      sent := some ms.length
      answers := ms.filterMap (fun e => if s.maySend x (destClass e.1.1) then none else some (e.2, 3))
      act := x.act.map (fun a => { a with hold := [], sentMsgs := ms.map (fun e => (e.1.1, e.1.2.2)) }) })
  let out := ms.filter (fun e => s.maySend s.me (destClass e.1.1))
  if out.isEmpty then pure ()
  else modifyDev (fun d => (out.map (fun e => s.message e.1.1 e.1.2.1 e.2)).foldl (fun d m => s.sendMsg m d) d)

/-- The code a message was answered with. -/
def Strand.answerOf (x : Strand) (n : Nat) : Nat := assocGet 0 x.answers n

/-- What the release of a hold found: the first refusal that traps (code and destination), how many messages were
refused, and how many of those were MSEND.T. -/
structure Refusals where
  first : Option (Nat × Word)
  all : Nat
  quiet : Nat

/-- A whole hold released: its effects, its messages and their answers. -/
def releaseHold : Act Refusals := do
  let x ← getMe
  match x.act with
  | none => return ⟨none, 0, 0⟩
  | some a => do
    match x.sent with
    | some _ => pure ()
    | none => startRelease a
    let x ← getMe
    if x.answers.length < x.sent.getD 0 then suspendKeeping .answerWait
    else do
      let sent := match x.act with
        | some a => a.sentMsgs.zipIdx
        | none => []
      let bad := sent.find? (fun e => e.1.2 && x.answerOf e.2 != 0)
      emit (.strand { x with sent := none, answers := [], act := x.act.map (fun a => { a with sentMsgs := [], releasing := false }) })
      return ⟨bad.map (fun e => (x.answerOf e.2, e.1.1)), sent.countP (fun e => x.answerOf e.2 != 0),
        sent.countP (fun e => !e.1.2 && x.answerOf e.2 != 0)⟩

/-- Saturation of released CADDs as a REASON, taken (R389). -/
def takeSaturation : Act Unit := do
  let x ← getMe
  match x.act with
  | some a => do
    emit (.strand { x with act := some { a with saturated := false } })
    setReason (if a.saturated then 1 else 0)
  | none => pure ()

/-- Room in the hold for `n` more entries, or for a result to return: an early release where R382 asks for it; before a result
returns it is made with an empty hold too (DEDUCED, log entry 80). Stores in a pair buffer count with those of the hold. -/
def holdRoomFor (n : Nat) (returns : Bool) : Act Unit := do
  let x ← getMe
  match x.act with
  | none => pure ()
  | some a =>
    let buf := match x.pair with
      | some p => p.buf.length
      | none => 0
    if a.mdone then pure ()
    else if x.sent.isNone && a.hold.length + buf + x.arch.held.length + n > 63 && !x.window.isEmpty then stall
    else if x.sent.isNone && buf != 0 && a.hold.length + buf + n > 64 then
      match x.pair with
      | some p => closeInterval x p
      | none => pure ()
    else if x.sent.isSome || a.releasing || a.hold.length + n > 64 || returns then do
      let r ← releaseHold
      takeSaturation
      modifyMe (fun x => { x with act := x.act.map (fun a => { a with refusedT := a.refusedT + r.quiet }) })
      match r.first with
      | some (c, dst) => do
        setReason c
        raiseKeeping 0x38 dst
      | none => pure ()
    else pure ()

/-- Room in the hold for one more entry. -/
def holdRoom (returns : Bool) : Act Unit := holdRoomFor 1 returns

/-- The mailbox whose record started the activation of the strand in the focus. -/
def State.ownMailbox (s : State) : Option Mailbox :=
  s.me.act.bind (fun a => match a.src with
    | .message cls _ => (s.yard s.me.home.yidx).mailbox cls
    | .trigger _ _ _ _ => none)

/-- MDONE's steps for an activation that has not executed it (R389): refusals so far, and a refusal that traps. -/
def mdoneSteps : Act (Nat × Option (Nat × Word)) := do
  let s ← getS
  let x0 := s.me
  match s.ownMailbox with
  | some m => if s.windowHeld m.tid m.mb m.size then stall else pure ()
  | none => pure ()
  let r ← releaseHold
  let x ← getMe
  match x.act with
  | none => return (0, none)
  | some a => do
    match a.src with
    | .message cls off => do
      let s ← getS
      match (s.yard x0.home.yidx).mailbox cls with
      | some m => consumeRecord x0.home.yidx m off
      | none => pure ()
    | .trigger _ _ _ _ => pure ()
    takeSaturation
    modifyMe (fun x => { x with act := x.act.map (fun a => { a with mdone := true, refusedT := 0 }) })
    match r.first with
    | some (c, _) => setReason c
    | none => pure ()
    return (a.refusedT + r.all, r.first)

end Sys2Proof.Machine
end

