-- ==== Sys2Proof/Machine/Teams.lean ====
section
/-! DEFINITION. Teams and grids (R86, R392-R405): entry states, placement, swap-in and swap-out, the end of teams and
grids, the kill of a team (R436) and machine-check records (R442). -/
namespace Sys2Proof.Machine

/-! ### Slots and entry states -/

/-- The slot of a strand index (R109, R397); for a pair, the leader's. -/
def Team.slotOf (t : Team) (paired : Bool) (i : Nat) : Pos :=
  ⟨t.yidx, false, t.cores.getD (if paired then 2 * (i / 8) else i / 8) 0, i % 8⟩

/-- Strand indices of a team. -/
def Grid.indices (g : Grid) : Nat := 8 * ((g.strands + 7) / 8)

/-- The pair of a paired strand at its first agreed point (R439, R441). -/
def Pair.fresh (a : Arch) : Pair :=
  { agreed := a, count := 0, fp := 0, buf := [], failed := false, exchanging := false, bad := false,
    since := 0 }

/-- A strand in the entry state of R86. -/
def State.entryStrand (s : State) (t : Team) (g : Grid) (i : Nat) (entry arg : Word) : Strand :=
  let p := t.slotOf g.paired i
  let a : Arch :=
    { [RegEff.s 1 arg, .s 2 (BitVec.ofNat 64 t.lin), .s 3 (BitVec.ofNat 64 i), .s 28 (BitVec.ofNat 64 apertureBase),
        .s 30 (t.savebase + 0x2400), .s 31 (t.savebase + BitVec.ofNat 64 (g.stackOff + 0x4000 * (i + 1)))].foldl
          Arch.apply Arch.zero with
      pcw := pcwOf entry }
  let sp := s.spaceOf g.asid
  { Strand.emptyAt p with
    run := .ready
    tid := t.tid
    index := BitVec.ofNat 10 i
    arch := a
    st := { Status.zero with paired := g.paired }
    modes := { Modes.creation with asid := g.asid, pasid := sp.pasid, tenant := g.tenant }
    pair := if g.paired then some (Pair.fresh a) else none }

/-- Whether the slot of an index holds a strand, or is the reserved home of one (R187, R324). -/
def State.slotTaken (s : State) (p : Pos) : Bool := s.strands.any (fun x => x.run != .empty && x.home == p)

/-- The indices of a placed team whose slots are empty, ascending (R109, R324). -/
def State.freeIndices (s : State) (t : Team) (g : Grid) : List Nat :=
  (List.range g.indices).filter (fun i => !s.slotTaken (t.slotOf g.paired i))

/-- The strands of a team. -/
def State.teamStrands (s : State) (tid : Nat) : List Strand :=
  s.strands.filter (fun x => x.tid == tid && x.run != .empty && tid != 0)

/-! ### Resources of a yard (R225, R397) -/

/-- The teams that hold resources of a yard. -/
def State.residents (s : State) (y : Nat) : List Team := s.dev.teams.filter (fun t => t.resident && t.yidx == y)

/-- Lean cores of a yard that no team holds. -/
def State.freeCores (s : State) (y : Nat) : List Nat :=
  (List.range 128).filter (fun c => !(s.residents y).any (fun t => t.cores.contains c))

/-- The cores a team takes: the lowest free, or the lowest free pairs (R397); none if there are too few. -/
def State.pickCores (s : State) (y : Nat) (g : Grid) : Option (List Nat) :=
  let free := s.freeCores y
  let n := (g.strands + 7) / 8
  if g.paired then
    let ps := ((List.range 64).filter (fun j => free.contains (2 * j) && free.contains (2 * j + 1))).take n
    if ps.length = n then some (ps.flatMap (fun j => [2 * j, 2 * j + 1])) else none
  else if n ≤ free.length then some (free.take n) else none

/-- Granules of a yard that no team can be given: those that teams hold, and the one with the root slots (R229). -/
def State.usedGranules (s : State) (y : Nat) : List Nat := 1023 :: (s.residents y).flatMap (fun t => t.granules)

/-- Granules a grid's team asks for (R224). -/
def Grid.granules (g : Grid) : Nat := (g.yardmem + 4095) / 4096

/-- One granule under R225: of the preferred block, else the lowest of the yard. -/
def pickGranule (used : List Nat) (block : Nat) : Nat :=
  match (List.range 64).find? (fun i => !used.contains (64 * block + i)) with
  | some i => 64 * block + i
  | none => ((List.range 1024).find? (fun i => !used.contains i)).getD 0

/-- Granules of a team in window order (R225); stall index of core c is c / 8 (R17). -/
def pickGranules (used cores : List Nat) (n : Nat) : List Nat :=
  let stalls := (cores.map (fun c => c / 8)).eraseDups
  (List.range n).foldl (fun (acc : List Nat) g =>
    acc ++ [pickGranule (used ++ acc) (stalls.getD (g % stalls.length) 0)]) []

/-- Granary slots of a grid's team (R204, R205). -/
def Grid.slots (g : Grid) : Nat := if g.nomatrix then 0 else g.granary

/-- Granary slots of a yard that teams hold. -/
def State.usedSlots (s : State) (y : Nat) : Nat :=
  ((s.residents y).map (fun t => ((s.grid t.grid).map Grid.slots).getD 0)).sum

/-- What a saved team keeps; nothing for a team that was never placed. -/
def State.savedTeam (s : State) (tid : Nat) : Option SavedTeam := s.dev.saved.find? (fun v => v.tid == tid)

/-- Whether a team could fit a yard if the yard were empty (R397-R399). -/
def State.fitsEmpty (s : State) (y : Nat) (t : Team) (g : Grid) : Bool :=
  s.isYard y && (g.nomatrix || !(s.yard y).heavy.failed)
    && (match t.homeYard with
      | some h => h == y
      | none => true)
    && !(s.func g.tenant.toNat).frozen

/-- Whether a team fits a yard (R397). -/
def State.fits (s : State) (y : Nat) (t : Team) (g : Grid) : Bool :=
  let sv := s.savedTeam t.tid
  let trig := (sv.map (fun v => v.triggers.length)).getD 0
  let skew := (sv.map (fun v => v.skews.length)).getD 0
  s.fitsEmpty y t g && (s.pickCores y g).isSome
    && (s.usedGranules y).length + g.granules ≤ 1024
    && s.usedSlots y + g.slots ≤ 512
    && (s.yard y).triggers.length + trig ≤ 256 && ((s.yard y).skews.filter (fun k => !k.leaving)).length + skew ≤ 64

/-! ### Priorities (R398) -/

/-- Levels a pending team has gained at a yard. -/
def Team.gain (t : Team) (y : Nat) : Nat := assocGet 0 t.gains y

/-- Levels that a yard counts a team to have gained: none while its K.QUANTUM is 0 (R398). -/
def State.gainAt (s : State) (y : Nat) (t : Team) : Nat :=
  if (s.yard y).regs.quantum.toNat % 2 ^ 32 = 0 then 0 else t.gain y

/-- Effective priority at a yard. -/
def State.effective (s : State) (y : Nat) (t : Team) : Nat := min 7 (t.prio + s.gainAt y t)

/-- Levels a waiting team has gained by a cycle, with one more for blocking. -/
def Team.gainBy (t : Team) (quantum now : Nat) : Nat :=
  if quantum = 0 then 0 else min (8 - min 7 t.prio) ((now - t.since) / (8 * quantum))

/-- Teams of the pending set: never placed, or saved. -/
def Team.isPending (t : Team) : Bool :=
  match t.where_ with
  | .pending => true
  | .saved => true
  | _ => false

/-- Pending teams with their grids. -/
def State.pendingTeams (s : State) : List (Team × Grid) :=
  s.dev.teams.filterMap (fun t => if t.isPending then (s.grid t.grid).map (fun g => (t, g)) else none)

/-- Whether a pending team is blocking at a yard (R398). -/
def State.blocking (s : State) (y : Nat) (t : Team) (g : Grid) : Bool := 8 ≤ t.prio + s.gainAt y t && s.fitsEmpty y t g

/-- The scheduler's order: effective priority, admission, linear index (R397). -/
def State.schedBefore (s : State) (y : Nat) (a b : Team × Grid) : Bool :=
  s.effective y b.1 < s.effective y a.1
    || (s.effective y a.1 == s.effective y b.1
      && (a.2.order < b.2.order || (a.2.order == b.2.order && a.1.lin < b.1.lin)))

/-- The team that a yard places next; a yard with a blocking team places no other (R397, R398). -/
def State.nextPlacement (s : State) (y : Nat) : Option (Team × Grid) :=
  let l := s.pendingTeams
  let l := if l.any (fun e => s.blocking y e.1 e.2) then l.filter (fun e => s.blocking y e.1 e.2) else l
  bestBy (s.schedBefore y) (l.filter (fun e => s.fits y e.1 e.2))

/-! ### Machine-check records (R442) -/

/-- The 64 bytes of a record. -/
def McRecord.bytes (r : McRecord) : List Byte :=
  leBytes 1 r.kind ++ leBytes 1 r.code ++ leBytes 1 r.unit ++ leBytes 1 (if r.overflow then 1 else 0)
    ++ leBytes 2 (r.pos.core + (if r.pos.heavy then 128 else 0) + r.pos.slot * 256) ++ leBytes 2 0 ++ leBytes 4 r.tid
    ++ leBytes 4 (min r.count (2 ^ 32 - 1)) ++ leBytes 8 r.addr ++ leBytes 8 r.cycle ++ List.replicate 32 0

/-- A record of the kinds that concern one strand or team. -/
def McRecord.of (kind code unit : Nat) (p : Pos) (tid now : Nat) : McRecord :=
  { kind := kind, code := code, unit := unit, overflow := false, pos := p, tid := tid, count := 1, addr := 0, cycle := now }

/-- A record held by the yard, or dropped (R442). -/
def holdRecord (y : Nat) (r : McRecord) : Act Unit :=
  modifyYard y (fun Y =>
    if Y.mcHeld.length < 16 then { Y with mcHeld := Y.mcHeld ++ [r] } else { Y with mcOverflow := true })

/-- A record as a message to the class-15 mailbox of its yard (R442). -/
def McRecord.message (r : McRecord) (y now : Nat) : Msg :=
  { cls := 15, srcy := y, dst := y, remote := false, srcdev := 0, tenant := 0, payload := r.bytes, since := now, src := none,
    seq := 0, tid := 0 }

/-- The records that a yard holds go into its class-15 mailbox, in order, while there is room; the first that is placed after one was
dropped says so (R442). -/
def placeHeld (y : Nat) : Nat → Act Unit
  | 0 => pure ()
  | fuel + 1 => do
    let s ← getS
    let Y := s.yard y
    match Y.mcHeld, Y.mailbox 15 with
    | r :: rest, some m =>
      if s.windowHeld m.tid m.mb m.size then pure ()
      else do
        let ok ← placeRecord y m (McRecord.message { r with overflow := Y.mcOverflow } y s.cycle)
        if ok then do
          modifyYard y (fun Y => { Y with mcHeld := rest, mcOverflow := false })
          placeHeld y fuel
        else pure ()
    | _, _ => pure ()

/-- A record placed in the class-15 mailbox of its yard, or held (R442). -/
def reportRecord (y : Nat) (r : McRecord) : Act Unit := do
  holdRecord y r
  placeHeld y 16

/-- The yard where what concerns a block of memory arises: that of yard memory, or at the stop of a DRAM block; yard 0 where none is
there (DESIGN CHOICE, log entry 86). -/
def State.blockYard (s : State) (key : Nat) : Nat :=
  if isYardMem key then (key - 2 ^ 60) / 2 ^ 22 else (s.dev.ident.yardStops.findIdx? (fun t => t == paStop key)).getD 0

/-- Blocks become poisoned (R431). -/
def Dev.addPoison (d : Dev) (l : List Nat) : Dev :=
  { d with poison := l.foldl (fun acc b => if acc.contains b then acc else acc ++ [b]) d.poison }

/-- Poison stored in a unit, at a yard, of a strand or of none: reported once (R431, R442). -/
def reportPoison (y unit : Nat) (p : Pos) (tid addr : Nat) : Act Unit := do
  let s ← getS
  reportRecord y { McRecord.of 6 0 unit p tid s.cycle with addr := addr }

/-- Blocks of memory become poisoned, each reported where it was not before (R431, R442). -/
def storePoison (unit : Nat) (blocks : List Nat) : Act Unit := do
  let s ← getS
  let fresh := (blocks.filter (fun b => !s.dev.poison.contains b)).eraseDups
  if fresh.isEmpty then pure ()
  else do
    modifyDev (fun d => d.addPoison fresh)
    forAll fresh (fun b => reportPoison (s.blockYard (b * 64)) unit ⟨0, false, 0, 0⟩ 0 (if isDram (b * 64) then b * 64 else 0))

/-- The yards whose held records have a mailbox to go to. -/
def placeAllHeld : Act Unit := do
  let s ← getS
  forAll (s.yards.filter (fun e => !e.2.mcHeld.isEmpty && (e.2.mailbox 15).isSome)) (fun e => placeHeld e.1 16)

/-! ### The end of teams and grids (R405) -/

/-- The counter that an address of an address space names for an add from outside the strands, translated as a store, or the cause of
its fault (R317, R405, R422). -/
def State.addTarget (s : State) (asid : BitVec 16) (tid va : Nat) : Except Nat Nat :=
  if 2 ^ 56 ≤ va then .error 0x11
  else if inAperture va then
    if s.outsideAllotment tid va 8 then .error 0x11
    else
      match s.teamKey tid (va - apertureBase) with
      | some k => .ok k
      | none => .error 0x11
  else
    match s.walk asid va with
    | none => .error 0x11
    | some e => match e.refuses false .store with
      | some c => .error c.toNat
      | none => if e.hostLeaf then .error 0x13 else .ok (e.key va)

/-- The completion of a record of a host launch queue (R425). -/
def HostQueue.finish (q : HostQueue) : Nat → HostQueue
  | 0 => q
  | fuel + 1 =>
    if q.doneRecs.contains q.complete then
      HostQueue.finish { q with complete := q.complete + 1, doneRecs := q.doneRecs.filter (fun i => i != q.complete) } fuel
    else q

/-- A record of a host launch queue has completed (R425). -/
def completeRecord (f q i : Nat) : Act Unit :=
  modifyFunc f (fun F =>
    { F with
      queues := F.queues.map (fun e =>
        if e.1 = q then
          (e.1, HostQueue.finish { e.2 with doneRecs := e.2.doneRecs ++ [i] } (e.2.doneRecs.length + 1))
        else e) })

/-- WRITTEN and DRAINED of a grid's overflow area, with the key of its header (R396); none without a reachable area. -/
def State.overflow (s : State) (g : Grid) : Option (Nat × Nat × Nat) :=
  if g.ovf = 0 then none
  else
    (s.devicePage g.asid g.ovf.toNat).map (fun p =>
      let k := p * 4096 + g.ovf.toNat % 4096
      (leValue (s.mem.readBytes k 8), leValue (s.mem.readBytes (k + 8) 8), k))

/-- Records waiting in a grid's overflow area. -/
def State.overflowCount (s : State) (g : Grid) : Nat :=
  match s.overflow g with
  | some (w, d, _) => w - d
  | none => 0

/-- A grid is over once its completion add has been made: COMPLETE counts its record. The grid's own record stays while its
overflow area holds records, with no completion left. -/
def finishGrid (g : Grid) (add : Bool) : Act Unit := do
  match g.queue with
  | some (f, q, i) => if add then completeRecord f q i else pure ()
  | none => pure ()
  let s ← getS
  if s.overflowCount g = 0 || !add then modifyDev (fun d => { d with grids := d.grids.filter (fun x => x.gid != g.gid) })
  else
    modifyDev (fun d =>
      { d with grids := d.grids.map (fun x => if x.gid = g.gid then { x with done := 0, queue := none } else x) })

/-- A grid completes (R405): its completion add, then COMPLETE. An add whose counter is held, by a transfer or for an access that
a grant of tenure was made for, waits (R306, R272), and the grid's record stays for it. -/
def completeGrid (g : Grid) (add : Bool) : Act Unit := do
  let s ← getS
  if g.done = 0 || !add then finishGrid g add
  else
    match s.addTarget g.asid 0 g.done.toNat with
    | .ok k =>
      if s.outsideHeld outsideAgent k 8 .w then pure ()
      else do
        meetOutside outsideAgent k 8 .w
        let _ ← counterAdd k (BitVec.ofNat 64 g.incr)
        finishGrid g true
    | .error c => do
      postEvent g.tenant.toNat (HostEvent.of 7 c g.seq 0 g.done.toNat)
      finishGrid g true

/-- The completions that wait are made where nothing holds them any more. -/
def retryCompletions : Act Unit := do
  let s ← getS
  forAll (s.dev.grids.filter (fun g => g.left == 0 && g.done != 0)) (fun g => completeGrid g true)

/-- Hold lines of a team that ends become streaming lines (R248). -/
def releaseHolds (tid : Nat) (l : List CLine) : List CLine :=
  l.map (fun c => if c.kind = 3#2 && c.hteam = tid then { c with kind := 1 } else c)

/-- What a yard holds of a team, removed. -/
def Yard.forget (Y : Yard) (tid : Nat) : Yard :=
  { Y with
    triggers := Y.triggers.filter (fun t => t.tid != tid)
    actq := Y.actq.filter (fun a => a.tid != tid)
    skews := Y.skews.filter (fun k => k.tid != tid)
    mailboxes := Y.mailboxes.filter (fun m => m.tid != tid)
    lines := releaseHolds tid Y.lines
    heavy := { Y.heavy with granary := Y.heavy.granary.filter (fun g => g.tid != tid) } }

/-- The unstarted records of a team's mailboxes dropped and counted in REFUSED (R380). -/
def dropUnstarted (tid : Nat) : Act Unit := do
  let s ← getS
  forAll s.yards (fun e =>
    forAll (e.2.mailboxes.filter (fun m => m.tid == tid && !m.unstarted.isEmpty)) (fun m => do
      countRefused m m.unstarted.length
      modifyYard e.1 (fun Y => Y.putMailbox { m with unstarted := [] })))

/-- A team ends by the steps of R405; `add` tells whether its grid's completion counts (R424, R426). -/
def endTeam (tid : Nat) (add : Bool) : Act Unit := do
  let s ← getS
  match s.team tid with
  | none => pure ()
  | some t => do
    forAll (s.dev.tiles.filter (fun u => u.owner == tid && u.desc.teamScope)) closeTileQuietly
    dropUnstarted tid
    let s ← getS
    forAll (s.yards.filter (fun e => (e.2.forget tid) != e.2)) (fun e => emit (.yard e.1 (e.2.forget tid)))
    modifyDev (fun d =>
      { d with
        teams := d.teams.filter (fun u => u.tid != tid)
        saved := d.saved.filter (fun v => v.tid != tid)
        intents := d.intents.filter (fun i => i.tid != tid)
        l2 := d.l2.map (fun e => (e.1, releaseHolds tid e.2))
        funcs := d.funcs.map (fun e => (e.1, { e.2 with aliases := e.2.aliases.filter (fun a => a.tid != tid) }))
        grids := d.grids.map (fun g => if g.gid = t.grid then { g with left := g.left - 1 } else g) })
    if t.resident then sendMirror { t with where_ := .saved } else pure ()
    let s ← getS
    match s.grid t.grid with
    | some g => if g.left = 0 then completeGrid g add else pure ()
    | none => pure ()

/-- Whether a team's end has come (R325): records of a class that is not masked are queued activations (R381); a killed team has
none (R436). -/
def State.teamOver (s : State) (tid : Nat) : Bool :=
  match s.team tid with
  | none => false
  | some t =>
    t.resident && (s.teamStrands tid).isEmpty
      && (t.killed || !(s.yards.any (fun e => e.2.actq.any (fun a => a.tid == tid)
        || e.2.mailboxes.any (fun m => m.tid == tid && !m.unstarted.isEmpty && !t.mmask.getLsbD m.cls.toNat))))

/-- Whether a phase of a team's STAT sheaf waits for its gather (R45). -/
def State.gathering (s : State) (tid : Nat) : Bool := (s.team tid).any (fun t => !t.statWaits.isEmpty)

/-- Whether a region of a team's window is being rearranged (R234). -/
def State.rearranging (s : State) (tid : Nat) : Bool := s.yards.any (fun e => e.2.skews.any (fun k => k.tid == tid && k.busyUntil != 0))

/-- The team ends if its end has come, no transfer and no rearrangement touches its allotment (R234, R415), and its statistics have
been gathered (R45). -/
def checkTeamEnd (tid : Nat) : Act Unit := do
  let s ← getS
  if s.teamOver tid && !s.transferOf tid && !s.rearranging tid && !s.gathering tid then endTeam tid true else pure ()

/-! ### Stopping strands -/

/-- The heads of the guest queues that come to the front count their wait from a cycle (R167). -/
def newHeads (before after : List Packet) (now : Nat) : List Packet :=
  let head := fun (l : List Packet) (k : Packet) => l.find? (fun j => j.pos.core == k.pos.core)
  after.map (fun k => if head after k = some k && head before k != some k then { k with since := now } else k)

/-- What a heavy core holds for a slot, removed: packets, replies and cancels (R174, R436). -/
def Heavy.forgetSlot (H : Heavy) (p : Pos) (now : Nat) : Heavy :=
  { H with
    queue := newHeads H.queue (H.queue.filter (fun k => k.pos != p)) now
    running := H.running.filter (fun k => k.pos != p)
    replies := H.replies.filter (fun r => r.pos != p)
    cancels := H.cancels.filter (fun c => c.pos != p)
    matq := H.matq.filter (fun m => m.pkt.pos != p)
    pipes := H.pipes.filter (fun m => m.2.pkt.pos != p)
    transfers := H.transfers.filter (fun t => t.reply.pos != p)
    ownWait := H.ownWait.filter (fun q => q != p) }

/-- Whether an asker is the strand of a slot. -/
def Asker.ofSlot (p : Pos) : Asker → Bool
  | .strand q _ _ => q == p
  | _ => false

/-- A yard without the walks that only askers who are gone asked for: their entries go to the misses that wait longest (R352). -/
def Yard.leave (Y : Yard) (gone : Asker → Bool) : Yard :=
  { Y with
    walks := leaveWalks gone Y.walks
    walkWait := leaveWalks gone Y.walkWait
    endedWalks := leaveEnded (fun _ a => gone a) Y.endedWalks }.admitWalks

/-- The device without the requests for host pages of askers who are gone; page requests stay with the host (R356). -/
def Dev.leave (d : Dev) (gone : Asker → Bool) : Dev :=
  { d with
    pageReqs := (d.pageReqs.map (fun r => { r with waiters := r.waiters.filter (fun w => !gone w.who) })).filter
      (fun r => !r.waiters.isEmpty) }

/-- Everything outside a strand that speaks of its slot, removed: heavy-core work, watches, notifications, requests. -/
def forgetSlot (p : Pos) : Act Unit := do
  let s ← getS
  let Y := s.yard p.yidx
  emit (.yard p.yidx
    { Y.leave (Asker.ofSlot p) with
      heavy := Y.heavy.forgetSlot p s.cycle
      watches := Y.watches.filter (fun w => w.pos != p)
      notes := Y.notes.filter (fun q => q != p) })
  modifyDev (fun d =>
    { d.leave (Asker.ofSlot p) with
      tenReqs := d.tenReqs.filter (fun r => r.pos != p || (match r.by_ with
        | .engine _ _ => true
        | _ => false))
      acquires := d.acquires.filter (fun q => q.w.pos != p)
      tlbWaits := d.tlbWaits.filter (fun q => q.1 != p)
      answers := d.answers.filter (fun a => a.src.1 != p)
      net := d.net.filterMap (fun k => match k.body with
        | .message m => some (if m.src.any (fun q => q.1 == p) then { k with body := .message { m with src := none } } else k)
        | .answer a => if a.src.1 = p then none else some k
        | .vector _ _ => some k
        | .traffic _ => some k)
      forwards := d.forwards.filter (fun f => f.2 != p)
      msgs := d.msgs.map (fun m => match m.src with
        | some (q, _) => if q = p then { m with src := none } else m
        | none => m) })
  modifyYard p.yidx (fun Y =>
    { Y with
      heldMsgs := Y.heldMsgs.map (fun m => match m.src with
        | some (q, _) => if q = p then { m with src := none } else m
        | none => m) })

/-- The tiles of a slot are freed (R193, R108). -/
def freeTiles (home : Pos) : Act Unit :=
  modifyHeavy home.yidx (fun H => { H with tiles := H.tiles.filter (fun t => t.owner != home) })

/-- A strand leaves its slot for good (R108 step 5, R436). -/
def removeStrand (x : Strand) : Act Unit := do
  forgetSlot x.pos
  freeTiles x.home
  clearSlot x.pos
  if x.pos.heavy then forgetSlot x.home else pure ()

/-- A team is killed (R436, R443). -/
def killTeam (tid code : Nat) (unit : Nat) (p : Pos) : Act Unit := do
  let s ← getS
  match s.team tid with
  | none => pure ()
  | some t => do
    forAll (s.teamStrands tid) removeStrand
    let g := s.grid t.grid
    match g with
    | some g =>
      postEvent g.tenant.toNat { HostEvent.of 3 code g.seq tid 0 with seq := g.seq }
    | none => pure ()
    reportRecord t.yidx (McRecord.of 3 code unit p tid s.cycle)
    -- the end waits for what is under way in the allotment (R234, R415), and nothing of the team starts any more
    if t.resident && (s.transferOf tid || s.rearranging tid) then modifyTeam tid (fun t => { t with killed := true })
    else endTeam tid true

/-! ### Saving tiles (R193, R195) -/

/-- Bytes of a physical tile. -/
def PhysTile.byte (t : PhysTile) (i : Nat) : Byte := t.data.extractLsb' (8 * i) 8

/-- Address offset of a tile save slot (R195, R401). -/
def saveOffset (index j : Nat) : Nat := 0x4000 + 0x8000 * index + 3072 * j

/-- The key of a byte of a save slot: the area as the supervisor may write or read it in device memory (R195). -/
def State.saveKey (s : State) (t : Team) (off : Nat) (write : Bool) : Option Nat :=
  (s.grid t.grid).bind (fun g =>
    let va := t.savebase.toNat + off
    match s.walk g.asid va with
    | some e => if e.hostLeaf || !e.r || (write && !e.w) then none else some (e.key va)
    | none => none)

/-- Writes bytes to a team's save slot; answers whether every byte could be written. -/
def writeSave (t : Team) : Nat → Nat → List Byte → Act Bool
  | 0, _, _ => return true
  | fuel + 1, off, bytes => do
    if bytes.isEmpty then return true
    else do
      let s ← getS
      let room := 4096 - (t.savebase.toNat + off) % 4096
      match s.saveKey t off true with
      | none => return false
      | some k => do
        clearPoison k (min room bytes.length)
        emit (.mem k (bytes.take room))
        writeSave t fuel (off + room) (bytes.drop room)

/-- A tile saved in its slot (R195): rows in the form held in the tile; the bytes beyond are unspecified. -/
def saveTile (t : Team) (index j : Nat) (cfg : TileCfg) (p : PhysTile) : Act Bool := do
  let fill ← freeBytes 3072
  writeSave t 3 (saveOffset index j) ((List.range 3072).map (fun i =>
    if i / 192 < cfg.rows && i % 192 < cfg.rb then p.byte i else fill.getD i 0))

/-- The physical tile that holds a register of a slot. -/
def Heavy.tileOf (H : Heavy) (home : Pos) (j : Nat) : Option PhysTile :=
  H.tiles.find? (fun t => t.owner == home && t.reg == BitVec.ofNat 3 j)

/-- One tile register drained: saved if dirty, and released (R193, R196). Answers the register and whether it could be
saved. -/
def drainReg (t : Team) (x : Strand) (j : Nat) (r : TileReg) : Act (TileReg × Bool) := do
  let s ← getS
  let y := x.home.yidx
  match r.cfg, (s.yard y).heavy.tileOf x.home j with
  | some cfg, some p => do
    let ok ← (if r.st = .dirty then saveTile t x.index.toNat j cfg p else return true)
    modifyHeavy y (fun H => { H with tiles := H.tiles.filter (fun q => q.idx != p.idx) })
    return ({ r with st := .spilled, phys := none }, ok)
  | _, _ => return (r, true)

/-! ### Swap-out (R402) -/

/-- Whether a team has a strand whose notification was delivered and that is still parked (R99). -/
def State.delivered (s : State) (tid : Nat) : Bool := (s.teamStrands tid).any (fun x => x.run == .parkedTrap true)

/-- A swap-out is requested (R91, R402 step 1). -/
def startSwap (tid : Nat) : Act Unit := do
  let s ← getS
  modifyTeam tid (fun t =>
    { t with where_ := .leaving (s.cycle + (s.yard t.yidx).regs.safewait.toNat % 2 ^ 32) })
  forAll (s.teamStrands tid) (fun x => modifyAt x.pos (fun x => { x with st := { x.st with safereq := true } }))

/-- The strand with the instructions issued under its unsettled instruction discarded, once nothing older is outstanding (R322,
R402): it stands at that instruction, and the numbers of the shipped ones are to be cancelled. -/
def Strand.discardUnder (x : Strand) : Option (Strand × List (BitVec 8)) :=
  match x.window with
  | [] => none
  | e :: rest => e.unsettled.map (fun u =>
      ({ x with
        arch := e.base
        run := u.why
        window := []
        pending := [] },
       (rest.filter (fun f => f.seq != 0#8 && !f.done)).map (fun f => f.seq)))

/-- Whether a strand has stopped for its swap-out: at a safe point, at a waiting instruction, or parked (R402). An activation before
MDONE has where it was forced to, its hold released. -/
def Strand.stoppedForSwap (x : Strand) : Bool :=
  x.settled && x.act.all (fun a => a.hold.isEmpty) && (!x.holding || x.stopped) && x.storeBuf.isEmpty && x.sent.all (fun n => n ≤ x.answers.length)
    && x.pair.all (fun p => p.count == 0 && p.buf.isEmpty && !p.exchanging)
    && (match x.run with
      | .moving _ _ => false
      | _ => true)
    && (x.resumeMask.isSome || x.stopped
      || (match x.run with
        | .waiting k => k == .cwait || k == .swait || k == .rdrecv
        | .parkedTrap _ => true
        | .trapWait => true
        | .pageWait => true
        | .walking => x.wait.isSome
        | .stalled => x.wait.isSome
        | _ => false))

/-- Whether a safe point's mask names a register (R59). -/
def maskNames (m : BitVec 27) : RegId → Bool
  | .s r => m.getLsbD (r.toNat / 4)
  | .v r => m.getLsbD (8 + r.toNat / 4)
  | .m _ => m.getLsbD 24

/-- Registers that a safe point's mask does not name hold unspecified values after the resume, which no error has struck (R59, R60). -/
def forgetRegs (a : Arch) (m : BitVec 27) (c : Nat) : Arch :=
  { a with
    s := Vector.ofFn (fun (i : Fin 32) => if i.val = 0 || m.getLsbD (i.val / 4) then a.s[i] else Config.freeWord (c * 256 + i.val))
    v := Vector.ofFn (fun (i : Fin 32) => if m.getLsbD (8 + i.val / 4) then a.v[i] else Config.freeVec (c * 256 + i.val))
    m := Vector.ofFn (fun (i : Fin 8) => if i.val = 0 || m.getLsbD 24 then a.m[i] else Config.freeWord (c * 256 + 128 + i.val))
    poisoned := a.poisoned.filter (maskNames m) }

/-- A strand as its save keeps it: at a safe point what the mask names, otherwise everything (R60, R196). Answers
whether its tiles could be saved. -/
def saveStrand (t : Team) (x : Strand) : Act (Strand × Bool) := do
  let live := fun (j : Nat) => match x.resumeMask with
    | some m => m.getLsbD (16 + j)
    | none => true
  let step := fun (acc : Vector TileReg 8 × Bool) (j : Fin 8) => do
    let r := acc.1[j]
    if live j.val then do
      let (r', ok) ← drainReg t x j.val r
      return (acc.1.set j r', acc.2 && ok && !x.poisonTiles.contains j.val)
    else do
      modifyHeavy x.home.yidx (fun H =>
        { H with tiles := H.tiles.filter (fun q => !(q.owner == x.home && q.reg == BitVec.ofNat 3 j.val)) })
      return (acc.1.set j TileReg.unconfigured, acc.2)
  let (tiles, ok) ← (List.finRange 8).foldlM step (x.tiles, true)
  let c ← freshFree
  let arch := match x.resumeMask with
    | some m => forgetRegs x.arch m c
    | none => x.arch
  let keep := fun (b : Nat) => match x.resumeMask with
    | some m => m.getLsbD b
    | none => true
  return ({ x with
    tiles := tiles
    arch := arch
    fmt := if keep 25 then x.fmt else ⟨0, false, 0, 0⟩
    binds := if keep 26 then x.binds else []
    fetchBuf := []
    stopped := false
    resumeMask := none }, ok)

/-- The poison of bytes copied goes with them, 64 bytes at a time (R431). -/
def carryPoison (src dst n : Nat) : Act Unit := do
  let s ← getS
  let hit := s.dev.poison.filter (fun b => src ≤ b * 64 && b * 64 + 64 ≤ src + n)
  if hit.isEmpty then pure ()
  else modifyDev (fun d => { d with poison := (d.poison ++ hit.map (fun b => (dst + (b * 64 - src)) / 64)).eraseDups })

/-- The allotment copied to its image in the save area, granule by granule (R226). -/
def saveImage (t : Team) (g : Grid) : Act Bool :=
  (List.range t.granules.length).foldlM (fun (ok : Bool) i => do
    let s ← getS
    let src := yardKey t.yidx (t.granules.getD i 0 * 4096)
    let bytes := s.mem.readBytes src 4096
    let r ← writeSave t 3 (g.imageOff + 4096 * i) bytes
    forAll (List.range 64) (fun k =>
      match s.saveKey t (g.imageOff + 4096 * i + 64 * k) true with
      | some dst => carryPoison (src + 64 * k) dst 64
      | none => pure ())
    return ok && r) true

/-- Bytes of a save area whose contents are stated and whose encoding is not (R401): unspecified bytes, the values standing in
the saved team (DESIGN CHOICE, log entry 60). Answers whether they could be written. -/
def writeOpaque (t : Team) (off n : Nat) : Act Bool := do
  let bytes ← freeBytes n
  writeSave t (n / 4096 + 2) off bytes

/-- The parts of a save area beside tiles and the image, by offset and length (R401, R404). -/
def Grid.tableParts (g : Grid) (strands : List Strand) (slots : List GranSlot) : List (Nat × Nat) :=
  [(0x80, 256), (0x180, 128), (0x200, 512), (0x400, 8192)] ++ slots.map (fun r => (g.granOff + 0x1000 * r.idx, 4096))
    ++ strands.map (fun x => (0x4000 + 0x8000 * x.index.toNat + 0x6000, 0x2000))

/-- What a swap-out writes to the save area beside tiles and the image (R205, R401, R402): the clock, the skew declarations,
mailboxes, triggers and queued activations, each nonempty granary slot in its internal form, and of every strand the rest of its
context, its bindings among it. -/
def saveTables (t : Team) (g : Grid) (strands : List Strand) (slots : List GranSlot) : Act Bool := do
  let oks ← collect (g.tableParts strands slots) (fun p => writeOpaque t p.1 p.2)
  return oks.all (fun b => b)

/-- The key of a trigger's or watch's counter for a team, from its address (R319, R325). -/
def State.counterKeyOf (s : State) (tid : Nat) (va key : Nat) : Nat :=
  if inAperture va then s.windowKey tid (va - apertureBase) else key

/-- The save of a team whose strands have all stopped (R402 steps 4 and 5). A save that fails kills the team (R195). -/
def saveTeam (tid : Nat) : Act Unit := do
  let s ← getS
  match s.team tid with
  | none => pure ()
  | some t =>
    match s.grid t.grid with
    | none => pure ()
    | some g => do
      let y := t.yidx
      let xs := s.teamStrands tid
      writeBackAll y true
      let (saved, ok) ← xs.foldlM (fun (acc : List Strand × Bool) x => do
        let (x', ok) ← saveStrand t x
        return (acc.1 ++ [x'], acc.2 && ok)) ([], true)
      let ok2 ← saveImage t g
      let s2 ← getS
      let ok3 ← saveTables t g xs ((s2.yard y).heavy.granary.filter (fun r => r.tid == tid))
      if !(ok && ok2 && ok3) then killTeam tid 0x50 1 (t.slotOf g.paired 0)
      else do
        let s ← getS
        let Y := s.yard y
        modifyDev (fun d =>
          { d with
            saved := d.saved.filter (fun v => v.tid != tid) ++
              [{ tid := tid, strands := saved, triggers := Y.triggers.filter (fun r => r.tid == tid),
                 actq := Y.actq.filter (fun a => a.tid == tid), skews := (Y.skews.filter (fun k => k.tid == tid && !k.leaving)).map (fun k => { k with busyUntil := 0 }),
                 granary := Y.heavy.granary.filter (fun r => r.tid == tid),
                 intents := d.intents.filter (fun i => i.tid == tid) }]
            intents := d.intents.filter (fun i => i.tid != tid) })
        modifyYard y (fun Y =>
          { Y with
            triggers := Y.triggers.filter (fun r => r.tid != tid)
            actq := Y.actq.filter (fun a => a.tid != tid)
            skews := Y.skews.filter (fun k => k.tid != tid)
            heavy := { Y.heavy with granary := Y.heavy.granary.filter (fun r => r.tid != tid) } })
        forAll xs (fun x => do
          forgetSlot x.pos
          clearSlot x.pos)
        modifyTeam tid (fun t =>
          { t with where_ := .saved, since := s.cycle, gains := [], quantumAt := none, lastTick := s.cycle - t.lastTick })
        sendMirror { t with where_ := .saved }

/-! ### Placement and swap-in (R397, R404) -/

/-- A team takes a yard's resources and a clock number (R225, R241, R397). Its `lastTick` becomes a cycle again. -/
def takeResources (t : Team) (g : Grid) (y : Nat) : Act Team := do
  let s ← getS
  let cores := (s.pickCores y g).getD []
  let slot := ((List.range 128).find? (fun c => !(s.residents y).any (fun u => u.clockSlot == c))).getD 0
  let gen := assocGet (0#8) (s.yard y).gens slot + 1
  let q := (s.yard y).regs.quantum.toNat % 2 ^ 32
  let t' : Team :=
    { t with
      where_ := .placed, yidx := y, cores := cores,
      granules := pickGranules (s.usedGranules y) cores g.granules, clockSlot := slot, clockGen := gen,
      quantumAt := if q = 0 then none else some (s.cycle + q), gains := [], since := s.cycle,
      lastTick := s.cycle - t.lastTick }
  modifyYard y (fun Y => { Y with gens := assocSet Y.gens slot gen })
  modifyTeam t.tid (fun _ => t')
  sendMirror t'
  -- what the team's new cores and yard cached before comes no earlier than its arrival (R294, R300)
  modifyYard y (fun Y => (Y.invalidate g.tenant false).invalidate g.tenant true)
  forAll cores (fun c => dropL1 (y, false, c))
  return t'

/-- A team's first placement (R224, R397): its allotment reads zero and its strands start. -/
def startTeam (t : Team) (g : Grid) (y : Nat) : Act Unit := do
  let t ← takeResources t g y
  forAll t.granules (fun k => do
    clearPoison (yardKey y (k * 4096)) 4096
    emit (.mem (yardKey y (k * 4096)) (List.replicate 4096 0)))
  let s ← getS
  forAll (List.range g.strands) (fun i => addStrand (s.entryStrand t g i g.entry g.params))

/-- A saved strand at its new position (R99, R189, R322, R404). -/
def Strand.restored (x : Strand) (t : Team) (g : Grid) : Strand :=
  let home := t.slotOf g.paired x.index.toNat
  let away := x.pos.heavy
  { x with
    pos := home
    home := home
    run :=
      match x.run with
      | .parkedTrap _ => .parkedTrap false
      | .trapWait => .trapWait
      | .slotWait => .slotWait
      | _ => if away then (if x.st.mig then .slotWait else .trapWait) else .ready
    nextSeq := 1
    st := { x.st with safereq := false }
    tiles := x.tiles.map (fun r => if r.st = .clean || r.st = .dirty then { r with st := .spilled, phys := none } else r)
    pair := x.pair.map (fun p => Pair.fresh x.arch |> fun q => { q with failed := p.failed }) }

/-- A team's swap-in (R404). Poison in what it reads of the save area beside the image, whose poison it copies, kills the team (R431,
R433). -/
def restoreTeam (t : Team) (g : Grid) (v : SavedTeam) (y : Nat) : Act Unit := do
  let old := t.yidx
  let s ← getS
  let image := (List.range t.granules.length).map (fun i => s.readTeam t.tid (4096 * i) 4096)
  let blocks := (List.range (64 * t.granules.length)).map (fun k => s.teamKey t.tid (64 * k))
  let bad := (g.tableParts v.strands v.granary).any (fun p => (List.range (p.2 / 64)).any (fun i =>
    (s.areaKey t (p.1 + 64 * i)).any (fun k => s.poisoned [(k, 64)])))
  let t ← takeResources t g y
  forAll image.zipIdx (fun e => do
    clearPoison (yardKey y (t.granules.getD e.2 0 * 4096)) 4096
    emit (.mem (yardKey y (t.granules.getD e.2 0 * 4096)) e.1))
  forAll blocks.zipIdx (fun e => match e.1 with
    | some src => carryPoison src (yardKey y (t.granules.getD (e.2 / 64) 0 * 4096 + e.2 % 64 * 64)) 64
    | none => pure ())
  let s ← getS
  let key := fun (r : Trigger) => s.counterKeyOf t.tid r.va.toNat r.key
  let trigs := v.triggers.map (fun r => { r with key := key r })
  let due := trigs.filter (fun r => !r.fired && r.target.toNat ≤ s.counter r.key)
  modifyYard y (fun Y =>
    { Y with
      triggers := Y.triggers ++ trigs.map (fun r => { r with fired := r.fired || r.target.toNat ≤ s.counter r.key })
      actq := Y.actq ++ v.actq ++ due.map (fun r => ⟨r.tid, .trigger r.entry r.arg (isYardMem r.key) r.token, 0⟩)
      skews := Y.skews ++ v.skews
      heavy := { Y.heavy with granary := Y.heavy.granary ++ v.granary } })
  modifyDev (fun d =>
    { d with
      saved := d.saved.filter (fun w => w.tid != t.tid)
      intents := d.intents ++ v.intents.map (fun i =>
        { i with agent := if i.agent = old then y else if i.agent = 64 + old then 64 + y else i.agent }) })
  forAll v.strands (fun x => do
    let x' := x.restored t g
    addStrand x'
    if x'.run = .slotWait || x'.run = .trapWait || (x'.run = .parkedTrap false && x'.st.mig) then
      modifyHeavy y (fun H => { H with ownWait := H.ownWait ++ [x'.pos] })
    else pure ()
    if x'.run = .parkedTrap false then modifyYard y (fun Y => { Y with notes := Y.notes ++ [x'.pos] }) else pure ())
  if bad then killTeam t.tid 0x50 1 (t.slotOf g.paired 0) else pure ()

/-- A pending team takes its place at a yard. -/
def placeTeam (t : Team) (g : Grid) (y : Nat) : Act Unit := do
  let s ← getS
  match s.savedTeam t.tid with
  | some v => restoreTeam t g v y
  | none => startTeam t g y

/-! ### Launch records (R392, R393) -/

/-- The fields of a launch record. -/
structure Record where
  entry : Word
  params : Word
  dims : List Nat
  strands : Nat
  yardmem : Nat
  granary : Nat
  ctl : BitVec 16
  done : Word
  incr : Nat
  seq : Nat
  ovf : Word
  ovfsize : Nat
  rest : Nat
deriving DecidableEq, Repr

/-- A record's 64 bytes read. -/
def Record.of (b : List Byte) : Record :=
  let f := fun (o n : Nat) => leValue ((b.drop o).take n)
  { entry := BitVec.ofNat 64 (f 0 8), params := BitVec.ofNat 64 (f 8 8), dims := [f 16 2, f 18 2, f 20 2],
    strands := f 22 2, yardmem := f 24 4, granary := f 28 2, ctl := BitVec.ofNat 16 (f 30 2),
    done := BitVec.ofNat 64 (f 32 8), incr := f 40 4, seq := f 44 4, ovf := BitVec.ofNat 64 (f 48 8), ovfsize := f 56 4,
    rest := f 60 4 }

def Record.tenant (r : Record) : BitVec 4 := r.ctl.extractLsb' 8 4
def Record.paired (r : Record) : Bool := r.ctl.getLsbD 4
def Record.teams (r : Record) : Nat := r.dims.foldl (fun a b => a * b) 1

/-- Validity in an address space (R393). -/
def Record.valid (r : Record) (tenant : BitVec 4) : Bool :=
  r.entry.toNat < 2 ^ 56 && r.entry.extractLsb' 0 2 == 0#2 && r.dims.all (fun n => 1 ≤ n)
    && 1 ≤ r.strands && r.strands ≤ (if r.paired then 512 else 1024) && r.yardmem ≤ 4190208 && r.granary ≤ 512
    && r.ctl.extractLsb' 5 3 == 0#3 && r.ctl.extractLsb' 12 4 == 0#4 && r.tenant == tenant
    && r.done.extractLsb' 0 3 == 0#3 && r.ovf.extractLsb' 0 6 == 0#6
    && (if r.ovf = 0 then r.ovfsize == 0 else r.ovfsize % 64 == 0 && 128 ≤ r.ovfsize) && r.rest == 0

/-- Bytes of a team's save area (R401). -/
def Grid.areaSize (g : Grid) : Nat := g.imageOff + 4096 * g.granules

/-- The grid of an admitted record. -/
def Record.grid (r : Record) (gid : Nat) (asid : BitVec 16) (queue : Option (Nat × Nat × Nat)) : Grid :=
  { gid := gid, entry := r.entry, params := r.params, strands := r.strands, yardmem := r.yardmem, granary := r.granary,
    prio := (r.ctl.extractLsb' 0 3).toNat, nomatrix := r.ctl.getLsbD 3, paired := r.paired, tenant := r.tenant,
    asid := asid, done := r.done, incr := r.incr, seq := r.seq, ovf := r.ovf, ovfsize := r.ovfsize, order := gid,
    left := r.teams, queue := queue }

/-- The runs of device memory behind a virtual range: key and length (R401). -/
def State.runsOf (s : State) (asid : BitVec 16) (base n : Nat) : List (Nat × Nat) :=
  (List.range ((base + n + 4095) / 4096 - base / 4096)).filterMap (fun i =>
    let lo := max base ((base / 4096 + i) * 4096)
    let hi := min (base + n) ((base / 4096 + i + 1) * 4096)
    (s.devicePage asid lo).map (fun p => (p * 4096 + lo % 4096, hi - lo)))

/-- Whether two lists of runs share no byte. -/
def runsApart (a b : List (Nat × Nat)) : Bool := a.all (fun p => b.all (fun q => p.1 + p.2 ≤ q.1 || q.1 + q.2 ≤ p.1))

/-- The save areas that stand: those of the teams that exist. -/
def State.areas (s : State) : List (List (Nat × Nat)) :=
  s.dev.teams.filterMap (fun t => (s.grid t.grid).map (fun g => s.runsOf g.asid t.savebase.toNat g.areaSize))

/-- Whether the supervisor has mapped a save area in its range as R401 has it: over device DRAM below the supervisor region
(R449) that no other save area has. -/
def State.areaMapped (s : State) (asid : BitVec 16) (base n : Nat) : Bool :=
  base % 64 == 0 && 0x00FFFE0000000000 ≤ base && base + n ≤ 0x00FFFF0000000000
    && (s.runsOf asid base n).all (fun r => r.1 + r.2 ≤ 0x7FE0000000)
    && s.areas.all (fun a => runsApart a (s.runsOf asid base n))
    && (List.range ((base + n + 4095) / 4096 - base / 4096)).all (fun i =>
      match s.walk asid ((base / 4096 + i) * 4096) with
      | some e => e.r && e.w && e.x && !e.hostLeaf
      | none => false)

/-- The team of a linear index at its admission (R240, R395). -/
def Team.admitted (tid : Nat) (g : Grid) (lin : Nat) (base : Word) (now : Nat) : Team :=
  { tid := tid, grid := g.gid, lin := lin, where_ := .pending, yidx := 0, cores := [], granules := [], savebase := base,
    clk := 0, period := 4096, ticks := List.replicate 16 (4096, 1), lastTick := 0, clockSlot := 0, clockGen := 0,
    mbwait := 16384, mmask := 0, nextToken := 1, since := now, quantumAt := none, prio := g.prio, gains := [],
    homeYard := none, statWaits := [], killed := false }

/-- A team number that no team has, from a candidate on, and never 0 (R400). -/
def freshTid (used : List Nat) : Nat → Nat → Nat
  | 0, n => n
  | fuel + 1, n =>
    let n := if n % 2 ^ 32 = 0 then 1 else n % 2 ^ 32
    if used.contains n then freshTid used fuel (n + 1) else n

/-- Numbers for new teams. -/
def freshTids (used : List Nat) (next : Nat) : Nat → List Nat
  | 0 => []
  | k + 1 =>
    let n := freshTid used (used.length + 1) next
    n :: freshTids (n :: used) (n + 1) k

/-- The numbers of the next teams to be admitted. -/
def State.newTids (s : State) (k : Nat) : List Nat := freshTids (s.dev.teams.map (fun t => t.tid)) s.dev.nextTid k

/-- A valid record is admitted (R395, R401): `bases` holds the supervisor's save areas in order of the linear team index,
where it could allot them all. -/
def admitRecord (r : Record) (asid : BitVec 16) (queue : Option (Nat × Nat × Nat)) (bases : List Word) : Act Unit := do
  let s ← getS
  let gid := s.dev.nextGrid
  let g := r.grid gid asid queue
  forAll bases (fun b => match (s.devicePage asid (b.toNat + 0x2400)) with
    | some p => emit (.mem (p * 4096 + (b.toNat + 0x2400) % 4096) (leBytes 4 0x06000004))
    | none => pure ())
  let tids := s.newTids bases.length
  let teams := (bases.zip tids).zipIdx.map (fun e => Team.admitted e.1.2 g e.2 e.1.1 s.cycle)
  modifyDev (fun d =>
    { d with
      nextGrid := gid + 1
      nextTid := (tids.getLast?.map (fun n => n + 1)).getD d.nextTid
      grids := d.grids ++ [g]
      teams := d.teams ++ teams })
  forAll teams (fun t => do
    let _ ← writeOpaque t 0 64)

/-- A record that is dropped is reported (R395, R401). -/
def dropRecord (f : Nat) (seq reason : Nat) (queue : Option (Nat × Nat × Nat)) : Act Unit := do
  postEvent f (HostEvent.of 2 reason seq 0 0)
  match queue with
  | some (f, q, i) => completeRecord f q i
  | none => pure ()

/-- A record taken from a queue: admitted, or dropped with its reason. `bases` is empty where the supervisor cannot allot
the save areas. -/
def takeRecord (b : List Byte) (asid : BitVec 16) (queue : Option (Nat × Nat × Nat)) (bases : List Word)
    (name : String) : Act Unit := do
  let s ← getS
  let r := Record.of b
  let sp := s.spaceOf asid
  if !r.valid sp.tenant then do
    require bases.isEmpty name
    dropRecord sp.tenant.toNat r.seq 4 queue
  else if bases.isEmpty then dropRecord sp.tenant.toNat r.seq 5 queue
  else do
    let g := r.grid 0 asid queue
    require (bases.length == r.teams) name
    require (bases.all (fun b => s.areaMapped asid b.toNat g.areaSize)) name
    let areas := bases.map (fun b => s.runsOf asid b.toNat g.areaSize)
    require (areas.zipIdx.all (fun a => areas.zipIdx.all (fun b => a.2 == b.2 || runsApart a.1 b.1))) name
    admitRecord r asid queue bases

end Sys2Proof.Machine
end

