-- ==== Sys2Proof/Machine/Contain.lean ====
section
/-! DEFINITION. Containment of errors (R433-R438): rollback of activations, kill of teams, device faults. -/
namespace Sys2Proof.Machine

/-- A host launch queue with the key of its header, as its address space has it. -/
def State.findHeader (s : State) (q : HostQueue) : HostQueue :=
  { q with header := (s.devicePage q.asid q.va.toNat).map (fun p => p * 4096 + q.va.toNat % 4096) }

/-- A function after a device fault (R426, R451): its launch queues, its event ring, and what the PCI Express function itself holds
stand; nothing else does (DEDUCED, log entry 24). -/
def State.funcAfterFault (s : State) (f : Func) : Func :=
  { Func.reset with
    eqbase := f.eqbase, eqsize := f.eqsize, eqwr := f.eqwr, eqrd := f.eqrd, eqlost := f.eqlost,
    backlog := f.backlog, queues := f.queues.map (fun e => (e.1, s.findHeader e.2)), atomicOps := f.atomicOps }

/-- The device's routers at a reset, which counts as a flit (R371). -/
def routersAt (now : Nat) : List (Nat × Router) :=
  if now = 0 then [] else (List.range 64).map (fun t => (t, { Router.reset with idleSince := now }))

/-- The device after a fault of the whole of it (R426, R438, R451): every unit is reset but DRAM, the identity record, the PCI Express
link and functions, and the host queues; a recovery reset begins. The counters of the model's own go on. -/
def State.devAfterFault (s : State) (r : McRecord) : Dev :=
  let d := s.dev
  { Dev.reset with
    boot := { BringUp.reset with recovery := true }
    ident := d.ident
    funcs := d.funcs.map (fun e => (e.1, s.funcAfterFault e.2))
    routers := routersAt s.cycle
    vfEnable := d.vfEnable
    poison := d.poison.filter (fun b => isDram (b * 64))
    hostLinkUp := d.hostLinkUp
    faultRec := some r
    freeCtr := d.freeCtr }

/-- A device fault (R438): what stands in caches alone is lost (R426). -/
def deviceFault (r : McRecord) : Act Unit := do
  loseCaches
  let s ← getS
  emit (.dev (s.devAfterFault r))
  forAll s.yards (fun e => emit (.yard e.1 Yard.reset))
  forAll s.cores (fun e => emit (.core e.1 Core.reset))
  emit (.others [])
  emit (.strand (Strand.emptyAt (supPos 0)))
  emit (.touches [])

/-- The activation of a strand starts again from its record or its firing (R434). -/
def Activation.again (a : Activation) (tid : Nat) : ActReq := ⟨tid, a.src, a.rollbacks + 1⟩

/-- Whether a strand can be rolled back as an activation (R433, R434). -/
def Strand.canRollBack (x : Strand) : Bool :=
  match x.act with
  | some a => !a.mdone && !a.released && x.sent.isNone && a.rollbacks < 2
  | none => false

/-- Containment of an error in a strand (R433): rollback of an activation, kill of its team, or a device fault. -/
def contain (x : Strand) (code unit : Nat) : Act Unit := do
  let s ← getS
  if x.st.sup || x.tid = 0 then deviceFault (McRecord.of 7 code unit x.pos x.tid s.cycle)
  else if x.canRollBack then
    match x.act with
    | none => pure ()
    | some a => do
      removeStrand x
      modifyYard x.home.yidx (fun Y => { Y with actq := a.again x.tid :: Y.actq })
      reportRecord x.home.yidx (McRecord.of 2 code unit x.pos x.tid s.cycle)
  else killTeam x.tid code unit x.pos

end Sys2Proof.Machine
end

