-- ==== Sys2Proof/Machine/Ops.lean ====
section
/-! DEFINITION. Issue and completion of instructions: the shipped window (R57, R169-R175), traps and the return from
them (R93-R99, R114), safe points (R60), pairs (R439-R441), and the wrapper that every instruction's meaning goes
through. -/
namespace Sys2Proof.Machine

/-! ### Own slots of the heavy core (R88, R189) -/

/-- An own slot of a yard. -/
def ownSlot (y i : Nat) : Pos := ⟨y, true, 0, i⟩

/-- Whether a strand is on its way to a slot. -/
def RunState.movesTo (r : RunState) (p : Pos) : Bool :=
  match r with
  | .moving _ d => d == p
  | _ => false

/-- The lowest free own slot among 1 to 3 (which of the free ones is DESIGN CHOICE, log entry 89). -/
def State.freeOwn (s : State) (y : Nat) : Option Pos :=
  ([1, 2, 3].map (ownSlot y)).find? (fun p => !s.strands.any (fun x => (x.pos == p && x.run != .empty) || x.run.movesTo p))

/-- The own slot that a new request gets (R189): none while others wait for one. -/
def State.ownFor (s : State) (y : Nat) : Option Pos :=
  if (s.yard y).heavy.ownWait.isEmpty then s.freeOwn y else none

/-! ### The shipped window -/

/-- Counts subtracted. -/
def EvCounts.sub (a b : EvCounts) : EvCounts := ⟨a.nv - b.nv, a.dz - b.dz, a.ofl - b.ofl, a.uf - b.uf, a.np - b.np⟩

/-- Registers with the oldest held stores and the events counted with them taken out. -/
def Arch.taken (a : Arch) (n : Nat) (e : EvCounts) : Arch := { a with held := a.held.drop n, ev := a.ev.sub e }

/-- Stores of a commit buffer become the strand's (R171). -/
def commitStores (l : List (List HeldStore)) : Act Unit := forAll l (fun sts => modifyMe (fun x => x.commitStore sts))

/-- Events added to the counters of the strand's core (R45). -/
def countAtCore (e : EvCounts) : Act Unit := do
  let x ← getMe
  if e = EvCounts.zero then pure () else modifyCore (coreKey x.pos) (fun c => { c with ev := c.ev.add e })

/-- The sequence numbers of entries that are still outstanding. -/
def outstandingSeqs (l : List WEntry) : List (BitVec 8) := (l.filter (fun e => !e.done && e.seq != 0#8)).map (fun e => e.seq)

/-- A cancel packet for entries of the strand's window (R173, R174). -/
def sendCancel (l : List WEntry) : Act Unit := do
  let x ← getMe
  let seqs := outstandingSeqs l
  if seqs.isEmpty then pure ()
  else modifyHeavy x.pos.yidx (fun H => { H with cancels := H.cancels ++ [⟨x.pos, seqs⟩] })

/-- Whether a strand's safe points stop it (R60, R402 step 3). -/
def Strand.stopsAtSafePoint (x : Strand) : Bool := x.st.safereq && !x.holding

/-- The results of outstanding local instructions, written (R57). -/
def Strand.flushPending (x : Strand) : Strand :=
  { (x.pending.foldl (fun x p => p.effs.foldl Strand.applyReg x) x) with pending := [] }

/-- The strand's pair begins an exchange (R440). -/
def Strand.exchange (x : Strand) : Strand :=
  { x with run := .agreeing, pair := x.pair.map (fun p => { p with exchanging := true }) }

/-- A strand that has stopped at a safe point: in a pair, its interval is agreed first (R441). -/
def Strand.agreeFirst (x : Strand) : Strand := if x.pair.isSome then x.exchange else x

/-- The strand stops with the registers it has after a safe point: everything younger is discarded (R60). -/
def stopAfter (a : Arch) (m : BitVec 27) (younger : List WEntry) : Act Unit := do
  sendCancel younger
  modifyMe (fun x => ({ x with arch := a, window := [], resumeMask := some m }).flushPending)
  commitStores a.held
  countAtCore a.ev
  modifyMe (fun x => { x with arch := { x.arch with held := [], ev := EvCounts.zero } }.agreeFirst)

/-- Whether nothing is outstanding of an entry once nothing precedes it: a SHIPW and a held fault (number 0) are over then, an
unsettled instruction is not. -/
def WEntry.over (e : WEntry) : Bool := e.done || (e.seq == 0#8 && e.unsettled.isNone)

/-- The oldest entries whose results have all arrived. -/
def donePrefix : List WEntry → List WEntry
  | [] => []
  | e :: rest => if e.over then e :: donePrefix rest else []

/-- The held entries that no outstanding instruction precedes become architectural (R171); a safe point among them stops
the strand where SAFEREQ asks for it (R60). -/
def commitWindow : Act Unit := do
  let x ← getMe
  let pre := donePrefix x.window
  let rest := x.window.drop pre.length
  match (if x.stopsAtSafePoint then pre.find? (fun e => e.safePoint.isSome) else none) with
  | some e => stopAfter e.base (e.safePoint.getD 0) rest
  | none => do
    let base := match rest with
      | [] => x.arch
      | e :: _ => e.base
    let n := base.held.length
    commitStores base.held
    countAtCore base.ev
    modifyMe (fun x =>
      { x with
        arch := x.arch.taken n base.ev
        window := rest.map (fun e => { e with base := e.base.taken n base.ev }) })

/-! ### Taking a trap (R93-R99) -/

/-- Whether K.TRAPMIG migrates a cause (R96): the remote bit is ignored, bit 60 stands for 0x48. -/
def trapMigrates (w : Word) (cause : BitVec 8) : Bool :=
  let c := (cause.extractLsb' 0 7).toNat
  if c = 0x48 then w.getLsbD 60 else c < 0x40 && w.getLsbD c

/-- The trap registers of a trap (R94, R95). -/
def TrapRegs.of (cause : BitVec 8) (pcw : BitVec 62) (faddr : Word) (ilen : BitVec 2) (squash : Nat) (hy : Nat)
    (seq : BitVec 8) : TrapRegs :=
  { code := cause, pc := pcw.extractLsb' 0 54, addr := faddr, ilen := ilen, squash := BitVec.ofNat 4 squash,
    hyidx := BitVec.ofNat 6 hy, seq := seq }

/-- The strand with a trap taken: nothing of its instruction is under way. -/
def Strand.trapped (x : Strand) (t : TrapRegs) (run : RunState) : Strand :=
  { x with trap := t, run := run, wait := none, sent := none, answers := [] }

/-- The strand in its handler (R96): supervisor mode at K.EVBASE, in the address space it had. -/
def Strand.inHandler (x : Strand) (evbase : Word) : Strand :=
  { x with
    st := { x.st with sup := true, migt := true }
    arch := { x.arch with pcw := pcwOf evbase }
    fetchBuf := []
    trapFrom := x.pos
    trapAsid := (x.modes.asid, x.modes.pasid, x.modes.tenant) }

/-- The asker of a walk or of a host page is the strand, for an instruction at its own core. -/
def Strand.asks (x : Strand) : Asker → Bool
  | .strand p h _ => p == x.pos && h == x.pos.heavy
  | _ => false

/-- A trap of the strand in the focus routed (R94, R96): the trap registers are written, and the strand parks with a
notification, continues in its handler, or moves there. -/
def routeTrap (t : TrapRegs) : Act Unit := do
  let s ← getS
  let x := s.me
  let y := x.pos.yidx
  modifyDev (fun d => ((d.dropReqs x.pos .access).dropReqs x.pos .tacq).leave x.asks)
  modifyYard y (fun Y => (Y.unwatch x.pos).leave x.asks)
  if trapMigrates (s.yard y).regs.trapmig t.code then
    let h := fun (run : RunState) => (x.trapped t run).inHandler (s.yard y).regs.evbase
    if x.pos.heavy then emit (.strand (h .ready))
    else
      match s.ownFor y with
      | some p => emit (.strand (h (.moving (s.cycle + 48) p)))
      | none => do
        emit (.strand (h .trapWait))
        modifyHeavy y (fun H => { H with ownWait := H.ownWait ++ [x.pos] })
  else do
    emit (.strand (x.trapped t (.parkedTrap false)))
    modifyYard y (fun Y => { Y with notes := Y.notes ++ [x.pos] })

/-- Whether a pair must agree before it goes on (R440). -/
def Strand.mustAgree (x : Strand) : Bool :=
  match x.pair with
  | some p => p.count != 0 || !p.buf.isEmpty || p.bad
  | none => false

/-- A local fault in a shipped window (R93): the instruction counts among those of the window and holds back what follows;
it issues again once nothing precedes it. -/
def Strand.heldFault (x : Strand) (pcw : BitVec 62) : Strand :=
  let y := x.countIssue
  { y with
    run := .stalled
    arch := { y.arch with pcw := pcw }
    window := y.window ++ [{ seq := 0, dests := [], mask := 0, la := 0, left := 0, ilen := 0, done := false,
                             safePoint := none, base := x.arch, acq := false, unsettled := none }] }

/-- TakeTrap (R94) for a local cause at the strand's instruction: it waits until every older shipped instruction has
returned (R93) and, in a pair, for its agreement; in supervisor mode it is a machine check (R97), and consumed poison,
cause 0x50, is contained instead (R432). `squash` counts the younger instructions that it squashed (R95). -/
def takeTrap (pcw : BitVec 62) (cause : BitVec 8) (faddr : Word) (ilen : BitVec 2) (squash : Nat) : Act Unit := do
  let s ← getS
  let x := s.me
  if !x.window.isEmpty then emit (.strand (x.heldFault pcw))
  else if x.mustAgree then emit (.strand ({ x with arch := { x.arch with pcw := pcw } }).exchange)
  else do
    emit (.strand { x.flushPending with arch := { x.flushPending.arch with pcw := pcw } })
    if x.st.sup then deviceFault (McRecord.of 7 (if cause = 0x50#8 then 0x50 else 0) (if cause = 0x50#8 then faddr.toNat % 2 ^ 63 else 6) x.pos x.tid s.cycle)
    else if cause = 0x50#8 then modifyMe (fun x => { x with run := .consumed (faddr.toNat % 2 ^ 63) })
    else routeTrap (TrapRegs.of cause pcw faddr ilen squash 0 0)

/-! ### Return from a trap (R114) -/

/-- A pair's agreed point moves to where the strand stands (R441): what is outstanding there belongs to it. -/
def Strand.agreeHere (x : Strand) : Strand :=
  { x with
    pending := if x.pair.isSome then x.pending.map (fun q => { q with agreed := true }) else x.pending
    pair := x.pair.map (fun p =>
      { p with
        agreed := x.arch, count := 0, fp := 0, failed := false, since := (x.window.head?.map (fun e => e.seq)).getD 0 }) }

/-- ERET of the executing strand: user mode again, in the address space of the trap, where the context was. -/
def returnFromTrap (target : Word) : Act Unit := do
  let s ← getS
  let x := s.me
  let x' := { x with
    st := { x.st with sup := false, migt := false }
    modes := { x.modes with asid := x.trapAsid.1, pasid := x.trapAsid.2.1, tenant := x.trapAsid.2.2 }
    arch := { x.arch with pcw := pcwOf target }
    fetchBuf := [] }
  emit (.strand (if x.st.mig then x'.agreeHere else { x'.agreeHere with run := .moving (s.cycle + 48) x.home }))

/-- ERET of a parked strand (R114): it becomes Ready at the target; one that was saved at the heavy core waits for an own
slot first (R189). -/
def resumeParked (p : Pos) (target : Word) : Act Unit := do
  let s ← getS
  let away := match s.at? p with
    | some x => x.st.mig && !p.heavy
    | none => false
  modifyAt p (fun x =>
    ({ x with run := if away then .slotWait else .ready, arch := { x.arch with pcw := pcwOf target }, fetchBuf := [] }).agreeHere)
  if away then modifyHeavy p.yidx (fun H => { H with ownWait := if H.ownWait.contains p then H.ownWait else H.ownWait ++ [p] })
  else pure ()

/-! ### Pairs (R439-R441) -/

/-- One bit of CRC-64, polynomial 0x42F0E1EBA9EA3693 (R440). -/
def crcBit (c : BitVec 64) (b : Bool) : BitVec 64 :=
  if c.msb != b then (c <<< 1) ^^^ 0x42F0E1EBA9EA3693#64 else c <<< 1

/-- A byte, most significant bit first. -/
def crcByte (c : BitVec 64) (x : Byte) : BitVec 64 :=
  [7, 6, 5, 4, 3, 2, 1, 0].foldl (fun c i => crcBit c (x.getLsbD i)) c

/-- The bytes of the fingerprint that an effect gives (R440). -/
def Eff.fingerBytes : Eff → List Byte
  | .reg (.s r x) => BitVec.ofNat 8 r.toNat :: leBytes 8 x.toNat
  | .reg (.v r x) => BitVec.ofNat 8 (64 + r.toNat) :: leBytes 64 x.toNat
  | .reg (.m r x) => BitVec.ofNat 8 (128 + r.toNat) :: leBytes 8 x.toNat
  | .store sts => sts.flatMap (fun h => leBytes 8 h.va.toNat ++ h.bytes)
  | _ => []

/-- A pair after one more retired instruction with its effects in order (R440). -/
def Pair.retired (p : Pair) (log : List Eff) : Pair :=
  { p with count := p.count + 1, fp := (log.flatMap Eff.fingerBytes).foldl crcByte p.fp }

/-- A pair after register writes that return to it, which its fingerprint takes in then (R440; DESIGN CHOICE, log entry 79). -/
def Pair.returned (p : Pair) (effs : List RegEff) : Pair :=
  { p with fp := (effs.flatMap (fun e => (Eff.reg e).fingerBytes)).foldl crcByte p.fp }

/-- An instruction of a pair may issue, or an exchange comes first (R440): `beyond` tells that the instruction is
performed after agreement. -/
def checkPair (beyond : Bool) : Act Unit := do
  let x ← getMe
  match x.pair with
  | none => pure ()
  | some p =>
    if p.exchanging then suspendAs .agreeing []
    else if (beyond && x.mustAgree) || 1024 ≤ p.count then closeInterval x p
    else pure ()

/-- Entries of a pair buffer that stores of ranges of bytes take: one each, and a second one where a vector may cross a page. -/
def pairEntries (l : List (Word × Nat)) : Nat := (l.map (fun r => if 8 < r.2 then 2 else 1)).sum

/-- Room in the pair buffer for stores of ranges of bytes beside those of its window, or its interval closes first (R439, R440):
`under` gives the ranges that an unsettled store will write. -/
def pairRoom (under : Instr → Arch → List (Word × Nat)) (l : List (Word × Nat)) : Act Unit := do
  let x ← getMe
  match x.pair with
  | none => pure ()
  | some p =>
    let held := x.arch.held.flatten.length
      + (x.window.map (fun e => match e.unsettled with
        | some u => pairEntries (under u.instr e.base)
        | none => 0)).sum
    if p.buf.isEmpty && held = 0 then pure ()
    else if p.buf.length + held + pairEntries l ≤ 128 then pure ()
    else closeInterval x p

/-! ### Issue and retirement -/

/-- Whether an instruction may issue (R57, R60, R169): `beyond` tells that its effect reaches beyond the strand's
registers and its own stores, `side` that it is a side-effecting form that is shipped (R168), which only a pair holds
back (R439). -/
def checkIssue (beyond side : Bool) : Act Unit := do
  let x ← getMe
  if x.resumeMask.isSome || x.stopped then stall
  else if x.window.any (fun e => !e.done && e.left == 0) || x.pending.any (fun p => p.left == 0) then stall
  else if beyond && !x.window.isEmpty then stall
  else checkPair (beyond || side)

/-- The retirement of an instruction (R60, R440): in a window it is held, and a safe point keeps its place there. One that
a pair performs after agreement moves the agreed point (R441). -/
def retire (agreed : Bool) (sp : SafePoint) : Act Unit := fun r =>
  (do
    match r.s.me.pair with
    | some p =>
      if agreed then modifyMe Strand.agreeHere
      else modifyMe (fun x => { x with pair := some (p.retired r.log.reverse) })
    | none => pure ()
    match sp with
    | none => pure ()
    | some m => do
      let x ← getMe
      if !x.window.isEmpty then
        emit (.strand { x with
          window := x.window ++ [{ seq := 0, dests := [], mask := 0, la := 16, left := 16, ilen := 0, done := true,
                                   safePoint := some m, base := x.arch, acq := false,
                                   unsettled := none }] })
      else if x.stopsAtSafePoint then emit (.strand ({ x with resumeMask := some m }).agreeFirst)
      else pure () : Act Unit) r

/-- The strand that a suspended instruction leaves, as it stood before the instruction issued: at it, with the lookahead counts that
it had then. -/
def Strand.unissued (x : Strand) (before : Strand) : Strand :=
  { x with arch := { x.arch with pcw := before.arch.pcw }, window := before.window, pending := before.pending }

/-- A strand held back in a run state at its instruction. -/
def heldBack (s : State) (effs : List Eff) (run : RunState) : List Eff :=
  effs ++ [.strand { (applyAll s effs).me.unissued s.me with run := run }]

/-- The effects of a program that ends, whatever its end: its own, those of the trap it raises, or those of its wait. -/
def outcomeEffs (ilen : BitVec 2) (s : State) : Except Stop (Unit × Run) → Except Refusal (List Eff)
  | .ok (_, r) => .ok r.log.reverse
  | .error (.suspend run effs) => .ok (heldBack s effs run)
  | .error .hazard => .ok (heldBack s [] .stalled)
  | .error (.refuse r) => .error r
  | .error (.trap c f keep) =>
    match takeTrap s.me.arch.pcw c f ilen 0 ⟨applyAll s keep, []⟩ with
    | .error .hazard => .ok (heldBack s [] .stalled)
    | .ok (_, r) => .ok (keep ++ r.log.reverse)
    | .error (.suspend run effs) => .ok (keep ++ heldBack (applyAll s keep) effs run)
    | .error (.refuse r) => .error r
    | .error (.trap _ _ _) => .ok (heldBack s [] .stalled)

/-- The outcome of a program run in a state. -/
def runAct (ilen : BitVec 2) (p : Act Unit) (s : State) : Host.Outcome State Fault Refusal :=
  match outcomeEffs ilen s (p ⟨s, []⟩) with
  | .ok effs => .next (applyAll s effs)
  | .error r => .refused r

/-- Words of an instruction: base, extension, mask word (R47). -/
def words (x : Bool) (sp : SafePoint) : Nat := 1 + (if x then 1 else 0) + (if sp.isSome then 1 else 0)

/-- A strand none of whose registers is poisoned. -/
def Strand.clean (x : Strand) : Strand := { x with arch := { x.arch with poisoned := [] } }

/-- A body whose registers are all free when it consumes a poisoned one: an instruction that names a register of an outstanding
one does not issue (R57), poison of another of its registers or not (R432). -/
def freeFirst (body : Act Unit) : Act Unit := fun r =>
  match body r with
  | .error (.trap c f keep) =>
    if c = 0x50#8 then
      match body { r with s := { r.s with me := r.s.me.clean } } with
      | .error .hazard => .error .hazard
      | _ => .error (.trap c f keep)
    else .error (.trap c f keep)
  | o => o

/-- An instruction of `len` words: it issues, the program counter moves past it (R47), its body takes effect, and it
retires. -/
def instrProg (len : Nat) (beyond side : Bool) (sp : SafePoint) (body : Act Unit) : Act Unit := do
  checkIssue beyond side
  let x ← getMe
  emit .issued
  emit (.pc (x.arch.pcw + BitVec.ofNat 62 len))
  freeFirst body
  retire (beyond || side) sp

/-- The meaning of an instruction with or without an extension word. -/
def instr (ext beyond : Bool) (sp : SafePoint) (body : Act Unit) (s : State) : Host.Outcome State Fault Refusal :=
  runAct (BitVec.ofNat 2 (words ext sp)) (instrProg (words ext sp) beyond false sp body) s

/-- The meaning of a form of class H, which may issue in a window; `side` as in `checkIssue`. -/
def instrH (ext side : Bool) (sp : SafePoint) (body : Act Unit) (s : State) : Host.Outcome State Fault Refusal :=
  runAct (BitVec.ofNat 2 (words ext sp)) (instrProg (words ext sp) false side sp body) s

/-! ### Unsettled instructions (R484) -/

/-- A form whose instruction may be unsettled: the instruction, with lookahead 0, its lookahead, the registers it will write,
whether it is an acquire, and its index vector. A store, which has no LA field, leaves room for the 15 instructions of the commit buffer (DESIGN
CHOICE, log entry 44). -/
structure Opening where
  instr : Instr
  la : Nat
  dests : List RegId
  acq : Bool
  index : List RegId

/-- Whether a suspension leaves the instruction issued and unsettled: its translation or its host page is awaited, or it waits;
`begun` tells that its wait has begun. -/
def RunState.unsettles (r : RunState) (begun : Bool) : Bool :=
  match r with
  | .walking => true
  | .pageWait => true
  | .waiting _ => true
  | .stalled => begun
  | _ => false

/-- The strand with its instruction issued and unsettled in its window. -/
def Strand.unsettle (x : Strand) (o : Opening) (len : Nat) (sp : SafePoint) (why : RunState) : Strand :=
  let y := x.countIssue
  let a := { y.arch with pcw := y.arch.pcw + BitVec.ofNat 62 len }
  let e : WEntry :=
    { seq := 0, dests := o.dests, mask := 0, la := o.la, left := o.la, ilen := BitVec.ofNat 2 len, done := false,
      safePoint := none, base := x.arch, acq := o.acq, unsettled := some ⟨o.instr, why, x.nextLocal⟩, index := o.index }
  let stop : List WEntry := match sp with
    | none => []
    | some m =>
      [{ seq := 0, dests := [], mask := 0, la := 16, left := 16, ilen := 0, done := true, safePoint := some m, base := a,
         acq := false, unsettled := none }]
  { y with arch := a, window := y.window ++ e :: stop, nextLocal := y.nextLocal + 1 }

/-- A form that opens a window where it does not settle at issue (R484); with lookahead 0 and nothing older outstanding, nothing
can issue under it and the strand stays at it. -/
def openOr (o : Opening) (len : Nat) (sp : SafePoint) (p : Act Unit) : Act Unit := fun r =>
  match p r with
  | .error (.suspend run effs) =>
    let x := (applyAll r.s effs).me.unissued r.s.me
    if run.unsettles (x.wait.isSome && r.s.me.wait.isNone) && (o.la != 0 || !x.window.isEmpty) then
      (do
        emitAll effs
        emit (.strand (x.unsettle o len sp run))) r
    else .error (.suspend run effs)
  | other => other

/-- The meaning of a form that may be unsettled. -/
def instrA (o : Opening) (ext beyond : Bool) (sp : SafePoint) (body : Act Unit) (s : State) : Host.Outcome State Fault Refusal :=
  let len := words ext sp
  runAct (BitVec.ofNat 2 len) (openOr o len sp (instrProg len beyond false sp body)) s

/-- The meaning of a form of class H that may be unsettled at the heavy core (R484). -/
def instrHA (o : Opening) (ext side : Bool) (sp : SafePoint) (body : Act Unit) (s : State) : Host.Outcome State Fault Refusal :=
  let len := words ext sp
  runAct (BitVec.ofNat 2 len) (openOr o len sp (instrProg len false side sp body)) s

/-- The meaning of an event: its effects, where it is enabled. Whatever would be a trap or a wait of a strand there has
no one to go to and leaves nothing. -/
def event (body : Act Unit) (s : State) : Host.Outcome State Fault Refusal :=
  match body ⟨s, []⟩ with
  | .ok (_, r) => .next (applyAll s r.log.reverse)
  | .error (.refuse r) => .refused r
  | .error _ => .next s

/-! ### Checks of mode and place (R21, R22) -/

/-- A form of class P: cause 0x04 outside supervisor mode. -/
def needSup : Act Unit := do
  let x ← getMe
  if x.st.sup then pure () else raise 0x04 0

/-- A form of class X: cause 0x02 on a lean core. -/
def needHeavy : Act Unit := do
  let x ← getMe
  if x.pos.heavy then pure () else raise 0x02 0

/-- Whether a strand's team is of a grid launched with NOMATRIX. -/
def State.nomatrix (s : State) (tid : Nat) : Bool :=
  match s.team tid with
  | some t => ((s.grid t.grid).map (fun g => g.nomatrix)).getD false
  | none => false

/-- A tile or matrix form: cause 0x03 in a NOMATRIX grid or a yard with failed pipes (R22, R204). -/
def needMatrix : Act Unit := do
  let s ← getS
  if s.nomatrix s.me.tid || (s.yard s.me.pos.yidx).heavy.failed then raise 0x03 0 else pure ()

/-- The program counter of the instruction itself, when it issued with `len` words. -/
def Strand.basePc (x : Strand) (len : Nat) : BitVec 62 := x.arch.pcw - BitVec.ofNat 62 len

end Sys2Proof.Machine
end

