-- ==== Sys2Proof/Machine/Flags.lean ====
section
/-! DEFINITION. Floating-point flags and their traps (R43-R46), and rounding modes (R29, R30). -/
namespace Sys2Proof.Machine

/-- The cause that flags raise under the trap enables (R44) and the NaN trap of mode 1 (R46): 0x28 before 0x29. -/
def fpCause (nve dze nanmode : Bool) (f : FpFlags) : Option (BitVec 8) :=
  if (nve && f.nv) || (nanmode && f.np) then some 0x28
  else if dze && f.dz then some 0x29
  else none

/-- Flags raised by an instruction of the strand: a trap, or accumulation with event counts outside mode 1 (R43-R46). -/
def raiseFlags (f : FpFlags) : Act Unit := do
  let x ← getMe
  match fpCause x.modes.nve x.modes.dze x.modes.nanmode f with
  | some c => raise c 0
  | none => emit (.reg (.flags f.bits (!x.modes.nanmode)))

/-- The mode of K.RMODE (R30). -/
def dynMode : Act RMode := do
  let x ← getMe
  return RMode.ofCode x.modes.rmode.toNat

/-- The mode of an RM field: 4 takes K.RMODE (R29). -/
def modeOf (r : BitVec 3) : Act RMode := do
  let d ← dynMode
  return if r = 4#3 then d else RMode.ofCode r.toNat

end Sys2Proof.Machine
end

