-- ==== Sys2Proof/Machine/Operands.lean ====
section
/-! DEFINITION. Operand forms: what instructions of one shape read and write (R116, R117, R138, R139), immediates (R51),
and addresses of memory operands (R52, R53). -/
namespace Sys2Proof.Machine

/-! ### Scalars -/

/-- sd ← f(sa). -/
def unary (d a : BitVec 5) (f : Word → Word) : Act Unit := do
  let x ← rdS a
  wrS d (f x)

/-- sd ← f(sa, sb). -/
def binary (d a b : BitVec 5) (f : Word → Word → Word) : Act Unit := do
  let x ← rdS a
  let y ← rdS b
  wrS d (f x y)

/-- sd ← f(sa, sb, sc). -/
def ternary (d a b c : BitVec 5) (f : Word → Word → Word → Word) : Act Unit := do
  let x ← rdS a
  let y ← rdS b
  let z ← rdS c
  wrS d (f x y z)

/-- sd ← f(sa, sb) unless sb is zero, which raises 0x2A (R121). -/
def division (d a b : BitVec 5) (f : Word → Word → Word) : Act Unit := do
  let x ← rdS a
  let y ← rdS b
  claim (.s d)
  if y = 0 then raise 0x2A 0 else wrS d (f x y)

/-- An immediate (R51). -/
def imm {n : Nat} (i : BitVec n) : Word := i.signExtend 64

/-- A floating-point result with its flags, written under R117. -/
def wrF (d : BitVec 5) (r : FRes) : Act Unit := do
  claim (.s d)
  raiseFlags r.2
  wrS d (BitVec.ofNat 64 r.1)

/-- sd ← an operation on the values of sa and sb in a scalar float type (R117, R129). -/
def fbinary (t : BitVec 2) (d a b : BitVec 5) (f : FFmt → RMode → FVal → FVal → FRes) : Act Unit := do
  let x ← rdS a
  let y ← rdS b
  let mode ← dynMode
  let m := codeFmt t.toNat
  wrF d (f m mode (m.value x.toNat) (m.value y.toNat))

/-- sd ← an operation on bit patterns of a float type. -/
def fpattern (t : BitVec 2) (d a b : BitVec 5) (f : FFmt → Nat → Nat → FRes) : Act Unit := do
  let x ← rdS a
  let y ← rdS b
  let m := codeFmt t.toNat
  wrF d (f m (x.toNat % 2 ^ m.width) (y.toNat % 2 ^ m.width))

/-- FFMA (R129). -/
def ffma (m : FFmt) (d a b c : BitVec 5) : Act Unit := do
  let x ← rdS a
  let y ← rdS b
  let z ← rdS c
  let mode ← dynMode
  wrF d (m.dest.fma mode (m.value x.toNat) (m.value y.toNat) (m.value z.toNat))

/-! ### Vectors (R138) -/

/-- The destination as a write mask may keep lanes of it: it is read unless the mask operand is m0 (R138). -/
def rdOld (d : BitVec 5) (m : BitVec 3) : Act Vec := do
  if m = 0#3 then do
    let x ← getMe
    return x.arch.vreg d
  else rdV d

/-- vd ← lanes of va and vb under a write mask. -/
def vbinary (d a b : BitVec 5) (m ty : BitVec 3) (f : Nat → Nat → Nat → Nat) : Act Unit := do
  let x ← rdV a
  let y ← rdV b
  let k ← rdM m
  let old ← rdOld d m
  let w := tyWidth ty
  wrV d (mergeLanes w k old (fun i => f w (lane w x i) (lane w y i)))

/-- vd ← lanes of va under a write mask. -/
def vunary (d a : BitVec 5) (m ty : BitVec 3) (f : Nat → Nat → Nat) : Act Unit := do
  let x ← rdV a
  let k ← rdM m
  let old ← rdOld d m
  let w := tyWidth ty
  wrV d (mergeLanes w k old (fun i => f w (lane w x i)))

/-- A vector result with the flags of its active lanes (R141). -/
def wrVF (d : BitVec 5) (r : Vec × FpFlags) : Act Unit := do
  claim (.v d)
  raiseFlags r.2
  wrV d r.1

/-- vd ← rounded lanes of va and vb under a write mask. -/
def vfbinary (d a b : BitVec 5) (m ty : BitVec 3) (f : RMode → Nat → Nat → FRes) : Act Unit := do
  let x ← rdV a
  let y ← rdV b
  let k ← rdM m
  let old ← rdOld d m
  let mode ← dynMode
  let w := tyWidth ty
  wrVF d (mergeLanesF w k old (fun i => f mode (lane w x i) (lane w y i)))

/-- vd ← rounded lanes of va under a write mask. -/
def vfunary (d a : BitVec 5) (m ty : BitVec 3) (f : RMode → Nat → FRes) : Act Unit := do
  let x ← rdV a
  let k ← rdM m
  let old ← rdOld d m
  let mode ← dynMode
  let w := tyWidth ty
  wrVF d (mergeLanesF w k old (fun i => f mode (lane w x i)))

/-- VDOT (R152). -/
def vdot (signed sat : Bool) (n : Nat) (d a b : BitVec 5) (m : BitVec 3) : Act Unit := do
  let x ← rdV a
  let y ← rdV b
  let k ← rdM m
  let old ← rdV d
  wrV d (mergeLanes 32 k old (fun i => laneDot signed sat n x y old i))

/-- VFFMA (R149). -/
def vffma (f : FFmt) (d a b c : BitVec 5) (m : BitVec 3) (n : BitVec 1) : Act Unit := do
  let x ← rdV a
  let y ← rdV b
  let z ← rdV c
  let k ← rdM m
  let old ← rdOld d m
  let mode ← dynMode
  let w := f.width
  wrVF d (mergeLanesF w k old (fun i =>
    let p := f.value (lane w x i)
    f.dest.fma mode (if n = 1#1 then p.negate else p) (f.value (lane w y i)) (f.value (lane w z i))))

/-- VRED with a tree (R155). -/
def vred (op : Nat) (d a : BitVec 5) (m ty : BitVec 3) : Act Unit := do
  let x ← rdV a
  let k ← rdM m
  let mode ← dynMode
  claim (.s d)
  let r := reduceLanes ty op mode k x
  raiseFlags r.2
  wrS d (redScalar ty r.1)

/-- VSCAN (R156). -/
def vscan (op : Nat) (d a : BitVec 5) (m ty : BitVec 3) : Act Unit := do
  let x ← rdV a
  let k ← rdM m
  let old ← rdOld d m
  let mode ← dynMode
  wrVF d (scanLanes ty op mode k x old)

/-! ### Branches and addresses -/

/-- A branch target: a signed word offset from the base word (R55). -/
def branchTarget (base : BitVec 62) {n : Nat} (o : BitVec n) : BitVec 62 := base + o.signExtend 62

/-- A branch to an offset from the instruction of `len` words that has just issued. -/
def branch (len : Nat) {n : Nat} (o : BitVec n) : Act Unit := do
  let x ← getMe
  emit (.pc (branchTarget (x.basePc len) o))

/-- The link: the address of the next instruction, in s30 (R101, R106). -/
def link : Act Unit := do
  let x ← getMe
  wrS 30#5 (pcOf x.arch.pcw)

/-- An effective address: base plus a signed offset (R52). -/
def address (a : BitVec 5) (off : Word) : Act Word := do
  let x ← rdS a
  return x + off

/-- Misaligned data raises 0x14 (R252). -/
def aligned (va : Word) (n : Nat) : Act Unit := if va.toNat % n = 0 then pure () else raise 0x14 va

end Sys2Proof.Machine
end

