-- ==== Sys2Proof/Machine/Control.lean ====
section
/-! DEFINITION. Meanings of the branches and of major 0x06 (R100-R111). -/
namespace Sys2Proof.Machine

/-! ### Branches (R101-R104) -/

def execBr (o : BitVec 24) (sp : SafePoint) := instr false false sp (branch (words false sp) o)

/-- CALL. -/
def callForm (len : Nat) (o : BitVec 24) : Act Unit := do
  link
  branch len o

def execCall (o : BitVec 24) (sp : SafePoint) := instr false false sp (callForm (words false sp) o)

/-- The conditions of BRM (R102). -/
def maskHolds (c : BitVec 2) (m : Word) : Bool :=
  if c = 0#2 then m != 0 else if c = 1#2 then m == BitVec.allOnes 64 else if c = 2#2 then m == 0 else m.getLsbD 0

/-- BRM. -/
def brmForm (len : Nat) (m : BitVec 3) (c : BitVec 2) (o : BitVec 19) : Act Unit := do
  let k ← rdM m
  if maskHolds c k then branch len o else pure ()

def execBrm (m : BitVec 3) (c : BitVec 2) (o : BitVec 19) (sp : SafePoint) :=
  instr false false sp (brmForm (words false sp) m c o)

/-- BCMP (R103). -/
def bcmpForm (len : Nat) (a b : BitVec 5) (c : BitVec 3) {n : Nat} (o : BitVec n) : Act Unit := do
  let x ← rdS a
  let y ← rdS b
  if condHolds c.toNat x y then branch len o else pure ()

def execBcmp (a b : BitVec 5) (c : BitVec 3) (o : BitVec 11) (sp : SafePoint) :=
  instr false false sp (bcmpForm (words false sp) a b c o)
def execBcmpImm32 (a b : BitVec 5) (c : BitVec 3) (o : BitVec 32) (sp : SafePoint) :=
  instr true false sp (bcmpForm (words true sp) a b c o)

/-- LOOP (R104). -/
def loopForm (len : Nat) (c : BitVec 5) (o : BitVec 19) : Act Unit := do
  let n ← rdS c
  wrS c (n - 1)
  if n - 1 ≠ 0 then branch len o else pure ()

def execLoop (c : BitVec 5) (o : BitVec 19) (sp : SafePoint) := instr false false sp (loopForm (words false sp) c o)

/-- A jump to an address in a register, with or without a link (R106). -/
def jumpForm (withLink : Bool) (a : BitVec 5) : Act Unit := do
  let t ← rdS a
  if t.extractLsb' 0 2 ≠ 0#2 then raise 0x14 t
  else do
    if withLink then link else pure ()
    emit (.pc (pcwOf t))

def execCallr (a : BitVec 5) (sp : SafePoint) := instr false false sp (jumpForm true a)
def execJmp (a : BitVec 5) (sp : SafePoint) := instr false false sp (jumpForm false a)

/-! ### NOP, YIELD, TRAP, ISYNC (R107, R110, R111) -/

def execNop : State → Host.Outcome State Fault Refusal := instr false false none (pure ())

/-- Whether a strand's next instruction can issue, its run state being that of its next instruction (R57, R87): it has not stopped
for a swap-out. One under whose wait instructions issue is among them (R322). -/
def Strand.canIssue (x : Strand) : Bool := x.run == .ready && !x.stopped && x.resumeMask.isNone

/-- Whether a strand is Ready (R87): besides, no instruction of it waits or is parked on a host page. -/
def Strand.isReady (x : Strand) : Bool :=
  x.canIssue && x.wait.isNone && !x.window.any (fun e => e.unsettled.any (fun u => u.why == .pageWait))

/-- The other Ready strands of a strand's core. -/
def State.readyPeers (s : State) (x : Strand) : List Nat :=
  (s.others.filter (fun t => coreKey t.pos == coreKey x.pos && t.isReady)).map (fun t => t.pos.slot)

/-- YIELD: Waiting until each of the core's other Ready strands has issued once (R107). -/
def yieldForm : Act Unit := do
  let s ← getS
  let l := s.readyPeers s.me
  if l.isEmpty then pure () else emit (.strand { s.me with run := .waiting (.yieldFor l) })

def execYield (sp : SafePoint) := instr false false sp yieldForm

/-- TRAP. -/
def trapForm (a : BitVec 5) : Act Unit := do
  let x ← rdS a
  raise 0x48 x

def execTrap (a : BitVec 5) (sp : SafePoint) := instr false false sp (trapForm a)

/-- ISYNC: the strand's fetch buffer and every instruction line of the core, which a heavy core has in its private cache (R20,
R111). -/
def isyncForm : Act Unit := do
  modifyMe (fun x => { x with fetchBuf := [] })
  let s ← getS
  let x := s.me
  let y := x.pos.yidx
  if x.pos.heavy then forAll ((s.core (coreKey x.pos)).icache.map (fun e => e.1)) (fun line => do
    evictLine y true line
    modifyYard y (fun Y => Y.dropTag true line))
  else pure ()
  modifyCore (coreKey x.pos) (fun c => { c with icache := [] })

def execIsync (sp : SafePoint) := instr false false sp isyncForm

/-! ### EXIT (R108) -/

/-- SLEAVE on every bound slot, ascending, a release at its sheaf's scope, and its unbinding (step 2). -/
def leaveAll : Act Unit := do
  let x ← getMe
  forAll ((List.range 32).filter (fun n => (x.binding (BitVec.ofNat 5 n)).isSome)) (fun n => leaveReleased (BitVec.ofNat 5 n))
  modifyMe (fun x => { x with binds := [] })

/-- MDONE of an activation that has not executed it (step 3). -/
def exitMdone : Act Unit := do
  let x ← getMe
  if x.holding then do
    let (_, bad) ← mdoneSteps
    match bad with
    | some (_, dst) => raiseKeeping 0x38 dst
    | none => pure ()
  else pure ()

/-- The class of a message activation may start its next one (R381). -/
def endActivation (x : Strand) : Act Unit :=
  match x.act with
  | some ⟨.message cls _, _, _, _, _, _, _, _, _⟩ =>
    modifyYard x.home.yidx (fun Y =>
      { Y with mailboxes := Y.mailboxes.map (fun m => if m.cls = cls then { m with running := false } else m) })
  | _ => pure ()

/-- EXIT. -/
def exitForm : Act Unit := do
  let x ← getMe
  if x.pending.isEmpty then pure () else stall
  awaitStores
  leaveAll
  exitMdone
  releaseWhole 2
  let x ← getMe
  removeStrand x
  endActivation x
  checkTeamEnd x.tid

/-- The strand of an EXIT does not retire: its slot is empty. -/
def execExit (sp : SafePoint) := instr false true sp exitForm

/-! ### SPAWN (R109) -/

def spawnForm (d a b : BitVec 5) : Act Unit := do
  let entry ← rdS a
  let arg ← rdS b
  claim (.s d)
  if entry.extractLsb' 0 2 ≠ 0#2 then raise 0x14 entry
  else do
    releaseWhole 0
    let s ← getS
    let found := (s.team s.me.tid).bind (fun t => (s.grid t.grid).bind (fun g =>
      (s.freeIndices t g).head?.map (fun i => s.entryStrand t g i entry arg)))
    match found with
    | none => do
      wrS d (BitVec.allOnes 64)
      setReason 1
    | some x => do
      addStrand x
      queueTouch (.acquire (x.toucher 30) 0)
      succeed d (x.index.zeroExtend 64)

def execSpawn (d a b : BitVec 5) (sp : SafePoint) := instr false true sp (spawnForm d a b)

end Sys2Proof.Machine
end

