-- ==== Sys2Proof/Machine/LoadStore.lean ====
section
/-! DEFINITION. Meanings of the loads and stores of majors 0x28 to 0x2F (R252-R258). -/
namespace Sys2Proof.Machine

/-- The ordering of FN5[1:0] (R52): none, or a scope as R53 codes it. -/
def orderOf (o : BitVec 2) : Order :=
  if o = 0#2 then none else if o = 1#2 then some 2#2 else if o = 2#2 then some 0#2 else some 3#2

/-- The ordering of an extension word for a load (ORD 1) or a store (ORD 2) (R53, R256). -/
def ordScope (od sc : BitVec 2) : Order := if od = 0#2 then none else some sc

/-- Size in bytes and signedness of a width code of LD and ST (R52). -/
def accessSize (w : BitVec 3) : Nat := if w = 6#3 then 8 else 2 ^ (w.toNat / 2)
def accessSigned (w : BitVec 3) : Bool := w.toNat % 2 == 0

/-- The register value of loaded bytes (R253). -/
def loadedValue (w : BitVec 3) (bs : List Byte) : Word :=
  let v := leValue bs
  if accessSigned w then BitVec.ofInt 64 (sLane (8 * accessSize w) v) else BitVec.ofNat 64 v

/-- Element width in bits of an element width code (R256). -/
def elemWidth (w : BitVec 3) : Nat := 8 * 2 ^ w.toNat

/-- Lane addresses of GATH and SCAT, and of LDVS and STVS (R256). -/
def indexedAddress (w : Nat) (base : Word) (vi : Vec) (i : Nat) : Word :=
  base + BitVec.ofInt 64 (sLane w (lane w vi i) * (w / 8 : Nat))
def stridedAddress (base stride : Word) (i : Nat) : Word := base + BitVec.ofNat 64 i * stride

/-- The active lanes of a mask, ascending. -/
def activeLanes (w : Nat) (m : Word) : List Nat := (List.range (512 / w)).filter (active m)

/-- The ranges that a store or an atomic writes, from the registers as they stood before it: addresses and lengths. -/
def writesAt (i : Instr) (r : Arch) : List (Word × Nat) :=
  let lanes := fun (w : BitVec 3) (m : BitVec 3) (at_ : Nat → Word) =>
    (activeLanes (elemWidth w) (r.mreg m)).map (fun k => (at_ k, elemWidth w / 8))
  match i with
  | .st _ a _ w _ _ => [(r.sreg a, accessSize w)]
  | .stOffset _ a _ w _ i _ => [(r.sreg a + imm i, accessSize w)]
  | .stv _ a _ _ _ => [(r.sreg a, 64)]
  | .stvOffset _ a _ _ i _ => [(r.sreg a + imm i, 64)]
  | .stvL6 _ a _ _ _ => [(r.sreg a, 48)]
  | .stvL6Offset _ a _ _ i _ => [(r.sreg a + imm i, 48)]
  | .stm _ a _ c _ _ => (List.range (c.toNat + 1)).map (fun j => (r.sreg a + BitVec.ofNat 64 (8 * j), 8))
  | .stmOffset _ a _ c _ i _ => (List.range (c.toNat + 1)).map (fun j => (r.sreg a + imm i + BitVec.ofNat 64 (8 * j), 8))
  | .scat _ a b w _ m _ _ _ => lanes w m (indexedAddress (elemWidth w) (r.sreg a) (r.vreg b))
  | .stvs _ a b w _ m _ _ _ => lanes w m (stridedAddress (r.sreg a) (r.sreg b))
  | .amoAdd _ a _ _ _ _ _ _ _ | .amoAnd _ a _ _ _ _ _ _ _ | .amoOr _ a _ _ _ _ _ _ _ | .amoXor _ a _ _ _ _ _ _ _
  | .amoMinI _ a _ _ _ _ _ _ _ | .amoMinN _ a _ _ _ _ _ _ _ | .amoMaxI _ a _ _ _ _ _ _ _ | .amoMaxN _ a _ _ _ _ _ _ _
  | .amoSwap _ a _ _ _ _ _ _ _ | .amoCas _ a _ _ _ _ _ _ _ => [(r.sreg a, 8)]
  | .amov _ a _ _ _ _ _ _ => [(r.sreg a, 64)]
  | .cadd _ a _ _ _ _ => [(r.sreg a, 8)]
  | .amowAdd _ a _ _ _ _ _ _ | .amowSwap _ a _ _ _ _ _ _ | .amowCas _ a _ _ _ _ _ _ => [(r.sreg a, 16)]
  | _ => []

/-- Whether two ranges of an address space share a byte: of one page, or of two that the page tables give the same page of device
memory (DEDUCED, log entry 88). -/
def State.mayMeet (s : State) (asid : BitVec 16) (a n b m : Nat) : Bool :=
  (pagePieces a n).any (fun p => (pagePieces b m).any (fun q =>
    p.1 % 4096 < q.1 % 4096 + q.2 && q.1 % 4096 < p.1 % 4096 + p.2
      && (p.1 / 4096 == q.1 / 4096 || (match s.devicePage asid p.1, s.devicePage asid q.1 with
        | some i, some j => i == j
        | _, _ => false))))

/-- A load waits for an older store or atomic of the strand that is unsettled and may write its bytes (R169, R291, R484). -/
def awaitUnsettled (va : Word) (n : Nat) : Act Unit := do
  let s ← getS
  if s.me.window.any (fun e => match e.unsettled with
      | some u => (writesAt u.instr e.base).any (fun r => s.mayMeet s.me.modes.asid va.toNat n r.1.toNat r.2)
      | none => false) then stall
  else pure ()

/-- A load of a form of majors 0x28 to 0x2F. -/
def loadOrdered (va : Word) (n : Nat) (nu : BitVec 5) (acq : Order) : Act (List Byte) := do
  awaitUnsettled va n
  loadMem va n nu acq

/-- The translations that an access to ranges of bytes has taken, by key and address (R357). -/
def usesOfRanges (l : List (Word × Nat)) : Act (List (Nat × Nat)) := fun r =>
  match collect l (fun g => do
      let x ← getMe
      let segs ← translateRange x.who g.1 g.2 .load
      return placeSegs g.1.toNat segs) r with
  | .ok (ls, _) => .ok (ls.flatten.map (fun g => (g.1, g.2.1)), r)
  | .error _ => .ok ([], r)

/-- The results of a load or an atomic of ranges of bytes. -/
def deliverRead (ranges : List (Word × Nat)) (index : List RegId) (la : BitVec 4) (acq : Bool) (effs : List RegEff) : Act Unit := do
  let uses ← (if la = 0#4 then return [] else usesOfRanges ranges)
  deliverAs false index uses la acq effs

/-- LD (R253). -/
def ldForm (d a n : BitVec 5) (la : BitVec 4) (w : BitVec 3) (o : BitVec 2) (off : Word) : Act Unit := do
  let va ← address a off
  claim (.s d)
  aligned va (accessSize w)
  let bs ← loadOrdered va (accessSize w) n (orderOf o)
  deliverRead [(va, accessSize w)] [] la (o != 0#2) [.s d (loadedValue w bs)]

/-- Checked stores take their place: an activation's hold must have room first (R382), for each of them where they pass a pair
buffer. -/
def commitChecked (sts : List HeldStore) : Act Unit := do
  let x ← getMe
  holdRoomFor (if x.pair.isSome then sts.length else 1) false
  emit (.store sts)

/-- The pair buffer has room for the stores of ranges of bytes (R439). -/
def storeRoom (l : List (Word × Nat)) : Act Unit := pairRoom writesAt l

/-- ST (R253). -/
def stForm (d a n : BitVec 5) (w : BitVec 3) (o : BitVec 2) (off : Word) : Act Unit := do
  let va ← address a off
  let v ← rdS d
  aligned va (accessSize w)
  storeRoom [(va, accessSize w)]
  let sts ← checkStore va (leBytes (accessSize w) v.toNat) n (orderOf o)
  commitChecked sts

/-- LDV and LDV.L6 (R254). -/
def ldvForm (l6 : Bool) (d a n : BitVec 5) (la : BitVec 4) (o : BitVec 2) (off : Word) : Act Unit := do
  let va ← address a off
  claim (.v d)
  aligned va 8
  let bs ← loadOrdered va (if l6 then 48 else 64) n (orderOf o)
  let v : Vec := BitVec.ofNat 512 (leValue bs)
  deliverRead [(va, if l6 then 48 else 64)] [] la (o != 0#2) [.v d (if l6 then unpackL6 v else v)]

/-- STV and STV.L6 (R254). -/
def stvForm (l6 : Bool) (d a n : BitVec 5) (o : BitVec 2) (off : Word) : Act Unit := do
  let va ← address a off
  let v ← rdV d
  aligned va 8
  storeRoom [(va, if l6 then 48 else 64)]
  let bytes := if l6 then leBytes 48 (packL6 v).toNat else leBytes 64 v.toNat
  let sts ← checkStore va bytes n (orderOf o)
  commitChecked sts

/-- Register d + j of LDM and STM (R255). -/
def regAt (d : BitVec 5) (j : Nat) : BitVec 5 := d + BitVec.ofNat 5 j

/-- LDM (R255): `c` is the count less one. -/
def ldmForm (d a n : BitVec 5) (la : BitVec 4) (c : BitVec 3) (o : BitVec 2) (off : Word) : Act Unit := do
  let va ← address a off
  forAll (List.range (c.toNat + 1)) (fun j => claim (.s (regAt d j)))
  aligned va 8
  let effs ← collect (List.range (c.toNat + 1)) (fun j => do
    let bs ← loadOrdered (va + BitVec.ofNat 64 (8 * j)) 8 n (orderOf o)
    return RegEff.s (regAt d j) (BitVec.ofNat 64 (leValue bs)))
  deliverRead [(va, 8 * (c.toNat + 1))] [] la (o != 0#2) effs

/-- STM (R255). -/
def stmForm (d a n : BitVec 5) (c : BitVec 3) (o : BitVec 2) (off : Word) : Act Unit := do
  let va ← address a off
  aligned va 8
  let vs ← collect (List.range (c.toNat + 1)) (fun j => rdS (regAt d j))
  storeRoom ((List.range (c.toNat + 1)).map (fun j => (va + BitVec.ofNat 64 (8 * j), 8)))
  let sts ← collect vs.zipIdx (fun e => checkStore (va + BitVec.ofNat 64 (8 * e.2)) (leBytes 8 e.1.toNat) n (orderOf o))
  commitChecked sts.flatten

/-- A load of active lanes from their addresses (R256): inactive lanes keep vd. `index` is the index vector of a gather. -/
def gatherForm (index : List RegId) (d : BitVec 5) (la : BitVec 4) (w n : Nat) (nu : BitVec 5) (m : BitVec 3) (o : Order)
    (addr : Nat → Word) : Act Unit := do
  let k ← rdM m
  let old ← rdOld d m
  claim (.v d)
  let got ← collect (activeLanes w k) (fun i => do
    aligned (addr i) n
    let bs ← loadOrdered (addr i) n nu o
    return (i, leValue bs))
  deliverRead ((activeLanes w k).map (fun i => (addr i, n))) index la o.isSome [.v d (ofLanes w (fun i => assocGet (lane w old i) got i))]

/-- A store of active lanes to their addresses, ascending (R256). -/
def scatterForm (d : BitVec 5) (w n : Nat) (nu : BitVec 5) (m : BitVec 3) (o : Order) (addr : Nat → Word) : Act Unit := do
  let k ← rdM m
  let v ← rdV d
  storeRoom ((activeLanes w k).map (fun i => (addr i, n)))
  let sts ← collect (activeLanes w k) (fun i => do
    aligned (addr i) n
    checkStore (addr i) (leBytes n (lane w v i)) nu o)
  commitChecked sts.flatten

/-- GATH. -/
def gathForm (d a b : BitVec 5) (la : BitVec 4) (w : BitVec 3) (n : BitVec 5) (m : BitVec 3) (od sc : BitVec 2) : Act Unit := do
  let base ← rdS a
  let vi ← rdV b
  gatherForm [.v b] d la (elemWidth w) (elemWidth w / 8) n m (ordScope od sc) (indexedAddress (elemWidth w) base vi)

/-- LDVS. -/
def ldvsForm (d a b : BitVec 5) (la : BitVec 4) (w : BitVec 3) (n : BitVec 5) (m : BitVec 3) (od sc : BitVec 2) : Act Unit := do
  let base ← rdS a
  let stride ← rdS b
  gatherForm [] d la (elemWidth w) (elemWidth w / 8) n m (ordScope od sc) (stridedAddress base stride)

/-- SCAT. -/
def scatForm (d a b : BitVec 5) (w : BitVec 3) (n : BitVec 5) (m : BitVec 3) (od sc : BitVec 2) : Act Unit := do
  let base ← rdS a
  let vi ← rdV b
  scatterForm d (elemWidth w) (elemWidth w / 8) n m (ordScope od sc) (indexedAddress (elemWidth w) base vi)

/-- STVS. -/
def stvsForm (d a b : BitVec 5) (w : BitVec 3) (n : BitVec 5) (m : BitVec 3) (od sc : BitVec 2) : Act Unit := do
  let base ← rdS a
  let stride ← rdS b
  scatterForm d (elemWidth w) (elemWidth w / 8) n m (ordScope od sc) (stridedAddress base stride)

/-! ### PREF and EVICT (R257, R258) -/

/-- The touches that bring the line of an address into the caches of the slot that asks for it, in its class as a load would
(R257): the yard cache too for a heavy core; class 0, and bytes tiled without covering tenure, only at the slice. -/
def bringLine (w : Toucher) (asid : BitVec 16) (va key : Nat) : Act Unit := do
  let s ← getS
  let line := key / 128
  let lva := va / 128 * 128
  let touch := s.touching asid lva 128
  let agent := if w.heavy then 64 + w.pos.yidx else w.pos.yidx
  let cov := touch.all (fun e => e.1.coveredBy agent .s [e.2])
  let g : Seg := ⟨line * 128, lva, 128, if touch.isEmpty then .untiled else if cov then .covered else .uncovered⟩
  emit (.touches (s.touches ++ (s.segTouches w asid false g).map (fun t => match t with
    | .read w k n a u tva => .read w k n a (u || w.cls == 0) tva
    | t => t)))
  if w.heavy && w.cls != 0 && cov then do
    let _ ← yardTouch w line (if touch.isEmpty then none else some (asid, lva / 128))
  else pure ()

/-- A PREF goes on as far as it can (R257): its line is brought, or a walk or a Translation Request is under way for it, which
nothing waits for; while the host link is isolated it waits for that (R424). It never traps and issues no page request. No address is
misaligned for it (DESIGN CHOICE, log entry 82). -/
def prefetch (w : Toucher) (sup : Bool) (asid : BitVec 16) (va : Word) : Act Unit := fun r =>
  let who : Who := { pos := w.pos, asid := asid, sup := sup, tid := w.tid, heavy := w.heavy, asker := .prefetch w sup va }
  match translate who va .load r with
  | .ok (k, r') => if isYardMem k then .ok ((), r') else bringLine w asid va.toNat k r'
  | .error (.suspend .stalled _) => modifyDev (fun d =>
      let e := (who.asker, asid)
      { d with linkWaits := if d.linkWaits.contains e then d.linkWaits else d.linkWaits ++ [e] }) r
  | .error (.suspend _ effs) => emitAll effs r
  | .error _ => .ok ((), r)

/-- PREF. -/
def prefForm (a n : BitVec 5) (off : Word) : Act Unit := do
  let va ← address a off
  let x ← getMe
  prefetch (x.toucher n) x.st.sup x.modes.asid va

/-- A line made streaming, where it is the tenant's (R258). -/
def evictTag (line : Nat) (t : BitVec 4) (l : List CLine) : List CLine :=
  l.map (fun c => if c.line = line && c.tenant = t && (c.kind = 2#2 || c.kind = 3#2) then { c with kind := 1 } else c)

/-- The line of an address as EVICT finds it: it waits for a walk and for the host as any access does, and has no line where a load
would trap (R258). -/
def quietKey (va : Word) : Act (Option Nat) := fun r =>
  match translate r.s.me.who va .load r with
  | .ok (k, r') => .ok (if isYardMem k then none else some k, r')
  | .error (.trap _ _ keep) => .ok (none, { s := applyAll r.s keep, log := keep.reverse ++ r.log })
  | .error e => .error e

/-- EVICT (R258). -/
def evictForm (a : BitVec 5) (off : Word) : Act Unit := do
  let va ← address a off
  let k ← quietKey va
  match k with
  | none => pure ()
  | some k => do
    let s ← getS
    let x := s.me
    let line := k / 128
    modifyCore (coreKey x.pos) (fun c => { c with l1 := c.l1.filter (fun l => l.line != line) })
    modifyYard x.pos.yidx (fun Y => { Y with lines := evictTag line x.modes.tenant Y.lines })
    modifyDev (fun d =>
      { d with
        l2 := d.l2.map (fun e => if e.1 = sliceOf k then (e.1, evictTag line x.modes.tenant e.2) else e) })

/-! ### Meanings -/

/-- How a load may be unsettled, as the instruction it is with lookahead 0. -/
def opens (i : Instr) (la : BitVec 4) (dests : List RegId) (acq : Bool) : Opening := ⟨i, la.toNat, dests, acq, []⟩

/-- The registers that LDM writes. -/
def ldmDests (d : BitVec 5) (c : BitVec 3) : List RegId := (List.range (c.toNat + 1)).map (fun j => .s (regAt d j))

/-- How a store may be unsettled. -/
def opensStore (i : Instr) : Opening := ⟨i, 15, [], false, []⟩

/-- How a gather or a scatter may be unsettled: with its index vector (R142). -/
def Opening.indexed (o : Opening) (b : BitVec 5) : Opening := { o with index := [.v b] }

def execLd (d a n : BitVec 5) (la : BitVec 4) (w : BitVec 3) (o : BitVec 2) (sp : SafePoint) :=
  instrA (opens (.ld d a n 0 w o none) la [.s d] (o != 0#2)) false false sp (ldForm d a n la w o 0)
def execLdOffset (d a n : BitVec 5) (la : BitVec 4) (w : BitVec 3) (o : BitVec 2) (i : BitVec 32) (sp : SafePoint) :=
  instrA (opens (.ldOffset d a n 0 w o i none) la [.s d] (o != 0#2)) true false sp (ldForm d a n la w o (imm i))
def execSt (d a n : BitVec 5) (w : BitVec 3) (o : BitVec 2) (sp : SafePoint) :=
  instrA (opensStore (.st d a n w o none)) false false sp (stForm d a n w o 0)
def execStOffset (d a n : BitVec 5) (w : BitVec 3) (o : BitVec 2) (i : BitVec 32) (sp : SafePoint) :=
  instrA (opensStore (.stOffset d a n w o i none)) true false sp (stForm d a n w o (imm i))
def execLdv (d a n : BitVec 5) (la : BitVec 4) (o : BitVec 2) (sp : SafePoint) :=
  instrA (opens (.ldv d a n 0 o none) la [.v d] (o != 0#2)) false false sp (ldvForm false d a n la o 0)
def execLdvOffset (d a n : BitVec 5) (la : BitVec 4) (o : BitVec 2) (i : BitVec 32) (sp : SafePoint) :=
  instrA (opens (.ldvOffset d a n 0 o i none) la [.v d] (o != 0#2)) true false sp (ldvForm false d a n la o (imm i))
def execLdvL6 (d a n : BitVec 5) (la : BitVec 4) (o : BitVec 2) (sp : SafePoint) :=
  instrA (opens (.ldvL6 d a n 0 o none) la [.v d] (o != 0#2)) false false sp (ldvForm true d a n la o 0)
def execLdvL6Offset (d a n : BitVec 5) (la : BitVec 4) (o : BitVec 2) (i : BitVec 32) (sp : SafePoint) :=
  instrA (opens (.ldvL6Offset d a n 0 o i none) la [.v d] (o != 0#2)) true false sp (ldvForm true d a n la o (imm i))
def execStv (d a n : BitVec 5) (o : BitVec 2) (sp : SafePoint) :=
  instrA (opensStore (.stv d a n o none)) false false sp (stvForm false d a n o 0)
def execStvOffset (d a n : BitVec 5) (o : BitVec 2) (i : BitVec 32) (sp : SafePoint) :=
  instrA (opensStore (.stvOffset d a n o i none)) true false sp (stvForm false d a n o (imm i))
def execStvL6 (d a n : BitVec 5) (o : BitVec 2) (sp : SafePoint) :=
  instrA (opensStore (.stvL6 d a n o none)) false false sp (stvForm true d a n o 0)
def execStvL6Offset (d a n : BitVec 5) (o : BitVec 2) (i : BitVec 32) (sp : SafePoint) :=
  instrA (opensStore (.stvL6Offset d a n o i none)) true false sp (stvForm true d a n o (imm i))
def execLdm (d a n : BitVec 5) (la : BitVec 4) (c : BitVec 3) (o : BitVec 2) (sp : SafePoint) :=
  instrA (opens (.ldm d a n 0 c o none) la (ldmDests d c) (o != 0#2)) false false sp (ldmForm d a n la c o 0)
def execLdmOffset (d a n : BitVec 5) (la : BitVec 4) (c : BitVec 3) (o : BitVec 2) (i : BitVec 32) (sp : SafePoint) :=
  instrA (opens (.ldmOffset d a n 0 c o i none) la (ldmDests d c) (o != 0#2)) true false sp (ldmForm d a n la c o (imm i))
def execStm (d a n : BitVec 5) (c : BitVec 3) (o : BitVec 2) (sp : SafePoint) :=
  instrA (opensStore (.stm d a n c o none)) false false sp (stmForm d a n c o 0)
def execStmOffset (d a n : BitVec 5) (c : BitVec 3) (o : BitVec 2) (i : BitVec 32) (sp : SafePoint) :=
  instrA (opensStore (.stmOffset d a n c o i none)) true false sp (stmForm d a n c o (imm i))
def execGath (d a b : BitVec 5) (la : BitVec 4) (w : BitVec 3) (n : BitVec 5) (m : BitVec 3) (od sc : BitVec 2) (sp : SafePoint) :=
  instrA ((opens (.gath d a b 0 w n m od sc none) la [.v d] (od != 0#2)).indexed b) true false sp (gathForm d a b la w n m od sc)
def execLdvs (d a b : BitVec 5) (la : BitVec 4) (w : BitVec 3) (n : BitVec 5) (m : BitVec 3) (od sc : BitVec 2) (sp : SafePoint) :=
  instrA (opens (.ldvs d a b 0 w n m od sc none) la [.v d] (od != 0#2)) true false sp (ldvsForm d a b la w n m od sc)
def execScat (d a b : BitVec 5) (w : BitVec 3) (n : BitVec 5) (m : BitVec 3) (od sc : BitVec 2) (sp : SafePoint) :=
  instrA ((opensStore (.scat d a b w n m od sc none)).indexed b) true false sp (scatForm d a b w n m od sc)
def execStvs (d a b : BitVec 5) (w : BitVec 3) (n : BitVec 5) (m : BitVec 3) (od sc : BitVec 2) (sp : SafePoint) :=
  instrA (opensStore (.stvs d a b w n m od sc none)) true false sp (stvsForm d a b w n m od sc)
def execPref (a n : BitVec 5) (sp : SafePoint) := instr false false sp (prefForm a n 0)
def execPrefOffset (a n : BitVec 5) (i : BitVec 32) (sp : SafePoint) := instr true false sp (prefForm a n (imm i))
/-- EVICT ignores its NU field (R257). -/
def execEvict (a _n : BitVec 5) (sp : SafePoint) := instr false true sp (evictForm a 0)
def execEvictOffset (a _n : BitVec 5) (i : BitVec 32) (sp : SafePoint) := instr true true sp (evictForm a (imm i))

end Sys2Proof.Machine
end

