-- ==== Sys2Proof/Machine/Scalar.lean ====
section
/-! DEFINITION. Meanings of the scalar instructions (R116-R136). -/
namespace Sys2Proof.Machine

/-! ### Major 0x08 (R120) -/

def execAdd (d a b : BitVec 5) (sp : SafePoint) := instr false false sp (binary d a b (· + ·))
def execSub (d a b : BitVec 5) (sp : SafePoint) := instr false false sp (binary d a b (· - ·))
def execAnd (d a b : BitVec 5) (sp : SafePoint) := instr false false sp (binary d a b (· &&& ·))
def execOr (d a b : BitVec 5) (sp : SafePoint) := instr false false sp (binary d a b (· ||| ·))
def execXor (d a b : BitVec 5) (sp : SafePoint) := instr false false sp (binary d a b (· ^^^ ·))
def execAndn (d a b : BitVec 5) (sp : SafePoint) := instr false false sp (binary d a b (fun x y => x &&& ~~~y))
def execShl (d a b : BitVec 5) (sp : SafePoint) := instr false false sp (binary d a b shl64)
def execShrN (d a b : BitVec 5) (sp : SafePoint) := instr false false sp (binary d a b shrN64)
def execShrI (d a b : BitVec 5) (sp : SafePoint) := instr false false sp (binary d a b shrI64)
def execRot (d a b : BitVec 5) (sp : SafePoint) := instr false false sp (binary d a b rot64)
def execMinI (d a b : BitVec 5) (sp : SafePoint) := instr false false sp (binary d a b (fun x y => if x.slt y then x else y))
def execMinN (d a b : BitVec 5) (sp : SafePoint) := instr false false sp (binary d a b (fun x y => if x.ult y then x else y))
def execMaxI (d a b : BitVec 5) (sp : SafePoint) := instr false false sp (binary d a b (fun x y => if y.slt x then x else y))
def execMaxN (d a b : BitVec 5) (sp : SafePoint) := instr false false sp (binary d a b (fun x y => if y.ult x then x else y))
def execClz (d a : BitVec 5) (sp : SafePoint) := instr false false sp (unary d a clz64)
def execCtz (d a : BitVec 5) (sp : SafePoint) := instr false false sp (unary d a ctz64)
def execPopc (d a : BitVec 5) (sp : SafePoint) := instr false false sp (unary d a popc64)
def execShadd1 (d a b : BitVec 5) (sp : SafePoint) := instr false false sp (binary d a b (shadd64 1))
def execShadd2 (d a b : BitVec 5) (sp : SafePoint) := instr false false sp (binary d a b (shadd64 2))
def execShadd3 (d a b : BitVec 5) (sp : SafePoint) := instr false false sp (binary d a b (shadd64 3))
def execShadd4 (d a b : BitVec 5) (sp : SafePoint) := instr false false sp (binary d a b (shadd64 4))
def execScmp (d a b : BitVec 5) (c : BitVec 3) (sp : SafePoint) :=
  instr false false sp (binary d a b (fun x y => boolWord (condHolds c.toNat x y)))

/-! ### Major 0x09 (R121) -/

def execMul (d a b : BitVec 5) (sp : SafePoint) := instr false false sp (binary d a b (· * ·))
def execMulhI (d a b : BitVec 5) (sp : SafePoint) := instr false false sp (binary d a b mulhI64)
def execMulhN (d a b : BitVec 5) (sp : SafePoint) := instr false false sp (binary d a b mulhN64)
def execDivI (d a b : BitVec 5) (sp : SafePoint) := instr false false sp (division d a b divI64)
def execDivN (d a b : BitVec 5) (sp : SafePoint) := instr false false sp (division d a b divN64)
def execRemI (d a b : BitVec 5) (sp : SafePoint) := instr false false sp (division d a b remI64)
def execRemN (d a b : BitVec 5) (sp : SafePoint) := instr false false sp (division d a b remN64)

/-! ### Majors 0x0A and 0x0B (R122, R123) -/

def execAddi (d a : BitVec 5) (i : BitVec 11) (sp : SafePoint) := instr false false sp (unary d a (· + imm i))
def execAddiImm32 (d a : BitVec 5) (i : BitVec 32) (sp : SafePoint) := instr true false sp (unary d a (· + imm i))
def execAndi (d a : BitVec 5) (i : BitVec 11) (sp : SafePoint) := instr false false sp (unary d a (· &&& imm i))
def execAndiImm32 (d a : BitVec 5) (i : BitVec 32) (sp : SafePoint) := instr true false sp (unary d a (· &&& imm i))
def execOri (d a : BitVec 5) (i : BitVec 11) (sp : SafePoint) := instr false false sp (unary d a (· ||| imm i))
def execOriImm32 (d a : BitVec 5) (i : BitVec 32) (sp : SafePoint) := instr true false sp (unary d a (· ||| imm i))
def execXori (d a : BitVec 5) (i : BitVec 11) (sp : SafePoint) := instr false false sp (unary d a (· ^^^ imm i))
def execXoriImm32 (d a : BitVec 5) (i : BitVec 32) (sp : SafePoint) := instr true false sp (unary d a (· ^^^ imm i))
def execShli (d a : BitVec 5) (i : BitVec 6) (sp : SafePoint) :=
  instr false false sp (unary d a (fun x => shl64 x (i.zeroExtend 64)))
def execShriN (d a : BitVec 5) (i : BitVec 6) (sp : SafePoint) :=
  instr false false sp (unary d a (fun x => shrN64 x (i.zeroExtend 64)))
def execShriI (d a : BitVec 5) (i : BitVec 6) (sp : SafePoint) :=
  instr false false sp (unary d a (fun x => shrI64 x (i.zeroExtend 64)))
def execMovi (d : BitVec 5) (i : BitVec 11) (sp : SafePoint) := instr false false sp (wrS d (imm i))
def execMoviImm32 (d : BitVec 5) (i : BitVec 32) (sp : SafePoint) := instr true false sp (wrS d (imm i))
def execMovhi (d a : BitVec 5) (i : BitVec 11) (sp : SafePoint) :=
  instr false false sp (unary d a (fun x => movhi64 x (imm i)))
def execMovhiImm32 (d a : BitVec 5) (i : BitVec 32) (sp : SafePoint) :=
  instr true false sp (unary d a (fun x => movhi64 x (imm i)))

/-! ### Majors 0x0C to 0x0E (R124-R126) -/

def execSel (d a b c : BitVec 5) (sp : SafePoint) :=
  instr false false sp (ternary d a b c (fun x y z => if z ≠ 0 then x else y))
def execExtb (d a b c : BitVec 5) (sp : SafePoint) := instr false false sp (ternary d a b c extb64)
def execInsb (d a b c : BitVec 5) (sp : SafePoint) := instr false false sp (ternary d a b c insb64)

/-! ### Floating point (R127-R135) -/

def execFfmaF32 (d a b c : BitVec 5) (sp : SafePoint) := instr false false sp (ffma .f32 d a b c)
def execFfmaF16 (d a b c : BitVec 5) (sp : SafePoint) := instr false false sp (ffma .f16 d a b c)
def execFfmaBf16 (d a b c : BitVec 5) (sp : SafePoint) := instr false false sp (ffma .bf16 d a b c)
def execFadd (d a b : BitVec 5) (t : BitVec 2) (sp : SafePoint) :=
  instr false false sp (fbinary t d a b (fun f m x y => f.dest.add m x y))
def execFsub (d a b : BitVec 5) (t : BitVec 2) (sp : SafePoint) :=
  instr false false sp (fbinary t d a b (fun f m x y => f.dest.add m x y.negate))
def execFmul (d a b : BitVec 5) (t : BitVec 2) (sp : SafePoint) :=
  instr false false sp (fbinary t d a b (fun f m x y => f.dest.mul m x y))
def execFmin (d a b : BitVec 5) (t : BitVec 2) (sp : SafePoint) :=
  instr false false sp (fpattern t d a b (fun f x y => f.dest.minMax false x y (f.value x) (f.value y)))
def execFmax (d a b : BitVec 5) (t : BitVec 2) (sp : SafePoint) :=
  instr false false sp (fpattern t d a b (fun f x y => f.dest.minMax true x y (f.value x) (f.value y)))

/-- FSGN in one of its three forms (R131): bits only, no flag. -/
def fsgnForm (k : Nat) (t : BitVec 2) (d a b : BitVec 5) : Act Unit :=
  binary d a b (fun x y => BitVec.ofNat 64 ((codeFmt t.toNat).fsgn k x.toNat y.toNat))

def execFsgnJ (d a b : BitVec 5) (t : BitVec 2) (sp : SafePoint) := instr false false sp (fsgnForm 0 t d a b)
def execFsgnJn (d a b : BitVec 5) (t : BitVec 2) (sp : SafePoint) := instr false false sp (fsgnForm 1 t d a b)
def execFsgnJx (d a b : BitVec 5) (t : BitVec 2) (sp : SafePoint) := instr false false sp (fsgnForm 2 t d a b)

def execFcmp (d a b : BitVec 5) (t : BitVec 2) (c : BitVec 3) (sp : SafePoint) :=
  instr false false sp (fbinary t d a b (fun _ _ x y => let r := fcmp c.toNat x y; (if r.1 then 1 else 0, r.2)))
def execFclass (d a : BitVec 5) (t : BitVec 2) (sp : SafePoint) :=
  instr false false sp (unary d a (fun x => BitVec.ofNat 64 ((codeFmt t.toNat).classify x.toNat)))

/-- FCVT from a source type code to a destination type code, in the mode of RM (R69, R134, R135). -/
def fcvtForm (d a : BitVec 5) (r : BitVec 3) (src dst : Nat) : Act Unit := do
  let x ← rdS a
  let mode ← modeOf r
  claim (.s d)
  let (v, fl) := convertCode dst mode (codeValue src x)
  raiseFlags fl
  wrS d v

def execFcvtFromFloat (d a : BitVec 5) (r : BitVec 3) (q : BitVec 2) (p : BitVec 3) (sp : SafePoint) :=
  instr false false sp (fcvtForm d a r q.toNat p.toNat)
def execFcvtToFloat (d a : BitVec 5) (r : BitVec 3) (p : BitVec 2) (q : BitVec 3) (sp : SafePoint) :=
  instr false false sp (fcvtForm d a r q.toNat p.toNat)

end Sys2Proof.Machine
end

