-- ==== Sys2Proof/WellFormed.lean ====
section
/-! DEFINITION. Which field values are instructions (R65, R69, R70): `Instr.check` names the first rule a term breaks;
`Instr.WF` says that it breaks none. -/
namespace Sys2Proof

/-- Why an encoding is not an instruction, by the cases of R65 (`truncated`: the bytes end inside the instruction). All
of them raise cause 0x01. -/
inductive Reject where
  | truncated
  | unassignedMajor
  | unassignedFunction
  | reservedField
  | xBit
  | laField
  | typeField
  | roundingField
  | condition
  | controlNumber
  | registerField
deriving DecidableEq, Repr

/-- The control-register numbers of R73. -/
def ctlAssigned (k : BitVec 12) : Bool :=
  [0x000, 0x001, 0x002, 0x003, 0x004, 0x010, 0x011, 0x012, 0x013, 0x020, 0x030, 0x031, 0x032, 0x033, 0x034, 0x040,
   0x041, 0x042, 0x043, 0x050, 0x051, 0x070, 0x071, 0x072, 0x073, 0x080, 0x081, 0x090, 0x091, 0x092, 0x093, 0x0A0,
   0x0A1, 0x0B0].contains k.toNat || (0x060 ≤ k.toNat && k.toNat ≤ 0x06F)

/-- FCVT from a float type (R69): source 0-2, destination 0-6 and not the source. -/
def cvtFromOk (src : BitVec 2) (dst : BitVec 3) : Bool :=
  src.toNat ≤ 2 && dst.toNat ≤ 6 && src.toNat != dst.toNat

/-- FCVT to a float type (R69): source an integer type, 3-6, destination 0-2. -/
def cvtToOk (dst : BitVec 2) (src : BitVec 3) : Bool :=
  dst.toNat ≤ 2 && (3 ≤ src.toNat && src.toNat ≤ 6)

/-- VFCVT (R151): both types of the set 1, 2, 4, 5, 6, 7, distinct, one of them a float type; bit 13 only with an
integer side. -/
def vcvtOk (u : BitVec 1) (src dst : BitVec 3) : Bool :=
  let ok (t : BitVec 3) : Bool := t.toNat != 0 && t.toNat != 3
  let isInt (t : BitVec 3) : Bool := t.toNat ≤ 3
  ok src && ok dst && src != dst && !(isInt src && isInt dst) && (u == 0#1 || isInt src || isInt dst)

/-- The first check an instruction term fails, if any; an event has no encoding and fails none. -/
def Instr.check : Instr → Option Reject
  | .bcmp _ _ c _ _ => if ¬ (c.toNat ≤ 5) then some .condition else none
  | .bcmpImm32 _ _ c _ _ => if ¬ (c.toNat ≤ 5) then some .condition else none
  | .trig _ _ _ c _ _ => if ¬ (c ≠ 31#5) then some .registerField else none
  | .scmp _ _ _ c _ => if ¬ (c.toNat ≤ 5) then some .condition else none
  | .fadd _ _ _ t _ => if ¬ (t ≠ 3#2) then some .typeField else none
  | .fsub _ _ _ t _ => if ¬ (t ≠ 3#2) then some .typeField else none
  | .fmul _ _ _ t _ => if ¬ (t ≠ 3#2) then some .typeField else none
  | .fmin _ _ _ t _ => if ¬ (t ≠ 3#2) then some .typeField else none
  | .fmax _ _ _ t _ => if ¬ (t ≠ 3#2) then some .typeField else none
  | .fsgnJ _ _ _ t _ => if ¬ (t ≠ 3#2) then some .typeField else none
  | .fsgnJn _ _ _ t _ => if ¬ (t ≠ 3#2) then some .typeField else none
  | .fsgnJx _ _ _ t _ => if ¬ (t ≠ 3#2) then some .typeField else none
  | .fcmp _ _ _ t c _ => if ¬ (t ≠ 3#2) then some .typeField else if ¬ (c.toNat ≤ 4) then some .condition else none
  | .fclass _ _ t _ => if ¬ (t ≠ 3#2) then some .typeField else none
  | .fcvtFromFloat _ _ r q p _ => if ¬ (r.toNat ≤ 4) then some .roundingField else if ¬ (cvtFromOk q p = true) then some .typeField else none
  | .fcvtToFloat _ _ r p q _ => if ¬ (r.toNat ≤ 4) then some .roundingField else if ¬ (cvtToOk p q = true) then some .typeField else none
  | .vadd _ _ _ _ ty _ => if ¬ (ty.toNat ≤ 3) then some .typeField else none
  | .vsub _ _ _ _ ty _ => if ¬ (ty.toNat ≤ 3) then some .typeField else none
  | .vmul _ _ _ _ ty _ => if ¬ (ty.toNat ≤ 3) then some .typeField else none
  | .vminI _ _ _ _ ty _ => if ¬ (ty.toNat ≤ 3) then some .typeField else none
  | .vminN _ _ _ _ ty _ => if ¬ (ty.toNat ≤ 3) then some .typeField else none
  | .vmaxI _ _ _ _ ty _ => if ¬ (ty.toNat ≤ 3) then some .typeField else none
  | .vmaxN _ _ _ _ ty _ => if ¬ (ty.toNat ≤ 3) then some .typeField else none
  | .vshl _ _ _ _ ty _ => if ¬ (ty.toNat ≤ 3) then some .typeField else none
  | .vshrN _ _ _ _ ty _ => if ¬ (ty.toNat ≤ 3) then some .typeField else none
  | .vshrI _ _ _ _ ty _ => if ¬ (ty.toNat ≤ 3) then some .typeField else none
  | .vabs _ _ _ ty _ => if ¬ (ty.toNat ≤ 6) then some .typeField else none
  | .vaddSatI _ _ _ _ ty _ => if ¬ (ty.toNat ≤ 3) then some .typeField else none
  | .vaddSatN _ _ _ _ ty _ => if ¬ (ty.toNat ≤ 3) then some .typeField else none
  | .vsubSatI _ _ _ _ ty _ => if ¬ (ty.toNat ≤ 3) then some .typeField else none
  | .vsubSatN _ _ _ _ ty _ => if ¬ (ty.toNat ≤ 3) then some .typeField else none
  | .vmulhI _ _ _ _ ty _ => if ¬ (ty.toNat ≤ 3) then some .typeField else none
  | .vmulhN _ _ _ _ ty _ => if ¬ (ty.toNat ≤ 3) then some .typeField else none
  | .vcmp _ _ _ _ ty c _ => if ¬ (ty.toNat ≤ 3) then some .typeField else if ¬ (c.toNat ≤ 5) then some .condition else none
  | .vfadd _ _ _ _ ty _ => if ¬ (4 ≤ ty.toNat) then some .typeField else none
  | .vfsub _ _ _ _ ty _ => if ¬ (4 ≤ ty.toNat) then some .typeField else none
  | .vfmul _ _ _ _ ty _ => if ¬ (4 ≤ ty.toNat) then some .typeField else none
  | .vfmin _ _ _ _ ty _ => if ¬ (4 ≤ ty.toNat) then some .typeField else none
  | .vfmax _ _ _ _ ty _ => if ¬ (4 ≤ ty.toNat) then some .typeField else none
  | .vrcpe _ _ _ ty _ => if ¬ (4 ≤ ty.toNat ∧ ty.toNat ≤ 6) then some .typeField else none
  | .vrsqe _ _ _ ty _ => if ¬ (4 ≤ ty.toNat ∧ ty.toNat ≤ 6) then some .typeField else none
  | .vfcvt _ _ u q _ ty r _ => if ¬ (r.toNat ≤ 4) then some .roundingField else if ¬ (vcvtOk u q ty = true) then some .typeField else none
  | .vfcmp _ _ _ _ ty c _ => if ¬ (4 ≤ ty.toNat ∧ ty.toNat ≤ 6) then some .typeField else if ¬ (c.toNat ≤ 4) then some .condition else none
  | .vredAdd _ _ _ ty _ => if ¬ (ty.toNat ≤ 6) then some .typeField else none
  | .vredMin _ _ _ ty _ => if ¬ (ty.toNat ≤ 6) then some .typeField else none
  | .vredMax _ _ _ ty _ => if ¬ (ty.toNat ≤ 6) then some .typeField else none
  | .vredAddSat _ _ _ ty _ => if ¬ (ty.toNat ≤ 3) then some .typeField else none
  | .vscanAdd _ _ _ ty _ => if ¬ (ty.toNat ≤ 6) then some .typeField else none
  | .vscanMin _ _ _ ty _ => if ¬ (ty.toNat ≤ 6) then some .typeField else none
  | .vscanMax _ _ _ ty _ => if ¬ (ty.toNat ≤ 6) then some .typeField else none
  | .ld _ _ _ _ w _ _ => if ¬ (w ≠ 7#3) then some .typeField else none
  | .ldOffset _ _ _ _ w _ _ _ => if ¬ (w ≠ 7#3) then some .typeField else none
  | .st _ _ _ w _ _ => if ¬ (w ≠ 7#3) then some .typeField else none
  | .stOffset _ _ _ w _ _ _ => if ¬ (w ≠ 7#3) then some .typeField else none
  | .gath _ _ _ _ w _ _ od _ _ => if ¬ (w.toNat ≤ 3) then some .typeField else if ¬ ((od = 0#2 ∨ od = 1#2)) then some .reservedField else none
  | .ldvs _ _ _ _ w _ _ od _ _ => if ¬ (w.toNat ≤ 3) then some .typeField else if ¬ ((od = 0#2 ∨ od = 1#2)) then some .reservedField else none
  | .scat _ _ _ w _ _ od _ _ => if ¬ (w.toNat ≤ 3) then some .typeField else if ¬ ((od = 0#2 ∨ od = 2#2)) then some .reservedField else none
  | .stvs _ _ _ w _ _ od _ _ => if ¬ (w.toNat ≤ 3) then some .typeField else if ¬ ((od = 0#2 ∨ od = 2#2)) then some .reservedField else none
  | .ldm d _ _ _ c _ _ => if ¬ (d.toNat + c.toNat ≤ 31) then some .registerField else none
  | .ldmOffset d _ _ _ c _ _ _ => if ¬ (d.toNat + c.toNat ≤ 31) then some .registerField else none
  | .stm d _ _ c _ _ => if ¬ (d.toNat + c.toNat ≤ 31) then some .registerField else none
  | .stmOffset d _ _ c _ _ _ => if ¬ (d.toNat + c.toNat ≤ 31) then some .registerField else none
  | .amov _ _ t _ _ od _ _ => if ¬ (t.toNat ≤ 4) then some .typeField else if ¬ ((od = 0#2 ∨ od = 2#2)) then some .reservedField else none
  | .amowAdd d _ _ _ _ _ _ _ => if ¬ (d ≠ 31#5) then some .registerField else none
  | .amowSwap d _ _ _ _ _ _ _ => if ¬ (d ≠ 31#5) then some .registerField else none
  | .amowCas d _ _ _ _ _ _ _ => if ¬ (d ≠ 31#5) then some .registerField else none
  | .cwait _ _ b _ _ _ => if ¬ (b ≠ 31#5) then some .registerField else none
  | .swait _ _ b _ _ => if ¬ (b ≠ 31#5) then some .registerField else none
  | .gload s _ _ _ _ _ => if ¬ (s ≠ 31#5) then some .registerField else none
  | .dcmp _ _ _ _ c _ => if ¬ (c.toNat ≤ 4) then some .condition else none
  | .dcvtToF64 _ _ r _ t _ => if ¬ (r.toNat ≤ 4) then some .roundingField else if ¬ (t ≠ 7#3) then some .typeField else none
  | .dcvtFromF64 _ _ r _ t _ => if ¬ (r.toNat ≤ 4) then some .roundingField else if ¬ (t ≠ 7#3) then some .typeField else none
  | .mbox _ _ b _ => if ¬ (b ≠ 31#5) then some .registerField else none
  | .cpy _ a b _ => if ¬ (a ≠ 31#5) then some .registerField else if ¬ (b ≠ 31#5) then some .registerField else none
  | .cpyt _ a b _ => if ¬ (a ≠ 31#5) then some .registerField else if ¬ (b ≠ 31#5) then some .registerField else none
  | .krd _ k _ => if ¬ (ctlAssigned k = true) then some .controlNumber else none
  | .kwr _ k _ => if ¬ (ctlAssigned k = true) then some .controlNumber else none
  | .waiti d _ _ => if ¬ (1 ≤ d.toNat ∧ d.toNat ≤ 29) then some .registerField else none
  | .br _ _ => none
  | .call _ _ => none
  | .brm _ _ _ _ => none
  | .loop _ _ _ => none
  | .callr _ _ => none
  | .jmp _ _ => none
  | .nop => none
  | .yield _ => none
  | .exit _ => none
  | .spawn _ _ _ _ => none
  | .trap _ _ => none
  | .isync _ => none
  | .add _ _ _ _ => none
  | .sub _ _ _ _ => none
  | .and _ _ _ _ => none
  | .or _ _ _ _ => none
  | .xor _ _ _ _ => none
  | .andn _ _ _ _ => none
  | .shl _ _ _ _ => none
  | .shrN _ _ _ _ => none
  | .shrI _ _ _ _ => none
  | .rot _ _ _ _ => none
  | .minI _ _ _ _ => none
  | .minN _ _ _ _ => none
  | .maxI _ _ _ _ => none
  | .maxN _ _ _ _ => none
  | .clz _ _ _ => none
  | .ctz _ _ _ => none
  | .popc _ _ _ => none
  | .shadd1 _ _ _ _ => none
  | .shadd2 _ _ _ _ => none
  | .shadd3 _ _ _ _ => none
  | .shadd4 _ _ _ _ => none
  | .mul _ _ _ _ => none
  | .mulhI _ _ _ _ => none
  | .mulhN _ _ _ _ => none
  | .divI _ _ _ _ => none
  | .divN _ _ _ _ => none
  | .remI _ _ _ _ => none
  | .remN _ _ _ _ => none
  | .addi _ _ _ _ => none
  | .addiImm32 _ _ _ _ => none
  | .andi _ _ _ _ => none
  | .andiImm32 _ _ _ _ => none
  | .ori _ _ _ _ => none
  | .oriImm32 _ _ _ _ => none
  | .xori _ _ _ _ => none
  | .xoriImm32 _ _ _ _ => none
  | .shli _ _ _ _ => none
  | .shriN _ _ _ _ => none
  | .shriI _ _ _ _ => none
  | .movi _ _ _ => none
  | .moviImm32 _ _ _ => none
  | .movhi _ _ _ _ => none
  | .movhiImm32 _ _ _ _ => none
  | .sel _ _ _ _ _ => none
  | .extb _ _ _ _ _ => none
  | .insb _ _ _ _ _ => none
  | .ffmaF32 _ _ _ _ _ => none
  | .ffmaF16 _ _ _ _ _ => none
  | .ffmaBf16 _ _ _ _ _ => none
  | .vand _ _ _ _ _ _ => none
  | .vor _ _ _ _ _ _ => none
  | .vxor _ _ _ _ _ _ => none
  | .vsplat _ _ _ _ _ => none
  | .vextr _ _ _ _ _ => none
  | .vins _ _ _ _ _ => none
  | .vperm _ _ _ _ _ _ => none
  | .vslide _ _ _ _ _ _ => none
  | .vcompr _ _ _ _ _ => none
  | .vexpnd _ _ _ _ _ => none
  | .vsel _ _ _ _ _ _ => none
  | .vpkl6 _ _ _ => none
  | .vupl6 _ _ _ => none
  | .vdot4I8 _ _ _ _ _ => none
  | .vdot4N8 _ _ _ _ _ => none
  | .vdot4I8Sat _ _ _ _ _ => none
  | .vdot4N8Sat _ _ _ _ _ => none
  | .vdot2I16 _ _ _ _ _ => none
  | .vdot2N16 _ _ _ _ _ => none
  | .vdot2I16Sat _ _ _ _ _ => none
  | .vdot2N16Sat _ _ _ _ _ => none
  | .vffmaF32 _ _ _ _ _ _ _ => none
  | .vffmaF16 _ _ _ _ _ _ _ => none
  | .vffmaBf16 _ _ _ _ _ _ _ => none
  | .mand _ _ _ _ => none
  | .mor _ _ _ _ => none
  | .mxor _ _ _ _ => none
  | .mnot _ _ _ => none
  | .mpopc _ _ _ => none
  | .mfirst _ _ _ => none
  | .mset _ _ _ => none
  | .vdopAdd _ _ _ _ _ => none
  | .vdopSub _ _ _ _ _ => none
  | .vdopMul _ _ _ _ _ => none
  | .vdopMin _ _ _ _ _ => none
  | .vdopMax _ _ _ _ _ => none
  | .vdopDiv _ _ _ _ _ => none
  | .vdopSqrt _ _ _ _ => none
  | .ldv _ _ _ _ _ _ => none
  | .ldvOffset _ _ _ _ _ _ _ => none
  | .ldvL6 _ _ _ _ _ _ => none
  | .ldvL6Offset _ _ _ _ _ _ _ => none
  | .pref _ _ _ => none
  | .prefOffset _ _ _ _ => none
  | .evict _ _ _ => none
  | .evictOffset _ _ _ _ => none
  | .stv _ _ _ _ _ => none
  | .stvOffset _ _ _ _ _ _ => none
  | .stvL6 _ _ _ _ _ => none
  | .stvL6Offset _ _ _ _ _ _ => none
  | .amoAdd _ _ _ _ _ _ _ _ _ => none
  | .amoAnd _ _ _ _ _ _ _ _ _ => none
  | .amoOr _ _ _ _ _ _ _ _ _ => none
  | .amoXor _ _ _ _ _ _ _ _ _ => none
  | .amoMinI _ _ _ _ _ _ _ _ _ => none
  | .amoMinN _ _ _ _ _ _ _ _ _ => none
  | .amoMaxI _ _ _ _ _ _ _ _ _ => none
  | .amoMaxN _ _ _ _ _ _ _ _ _ => none
  | .amoSwap _ _ _ _ _ _ _ _ _ => none
  | .amoCas _ _ _ _ _ _ _ _ _ => none
  | .fenceAcq _ _ => none
  | .fenceRel _ _ => none
  | .fenceFull _ _ => none
  | .cadd _ _ _ _ _ _ => none
  | .cpoll _ _ _ _ _ => none
  | .tick _ _ => none
  | .sbind _ _ _ _ => none
  | .sunbd _ _ => none
  | .sarr _ _ _ _ _ => none
  | .sarrb _ _ _ => none
  | .stest _ _ _ _ _ => none
  | .sleave _ _ => none
  | .trigx _ _ _ _ => none
  | .tcfg _ _ _ _ => none
  | .tfmt _ _ _ => none
  | .tscale _ _ _ _ _ _ => none
  | .tzero _ _ _ => none
  | .tldr _ _ _ _ _ _ _ => none
  | .tstr _ _ _ _ _ _ _ => none
  | .tmovr _ _ _ _ _ _ => none
  | .tmovc _ _ _ _ _ _ => none
  | .mma _ _ _ _ _ => none
  | .mmas _ _ _ _ _ => none
  | .mmaSat _ _ _ _ _ => none
  | .mmasSat _ _ _ _ _ => none
  | .gdrop _ _ _ => none
  | .tdrain _ _ _ => none
  | .tfill _ _ _ => none
  | .tstat _ _ _ _ => none
  | .tfree _ _ _ => none
  | .topen _ _ _ => none
  | .tclose _ _ => none
  | .tacqS _ _ _ => none
  | .tacqW _ _ _ => none
  | .tacqA _ _ _ => none
  | .trel _ _ _ => none
  | .tsplit _ _ _ _ => none
  | .tqry _ _ _ _ => none
  | .tdesc _ _ _ _ => none
  | .yskew _ _ _ _ => none
  | .yunsk _ _ _ => none
  | .dadd _ _ _ _ _ => none
  | .dsub _ _ _ _ _ => none
  | .dmul _ _ _ _ _ => none
  | .ddiv _ _ _ _ _ => none
  | .dsqrt _ _ _ _ => none
  | .dmin _ _ _ _ _ => none
  | .dmax _ _ _ _ _ => none
  | .dfma _ _ _ _ _ _ => none
  | .vdfma _ _ _ _ _ _ _ => none
  | .fdiv _ _ _ _ _ => none
  | .fsqrt _ _ _ _ => none
  | .fexp2 _ _ _ _ => none
  | .flog2 _ _ _ _ => none
  | .fsin _ _ _ _ => none
  | .fcos _ _ _ _ => none
  | .frcp _ _ _ _ => none
  | .frsq _ _ _ _ => none
  | .shipw _ => none
  | .migrate _ => none
  | .msend _ _ _ _ => none
  | .msendT _ _ _ _ => none
  | .mmask _ _ _ _ => none
  | .mdone _ _ => none
  | .rdsend _ _ _ _ => none
  | .rdrecv _ _ _ _ _ => none
  | .cpyq _ _ _ => none
  | .eret _ _ _ => none
  | .tlbw _ _ _ _ => none
  | .tlbinv _ _ _ => none
  | .aswch _ _ _ => none
  | .launch _ _ _ => none
  | .launchT _ _ _ => none
  | .swout _ _ _ => none
  | .swin _ _ _ => none
  | .rdcfg _ _ _ _ => none
  | .longLatencyCompletion _ _ => none
  | .settle _ => none
  | .fetchFill _ => none
  | .storeBufferDrain _ => none
  | .guestDispatch _ => none
  | .shippedCompletion _ _ => none
  | .shippedFault _ _ => none
  | .cancelPacket _ => none
  | .migrateTransferDone _ => none
  | .forwardedReply _ => none
  | .matrixPipeStart _ => none
  | .matrixCompletion _ _ => none
  | .tileTransferCompletion _ => none
  | .skewRearrangeDone _ => none
  | .penaltyUpdate _ => none
  | .mirrorUpdate => none
  | .tenureGrant => none
  | .recall => none
  | .drainRequest => none
  | .watchWake _ => none
  | .watchPoll _ => none
  | .waitDeadline _ => none
  | .activationStart _ => none
  | .statGather _ => none
  | .messageArrival _ => none
  | .heldMessagePlaced _ _ => none
  | .mailboxWaitExpiry _ _ => none
  | .messageAnswer _ _ _ => none
  | .handlerActivation _ _ => none
  | .portArbitration _ _ => none
  | .reductionRound _ _ => none
  | .routerPowerDown _ => none
  | .routerWake _ _ => none
  | .routerReady _ => none
  | .pageWalk _ _ => none
  | .atsCompletion _ _ _ _ _ _ => none
  | .priSuccess _ _ => none
  | .priInvalidRequest _ _ => none
  | .priResponseFailure _ => none
  | .atsInvalidateRequest _ _ _ _ => none
  | .invalidateCompletion => none
  | .transferStart _ => none
  | .transferComplete _ _ => none
  | .transferFailed _ _ => none
  | .remotePathLoss _ => none
  | .sertenPut _ _ _ _ => none
  | .hostMemoryWrite _ _ _ => none
  | .hostMemoryRead _ _ => none
  | .hostCounterAdd _ _ _ => none
  | .eqConfigWrite _ _ _ => none
  | .registerWrite _ _ => none
  | .launchRecordTake _ _ _ => none
  | .deviceQueueAdmit _ _ _ => none
  | .teamPlacement _ => none
  | .priorityAging _ _ => none
  | .quantumExpiry _ => none
  | .parkExpiry _ => none
  | .safewaitExpiry _ => none
  | .swapOut _ => none
  | .eventBacklogDrain _ => none
  | .requestTimeout _ => none
  | .functionLevelReset _ => none
  | .errorCorrected _ _ _ => none
  | .poisonConsumed _ => none
  | .uncorrectableError _ => none
  | .pipeFailure _ => none
  | .exchangeComplete _ _ => none
  | .deviceFault _ => none
  | .deviceReset => none
  | .go _ => none
  | .imageVerifyDone _ => none
  | .bringUpReady _ => none
  | .recoveryReset => none
  | .spdmRequest _ => none
  | .clockStepDown _ _ => none
  | .clockStepUp => none
  | .thermalTrip => none
  | .waitiTimeout _ => none
  | .linkRetrained => none
  | .sertenGet _ _ _ _ => none
  | .sertenCounterAdd _ _ _ _ => none
  | .portLinkChange _ _ => none
  | .coalescingIntervalEnd _ => none

/-- A term that stands for words of the instruction set. -/
abbrev Instr.WF (i : Instr) : Prop := i.check = none

end Sys2Proof
end

