-- ==== Sys2Proof/Decode.lean ====
section
/-! DEFINITION. Decoding instruction words (R47-R71) and, after it, the encoder. A word is split by the layout of its
major opcode's format, matched on its function field, its unused fields are required to be zero, and the term built is
checked by `Instr.check`. Every refusal has a name of R65. -/
namespace Sys2Proof

/-- Format A, and formats M and G, which share its fields (R50). -/
structure FieldsA where
  d : BitVec 5
  a : BitVec 5
  b : BitVec 5
  la : BitVec 4
  fn : BitVec 5
deriving DecidableEq, Repr

/-- The fields of a 24-bit body. -/
def unpackA (w : BitVec 24) : FieldsA :=
  ⟨w.extractLsb' 19 5, w.extractLsb' 14 5, w.extractLsb' 9 5, w.extractLsb' 5 4, w.extractLsb' 0 5⟩

/-- The 24-bit body of given fields. -/
def packA (f : FieldsA) : BitVec 24 :=
  f.d ++ f.a ++ f.b ++ f.la ++ f.fn

/-- Format B. -/
structure FieldsB where
  d : BitVec 5
  a : BitVec 5
  b : BitVec 5
  c : BitVec 5
  la : BitVec 4
deriving DecidableEq, Repr

/-- The fields of a 24-bit body. -/
def unpackB (w : BitVec 24) : FieldsB :=
  ⟨w.extractLsb' 19 5, w.extractLsb' 14 5, w.extractLsb' 9 5, w.extractLsb' 4 5, w.extractLsb' 0 4⟩

/-- The 24-bit body of given fields. -/
def packB (f : FieldsB) : BitVec 24 :=
  f.d ++ f.a ++ f.b ++ f.c ++ f.la

/-- Format I, and BCMP. -/
structure FieldsI where
  d : BitVec 5
  a : BitVec 5
  fn : BitVec 3
  imm : BitVec 11
deriving DecidableEq, Repr

/-- The fields of a 24-bit body. -/
def unpackI (w : BitVec 24) : FieldsI :=
  ⟨w.extractLsb' 19 5, w.extractLsb' 14 5, w.extractLsb' 11 3, w.extractLsb' 0 11⟩

/-- The 24-bit body of given fields. -/
def packI (f : FieldsI) : BitVec 24 :=
  f.d ++ f.a ++ f.fn ++ f.imm

/-- Format V. -/
structure FieldsV where
  d : BitVec 5
  a : BitVec 5
  b : BitVec 5
  m : BitVec 3
  ty : BitVec 3
  fn : BitVec 3
deriving DecidableEq, Repr

/-- The fields of a 24-bit body. -/
def unpackV (w : BitVec 24) : FieldsV :=
  ⟨w.extractLsb' 19 5, w.extractLsb' 14 5, w.extractLsb' 9 5, w.extractLsb' 6 3, w.extractLsb' 3 3, w.extractLsb' 0 3⟩

/-- The 24-bit body of given fields. -/
def packV (f : FieldsV) : BitVec 24 :=
  f.d ++ f.a ++ f.b ++ f.m ++ f.ty ++ f.fn

/-- Format W. -/
structure FieldsW where
  d : BitVec 5
  a : BitVec 5
  b : BitVec 5
  c : BitVec 5
  m : BitVec 3
  neg : BitVec 1
deriving DecidableEq, Repr

/-- The fields of a 24-bit body. -/
def unpackW (w : BitVec 24) : FieldsW :=
  ⟨w.extractLsb' 19 5, w.extractLsb' 14 5, w.extractLsb' 9 5, w.extractLsb' 4 5, w.extractLsb' 1 3, w.extractLsb' 0 1⟩

/-- The 24-bit body of given fields. -/
def packW (f : FieldsW) : BitVec 24 :=
  f.d ++ f.a ++ f.b ++ f.c ++ f.m ++ f.neg

/-- Format T. -/
structure FieldsT where
  td : BitVec 3
  ta : BitVec 3
  tb : BitVec 3
  s : BitVec 5
  la : BitVec 4
  fn : BitVec 6
deriving DecidableEq, Repr

/-- The fields of a 24-bit body. -/
def unpackT (w : BitVec 24) : FieldsT :=
  ⟨w.extractLsb' 21 3, w.extractLsb' 18 3, w.extractLsb' 15 3, w.extractLsb' 10 5, w.extractLsb' 6 4, w.extractLsb' 0 6⟩

/-- The 24-bit body of given fields. -/
def packT (f : FieldsT) : BitVec 24 :=
  f.td ++ f.ta ++ f.tb ++ f.s ++ f.la ++ f.fn

/-- Format K. -/
structure FieldsK where
  d : BitVec 5
  a : BitVec 5
  b : BitVec 5
  r : BitVec 2
  fn : BitVec 7
deriving DecidableEq, Repr

/-- The fields of a 24-bit body. -/
def unpackK (w : BitVec 24) : FieldsK :=
  ⟨w.extractLsb' 19 5, w.extractLsb' 14 5, w.extractLsb' 9 5, w.extractLsb' 7 2, w.extractLsb' 0 7⟩

/-- The 24-bit body of given fields. -/
def packK (f : FieldsK) : BitVec 24 :=
  f.d ++ f.a ++ f.b ++ f.r ++ f.fn

/-- Format K with a control-register number. -/
structure FieldsKN where
  d : BitVec 5
  num : BitVec 12
  fn : BitVec 7
deriving DecidableEq, Repr

/-- The fields of a 24-bit body. -/
def unpackKN (w : BitVec 24) : FieldsKN :=
  ⟨w.extractLsb' 19 5, w.extractLsb' 7 12, w.extractLsb' 0 7⟩

/-- The 24-bit body of given fields. -/
def packKN (f : FieldsKN) : BitVec 24 :=
  f.d ++ f.num ++ f.fn

/-- BR and CALL (R55). -/
structure FieldsC24 where
  o : BitVec 24
deriving DecidableEq, Repr

/-- The fields of a 24-bit body. -/
def unpackC24 (w : BitVec 24) : FieldsC24 :=
  ⟨w.extractLsb' 0 24⟩

/-- The 24-bit body of given fields. -/
def packC24 (f : FieldsC24) : BitVec 24 :=
  f.o

/-- BRM (R55). -/
structure FieldsCM where
  m : BitVec 3
  c : BitVec 2
  o : BitVec 19
deriving DecidableEq, Repr

/-- The fields of a 24-bit body. -/
def unpackCM (w : BitVec 24) : FieldsCM :=
  ⟨w.extractLsb' 21 3, w.extractLsb' 19 2, w.extractLsb' 0 19⟩

/-- The 24-bit body of given fields. -/
def packCM (f : FieldsCM) : BitVec 24 :=
  f.m ++ f.c ++ f.o

/-- LOOP (R55). -/
structure FieldsCL where
  c : BitVec 5
  o : BitVec 19
deriving DecidableEq, Repr

/-- The fields of a 24-bit body. -/
def unpackCL (w : BitVec 24) : FieldsCL :=
  ⟨w.extractLsb' 19 5, w.extractLsb' 0 19⟩

/-- The 24-bit body of given fields. -/
def packCL (f : FieldsCL) : BitVec 24 :=
  f.c ++ f.o

/-- `need p r k` is `k` where `p` holds and the refusal `r` where it does not. -/
def need (p : Bool) (r : Reject) (k : Except Reject Instr) : Except Reject Instr :=
  if p then k else .error r

/-- A form without an extension word (R51, R65). -/
def noExt (x : Option (BitVec 32)) (k : Except Reject Instr) : Except Reject Instr :=
  match x with
  | none => k
  | some _ => .error .xBit

/-- A form that must have an extension word (R53). -/
def withExt (x : Option (BitVec 32)) (k : BitVec 32 → Except Reject Instr) : Except Reject Instr :=
  match x with
  | none => .error .xBit
  | some e => k e

/-- A form whose extension word is optional (R51, R52). -/
def optExt (x : Option (BitVec 32)) (k0 : Except Reject Instr) (k1 : BitVec 32 → Except Reject Instr) :
    Except Reject Instr :=
  match x with
  | none => k0
  | some e => k1 e

/-- Major 0x01: BR. -/
noncomputable def parse01 (body : BitVec 24) (x : Option (BitVec 32)) (sp : SafePoint) : Except Reject Instr :=
  let f := unpackC24 body
  noExt x <|
        .ok (.br f.o sp)

/-- Major 0x02: CALL. -/
noncomputable def parse02 (body : BitVec 24) (x : Option (BitVec 32)) (sp : SafePoint) : Except Reject Instr :=
  let f := unpackC24 body
  noExt x <|
        .ok (.call f.o sp)

/-- Major 0x03: BRM. -/
noncomputable def parse03 (body : BitVec 24) (x : Option (BitVec 32)) (sp : SafePoint) : Except Reject Instr :=
  let f := unpackCM body
  noExt x <|
        .ok (.brm f.m f.c f.o sp)

/-- Major 0x04: BCMP. -/
noncomputable def parse04 (body : BitVec 24) (x : Option (BitVec 32)) (sp : SafePoint) : Except Reject Instr :=
  let f := unpackI body
  optExt x (.ok (.bcmp f.d f.a f.fn f.imm sp))
      (fun e => need (f.imm == 0#11) .reservedField <|
        .ok (.bcmpImm32 f.d f.a f.fn e sp))

/-- Major 0x05: LOOP. -/
noncomputable def parse05 (body : BitVec 24) (x : Option (BitVec 32)) (sp : SafePoint) : Except Reject Instr :=
  let f := unpackCL body
  noExt x <|
        .ok (.loop f.c f.o sp)

/-- Major 0x06: CALLR, JMP, NOP, YIELD, EXIT, SPAWN, TRAP, ISYNC. -/
noncomputable def parse06 (body : BitVec 24) (x : Option (BitVec 32)) (sp : SafePoint) : Except Reject Instr :=
  let f := unpackA body
  if f.fn == 0#5 then
      noExt x <|
        need (f.d == 0#5) .reservedField <|
        need (f.b == 0#5) .reservedField <|
        need (f.la == 0#4) .laField <|
        .ok (.callr f.a sp)
  else if f.fn == 1#5 then
      noExt x <|
        need (f.d == 0#5) .reservedField <|
        need (f.b == 0#5) .reservedField <|
        need (f.la == 0#4) .laField <|
        .ok (.jmp f.a sp)
  else if f.fn == 2#5 then
      need (sp.isNone) .reservedField <| noExt x <|
        need (f.d == 0#5) .reservedField <|
        need (f.a == 0#5) .reservedField <|
        need (f.b == 0#5) .reservedField <|
        need (f.la == 0#4) .laField <|
        .ok (.nop)
  else if f.fn == 3#5 then
      noExt x <|
        need (f.d == 0#5) .reservedField <|
        need (f.a == 0#5) .reservedField <|
        need (f.b == 0#5) .reservedField <|
        need (f.la == 0#4) .laField <|
        .ok (.yield sp)
  else if f.fn == 4#5 then
      noExt x <|
        need (f.d == 0#5) .reservedField <|
        need (f.a == 0#5) .reservedField <|
        need (f.b == 0#5) .reservedField <|
        need (f.la == 0#4) .laField <|
        .ok (.exit sp)
  else if f.fn == 5#5 then
      noExt x <|
        need (f.la == 0#4) .laField <|
        .ok (.spawn f.d f.a f.b sp)
  else if f.fn == 6#5 then
      noExt x <|
        need (f.d == 0#5) .reservedField <|
        need (f.b == 0#5) .reservedField <|
        need (f.la == 0#4) .laField <|
        .ok (.trap f.a sp)
  else if f.fn == 7#5 then
      noExt x <|
        need (f.d == 0#5) .reservedField <|
        need (f.a == 0#5) .reservedField <|
        need (f.b == 0#5) .reservedField <|
        need (f.la == 0#4) .laField <|
        .ok (.isync sp)
  else .error .unassignedFunction

/-- Major 0x07: TRIG. -/
noncomputable def parse07 (body : BitVec 24) (x : Option (BitVec 32)) (sp : SafePoint) : Except Reject Instr :=
  let f := unpackB body
  noExt x <|
        .ok (.trig f.d f.a f.b f.c f.la sp)

/-- Major 0x08: ADD, SUB, AND, OR, XOR, ANDN, SHL, SHR_N, SHR_I, ROT, MIN_I, MIN_N, MAX_I, MAX_N, CLZ, CTZ, POPC, SHADD_1, SHADD_2, SHADD_3, SHADD_4, SCMP. -/
noncomputable def parse08 (body : BitVec 24) (x : Option (BitVec 32)) (sp : SafePoint) : Except Reject Instr :=
  let f := unpackA body
  if f.fn == 0#5 then
      noExt x <|
        need (f.la == 0#4) .laField <|
        .ok (.add f.d f.a f.b sp)
  else if f.fn == 1#5 then
      noExt x <|
        need (f.la == 0#4) .laField <|
        .ok (.sub f.d f.a f.b sp)
  else if f.fn == 2#5 then
      noExt x <|
        need (f.la == 0#4) .laField <|
        .ok (.and f.d f.a f.b sp)
  else if f.fn == 3#5 then
      noExt x <|
        need (f.la == 0#4) .laField <|
        .ok (.or f.d f.a f.b sp)
  else if f.fn == 4#5 then
      noExt x <|
        need (f.la == 0#4) .laField <|
        .ok (.xor f.d f.a f.b sp)
  else if f.fn == 5#5 then
      noExt x <|
        need (f.la == 0#4) .laField <|
        .ok (.andn f.d f.a f.b sp)
  else if f.fn == 6#5 then
      noExt x <|
        need (f.la == 0#4) .laField <|
        .ok (.shl f.d f.a f.b sp)
  else if f.fn == 7#5 then
      noExt x <|
        need (f.la == 0#4) .laField <|
        .ok (.shrN f.d f.a f.b sp)
  else if f.fn == 8#5 then
      noExt x <|
        need (f.la == 0#4) .laField <|
        .ok (.shrI f.d f.a f.b sp)
  else if f.fn == 9#5 then
      noExt x <|
        need (f.la == 0#4) .laField <|
        .ok (.rot f.d f.a f.b sp)
  else if f.fn == 10#5 then
      noExt x <|
        need (f.la == 0#4) .laField <|
        .ok (.minI f.d f.a f.b sp)
  else if f.fn == 11#5 then
      noExt x <|
        need (f.la == 0#4) .laField <|
        .ok (.minN f.d f.a f.b sp)
  else if f.fn == 12#5 then
      noExt x <|
        need (f.la == 0#4) .laField <|
        .ok (.maxI f.d f.a f.b sp)
  else if f.fn == 13#5 then
      noExt x <|
        need (f.la == 0#4) .laField <|
        .ok (.maxN f.d f.a f.b sp)
  else if f.fn == 14#5 then
      noExt x <|
        need (f.b == 0#5) .reservedField <|
        need (f.la == 0#4) .laField <|
        .ok (.clz f.d f.a sp)
  else if f.fn == 15#5 then
      noExt x <|
        need (f.b == 0#5) .reservedField <|
        need (f.la == 0#4) .laField <|
        .ok (.ctz f.d f.a sp)
  else if f.fn == 16#5 then
      noExt x <|
        need (f.b == 0#5) .reservedField <|
        need (f.la == 0#4) .laField <|
        .ok (.popc f.d f.a sp)
  else if f.fn == 17#5 then
      noExt x <|
        need (f.la == 0#4) .laField <|
        .ok (.shadd1 f.d f.a f.b sp)
  else if f.fn == 18#5 then
      noExt x <|
        need (f.la == 0#4) .laField <|
        .ok (.shadd2 f.d f.a f.b sp)
  else if f.fn == 19#5 then
      noExt x <|
        need (f.la == 0#4) .laField <|
        .ok (.shadd3 f.d f.a f.b sp)
  else if f.fn == 20#5 then
      noExt x <|
        need (f.la == 0#4) .laField <|
        .ok (.shadd4 f.d f.a f.b sp)
  else if f.fn.extractLsb' 3 2 == 3#2 then
      noExt x <|
        need (f.la == 0#4) .laField <|
        .ok (.scmp f.d f.a f.b (f.fn.extractLsb' 0 3) sp)
  else .error .unassignedFunction

/-- Major 0x09: MUL, MULH_I, MULH_N, DIV_I, DIV_N, REM_I, REM_N. -/
noncomputable def parse09 (body : BitVec 24) (x : Option (BitVec 32)) (sp : SafePoint) : Except Reject Instr :=
  let f := unpackA body
  if f.fn == 0#5 then
      noExt x <|
        need (f.la == 0#4) .laField <|
        .ok (.mul f.d f.a f.b sp)
  else if f.fn == 1#5 then
      noExt x <|
        need (f.la == 0#4) .laField <|
        .ok (.mulhI f.d f.a f.b sp)
  else if f.fn == 2#5 then
      noExt x <|
        need (f.la == 0#4) .laField <|
        .ok (.mulhN f.d f.a f.b sp)
  else if f.fn == 4#5 then
      noExt x <|
        need (f.la == 0#4) .laField <|
        .ok (.divI f.d f.a f.b sp)
  else if f.fn == 5#5 then
      noExt x <|
        need (f.la == 0#4) .laField <|
        .ok (.divN f.d f.a f.b sp)
  else if f.fn == 6#5 then
      noExt x <|
        need (f.la == 0#4) .laField <|
        .ok (.remI f.d f.a f.b sp)
  else if f.fn == 7#5 then
      noExt x <|
        need (f.la == 0#4) .laField <|
        .ok (.remN f.d f.a f.b sp)
  else .error .unassignedFunction

/-- Major 0x0A: ADDI, ANDI, ORI, XORI, SHLI, SHRI_N, SHRI_I. -/
noncomputable def parse0A (body : BitVec 24) (x : Option (BitVec 32)) (sp : SafePoint) : Except Reject Instr :=
  let f := unpackI body
  if f.fn == 0#3 then
      optExt x (.ok (.addi f.d f.a f.imm sp))
      (fun e => need (f.imm == 0#11) .reservedField <|
        .ok (.addiImm32 f.d f.a e sp))
  else if f.fn == 1#3 then
      optExt x (.ok (.andi f.d f.a f.imm sp))
      (fun e => need (f.imm == 0#11) .reservedField <|
        .ok (.andiImm32 f.d f.a e sp))
  else if f.fn == 2#3 then
      optExt x (.ok (.ori f.d f.a f.imm sp))
      (fun e => need (f.imm == 0#11) .reservedField <|
        .ok (.oriImm32 f.d f.a e sp))
  else if f.fn == 3#3 then
      optExt x (.ok (.xori f.d f.a f.imm sp))
      (fun e => need (f.imm == 0#11) .reservedField <|
        .ok (.xoriImm32 f.d f.a e sp))
  else if f.fn == 4#3 then
      noExt x <|
        need (f.imm.extractLsb' 6 5 == 0#5) .reservedField <|
        .ok (.shli f.d f.a (f.imm.extractLsb' 0 6) sp)
  else if f.fn == 5#3 then
      noExt x <|
        need (f.imm.extractLsb' 6 5 == 0#5) .reservedField <|
        .ok (.shriN f.d f.a (f.imm.extractLsb' 0 6) sp)
  else if f.fn == 6#3 then
      noExt x <|
        need (f.imm.extractLsb' 6 5 == 0#5) .reservedField <|
        .ok (.shriI f.d f.a (f.imm.extractLsb' 0 6) sp)
  else .error .unassignedFunction

/-- Major 0x0B: MOVI, MOVHI. -/
noncomputable def parse0B (body : BitVec 24) (x : Option (BitVec 32)) (sp : SafePoint) : Except Reject Instr :=
  let f := unpackI body
  if f.fn == 0#3 then
      optExt x (need (f.a == 0#5) .reservedField <|
        .ok (.movi f.d f.imm sp))
      (fun e => need (f.a == 0#5) .reservedField <|
        need (f.imm == 0#11) .reservedField <|
        .ok (.moviImm32 f.d e sp))
  else if f.fn == 1#3 then
      optExt x (.ok (.movhi f.d f.a f.imm sp))
      (fun e => need (f.imm == 0#11) .reservedField <|
        .ok (.movhiImm32 f.d f.a e sp))
  else .error .unassignedFunction

/-- Major 0x0C: SEL. -/
noncomputable def parse0C (body : BitVec 24) (x : Option (BitVec 32)) (sp : SafePoint) : Except Reject Instr :=
  let f := unpackB body
  noExt x <|
        need (f.la == 0#4) .laField <|
        .ok (.sel f.d f.a f.b f.c sp)

/-- Major 0x0D: EXTB. -/
noncomputable def parse0D (body : BitVec 24) (x : Option (BitVec 32)) (sp : SafePoint) : Except Reject Instr :=
  let f := unpackB body
  noExt x <|
        need (f.la == 0#4) .laField <|
        .ok (.extb f.d f.a f.b f.c sp)

/-- Major 0x0E: INSB. -/
noncomputable def parse0E (body : BitVec 24) (x : Option (BitVec 32)) (sp : SafePoint) : Except Reject Instr :=
  let f := unpackB body
  noExt x <|
        need (f.la == 0#4) .laField <|
        .ok (.insb f.d f.a f.b f.c sp)

/-- Major 0x11: FFMA_F32. -/
noncomputable def parse11 (body : BitVec 24) (x : Option (BitVec 32)) (sp : SafePoint) : Except Reject Instr :=
  let f := unpackB body
  noExt x <|
        need (f.la == 0#4) .laField <|
        .ok (.ffmaF32 f.d f.a f.b f.c sp)

/-- Major 0x12: FFMA_F16. -/
noncomputable def parse12 (body : BitVec 24) (x : Option (BitVec 32)) (sp : SafePoint) : Except Reject Instr :=
  let f := unpackB body
  noExt x <|
        need (f.la == 0#4) .laField <|
        .ok (.ffmaF16 f.d f.a f.b f.c sp)

/-- Major 0x13: FFMA_BF16. -/
noncomputable def parse13 (body : BitVec 24) (x : Option (BitVec 32)) (sp : SafePoint) : Except Reject Instr :=
  let f := unpackB body
  noExt x <|
        need (f.la == 0#4) .laField <|
        .ok (.ffmaBf16 f.d f.a f.b f.c sp)

/-- Major 0x14: FADD, FSUB, FMUL, FMIN, FMAX, FSGN_J, FSGN_JN, FSGN_JX. -/
noncomputable def parse14 (body : BitVec 24) (x : Option (BitVec 32)) (sp : SafePoint) : Except Reject Instr :=
  let f := unpackA body
  if f.fn.extractLsb' 0 3 == 0#3 then
      noExt x <|
        need (f.la == 0#4) .laField <|
        .ok (.fadd f.d f.a f.b (f.fn.extractLsb' 3 2) sp)
  else if f.fn.extractLsb' 0 3 == 1#3 then
      noExt x <|
        need (f.la == 0#4) .laField <|
        .ok (.fsub f.d f.a f.b (f.fn.extractLsb' 3 2) sp)
  else if f.fn.extractLsb' 0 3 == 2#3 then
      noExt x <|
        need (f.la == 0#4) .laField <|
        .ok (.fmul f.d f.a f.b (f.fn.extractLsb' 3 2) sp)
  else if f.fn.extractLsb' 0 3 == 3#3 then
      noExt x <|
        need (f.la == 0#4) .laField <|
        .ok (.fmin f.d f.a f.b (f.fn.extractLsb' 3 2) sp)
  else if f.fn.extractLsb' 0 3 == 4#3 then
      noExt x <|
        need (f.la == 0#4) .laField <|
        .ok (.fmax f.d f.a f.b (f.fn.extractLsb' 3 2) sp)
  else if f.fn.extractLsb' 0 3 == 5#3 then
      noExt x <|
        need (f.la == 0#4) .laField <|
        .ok (.fsgnJ f.d f.a f.b (f.fn.extractLsb' 3 2) sp)
  else if f.fn.extractLsb' 0 3 == 6#3 then
      noExt x <|
        need (f.la == 0#4) .laField <|
        .ok (.fsgnJn f.d f.a f.b (f.fn.extractLsb' 3 2) sp)
  else if f.fn.extractLsb' 0 3 == 7#3 then
      noExt x <|
        need (f.la == 0#4) .laField <|
        .ok (.fsgnJx f.d f.a f.b (f.fn.extractLsb' 3 2) sp)
  else .error .unassignedFunction

/-- Major 0x15: FCMP, FCLASS. -/
noncomputable def parse15 (body : BitVec 24) (x : Option (BitVec 32)) (sp : SafePoint) : Except Reject Instr :=
  let f := unpackA body
  if f.fn.extractLsb' 0 3 == 7#3 then
      noExt x <|
        need (f.b == 0#5) .reservedField <|
        need (f.la == 0#4) .laField <|
        .ok (.fclass f.d f.a (f.fn.extractLsb' 3 2) sp)
  else
      noExt x <|
        need (f.la == 0#4) .laField <|
        .ok (.fcmp f.d f.a f.b (f.fn.extractLsb' 3 2) (f.fn.extractLsb' 0 3) sp)

/-- Major 0x16: FCVT_FROM_FLOAT. -/
noncomputable def parse16 (body : BitVec 24) (x : Option (BitVec 32)) (sp : SafePoint) : Except Reject Instr :=
  let f := unpackA body
  noExt x <|
        need (f.b.extractLsb' 3 2 == 0#2) .reservedField <|
        need (f.la == 0#4) .laField <|
        .ok (.fcvtFromFloat f.d f.a (f.b.extractLsb' 0 3) (f.fn.extractLsb' 3 2) (f.fn.extractLsb' 0 3) sp)

/-- Major 0x17: FCVT_TO_FLOAT. -/
noncomputable def parse17 (body : BitVec 24) (x : Option (BitVec 32)) (sp : SafePoint) : Except Reject Instr :=
  let f := unpackA body
  noExt x <|
        need (f.b.extractLsb' 3 2 == 0#2) .reservedField <|
        need (f.la == 0#4) .laField <|
        .ok (.fcvtToFloat f.d f.a (f.b.extractLsb' 0 3) (f.fn.extractLsb' 3 2) (f.fn.extractLsb' 0 3) sp)

/-- Major 0x18: VADD, VSUB, VMUL, VMIN_I, VMIN_N, VMAX_I, VMAX_N. -/
noncomputable def parse18 (body : BitVec 24) (x : Option (BitVec 32)) (sp : SafePoint) : Except Reject Instr :=
  let f := unpackV body
  if f.fn == 0#3 then
      noExt x <|
        .ok (.vadd f.d f.a f.b f.m f.ty sp)
  else if f.fn == 1#3 then
      noExt x <|
        .ok (.vsub f.d f.a f.b f.m f.ty sp)
  else if f.fn == 2#3 then
      noExt x <|
        .ok (.vmul f.d f.a f.b f.m f.ty sp)
  else if f.fn == 3#3 then
      noExt x <|
        .ok (.vminI f.d f.a f.b f.m f.ty sp)
  else if f.fn == 4#3 then
      noExt x <|
        .ok (.vminN f.d f.a f.b f.m f.ty sp)
  else if f.fn == 5#3 then
      noExt x <|
        .ok (.vmaxI f.d f.a f.b f.m f.ty sp)
  else if f.fn == 6#3 then
      noExt x <|
        .ok (.vmaxN f.d f.a f.b f.m f.ty sp)
  else .error .unassignedFunction

/-- Major 0x19: VAND, VOR, VXOR, VSHL, VSHR_N, VSHR_I, VABS. -/
noncomputable def parse19 (body : BitVec 24) (x : Option (BitVec 32)) (sp : SafePoint) : Except Reject Instr :=
  let f := unpackV body
  if f.fn == 0#3 then
      noExt x <|
        .ok (.vand f.d f.a f.b f.m f.ty sp)
  else if f.fn == 1#3 then
      noExt x <|
        .ok (.vor f.d f.a f.b f.m f.ty sp)
  else if f.fn == 2#3 then
      noExt x <|
        .ok (.vxor f.d f.a f.b f.m f.ty sp)
  else if f.fn == 3#3 then
      noExt x <|
        .ok (.vshl f.d f.a f.b f.m f.ty sp)
  else if f.fn == 4#3 then
      noExt x <|
        .ok (.vshrN f.d f.a f.b f.m f.ty sp)
  else if f.fn == 5#3 then
      noExt x <|
        .ok (.vshrI f.d f.a f.b f.m f.ty sp)
  else if f.fn == 6#3 then
      noExt x <|
        need (f.b == 0#5) .reservedField <|
        .ok (.vabs f.d f.a f.m f.ty sp)
  else .error .unassignedFunction

/-- Major 0x1A: VADD_SAT_I, VADD_SAT_N, VSUB_SAT_I, VSUB_SAT_N, VMULH_I, VMULH_N. -/
noncomputable def parse1A (body : BitVec 24) (x : Option (BitVec 32)) (sp : SafePoint) : Except Reject Instr :=
  let f := unpackV body
  if f.fn == 0#3 then
      noExt x <|
        .ok (.vaddSatI f.d f.a f.b f.m f.ty sp)
  else if f.fn == 1#3 then
      noExt x <|
        .ok (.vaddSatN f.d f.a f.b f.m f.ty sp)
  else if f.fn == 2#3 then
      noExt x <|
        .ok (.vsubSatI f.d f.a f.b f.m f.ty sp)
  else if f.fn == 3#3 then
      noExt x <|
        .ok (.vsubSatN f.d f.a f.b f.m f.ty sp)
  else if f.fn == 4#3 then
      noExt x <|
        .ok (.vmulhI f.d f.a f.b f.m f.ty sp)
  else if f.fn == 5#3 then
      noExt x <|
        .ok (.vmulhN f.d f.a f.b f.m f.ty sp)
  else .error .unassignedFunction

/-- Major 0x1B: VCMP. -/
noncomputable def parse1B (body : BitVec 24) (x : Option (BitVec 32)) (sp : SafePoint) : Except Reject Instr :=
  let f := unpackV body
  noExt x <|
        need (f.d.extractLsb' 3 2 == 0#2) .registerField <|
        .ok (.vcmp (f.d.extractLsb' 0 3) f.a f.b f.m f.ty f.fn sp)

/-- Major 0x1C: VFADD, VFSUB, VFMUL, VFMIN, VFMAX, VRCPE, VRSQE. -/
noncomputable def parse1C (body : BitVec 24) (x : Option (BitVec 32)) (sp : SafePoint) : Except Reject Instr :=
  let f := unpackV body
  if f.fn == 0#3 then
      noExt x <|
        .ok (.vfadd f.d f.a f.b f.m f.ty sp)
  else if f.fn == 1#3 then
      noExt x <|
        .ok (.vfsub f.d f.a f.b f.m f.ty sp)
  else if f.fn == 2#3 then
      noExt x <|
        .ok (.vfmul f.d f.a f.b f.m f.ty sp)
  else if f.fn == 3#3 then
      noExt x <|
        .ok (.vfmin f.d f.a f.b f.m f.ty sp)
  else if f.fn == 4#3 then
      noExt x <|
        .ok (.vfmax f.d f.a f.b f.m f.ty sp)
  else if f.fn == 5#3 then
      noExt x <|
        need (f.b == 0#5) .reservedField <|
        .ok (.vrcpe f.d f.a f.m f.ty sp)
  else if f.fn == 6#3 then
      noExt x <|
        need (f.b == 0#5) .reservedField <|
        .ok (.vrsqe f.d f.a f.m f.ty sp)
  else .error .unassignedFunction

/-- Major 0x1D: VFCVT. -/
noncomputable def parse1D (body : BitVec 24) (x : Option (BitVec 32)) (sp : SafePoint) : Except Reject Instr :=
  let f := unpackV body
  noExt x <|
        need (f.b.extractLsb' 3 1 == 0#1) .reservedField <|
        .ok (.vfcvt f.d f.a (f.b.extractLsb' 4 1) (f.b.extractLsb' 0 3) f.m f.ty f.fn sp)

/-- Major 0x1E: VFCMP. -/
noncomputable def parse1E (body : BitVec 24) (x : Option (BitVec 32)) (sp : SafePoint) : Except Reject Instr :=
  let f := unpackV body
  noExt x <|
        need (f.d.extractLsb' 3 2 == 0#2) .registerField <|
        .ok (.vfcmp (f.d.extractLsb' 0 3) f.a f.b f.m f.ty f.fn sp)

/-- Major 0x1F: VSPLAT, VEXTR, VINS, VPERM, VSLIDE, VCOMPR, VEXPND, VSEL. -/
noncomputable def parse1F (body : BitVec 24) (x : Option (BitVec 32)) (sp : SafePoint) : Except Reject Instr :=
  let f := unpackV body
  if f.fn == 0#3 then
      noExt x <|
        need (f.b == 0#5) .reservedField <|
        .ok (.vsplat f.d f.a f.m f.ty sp)
  else if f.fn == 1#3 then
      noExt x <|
        need (f.m == 0#3) .reservedField <|
        .ok (.vextr f.d f.a f.b f.ty sp)
  else if f.fn == 2#3 then
      noExt x <|
        need (f.m == 0#3) .reservedField <|
        .ok (.vins f.d f.a f.b f.ty sp)
  else if f.fn == 3#3 then
      noExt x <|
        .ok (.vperm f.d f.a f.b f.m f.ty sp)
  else if f.fn == 4#3 then
      noExt x <|
        .ok (.vslide f.d f.a f.b f.m f.ty sp)
  else if f.fn == 5#3 then
      noExt x <|
        need (f.b == 0#5) .reservedField <|
        .ok (.vcompr f.d f.a f.m f.ty sp)
  else if f.fn == 6#3 then
      noExt x <|
        need (f.b == 0#5) .reservedField <|
        .ok (.vexpnd f.d f.a f.m f.ty sp)
  else if f.fn == 7#3 then
      noExt x <|
        .ok (.vsel f.d f.a f.b f.m f.ty sp)
  else .error .unassignedFunction

/-- Major 0x20: VRED_ADD, VRED_MIN, VRED_MAX, VRED_ADD_SAT, VSCAN_ADD, VSCAN_MIN, VSCAN_MAX. -/
noncomputable def parse20 (body : BitVec 24) (x : Option (BitVec 32)) (sp : SafePoint) : Except Reject Instr :=
  let f := unpackV body
  if f.fn == 0#3 then
      noExt x <|
        need (f.b == 0#5) .reservedField <|
        .ok (.vredAdd f.d f.a f.m f.ty sp)
  else if f.fn == 1#3 then
      noExt x <|
        need (f.b == 0#5) .reservedField <|
        .ok (.vredMin f.d f.a f.m f.ty sp)
  else if f.fn == 2#3 then
      noExt x <|
        need (f.b == 0#5) .reservedField <|
        .ok (.vredMax f.d f.a f.m f.ty sp)
  else if f.fn == 3#3 then
      noExt x <|
        need (f.b == 0#5) .reservedField <|
        .ok (.vredAddSat f.d f.a f.m f.ty sp)
  else if f.fn == 4#3 then
      noExt x <|
        need (f.b == 0#5) .reservedField <|
        .ok (.vscanAdd f.d f.a f.m f.ty sp)
  else if f.fn == 5#3 then
      noExt x <|
        need (f.b == 0#5) .reservedField <|
        .ok (.vscanMin f.d f.a f.m f.ty sp)
  else if f.fn == 6#3 then
      noExt x <|
        need (f.b == 0#5) .reservedField <|
        .ok (.vscanMax f.d f.a f.m f.ty sp)
  else .error .unassignedFunction

/-- Major 0x21: VPKL6, VUPL6. -/
noncomputable def parse21 (body : BitVec 24) (x : Option (BitVec 32)) (sp : SafePoint) : Except Reject Instr :=
  let f := unpackV body
  if f.fn == 0#3 then
      noExt x <|
        need (f.b == 0#5) .reservedField <|
        need (f.m == 0#3) .reservedField <|
        need (f.ty == 7#3) .typeField <|
        .ok (.vpkl6 f.d f.a sp)
  else if f.fn == 1#3 then
      noExt x <|
        need (f.b == 0#5) .reservedField <|
        need (f.m == 0#3) .reservedField <|
        need (f.ty == 7#3) .typeField <|
        .ok (.vupl6 f.d f.a sp)
  else .error .unassignedFunction

/-- Major 0x22: VDOT4_I8, VDOT4_N8, VDOT4_I8_SAT, VDOT4_N8_SAT, VDOT2_I16, VDOT2_N16, VDOT2_I16_SAT, VDOT2_N16_SAT. -/
noncomputable def parse22 (body : BitVec 24) (x : Option (BitVec 32)) (sp : SafePoint) : Except Reject Instr :=
  let f := unpackV body
  if f.fn == 0#3 then
      noExt x <|
        need (f.ty == 2#3) .typeField <|
        .ok (.vdot4I8 f.d f.a f.b f.m sp)
  else if f.fn == 1#3 then
      noExt x <|
        need (f.ty == 2#3) .typeField <|
        .ok (.vdot4N8 f.d f.a f.b f.m sp)
  else if f.fn == 2#3 then
      noExt x <|
        need (f.ty == 2#3) .typeField <|
        .ok (.vdot4I8Sat f.d f.a f.b f.m sp)
  else if f.fn == 3#3 then
      noExt x <|
        need (f.ty == 2#3) .typeField <|
        .ok (.vdot4N8Sat f.d f.a f.b f.m sp)
  else if f.fn == 4#3 then
      noExt x <|
        need (f.ty == 2#3) .typeField <|
        .ok (.vdot2I16 f.d f.a f.b f.m sp)
  else if f.fn == 5#3 then
      noExt x <|
        need (f.ty == 2#3) .typeField <|
        .ok (.vdot2N16 f.d f.a f.b f.m sp)
  else if f.fn == 6#3 then
      noExt x <|
        need (f.ty == 2#3) .typeField <|
        .ok (.vdot2I16Sat f.d f.a f.b f.m sp)
  else if f.fn == 7#3 then
      noExt x <|
        need (f.ty == 2#3) .typeField <|
        .ok (.vdot2N16Sat f.d f.a f.b f.m sp)
  else .error .unassignedFunction

/-- Major 0x23: VFFMA_F32. -/
noncomputable def parse23 (body : BitVec 24) (x : Option (BitVec 32)) (sp : SafePoint) : Except Reject Instr :=
  let f := unpackW body
  noExt x <|
        .ok (.vffmaF32 f.d f.a f.b f.c f.m f.neg sp)

/-- Major 0x24: VFFMA_F16. -/
noncomputable def parse24 (body : BitVec 24) (x : Option (BitVec 32)) (sp : SafePoint) : Except Reject Instr :=
  let f := unpackW body
  noExt x <|
        .ok (.vffmaF16 f.d f.a f.b f.c f.m f.neg sp)

/-- Major 0x25: VFFMA_BF16. -/
noncomputable def parse25 (body : BitVec 24) (x : Option (BitVec 32)) (sp : SafePoint) : Except Reject Instr :=
  let f := unpackW body
  noExt x <|
        .ok (.vffmaBf16 f.d f.a f.b f.c f.m f.neg sp)

/-- Major 0x26: MAND, MOR, MXOR, MNOT, MPOPC, MFIRST, MSET. -/
noncomputable def parse26 (body : BitVec 24) (x : Option (BitVec 32)) (sp : SafePoint) : Except Reject Instr :=
  let f := unpackA body
  if f.fn == 0#5 then
      noExt x <|
        need (f.d.extractLsb' 3 2 == 0#2) .registerField <|
        need (f.a.extractLsb' 3 2 == 0#2) .registerField <|
        need (f.b.extractLsb' 3 2 == 0#2) .registerField <|
        need (f.la == 0#4) .laField <|
        .ok (.mand (f.d.extractLsb' 0 3) (f.a.extractLsb' 0 3) (f.b.extractLsb' 0 3) sp)
  else if f.fn == 1#5 then
      noExt x <|
        need (f.d.extractLsb' 3 2 == 0#2) .registerField <|
        need (f.a.extractLsb' 3 2 == 0#2) .registerField <|
        need (f.b.extractLsb' 3 2 == 0#2) .registerField <|
        need (f.la == 0#4) .laField <|
        .ok (.mor (f.d.extractLsb' 0 3) (f.a.extractLsb' 0 3) (f.b.extractLsb' 0 3) sp)
  else if f.fn == 2#5 then
      noExt x <|
        need (f.d.extractLsb' 3 2 == 0#2) .registerField <|
        need (f.a.extractLsb' 3 2 == 0#2) .registerField <|
        need (f.b.extractLsb' 3 2 == 0#2) .registerField <|
        need (f.la == 0#4) .laField <|
        .ok (.mxor (f.d.extractLsb' 0 3) (f.a.extractLsb' 0 3) (f.b.extractLsb' 0 3) sp)
  else if f.fn == 3#5 then
      noExt x <|
        need (f.d.extractLsb' 3 2 == 0#2) .registerField <|
        need (f.a.extractLsb' 3 2 == 0#2) .registerField <|
        need (f.b == 0#5) .reservedField <|
        need (f.la == 0#4) .laField <|
        .ok (.mnot (f.d.extractLsb' 0 3) (f.a.extractLsb' 0 3) sp)
  else if f.fn == 4#5 then
      noExt x <|
        need (f.a.extractLsb' 3 2 == 0#2) .registerField <|
        need (f.b == 0#5) .reservedField <|
        need (f.la == 0#4) .laField <|
        .ok (.mpopc f.d (f.a.extractLsb' 0 3) sp)
  else if f.fn == 5#5 then
      noExt x <|
        need (f.a.extractLsb' 3 2 == 0#2) .registerField <|
        need (f.b == 0#5) .reservedField <|
        need (f.la == 0#4) .laField <|
        .ok (.mfirst f.d (f.a.extractLsb' 0 3) sp)
  else if f.fn == 6#5 then
      noExt x <|
        need (f.d.extractLsb' 3 2 == 0#2) .registerField <|
        need (f.b == 0#5) .reservedField <|
        need (f.la == 0#4) .laField <|
        .ok (.mset (f.d.extractLsb' 0 3) f.a sp)
  else .error .unassignedFunction

/-- Major 0x27: VDOP_ADD, VDOP_SUB, VDOP_MUL, VDOP_MIN, VDOP_MAX, VDOP_DIV, VDOP_SQRT. -/
noncomputable def parse27 (body : BitVec 24) (x : Option (BitVec 32)) (sp : SafePoint) : Except Reject Instr :=
  let f := unpackV body
  if f.fn == 0#3 then
      noExt x <|
        need (f.ty == 3#3) .typeField <|
        .ok (.vdopAdd f.d f.a f.b f.m sp)
  else if f.fn == 1#3 then
      noExt x <|
        need (f.ty == 3#3) .typeField <|
        .ok (.vdopSub f.d f.a f.b f.m sp)
  else if f.fn == 2#3 then
      noExt x <|
        need (f.ty == 3#3) .typeField <|
        .ok (.vdopMul f.d f.a f.b f.m sp)
  else if f.fn == 3#3 then
      noExt x <|
        need (f.ty == 3#3) .typeField <|
        .ok (.vdopMin f.d f.a f.b f.m sp)
  else if f.fn == 4#3 then
      noExt x <|
        need (f.ty == 3#3) .typeField <|
        .ok (.vdopMax f.d f.a f.b f.m sp)
  else if f.fn == 5#3 then
      noExt x <|
        need (f.ty == 3#3) .typeField <|
        .ok (.vdopDiv f.d f.a f.b f.m sp)
  else if f.fn == 6#3 then
      noExt x <|
        need (f.b == 0#5) .reservedField <|
        need (f.ty == 3#3) .typeField <|
        .ok (.vdopSqrt f.d f.a f.m sp)
  else .error .unassignedFunction

/-- Major 0x28: LD. -/
noncomputable def parse28 (body : BitVec 24) (x : Option (BitVec 32)) (sp : SafePoint) : Except Reject Instr :=
  let f := unpackA body
  optExt x (.ok (.ld f.d f.a f.b f.la (f.fn.extractLsb' 2 3) (f.fn.extractLsb' 0 2) sp))
      (fun e => .ok (.ldOffset f.d f.a f.b f.la (f.fn.extractLsb' 2 3) (f.fn.extractLsb' 0 2) e sp))

/-- Major 0x29: ST. -/
noncomputable def parse29 (body : BitVec 24) (x : Option (BitVec 32)) (sp : SafePoint) : Except Reject Instr :=
  let f := unpackA body
  optExt x (need (f.la == 0#4) .laField <|
        .ok (.st f.d f.a f.b (f.fn.extractLsb' 2 3) (f.fn.extractLsb' 0 2) sp))
      (fun e => need (f.la == 0#4) .laField <|
        .ok (.stOffset f.d f.a f.b (f.fn.extractLsb' 2 3) (f.fn.extractLsb' 0 2) e sp))

/-- Major 0x2A: LDV, LDV_L6, PREF, EVICT. -/
noncomputable def parse2A (body : BitVec 24) (x : Option (BitVec 32)) (sp : SafePoint) : Except Reject Instr :=
  let f := unpackA body
  if f.fn.extractLsb' 2 3 == 0#3 then
      optExt x (.ok (.ldv f.d f.a f.b f.la (f.fn.extractLsb' 0 2) sp))
      (fun e => .ok (.ldvOffset f.d f.a f.b f.la (f.fn.extractLsb' 0 2) e sp))
  else if f.fn.extractLsb' 2 3 == 1#3 then
      optExt x (.ok (.ldvL6 f.d f.a f.b f.la (f.fn.extractLsb' 0 2) sp))
      (fun e => .ok (.ldvL6Offset f.d f.a f.b f.la (f.fn.extractLsb' 0 2) e sp))
  else if f.fn == 8#5 then
      optExt x (need (f.d == 0#5) .reservedField <|
        need (f.la == 0#4) .laField <|
        .ok (.pref f.a f.b sp))
      (fun e => need (f.d == 0#5) .reservedField <|
        need (f.la == 0#4) .laField <|
        .ok (.prefOffset f.a f.b e sp))
  else if f.fn == 12#5 then
      optExt x (need (f.d == 0#5) .reservedField <|
        need (f.la == 0#4) .laField <|
        .ok (.evict f.a f.b sp))
      (fun e => need (f.d == 0#5) .reservedField <|
        need (f.la == 0#4) .laField <|
        .ok (.evictOffset f.a f.b e sp))
  else .error .unassignedFunction

/-- Major 0x2B: STV, STV_L6. -/
noncomputable def parse2B (body : BitVec 24) (x : Option (BitVec 32)) (sp : SafePoint) : Except Reject Instr :=
  let f := unpackA body
  if f.fn.extractLsb' 2 3 == 0#3 then
      optExt x (need (f.la == 0#4) .laField <|
        .ok (.stv f.d f.a f.b (f.fn.extractLsb' 0 2) sp))
      (fun e => need (f.la == 0#4) .laField <|
        .ok (.stvOffset f.d f.a f.b (f.fn.extractLsb' 0 2) e sp))
  else if f.fn.extractLsb' 2 3 == 1#3 then
      optExt x (need (f.la == 0#4) .laField <|
        .ok (.stvL6 f.d f.a f.b (f.fn.extractLsb' 0 2) sp))
      (fun e => need (f.la == 0#4) .laField <|
        .ok (.stvL6Offset f.d f.a f.b (f.fn.extractLsb' 0 2) e sp))
  else .error .unassignedFunction

/-- Major 0x2C: GATH, LDVS. -/
noncomputable def parse2C (body : BitVec 24) (x : Option (BitVec 32)) (sp : SafePoint) : Except Reject Instr :=
  let f := unpackA body
  if f.fn.extractLsb' 0 2 == 0#2 then
      withExt x fun e =>
        need (e.extractLsb' 12 20 == 0#20) .reservedField <|
        .ok (.gath f.d f.a f.b f.la (f.fn.extractLsb' 2 3) (e.extractLsb' 0 5) (e.extractLsb' 5 3) (e.extractLsb' 8 2) (e.extractLsb' 10 2) sp)
  else if f.fn.extractLsb' 0 2 == 1#2 then
      withExt x fun e =>
        need (e.extractLsb' 12 20 == 0#20) .reservedField <|
        .ok (.ldvs f.d f.a f.b f.la (f.fn.extractLsb' 2 3) (e.extractLsb' 0 5) (e.extractLsb' 5 3) (e.extractLsb' 8 2) (e.extractLsb' 10 2) sp)
  else .error .unassignedFunction

/-- Major 0x2D: SCAT, STVS. -/
noncomputable def parse2D (body : BitVec 24) (x : Option (BitVec 32)) (sp : SafePoint) : Except Reject Instr :=
  let f := unpackA body
  if f.fn.extractLsb' 0 2 == 0#2 then
      withExt x fun e =>
        need (f.la == 0#4) .laField <|
        need (e.extractLsb' 12 20 == 0#20) .reservedField <|
        .ok (.scat f.d f.a f.b (f.fn.extractLsb' 2 3) (e.extractLsb' 0 5) (e.extractLsb' 5 3) (e.extractLsb' 8 2) (e.extractLsb' 10 2) sp)
  else if f.fn.extractLsb' 0 2 == 1#2 then
      withExt x fun e =>
        need (f.la == 0#4) .laField <|
        need (e.extractLsb' 12 20 == 0#20) .reservedField <|
        .ok (.stvs f.d f.a f.b (f.fn.extractLsb' 2 3) (e.extractLsb' 0 5) (e.extractLsb' 5 3) (e.extractLsb' 8 2) (e.extractLsb' 10 2) sp)
  else .error .unassignedFunction

/-- Major 0x2E: LDM. -/
noncomputable def parse2E (body : BitVec 24) (x : Option (BitVec 32)) (sp : SafePoint) : Except Reject Instr :=
  let f := unpackA body
  optExt x (.ok (.ldm f.d f.a f.b f.la (f.fn.extractLsb' 2 3) (f.fn.extractLsb' 0 2) sp))
      (fun e => .ok (.ldmOffset f.d f.a f.b f.la (f.fn.extractLsb' 2 3) (f.fn.extractLsb' 0 2) e sp))

/-- Major 0x2F: STM. -/
noncomputable def parse2F (body : BitVec 24) (x : Option (BitVec 32)) (sp : SafePoint) : Except Reject Instr :=
  let f := unpackA body
  optExt x (need (f.la == 0#4) .laField <|
        .ok (.stm f.d f.a f.b (f.fn.extractLsb' 2 3) (f.fn.extractLsb' 0 2) sp))
      (fun e => need (f.la == 0#4) .laField <|
        .ok (.stmOffset f.d f.a f.b (f.fn.extractLsb' 2 3) (f.fn.extractLsb' 0 2) e sp))

/-- Major 0x30: AMO_ADD, AMO_AND, AMO_OR, AMO_XOR, AMO_MIN_I, AMO_MIN_N, AMO_MAX_I, AMO_MAX_N, AMO_SWAP, AMO_CAS. -/
noncomputable def parse30 (body : BitVec 24) (x : Option (BitVec 32)) (sp : SafePoint) : Except Reject Instr :=
  let f := unpackA body
  if f.fn.extractLsb' 1 4 == 0#4 then
      withExt x fun e =>
        need (e.extractLsb' 12 20 == 0#20) .reservedField <|
        need (e.extractLsb' 5 3 == 0#3) .reservedField <|
        .ok (.amoAdd f.d f.a f.b f.la (f.fn.extractLsb' 0 1) (e.extractLsb' 0 5) (e.extractLsb' 8 2) (e.extractLsb' 10 2) sp)
  else if f.fn.extractLsb' 1 4 == 1#4 then
      withExt x fun e =>
        need (e.extractLsb' 12 20 == 0#20) .reservedField <|
        need (e.extractLsb' 5 3 == 0#3) .reservedField <|
        .ok (.amoAnd f.d f.a f.b f.la (f.fn.extractLsb' 0 1) (e.extractLsb' 0 5) (e.extractLsb' 8 2) (e.extractLsb' 10 2) sp)
  else if f.fn.extractLsb' 1 4 == 2#4 then
      withExt x fun e =>
        need (e.extractLsb' 12 20 == 0#20) .reservedField <|
        need (e.extractLsb' 5 3 == 0#3) .reservedField <|
        .ok (.amoOr f.d f.a f.b f.la (f.fn.extractLsb' 0 1) (e.extractLsb' 0 5) (e.extractLsb' 8 2) (e.extractLsb' 10 2) sp)
  else if f.fn.extractLsb' 1 4 == 3#4 then
      withExt x fun e =>
        need (e.extractLsb' 12 20 == 0#20) .reservedField <|
        need (e.extractLsb' 5 3 == 0#3) .reservedField <|
        .ok (.amoXor f.d f.a f.b f.la (f.fn.extractLsb' 0 1) (e.extractLsb' 0 5) (e.extractLsb' 8 2) (e.extractLsb' 10 2) sp)
  else if f.fn.extractLsb' 1 4 == 4#4 then
      withExt x fun e =>
        need (e.extractLsb' 12 20 == 0#20) .reservedField <|
        need (e.extractLsb' 5 3 == 0#3) .reservedField <|
        .ok (.amoMinI f.d f.a f.b f.la (f.fn.extractLsb' 0 1) (e.extractLsb' 0 5) (e.extractLsb' 8 2) (e.extractLsb' 10 2) sp)
  else if f.fn.extractLsb' 1 4 == 5#4 then
      withExt x fun e =>
        need (e.extractLsb' 12 20 == 0#20) .reservedField <|
        need (e.extractLsb' 5 3 == 0#3) .reservedField <|
        .ok (.amoMinN f.d f.a f.b f.la (f.fn.extractLsb' 0 1) (e.extractLsb' 0 5) (e.extractLsb' 8 2) (e.extractLsb' 10 2) sp)
  else if f.fn.extractLsb' 1 4 == 6#4 then
      withExt x fun e =>
        need (e.extractLsb' 12 20 == 0#20) .reservedField <|
        need (e.extractLsb' 5 3 == 0#3) .reservedField <|
        .ok (.amoMaxI f.d f.a f.b f.la (f.fn.extractLsb' 0 1) (e.extractLsb' 0 5) (e.extractLsb' 8 2) (e.extractLsb' 10 2) sp)
  else if f.fn.extractLsb' 1 4 == 7#4 then
      withExt x fun e =>
        need (e.extractLsb' 12 20 == 0#20) .reservedField <|
        need (e.extractLsb' 5 3 == 0#3) .reservedField <|
        .ok (.amoMaxN f.d f.a f.b f.la (f.fn.extractLsb' 0 1) (e.extractLsb' 0 5) (e.extractLsb' 8 2) (e.extractLsb' 10 2) sp)
  else if f.fn.extractLsb' 1 4 == 8#4 then
      withExt x fun e =>
        need (e.extractLsb' 12 20 == 0#20) .reservedField <|
        need (e.extractLsb' 5 3 == 0#3) .reservedField <|
        .ok (.amoSwap f.d f.a f.b f.la (f.fn.extractLsb' 0 1) (e.extractLsb' 0 5) (e.extractLsb' 8 2) (e.extractLsb' 10 2) sp)
  else if f.fn.extractLsb' 1 4 == 9#4 then
      withExt x fun e =>
        need (e.extractLsb' 12 20 == 0#20) .reservedField <|
        need (e.extractLsb' 5 3 == 0#3) .reservedField <|
        .ok (.amoCas f.d f.a f.b f.la (f.fn.extractLsb' 0 1) (e.extractLsb' 0 5) (e.extractLsb' 8 2) (e.extractLsb' 10 2) sp)
  else .error .unassignedFunction

/-- Major 0x31: AMOV, AMOW_ADD, AMOW_SWAP, AMOW_CAS. -/
noncomputable def parse31 (body : BitVec 24) (x : Option (BitVec 32)) (sp : SafePoint) : Except Reject Instr :=
  let f := unpackA body
  if f.fn.extractLsb' 3 2 == 0#2 then
      withExt x fun e =>
        need (f.b == 0#5) .reservedField <|
        need (f.la == 0#4) .laField <|
        need (e.extractLsb' 12 20 == 0#20) .reservedField <|
        .ok (.amov f.d f.a (f.fn.extractLsb' 0 3) (e.extractLsb' 0 5) (e.extractLsb' 5 3) (e.extractLsb' 8 2) (e.extractLsb' 10 2) sp)
  else if f.fn == 16#5 then
      withExt x fun e =>
        need (e.extractLsb' 12 20 == 0#20) .reservedField <|
        need (e.extractLsb' 5 3 == 0#3) .reservedField <|
        .ok (.amowAdd f.d f.a f.b f.la (e.extractLsb' 0 5) (e.extractLsb' 8 2) (e.extractLsb' 10 2) sp)
  else if f.fn == 17#5 then
      withExt x fun e =>
        need (e.extractLsb' 12 20 == 0#20) .reservedField <|
        need (e.extractLsb' 5 3 == 0#3) .reservedField <|
        .ok (.amowSwap f.d f.a f.b f.la (e.extractLsb' 0 5) (e.extractLsb' 8 2) (e.extractLsb' 10 2) sp)
  else if f.fn == 18#5 then
      withExt x fun e =>
        need (e.extractLsb' 12 20 == 0#20) .reservedField <|
        need (e.extractLsb' 5 3 == 0#3) .reservedField <|
        .ok (.amowCas f.d f.a f.b f.la (e.extractLsb' 0 5) (e.extractLsb' 8 2) (e.extractLsb' 10 2) sp)
  else .error .unassignedFunction

/-- Major 0x32: FENCE_ACQ, FENCE_REL, FENCE_FULL, CADD, CWAIT, CPOLL, TICK. -/
noncomputable def parse32 (body : BitVec 24) (x : Option (BitVec 32)) (sp : SafePoint) : Except Reject Instr :=
  let f := unpackA body
  if f.fn.extractLsb' 2 3 == 0#3 then
      noExt x <|
        need (f.d == 0#5) .reservedField <|
        need (f.a == 0#5) .reservedField <|
        need (f.b == 0#5) .reservedField <|
        need (f.la == 0#4) .laField <|
        .ok (.fenceAcq (f.fn.extractLsb' 0 2) sp)
  else if f.fn.extractLsb' 2 3 == 1#3 then
      noExt x <|
        need (f.d == 0#5) .reservedField <|
        need (f.a == 0#5) .reservedField <|
        need (f.b == 0#5) .reservedField <|
        need (f.la == 0#4) .laField <|
        .ok (.fenceRel (f.fn.extractLsb' 0 2) sp)
  else if f.fn.extractLsb' 2 3 == 2#3 then
      noExt x <|
        need (f.d == 0#5) .reservedField <|
        need (f.a == 0#5) .reservedField <|
        need (f.b == 0#5) .reservedField <|
        need (f.la == 0#4) .laField <|
        .ok (.fenceFull (f.fn.extractLsb' 0 2) sp)
  else if f.fn.extractLsb' 2 3 == 3#3 then
      noExt x <|
        .ok (.cadd f.d f.a f.b f.la (f.fn.extractLsb' 0 2) sp)
  else if f.fn.extractLsb' 2 3 == 4#3 then
      noExt x <|
        .ok (.cwait f.d f.a f.b f.la (f.fn.extractLsb' 0 2) sp)
  else if f.fn.extractLsb' 2 3 == 5#3 then
      noExt x <|
        need (f.b == 0#5) .reservedField <|
        .ok (.cpoll f.d f.a f.la (f.fn.extractLsb' 0 2) sp)
  else if f.fn == 24#5 then
      noExt x <|
        need (f.d == 0#5) .reservedField <|
        need (f.b == 0#5) .reservedField <|
        need (f.la == 0#4) .laField <|
        .ok (.tick f.a sp)
  else .error .unassignedFunction

/-- Major 0x33: SBIND, SUNBD, SARR, SARRB, SWAIT, STEST, SLEAVE, TRIGX. -/
noncomputable def parse33 (body : BitVec 24) (x : Option (BitVec 32)) (sp : SafePoint) : Except Reject Instr :=
  let f := unpackA body
  if f.fn == 0#5 then
      noExt x <|
        need (f.la == 0#4) .laField <|
        .ok (.sbind f.d f.a f.b sp)
  else if f.fn == 1#5 then
      noExt x <|
        need (f.d == 0#5) .reservedField <|
        need (f.b == 0#5) .reservedField <|
        need (f.la == 0#4) .laField <|
        .ok (.sunbd f.a sp)
  else if f.fn == 2#5 then
      noExt x <|
        .ok (.sarr f.d f.a f.b f.la sp)
  else if f.fn == 3#5 then
      noExt x <|
        need (f.d == 0#5) .reservedField <|
        need (f.la == 0#4) .laField <|
        .ok (.sarrb f.a f.b sp)
  else if f.fn == 4#5 then
      noExt x <|
        .ok (.swait f.d f.a f.b f.la sp)
  else if f.fn == 5#5 then
      noExt x <|
        .ok (.stest f.d f.a f.b f.la sp)
  else if f.fn == 6#5 then
      noExt x <|
        need (f.d == 0#5) .reservedField <|
        need (f.b == 0#5) .reservedField <|
        need (f.la == 0#4) .laField <|
        .ok (.sleave f.a sp)
  else if f.fn == 7#5 then
      noExt x <|
        need (f.b == 0#5) .reservedField <|
        .ok (.trigx f.d f.a f.la sp)
  else .error .unassignedFunction

/-- Major 0x34: TCFG, TFMT, TSCALE, TZERO, TLDR, TSTR, TMOVR, TMOVC, MMA, MMAS, MMA_SAT, MMAS_SAT, GLOAD, GDROP, TDRAIN, TFILL, TSTAT, TFREE. -/
noncomputable def parse34 (body : BitVec 24) (x : Option (BitVec 32)) (sp : SafePoint) : Except Reject Instr :=
  let f := unpackT body
  if f.fn == 0#6 then
      noExt x <|
        need (f.ta == 0#3) .reservedField <|
        need (f.tb == 0#3) .reservedField <|
        .ok (.tcfg f.td f.s f.la sp)
  else if f.fn == 1#6 then
      noExt x <|
        need (f.td == 0#3) .reservedField <|
        need (f.ta == 0#3) .reservedField <|
        need (f.tb == 0#3) .reservedField <|
        .ok (.tfmt f.s f.la sp)
  else if f.fn == 2#6 then
      withExt x fun e =>
        need (f.td.extractLsb' 1 2 == 0#2) .reservedField <|
        need (f.ta == 0#3) .reservedField <|
        need (f.tb == 0#3) .reservedField <|
        need (e.extractLsb' 8 24 == 0#24) .reservedField <|
        need (e.extractLsb' 7 1 == 0#1) .reservedField <|
        .ok (.tscale (f.td.extractLsb' 0 1) f.s f.la (e.extractLsb' 0 5) (e.extractLsb' 5 2) sp)
  else if f.fn == 3#6 then
      noExt x <|
        need (f.ta == 0#3) .reservedField <|
        need (f.tb == 0#3) .reservedField <|
        need (f.s == 0#5) .reservedField <|
        .ok (.tzero f.td f.la sp)
  else if f.fn == 4#6 then
      withExt x fun e =>
        need (f.ta == 0#3) .reservedField <|
        need (f.tb == 0#3) .reservedField <|
        need (e.extractLsb' 7 1 == 0#1) .reservedField <|
        .ok (.tldr f.td f.s f.la (e.extractLsb' 0 5) (e.extractLsb' 5 2) (e.extractLsb' 8 24) sp)
  else if f.fn == 5#6 then
      withExt x fun e =>
        need (f.td == 0#3) .reservedField <|
        need (f.tb == 0#3) .reservedField <|
        need (e.extractLsb' 7 1 == 0#1) .reservedField <|
        .ok (.tstr f.ta f.s f.la (e.extractLsb' 0 5) (e.extractLsb' 5 2) (e.extractLsb' 8 24) sp)
  else if f.fn == 6#6 then
      withExt x fun e =>
        need (f.tb == 0#3) .reservedField <|
        need (e.extractLsb' 6 26 == 0#26) .reservedField <|
        need ((if e.extractLsb' 5 1 == 0#1 then f.ta else f.td) == 0#3) .reservedField <|
        .ok (.tmovr (if e.extractLsb' 5 1 == 0#1 then f.td else f.ta) f.s f.la (e.extractLsb' 5 1) (e.extractLsb' 0 5) sp)
  else if f.fn == 7#6 then
      withExt x fun e =>
        need (f.tb == 0#3) .reservedField <|
        need (e.extractLsb' 6 26 == 0#26) .reservedField <|
        need ((if e.extractLsb' 5 1 == 0#1 then f.ta else f.td) == 0#3) .reservedField <|
        .ok (.tmovc (if e.extractLsb' 5 1 == 0#1 then f.td else f.ta) f.s f.la (e.extractLsb' 5 1) (e.extractLsb' 0 5) sp)
  else if f.fn == 8#6 then
      noExt x <|
        need (f.s == 0#5) .reservedField <|
        .ok (.mma f.td f.ta f.tb f.la sp)
  else if f.fn == 9#6 then
      noExt x <|
        need (f.tb == 0#3) .reservedField <|
        .ok (.mmas f.td f.ta f.s f.la sp)
  else if f.fn == 10#6 then
      noExt x <|
        need (f.s == 0#5) .reservedField <|
        .ok (.mmaSat f.td f.ta f.tb f.la sp)
  else if f.fn == 11#6 then
      noExt x <|
        need (f.tb == 0#3) .reservedField <|
        .ok (.mmasSat f.td f.ta f.s f.la sp)
  else if f.fn == 12#6 then
      withExt x fun e =>
        need (f.td == 0#3) .reservedField <|
        need (f.ta == 0#3) .reservedField <|
        need (f.tb == 0#3) .reservedField <|
        need (e.extractLsb' 7 1 == 0#1) .reservedField <|
        .ok (.gload f.s f.la (e.extractLsb' 0 5) (e.extractLsb' 5 2) (e.extractLsb' 8 24) sp)
  else if f.fn == 13#6 then
      noExt x <|
        need (f.td == 0#3) .reservedField <|
        need (f.ta == 0#3) .reservedField <|
        need (f.tb == 0#3) .reservedField <|
        .ok (.gdrop f.s f.la sp)
  else if f.fn == 14#6 then
      noExt x <|
        need (f.ta == 0#3) .reservedField <|
        need (f.tb == 0#3) .reservedField <|
        need (f.s == 0#5) .reservedField <|
        .ok (.tdrain f.td f.la sp)
  else if f.fn == 15#6 then
      noExt x <|
        need (f.ta == 0#3) .reservedField <|
        need (f.tb == 0#3) .reservedField <|
        need (f.s == 0#5) .reservedField <|
        .ok (.tfill f.td f.la sp)
  else if f.fn == 16#6 then
      noExt x <|
        need (f.td == 0#3) .reservedField <|
        need (f.tb == 0#3) .reservedField <|
        .ok (.tstat f.ta f.s f.la sp)
  else if f.fn == 17#6 then
      noExt x <|
        need (f.ta == 0#3) .reservedField <|
        need (f.tb == 0#3) .reservedField <|
        need (f.s == 0#5) .reservedField <|
        .ok (.tfree f.td f.la sp)
  else .error .unassignedFunction

/-- Major 0x35: TOPEN, TCLOSE, TACQ_S, TACQ_W, TACQ_A, TREL, TSPLIT, TQRY, TDESC. -/
noncomputable def parse35 (body : BitVec 24) (x : Option (BitVec 32)) (sp : SafePoint) : Except Reject Instr :=
  let f := unpackA body
  if f.fn == 0#5 then
      noExt x <|
        need (f.b == 0#5) .reservedField <|
        need (f.la == 0#4) .laField <|
        .ok (.topen f.d f.a sp)
  else if f.fn == 1#5 then
      noExt x <|
        need (f.d == 0#5) .reservedField <|
        need (f.b == 0#5) .reservedField <|
        need (f.la == 0#4) .laField <|
        .ok (.tclose f.a sp)
  else if f.fn == 2#5 then
      noExt x <|
        need (f.d == 0#5) .reservedField <|
        need (f.la == 0#4) .laField <|
        .ok (.tacqS f.a f.b sp)
  else if f.fn == 3#5 then
      noExt x <|
        need (f.d == 0#5) .reservedField <|
        need (f.la == 0#4) .laField <|
        .ok (.tacqW f.a f.b sp)
  else if f.fn == 4#5 then
      noExt x <|
        need (f.d == 0#5) .reservedField <|
        need (f.la == 0#4) .laField <|
        .ok (.tacqA f.a f.b sp)
  else if f.fn == 5#5 then
      noExt x <|
        need (f.d == 0#5) .reservedField <|
        need (f.la == 0#4) .laField <|
        .ok (.trel f.a f.b sp)
  else if f.fn == 6#5 then
      noExt x <|
        need (f.la == 0#4) .laField <|
        .ok (.tsplit f.d f.a f.b sp)
  else if f.fn == 7#5 then
      noExt x <|
        need (f.la == 0#4) .laField <|
        .ok (.tqry f.d f.a f.b sp)
  else if f.fn == 8#5 then
      noExt x <|
        need (f.la == 0#4) .laField <|
        .ok (.tdesc f.d f.a f.b sp)
  else .error .unassignedFunction

/-- Major 0x36: YSKEW, YUNSK. -/
noncomputable def parse36 (body : BitVec 24) (x : Option (BitVec 32)) (sp : SafePoint) : Except Reject Instr :=
  let f := unpackA body
  if f.fn == 0#5 then
      noExt x <|
        need (f.la == 0#4) .laField <|
        .ok (.yskew f.d f.a f.b sp)
  else if f.fn == 1#5 then
      noExt x <|
        need (f.b == 0#5) .reservedField <|
        need (f.la == 0#4) .laField <|
        .ok (.yunsk f.d f.a sp)
  else .error .unassignedFunction

/-- Major 0x38: DADD, DSUB, DMUL, DDIV, DSQRT, DMIN, DMAX, DCMP, DCVT_TO_F64, DCVT_FROM_F64. -/
noncomputable def parse38 (body : BitVec 24) (x : Option (BitVec 32)) (sp : SafePoint) : Except Reject Instr :=
  let f := unpackA body
  if f.fn == 0#5 then
      noExt x <|
        .ok (.dadd f.d f.a f.b f.la sp)
  else if f.fn == 1#5 then
      noExt x <|
        .ok (.dsub f.d f.a f.b f.la sp)
  else if f.fn == 2#5 then
      noExt x <|
        .ok (.dmul f.d f.a f.b f.la sp)
  else if f.fn == 3#5 then
      noExt x <|
        .ok (.ddiv f.d f.a f.b f.la sp)
  else if f.fn == 4#5 then
      noExt x <|
        need (f.b == 0#5) .reservedField <|
        .ok (.dsqrt f.d f.a f.la sp)
  else if f.fn == 5#5 then
      noExt x <|
        .ok (.dmin f.d f.a f.b f.la sp)
  else if f.fn == 6#5 then
      noExt x <|
        .ok (.dmax f.d f.a f.b f.la sp)
  else if f.fn.extractLsb' 3 2 == 1#2 then
      noExt x <|
        .ok (.dcmp f.d f.a f.b f.la (f.fn.extractLsb' 0 3) sp)
  else if f.fn.extractLsb' 3 2 == 2#2 then
      noExt x <|
        need (f.b.extractLsb' 3 2 == 0#2) .reservedField <|
        .ok (.dcvtToF64 f.d f.a (f.b.extractLsb' 0 3) f.la (f.fn.extractLsb' 0 3) sp)
  else if f.fn.extractLsb' 3 2 == 3#2 then
      noExt x <|
        need (f.b.extractLsb' 3 2 == 0#2) .reservedField <|
        .ok (.dcvtFromF64 f.d f.a (f.b.extractLsb' 0 3) f.la (f.fn.extractLsb' 0 3) sp)
  else .error .unassignedFunction

/-- Major 0x39: DFMA. -/
noncomputable def parse39 (body : BitVec 24) (x : Option (BitVec 32)) (sp : SafePoint) : Except Reject Instr :=
  let f := unpackB body
  noExt x <|
        .ok (.dfma f.d f.a f.b f.c f.la sp)

/-- Major 0x3A: VDFMA. -/
noncomputable def parse3A (body : BitVec 24) (x : Option (BitVec 32)) (sp : SafePoint) : Except Reject Instr :=
  let f := unpackW body
  noExt x <|
        .ok (.vdfma f.d f.a f.b f.c f.m f.neg sp)

/-- Major 0x3B: FDIV, FSQRT, FEXP2, FLOG2, FSIN, FCOS, FRCP, FRSQ, SHIPW, MIGRATE. -/
noncomputable def parse3B (body : BitVec 24) (x : Option (BitVec 32)) (sp : SafePoint) : Except Reject Instr :=
  let f := unpackA body
  if f.fn == 0#5 then
      noExt x <|
        .ok (.fdiv f.d f.a f.b f.la sp)
  else if f.fn == 1#5 then
      noExt x <|
        need (f.b == 0#5) .reservedField <|
        .ok (.fsqrt f.d f.a f.la sp)
  else if f.fn == 2#5 then
      noExt x <|
        need (f.b == 0#5) .reservedField <|
        .ok (.fexp2 f.d f.a f.la sp)
  else if f.fn == 3#5 then
      noExt x <|
        need (f.b == 0#5) .reservedField <|
        .ok (.flog2 f.d f.a f.la sp)
  else if f.fn == 4#5 then
      noExt x <|
        need (f.b == 0#5) .reservedField <|
        .ok (.fsin f.d f.a f.la sp)
  else if f.fn == 5#5 then
      noExt x <|
        need (f.b == 0#5) .reservedField <|
        .ok (.fcos f.d f.a f.la sp)
  else if f.fn == 6#5 then
      noExt x <|
        need (f.b == 0#5) .reservedField <|
        .ok (.frcp f.d f.a f.la sp)
  else if f.fn == 7#5 then
      noExt x <|
        need (f.b == 0#5) .reservedField <|
        .ok (.frsq f.d f.a f.la sp)
  else if f.fn == 16#5 then
      noExt x <|
        need (f.d == 0#5) .reservedField <|
        need (f.a == 0#5) .reservedField <|
        need (f.b == 0#5) .reservedField <|
        need (f.la == 0#4) .laField <|
        .ok (.shipw sp)
  else if f.fn == 17#5 then
      noExt x <|
        need (f.d == 0#5) .reservedField <|
        need (f.a == 0#5) .reservedField <|
        need (f.b == 0#5) .reservedField <|
        need (f.la == 0#4) .laField <|
        .ok (.migrate sp)
  else .error .unassignedFunction

/-- Major 0x3C: MSEND, MSEND_T, MMASK, MBOX, MDONE, RDSEND, RDRECV. -/
noncomputable def parse3C (body : BitVec 24) (x : Option (BitVec 32)) (sp : SafePoint) : Except Reject Instr :=
  let f := unpackA body
  if f.fn == 0#5 then
      noExt x <|
        need (f.la == 0#4) .laField <|
        .ok (.msend f.d f.a f.b sp)
  else if f.fn == 1#5 then
      noExt x <|
        need (f.la == 0#4) .laField <|
        .ok (.msendT f.d f.a f.b sp)
  else if f.fn == 2#5 then
      noExt x <|
        need (f.la == 0#4) .laField <|
        .ok (.mmask f.d f.a f.b sp)
  else if f.fn == 3#5 then
      noExt x <|
        need (f.la == 0#4) .laField <|
        .ok (.mbox f.d f.a f.b sp)
  else if f.fn == 4#5 then
      noExt x <|
        need (f.a == 0#5) .reservedField <|
        need (f.b == 0#5) .reservedField <|
        need (f.la == 0#4) .laField <|
        .ok (.mdone f.d sp)
  else if f.fn == 5#5 then
      noExt x <|
        need (f.a.extractLsb' 3 2 == 0#2) .reservedField <|
        need (f.la == 0#4) .laField <|
        .ok (.rdsend f.d (f.a.extractLsb' 0 3) f.b sp)
  else if f.fn == 6#5 then
      noExt x <|
        need (f.a.extractLsb' 3 2 == 0#2) .reservedField <|
        .ok (.rdrecv f.d (f.a.extractLsb' 0 3) f.b f.la sp)
  else .error .unassignedFunction

/-- Major 0x3D: CPY, CPYT, CPYQ. -/
noncomputable def parse3D (body : BitVec 24) (x : Option (BitVec 32)) (sp : SafePoint) : Except Reject Instr :=
  let f := unpackA body
  if f.fn == 0#5 then
      noExt x <|
        need (f.la == 0#4) .laField <|
        .ok (.cpy f.d f.a f.b sp)
  else if f.fn == 1#5 then
      noExt x <|
        need (f.la == 0#4) .laField <|
        .ok (.cpyt f.d f.a f.b sp)
  else if f.fn == 2#5 then
      noExt x <|
        need (f.b == 0#5) .reservedField <|
        need (f.la == 0#4) .laField <|
        .ok (.cpyq f.d f.a sp)
  else .error .unassignedFunction

/-- Major 0x3E: KRD, KWR, ERET, WAITI, TLBW, TLBINV, ASWCH, LAUNCH, LAUNCH_T, SWOUT, SWIN, RDCFG. -/
noncomputable def parse3E (body : BitVec 24) (x : Option (BitVec 32)) (sp : SafePoint) : Except Reject Instr :=
  let f := unpackK body
  if f.fn == 0#7 then
      let f := unpackKN body
      noExt x <|
        .ok (.krd f.d f.num sp)
  else if f.fn == 1#7 then
      let f := unpackKN body
      noExt x <|
        .ok (.kwr f.d f.num sp)
  else if f.fn == 8#7 then
      noExt x <|
        need (f.b == 0#5) .reservedField <|
        need (f.r == 0#2) .reservedField <|
        .ok (.eret f.d f.a sp)
  else if f.fn == 9#7 then
      noExt x <|
        need (f.b == 0#5) .reservedField <|
        need (f.r == 0#2) .reservedField <|
        .ok (.waiti f.d f.a sp)
  else if f.fn == 16#7 then
      noExt x <|
        need (f.r == 0#2) .reservedField <|
        .ok (.tlbw f.d f.a f.b sp)
  else if f.fn == 17#7 then
      noExt x <|
        need (f.d == 0#5) .reservedField <|
        need (f.r == 0#2) .reservedField <|
        .ok (.tlbinv f.a f.b sp)
  else if f.fn == 18#7 then
      noExt x <|
        need (f.b == 0#5) .reservedField <|
        need (f.r == 0#2) .reservedField <|
        .ok (.aswch f.d f.a sp)
  else if f.fn == 24#7 then
      noExt x <|
        need (f.b == 0#5) .reservedField <|
        need (f.r == 0#2) .reservedField <|
        .ok (.launch f.d f.a sp)
  else if f.fn == 25#7 then
      noExt x <|
        need (f.b == 0#5) .reservedField <|
        need (f.r == 0#2) .reservedField <|
        .ok (.launchT f.d f.a sp)
  else if f.fn == 26#7 then
      noExt x <|
        need (f.b == 0#5) .reservedField <|
        need (f.r == 0#2) .reservedField <|
        .ok (.swout f.d f.a sp)
  else if f.fn == 27#7 then
      noExt x <|
        need (f.b == 0#5) .reservedField <|
        need (f.r == 0#2) .reservedField <|
        .ok (.swin f.d f.a sp)
  else if f.fn == 32#7 then
      noExt x <|
        need (f.r == 0#2) .reservedField <|
        .ok (.rdcfg f.d f.a f.b sp)
  else .error .unassignedFunction

/-- The minor tables of R67 and R68 by major opcode. -/
noncomputable def parse (op : BitVec 6) (body : BitVec 24) (x : Option (BitVec 32)) (sp : SafePoint) : Except Reject Instr :=
  match op.toNat with
  | 0x01 => parse01 body x sp
  | 0x02 => parse02 body x sp
  | 0x03 => parse03 body x sp
  | 0x04 => parse04 body x sp
  | 0x05 => parse05 body x sp
  | 0x06 => parse06 body x sp
  | 0x07 => parse07 body x sp
  | 0x08 => parse08 body x sp
  | 0x09 => parse09 body x sp
  | 0x0A => parse0A body x sp
  | 0x0B => parse0B body x sp
  | 0x0C => parse0C body x sp
  | 0x0D => parse0D body x sp
  | 0x0E => parse0E body x sp
  | 0x11 => parse11 body x sp
  | 0x12 => parse12 body x sp
  | 0x13 => parse13 body x sp
  | 0x14 => parse14 body x sp
  | 0x15 => parse15 body x sp
  | 0x16 => parse16 body x sp
  | 0x17 => parse17 body x sp
  | 0x18 => parse18 body x sp
  | 0x19 => parse19 body x sp
  | 0x1A => parse1A body x sp
  | 0x1B => parse1B body x sp
  | 0x1C => parse1C body x sp
  | 0x1D => parse1D body x sp
  | 0x1E => parse1E body x sp
  | 0x1F => parse1F body x sp
  | 0x20 => parse20 body x sp
  | 0x21 => parse21 body x sp
  | 0x22 => parse22 body x sp
  | 0x23 => parse23 body x sp
  | 0x24 => parse24 body x sp
  | 0x25 => parse25 body x sp
  | 0x26 => parse26 body x sp
  | 0x27 => parse27 body x sp
  | 0x28 => parse28 body x sp
  | 0x29 => parse29 body x sp
  | 0x2A => parse2A body x sp
  | 0x2B => parse2B body x sp
  | 0x2C => parse2C body x sp
  | 0x2D => parse2D body x sp
  | 0x2E => parse2E body x sp
  | 0x2F => parse2F body x sp
  | 0x30 => parse30 body x sp
  | 0x31 => parse31 body x sp
  | 0x32 => parse32 body x sp
  | 0x33 => parse33 body x sp
  | 0x34 => parse34 body x sp
  | 0x35 => parse35 body x sp
  | 0x36 => parse36 body x sp
  | 0x38 => parse38 body x sp
  | 0x39 => parse39 body x sp
  | 0x3A => parse3A body x sp
  | 0x3B => parse3B body x sp
  | 0x3C => parse3C body x sp
  | 0x3D => parse3D body x sp
  | 0x3E => parse3E body x sp
  | _ => .error .unassignedMajor

/-- `parse` followed by the checks on the fields it keeps. -/
noncomputable def parseChecked (op : BitVec 6) (body : BitVec 24) (x : Option (BitVec 32)) (sp : SafePoint) :
    Except Reject Instr :=
  match parse op body x sp with
  | .error r => .error r
  | .ok i =>
    match i.check with
    | none => .ok i
    | some r => .error r

/-- The length in words that a base word announces (R49): 1 + X + S. -/
def lengthOf (base : BitVec 32) : Nat :=
  1 + (if base.getLsbD 30 then 1 else 0) + (if base.getLsbD 31 then 1 else 0)

/-- The instruction that begins a list of words, and the words after it (R49: base, extension, mask). Mask word bits
[31:27] must be zero (R59). -/
noncomputable def decode (ws : List (BitVec 32)) : Except Reject (Instr × List (BitVec 32)) :=
  match ws with
  | [] => .error .truncated
  | base :: rest =>
    let ext : Except Reject (Option (BitVec 32) × List (BitVec 32)) :=
      if base.getLsbD 30 then
        match rest with
        | [] => .error .truncated
        | e :: more => .ok (some e, more)
      else .ok (none, rest)
    match ext with
    | .error r => .error r
    | .ok (x, rest) =>
      let mask : Except Reject (SafePoint × List (BitVec 32)) :=
        if base.getLsbD 31 then
          match rest with
          | [] => .error .truncated
          | m :: more =>
            if m.extractLsb' 27 5 == 0#5 then .ok (some (m.extractLsb' 0 27), more) else .error .reservedField
        else .ok (none, rest)
      match mask with
      | .error r => .error r
      | .ok (sp, rest) =>
        match parseChecked (base.extractLsb' 24 6) (base.extractLsb' 0 24) x sp with
        | .error r => .error r
        | .ok i => .ok (i, rest)

/-- Little-endian words of a byte list (R4); a tail of fewer than four bytes is dropped. -/
def wordsOfBytes : List (BitVec 8) → List (BitVec 32)
  | b0 :: b1 :: b2 :: b3 :: rest => (b3 ++ b2 ++ b1 ++ b0) :: wordsOfBytes rest
  | _ => []

/-- The bytes of a word, lowest address first (R4). -/
def bytesOfWord (w : BitVec 32) : List (BitVec 8) :=
  [w.extractLsb' 0 8, w.extractLsb' 8 8, w.extractLsb' 16 8, w.extractLsb' 24 8]

/-- The first instruction of a byte list, laid out as memory holds it. -/
noncomputable def decodeBytes (bs : List (BitVec 8)) : Except Reject (Instr × List (BitVec 32)) := decode (wordsOfBytes bs)

/-- The instruction whose bits are `w`, numbered from the first word's bit 0; bits from `nbits` on are zero. -/
noncomputable def decodeTableWord (nbits w : Nat) : Option Instr :=
  let w := w % 2 ^ nbits
  let words := [BitVec.ofNat 32 w, BitVec.ofNat 32 (w / 2 ^ 32), BitVec.ofNat 32 (w / 2 ^ 64)]
  match decodeBytes (words.flatMap bytesOfWord) with
  | .ok (i, _) => some i
  | .error _ => none

/-- What the encoder yields before words are built: major opcode, body, extension word and safe-point mask. -/
structure Parts where
  op : BitVec 6
  body : BitVec 24
  ext : Option (BitVec 32)
  sp : SafePoint
deriving DecidableEq, Repr

/-- The words of R48 and R49. -/
def Parts.words (p : Parts) : List (BitVec 32) :=
  ((if p.sp.isSome then 1#1 else 0#1) ++ (if p.ext.isSome then 1#1 else 0#1) ++ p.op ++ p.body)
    :: (p.ext.toList ++ p.sp.toList.map (fun m => 0#5 ++ m))

/-- The encoding of each instruction, from its encoding table; an event has none. -/
def Instr.parts : Instr → Option Parts
  | .br o sp => some ⟨0x01#6, packC24 ⟨o⟩, none, sp⟩
  | .call o sp => some ⟨0x02#6, packC24 ⟨o⟩, none, sp⟩
  | .brm m c o sp => some ⟨0x03#6, packCM ⟨m, c, o⟩, none, sp⟩
  | .bcmp a b c o sp => some ⟨0x04#6, packI ⟨a, b, c, o⟩, none, sp⟩
  | .bcmpImm32 a b c o sp => some ⟨0x04#6, packI ⟨a, b, c, 0#11⟩, some (o), sp⟩
  | .loop c o sp => some ⟨0x05#6, packCL ⟨c, o⟩, none, sp⟩
  | .callr a sp => some ⟨0x06#6, packA ⟨0#5, a, 0#5, 0#4, 0#5⟩, none, sp⟩
  | .jmp a sp => some ⟨0x06#6, packA ⟨0#5, a, 0#5, 0#4, 1#5⟩, none, sp⟩
  | .nop => some ⟨0x06#6, packA ⟨0#5, 0#5, 0#5, 0#4, 2#5⟩, none, none⟩
  | .yield  sp => some ⟨0x06#6, packA ⟨0#5, 0#5, 0#5, 0#4, 3#5⟩, none, sp⟩
  | .exit  sp => some ⟨0x06#6, packA ⟨0#5, 0#5, 0#5, 0#4, 4#5⟩, none, sp⟩
  | .spawn d a b sp => some ⟨0x06#6, packA ⟨d, a, b, 0#4, 5#5⟩, none, sp⟩
  | .trap a sp => some ⟨0x06#6, packA ⟨0#5, a, 0#5, 0#4, 6#5⟩, none, sp⟩
  | .isync  sp => some ⟨0x06#6, packA ⟨0#5, 0#5, 0#5, 0#4, 7#5⟩, none, sp⟩
  | .trig d a b c la sp => some ⟨0x07#6, packB ⟨d, a, b, c, la⟩, none, sp⟩
  | .add d a b sp => some ⟨0x08#6, packA ⟨d, a, b, 0#4, 0#5⟩, none, sp⟩
  | .sub d a b sp => some ⟨0x08#6, packA ⟨d, a, b, 0#4, 1#5⟩, none, sp⟩
  | .and d a b sp => some ⟨0x08#6, packA ⟨d, a, b, 0#4, 2#5⟩, none, sp⟩
  | .or d a b sp => some ⟨0x08#6, packA ⟨d, a, b, 0#4, 3#5⟩, none, sp⟩
  | .xor d a b sp => some ⟨0x08#6, packA ⟨d, a, b, 0#4, 4#5⟩, none, sp⟩
  | .andn d a b sp => some ⟨0x08#6, packA ⟨d, a, b, 0#4, 5#5⟩, none, sp⟩
  | .shl d a b sp => some ⟨0x08#6, packA ⟨d, a, b, 0#4, 6#5⟩, none, sp⟩
  | .shrN d a b sp => some ⟨0x08#6, packA ⟨d, a, b, 0#4, 7#5⟩, none, sp⟩
  | .shrI d a b sp => some ⟨0x08#6, packA ⟨d, a, b, 0#4, 8#5⟩, none, sp⟩
  | .rot d a b sp => some ⟨0x08#6, packA ⟨d, a, b, 0#4, 9#5⟩, none, sp⟩
  | .minI d a b sp => some ⟨0x08#6, packA ⟨d, a, b, 0#4, 10#5⟩, none, sp⟩
  | .minN d a b sp => some ⟨0x08#6, packA ⟨d, a, b, 0#4, 11#5⟩, none, sp⟩
  | .maxI d a b sp => some ⟨0x08#6, packA ⟨d, a, b, 0#4, 12#5⟩, none, sp⟩
  | .maxN d a b sp => some ⟨0x08#6, packA ⟨d, a, b, 0#4, 13#5⟩, none, sp⟩
  | .clz d a sp => some ⟨0x08#6, packA ⟨d, a, 0#5, 0#4, 14#5⟩, none, sp⟩
  | .ctz d a sp => some ⟨0x08#6, packA ⟨d, a, 0#5, 0#4, 15#5⟩, none, sp⟩
  | .popc d a sp => some ⟨0x08#6, packA ⟨d, a, 0#5, 0#4, 16#5⟩, none, sp⟩
  | .shadd1 d a b sp => some ⟨0x08#6, packA ⟨d, a, b, 0#4, 17#5⟩, none, sp⟩
  | .shadd2 d a b sp => some ⟨0x08#6, packA ⟨d, a, b, 0#4, 18#5⟩, none, sp⟩
  | .shadd3 d a b sp => some ⟨0x08#6, packA ⟨d, a, b, 0#4, 19#5⟩, none, sp⟩
  | .shadd4 d a b sp => some ⟨0x08#6, packA ⟨d, a, b, 0#4, 20#5⟩, none, sp⟩
  | .scmp d a b c sp => some ⟨0x08#6, packA ⟨d, a, b, 0#4, 3#2 ++ c⟩, none, sp⟩
  | .mul d a b sp => some ⟨0x09#6, packA ⟨d, a, b, 0#4, 0#5⟩, none, sp⟩
  | .mulhI d a b sp => some ⟨0x09#6, packA ⟨d, a, b, 0#4, 1#5⟩, none, sp⟩
  | .mulhN d a b sp => some ⟨0x09#6, packA ⟨d, a, b, 0#4, 2#5⟩, none, sp⟩
  | .divI d a b sp => some ⟨0x09#6, packA ⟨d, a, b, 0#4, 4#5⟩, none, sp⟩
  | .divN d a b sp => some ⟨0x09#6, packA ⟨d, a, b, 0#4, 5#5⟩, none, sp⟩
  | .remI d a b sp => some ⟨0x09#6, packA ⟨d, a, b, 0#4, 6#5⟩, none, sp⟩
  | .remN d a b sp => some ⟨0x09#6, packA ⟨d, a, b, 0#4, 7#5⟩, none, sp⟩
  | .addi d a i sp => some ⟨0x0A#6, packI ⟨d, a, 0#3, i⟩, none, sp⟩
  | .addiImm32 d a i sp => some ⟨0x0A#6, packI ⟨d, a, 0#3, 0#11⟩, some (i), sp⟩
  | .andi d a i sp => some ⟨0x0A#6, packI ⟨d, a, 1#3, i⟩, none, sp⟩
  | .andiImm32 d a i sp => some ⟨0x0A#6, packI ⟨d, a, 1#3, 0#11⟩, some (i), sp⟩
  | .ori d a i sp => some ⟨0x0A#6, packI ⟨d, a, 2#3, i⟩, none, sp⟩
  | .oriImm32 d a i sp => some ⟨0x0A#6, packI ⟨d, a, 2#3, 0#11⟩, some (i), sp⟩
  | .xori d a i sp => some ⟨0x0A#6, packI ⟨d, a, 3#3, i⟩, none, sp⟩
  | .xoriImm32 d a i sp => some ⟨0x0A#6, packI ⟨d, a, 3#3, 0#11⟩, some (i), sp⟩
  | .shli d a i sp => some ⟨0x0A#6, packI ⟨d, a, 4#3, 0#5 ++ i⟩, none, sp⟩
  | .shriN d a i sp => some ⟨0x0A#6, packI ⟨d, a, 5#3, 0#5 ++ i⟩, none, sp⟩
  | .shriI d a i sp => some ⟨0x0A#6, packI ⟨d, a, 6#3, 0#5 ++ i⟩, none, sp⟩
  | .movi d i sp => some ⟨0x0B#6, packI ⟨d, 0#5, 0#3, i⟩, none, sp⟩
  | .moviImm32 d i sp => some ⟨0x0B#6, packI ⟨d, 0#5, 0#3, 0#11⟩, some (i), sp⟩
  | .movhi d a i sp => some ⟨0x0B#6, packI ⟨d, a, 1#3, i⟩, none, sp⟩
  | .movhiImm32 d a i sp => some ⟨0x0B#6, packI ⟨d, a, 1#3, 0#11⟩, some (i), sp⟩
  | .sel d a b c sp => some ⟨0x0C#6, packB ⟨d, a, b, c, 0#4⟩, none, sp⟩
  | .extb d a b c sp => some ⟨0x0D#6, packB ⟨d, a, b, c, 0#4⟩, none, sp⟩
  | .insb d a b c sp => some ⟨0x0E#6, packB ⟨d, a, b, c, 0#4⟩, none, sp⟩
  | .ffmaF32 d a b c sp => some ⟨0x11#6, packB ⟨d, a, b, c, 0#4⟩, none, sp⟩
  | .ffmaF16 d a b c sp => some ⟨0x12#6, packB ⟨d, a, b, c, 0#4⟩, none, sp⟩
  | .ffmaBf16 d a b c sp => some ⟨0x13#6, packB ⟨d, a, b, c, 0#4⟩, none, sp⟩
  | .fadd d a b t sp => some ⟨0x14#6, packA ⟨d, a, b, 0#4, t ++ 0#3⟩, none, sp⟩
  | .fsub d a b t sp => some ⟨0x14#6, packA ⟨d, a, b, 0#4, t ++ 1#3⟩, none, sp⟩
  | .fmul d a b t sp => some ⟨0x14#6, packA ⟨d, a, b, 0#4, t ++ 2#3⟩, none, sp⟩
  | .fmin d a b t sp => some ⟨0x14#6, packA ⟨d, a, b, 0#4, t ++ 3#3⟩, none, sp⟩
  | .fmax d a b t sp => some ⟨0x14#6, packA ⟨d, a, b, 0#4, t ++ 4#3⟩, none, sp⟩
  | .fsgnJ d a b t sp => some ⟨0x14#6, packA ⟨d, a, b, 0#4, t ++ 5#3⟩, none, sp⟩
  | .fsgnJn d a b t sp => some ⟨0x14#6, packA ⟨d, a, b, 0#4, t ++ 6#3⟩, none, sp⟩
  | .fsgnJx d a b t sp => some ⟨0x14#6, packA ⟨d, a, b, 0#4, t ++ 7#3⟩, none, sp⟩
  | .fcmp d a b t c sp => some ⟨0x15#6, packA ⟨d, a, b, 0#4, t ++ c⟩, none, sp⟩
  | .fclass d a t sp => some ⟨0x15#6, packA ⟨d, a, 0#5, 0#4, t ++ 7#3⟩, none, sp⟩
  | .fcvtFromFloat d a r q p sp => some ⟨0x16#6, packA ⟨d, a, 0#2 ++ r, 0#4, q ++ p⟩, none, sp⟩
  | .fcvtToFloat d a r p q sp => some ⟨0x17#6, packA ⟨d, a, 0#2 ++ r, 0#4, p ++ q⟩, none, sp⟩
  | .vadd d a b m ty sp => some ⟨0x18#6, packV ⟨d, a, b, m, ty, 0#3⟩, none, sp⟩
  | .vsub d a b m ty sp => some ⟨0x18#6, packV ⟨d, a, b, m, ty, 1#3⟩, none, sp⟩
  | .vmul d a b m ty sp => some ⟨0x18#6, packV ⟨d, a, b, m, ty, 2#3⟩, none, sp⟩
  | .vminI d a b m ty sp => some ⟨0x18#6, packV ⟨d, a, b, m, ty, 3#3⟩, none, sp⟩
  | .vminN d a b m ty sp => some ⟨0x18#6, packV ⟨d, a, b, m, ty, 4#3⟩, none, sp⟩
  | .vmaxI d a b m ty sp => some ⟨0x18#6, packV ⟨d, a, b, m, ty, 5#3⟩, none, sp⟩
  | .vmaxN d a b m ty sp => some ⟨0x18#6, packV ⟨d, a, b, m, ty, 6#3⟩, none, sp⟩
  | .vand d a b m ty sp => some ⟨0x19#6, packV ⟨d, a, b, m, ty, 0#3⟩, none, sp⟩
  | .vor d a b m ty sp => some ⟨0x19#6, packV ⟨d, a, b, m, ty, 1#3⟩, none, sp⟩
  | .vxor d a b m ty sp => some ⟨0x19#6, packV ⟨d, a, b, m, ty, 2#3⟩, none, sp⟩
  | .vshl d a b m ty sp => some ⟨0x19#6, packV ⟨d, a, b, m, ty, 3#3⟩, none, sp⟩
  | .vshrN d a b m ty sp => some ⟨0x19#6, packV ⟨d, a, b, m, ty, 4#3⟩, none, sp⟩
  | .vshrI d a b m ty sp => some ⟨0x19#6, packV ⟨d, a, b, m, ty, 5#3⟩, none, sp⟩
  | .vabs d a m ty sp => some ⟨0x19#6, packV ⟨d, a, 0#5, m, ty, 6#3⟩, none, sp⟩
  | .vaddSatI d a b m ty sp => some ⟨0x1A#6, packV ⟨d, a, b, m, ty, 0#3⟩, none, sp⟩
  | .vaddSatN d a b m ty sp => some ⟨0x1A#6, packV ⟨d, a, b, m, ty, 1#3⟩, none, sp⟩
  | .vsubSatI d a b m ty sp => some ⟨0x1A#6, packV ⟨d, a, b, m, ty, 2#3⟩, none, sp⟩
  | .vsubSatN d a b m ty sp => some ⟨0x1A#6, packV ⟨d, a, b, m, ty, 3#3⟩, none, sp⟩
  | .vmulhI d a b m ty sp => some ⟨0x1A#6, packV ⟨d, a, b, m, ty, 4#3⟩, none, sp⟩
  | .vmulhN d a b m ty sp => some ⟨0x1A#6, packV ⟨d, a, b, m, ty, 5#3⟩, none, sp⟩
  | .vcmp d a b m ty c sp => some ⟨0x1B#6, packV ⟨0#2 ++ d, a, b, m, ty, c⟩, none, sp⟩
  | .vfadd d a b m ty sp => some ⟨0x1C#6, packV ⟨d, a, b, m, ty, 0#3⟩, none, sp⟩
  | .vfsub d a b m ty sp => some ⟨0x1C#6, packV ⟨d, a, b, m, ty, 1#3⟩, none, sp⟩
  | .vfmul d a b m ty sp => some ⟨0x1C#6, packV ⟨d, a, b, m, ty, 2#3⟩, none, sp⟩
  | .vfmin d a b m ty sp => some ⟨0x1C#6, packV ⟨d, a, b, m, ty, 3#3⟩, none, sp⟩
  | .vfmax d a b m ty sp => some ⟨0x1C#6, packV ⟨d, a, b, m, ty, 4#3⟩, none, sp⟩
  | .vrcpe d a m ty sp => some ⟨0x1C#6, packV ⟨d, a, 0#5, m, ty, 5#3⟩, none, sp⟩
  | .vrsqe d a m ty sp => some ⟨0x1C#6, packV ⟨d, a, 0#5, m, ty, 6#3⟩, none, sp⟩
  | .vfcvt d a u q m ty r sp => some ⟨0x1D#6, packV ⟨d, a, u ++ 0#1 ++ q, m, ty, r⟩, none, sp⟩
  | .vfcmp d a b m ty c sp => some ⟨0x1E#6, packV ⟨0#2 ++ d, a, b, m, ty, c⟩, none, sp⟩
  | .vsplat d a m ty sp => some ⟨0x1F#6, packV ⟨d, a, 0#5, m, ty, 0#3⟩, none, sp⟩
  | .vextr d a b ty sp => some ⟨0x1F#6, packV ⟨d, a, b, 0#3, ty, 1#3⟩, none, sp⟩
  | .vins d a b ty sp => some ⟨0x1F#6, packV ⟨d, a, b, 0#3, ty, 2#3⟩, none, sp⟩
  | .vperm d a b m ty sp => some ⟨0x1F#6, packV ⟨d, a, b, m, ty, 3#3⟩, none, sp⟩
  | .vslide d a b m ty sp => some ⟨0x1F#6, packV ⟨d, a, b, m, ty, 4#3⟩, none, sp⟩
  | .vcompr d a m ty sp => some ⟨0x1F#6, packV ⟨d, a, 0#5, m, ty, 5#3⟩, none, sp⟩
  | .vexpnd d a m ty sp => some ⟨0x1F#6, packV ⟨d, a, 0#5, m, ty, 6#3⟩, none, sp⟩
  | .vsel d a b m ty sp => some ⟨0x1F#6, packV ⟨d, a, b, m, ty, 7#3⟩, none, sp⟩
  | .vredAdd d a m ty sp => some ⟨0x20#6, packV ⟨d, a, 0#5, m, ty, 0#3⟩, none, sp⟩
  | .vredMin d a m ty sp => some ⟨0x20#6, packV ⟨d, a, 0#5, m, ty, 1#3⟩, none, sp⟩
  | .vredMax d a m ty sp => some ⟨0x20#6, packV ⟨d, a, 0#5, m, ty, 2#3⟩, none, sp⟩
  | .vredAddSat d a m ty sp => some ⟨0x20#6, packV ⟨d, a, 0#5, m, ty, 3#3⟩, none, sp⟩
  | .vscanAdd d a m ty sp => some ⟨0x20#6, packV ⟨d, a, 0#5, m, ty, 4#3⟩, none, sp⟩
  | .vscanMin d a m ty sp => some ⟨0x20#6, packV ⟨d, a, 0#5, m, ty, 5#3⟩, none, sp⟩
  | .vscanMax d a m ty sp => some ⟨0x20#6, packV ⟨d, a, 0#5, m, ty, 6#3⟩, none, sp⟩
  | .vpkl6 d a sp => some ⟨0x21#6, packV ⟨d, a, 0#5, 0#3, 7#3, 0#3⟩, none, sp⟩
  | .vupl6 d a sp => some ⟨0x21#6, packV ⟨d, a, 0#5, 0#3, 7#3, 1#3⟩, none, sp⟩
  | .vdot4I8 d a b m sp => some ⟨0x22#6, packV ⟨d, a, b, m, 2#3, 0#3⟩, none, sp⟩
  | .vdot4N8 d a b m sp => some ⟨0x22#6, packV ⟨d, a, b, m, 2#3, 1#3⟩, none, sp⟩
  | .vdot4I8Sat d a b m sp => some ⟨0x22#6, packV ⟨d, a, b, m, 2#3, 2#3⟩, none, sp⟩
  | .vdot4N8Sat d a b m sp => some ⟨0x22#6, packV ⟨d, a, b, m, 2#3, 3#3⟩, none, sp⟩
  | .vdot2I16 d a b m sp => some ⟨0x22#6, packV ⟨d, a, b, m, 2#3, 4#3⟩, none, sp⟩
  | .vdot2N16 d a b m sp => some ⟨0x22#6, packV ⟨d, a, b, m, 2#3, 5#3⟩, none, sp⟩
  | .vdot2I16Sat d a b m sp => some ⟨0x22#6, packV ⟨d, a, b, m, 2#3, 6#3⟩, none, sp⟩
  | .vdot2N16Sat d a b m sp => some ⟨0x22#6, packV ⟨d, a, b, m, 2#3, 7#3⟩, none, sp⟩
  | .vffmaF32 d a b c m n sp => some ⟨0x23#6, packW ⟨d, a, b, c, m, n⟩, none, sp⟩
  | .vffmaF16 d a b c m n sp => some ⟨0x24#6, packW ⟨d, a, b, c, m, n⟩, none, sp⟩
  | .vffmaBf16 d a b c m n sp => some ⟨0x25#6, packW ⟨d, a, b, c, m, n⟩, none, sp⟩
  | .mand d a b sp => some ⟨0x26#6, packA ⟨0#2 ++ d, 0#2 ++ a, 0#2 ++ b, 0#4, 0#5⟩, none, sp⟩
  | .mor d a b sp => some ⟨0x26#6, packA ⟨0#2 ++ d, 0#2 ++ a, 0#2 ++ b, 0#4, 1#5⟩, none, sp⟩
  | .mxor d a b sp => some ⟨0x26#6, packA ⟨0#2 ++ d, 0#2 ++ a, 0#2 ++ b, 0#4, 2#5⟩, none, sp⟩
  | .mnot d a sp => some ⟨0x26#6, packA ⟨0#2 ++ d, 0#2 ++ a, 0#5, 0#4, 3#5⟩, none, sp⟩
  | .mpopc d a sp => some ⟨0x26#6, packA ⟨d, 0#2 ++ a, 0#5, 0#4, 4#5⟩, none, sp⟩
  | .mfirst d a sp => some ⟨0x26#6, packA ⟨d, 0#2 ++ a, 0#5, 0#4, 5#5⟩, none, sp⟩
  | .mset d a sp => some ⟨0x26#6, packA ⟨0#2 ++ d, a, 0#5, 0#4, 6#5⟩, none, sp⟩
  | .vdopAdd d a b m sp => some ⟨0x27#6, packV ⟨d, a, b, m, 3#3, 0#3⟩, none, sp⟩
  | .vdopSub d a b m sp => some ⟨0x27#6, packV ⟨d, a, b, m, 3#3, 1#3⟩, none, sp⟩
  | .vdopMul d a b m sp => some ⟨0x27#6, packV ⟨d, a, b, m, 3#3, 2#3⟩, none, sp⟩
  | .vdopMin d a b m sp => some ⟨0x27#6, packV ⟨d, a, b, m, 3#3, 3#3⟩, none, sp⟩
  | .vdopMax d a b m sp => some ⟨0x27#6, packV ⟨d, a, b, m, 3#3, 4#3⟩, none, sp⟩
  | .vdopDiv d a b m sp => some ⟨0x27#6, packV ⟨d, a, b, m, 3#3, 5#3⟩, none, sp⟩
  | .vdopSqrt d a m sp => some ⟨0x27#6, packV ⟨d, a, 0#5, m, 3#3, 6#3⟩, none, sp⟩
  | .ld d a n la w o sp => some ⟨0x28#6, packA ⟨d, a, n, la, w ++ o⟩, none, sp⟩
  | .ldOffset d a n la w o i sp => some ⟨0x28#6, packA ⟨d, a, n, la, w ++ o⟩, some (i), sp⟩
  | .st d a n w o sp => some ⟨0x29#6, packA ⟨d, a, n, 0#4, w ++ o⟩, none, sp⟩
  | .stOffset d a n w o i sp => some ⟨0x29#6, packA ⟨d, a, n, 0#4, w ++ o⟩, some (i), sp⟩
  | .ldv d a n la o sp => some ⟨0x2A#6, packA ⟨d, a, n, la, 0#3 ++ o⟩, none, sp⟩
  | .ldvOffset d a n la o i sp => some ⟨0x2A#6, packA ⟨d, a, n, la, 0#3 ++ o⟩, some (i), sp⟩
  | .ldvL6 d a n la o sp => some ⟨0x2A#6, packA ⟨d, a, n, la, 1#3 ++ o⟩, none, sp⟩
  | .ldvL6Offset d a n la o i sp => some ⟨0x2A#6, packA ⟨d, a, n, la, 1#3 ++ o⟩, some (i), sp⟩
  | .pref a n sp => some ⟨0x2A#6, packA ⟨0#5, a, n, 0#4, 8#5⟩, none, sp⟩
  | .prefOffset a n i sp => some ⟨0x2A#6, packA ⟨0#5, a, n, 0#4, 8#5⟩, some (i), sp⟩
  | .evict a n sp => some ⟨0x2A#6, packA ⟨0#5, a, n, 0#4, 12#5⟩, none, sp⟩
  | .evictOffset a n i sp => some ⟨0x2A#6, packA ⟨0#5, a, n, 0#4, 12#5⟩, some (i), sp⟩
  | .stv d a n o sp => some ⟨0x2B#6, packA ⟨d, a, n, 0#4, 0#3 ++ o⟩, none, sp⟩
  | .stvOffset d a n o i sp => some ⟨0x2B#6, packA ⟨d, a, n, 0#4, 0#3 ++ o⟩, some (i), sp⟩
  | .stvL6 d a n o sp => some ⟨0x2B#6, packA ⟨d, a, n, 0#4, 1#3 ++ o⟩, none, sp⟩
  | .stvL6Offset d a n o i sp => some ⟨0x2B#6, packA ⟨d, a, n, 0#4, 1#3 ++ o⟩, some (i), sp⟩
  | .gath d a b la w n m od sc sp => some ⟨0x2C#6, packA ⟨d, a, b, la, w ++ 0#2⟩, some (0#20 ++ sc ++ od ++ m ++ n), sp⟩
  | .ldvs d a b la w n m od sc sp => some ⟨0x2C#6, packA ⟨d, a, b, la, w ++ 1#2⟩, some (0#20 ++ sc ++ od ++ m ++ n), sp⟩
  | .scat d a b w n m od sc sp => some ⟨0x2D#6, packA ⟨d, a, b, 0#4, w ++ 0#2⟩, some (0#20 ++ sc ++ od ++ m ++ n), sp⟩
  | .stvs d a b w n m od sc sp => some ⟨0x2D#6, packA ⟨d, a, b, 0#4, w ++ 1#2⟩, some (0#20 ++ sc ++ od ++ m ++ n), sp⟩
  | .ldm d a n la c o sp => some ⟨0x2E#6, packA ⟨d, a, n, la, c ++ o⟩, none, sp⟩
  | .ldmOffset d a n la c o i sp => some ⟨0x2E#6, packA ⟨d, a, n, la, c ++ o⟩, some (i), sp⟩
  | .stm d a n c o sp => some ⟨0x2F#6, packA ⟨d, a, n, 0#4, c ++ o⟩, none, sp⟩
  | .stmOffset d a n c o i sp => some ⟨0x2F#6, packA ⟨d, a, n, 0#4, c ++ o⟩, some (i), sp⟩
  | .amoAdd d a b la w n od sc sp => some ⟨0x30#6, packA ⟨d, a, b, la, 0#4 ++ w⟩, some (0#20 ++ sc ++ od ++ 0#3 ++ n), sp⟩
  | .amoAnd d a b la w n od sc sp => some ⟨0x30#6, packA ⟨d, a, b, la, 1#4 ++ w⟩, some (0#20 ++ sc ++ od ++ 0#3 ++ n), sp⟩
  | .amoOr d a b la w n od sc sp => some ⟨0x30#6, packA ⟨d, a, b, la, 2#4 ++ w⟩, some (0#20 ++ sc ++ od ++ 0#3 ++ n), sp⟩
  | .amoXor d a b la w n od sc sp => some ⟨0x30#6, packA ⟨d, a, b, la, 3#4 ++ w⟩, some (0#20 ++ sc ++ od ++ 0#3 ++ n), sp⟩
  | .amoMinI d a b la w n od sc sp => some ⟨0x30#6, packA ⟨d, a, b, la, 4#4 ++ w⟩, some (0#20 ++ sc ++ od ++ 0#3 ++ n), sp⟩
  | .amoMinN d a b la w n od sc sp => some ⟨0x30#6, packA ⟨d, a, b, la, 5#4 ++ w⟩, some (0#20 ++ sc ++ od ++ 0#3 ++ n), sp⟩
  | .amoMaxI d a b la w n od sc sp => some ⟨0x30#6, packA ⟨d, a, b, la, 6#4 ++ w⟩, some (0#20 ++ sc ++ od ++ 0#3 ++ n), sp⟩
  | .amoMaxN d a b la w n od sc sp => some ⟨0x30#6, packA ⟨d, a, b, la, 7#4 ++ w⟩, some (0#20 ++ sc ++ od ++ 0#3 ++ n), sp⟩
  | .amoSwap d a b la w n od sc sp => some ⟨0x30#6, packA ⟨d, a, b, la, 8#4 ++ w⟩, some (0#20 ++ sc ++ od ++ 0#3 ++ n), sp⟩
  | .amoCas d a b la w n od sc sp => some ⟨0x30#6, packA ⟨d, a, b, la, 9#4 ++ w⟩, some (0#20 ++ sc ++ od ++ 0#3 ++ n), sp⟩
  | .amov d a t n m od sc sp => some ⟨0x31#6, packA ⟨d, a, 0#5, 0#4, 0#2 ++ t⟩, some (0#20 ++ sc ++ od ++ m ++ n), sp⟩
  | .amowAdd d a b la n od sc sp => some ⟨0x31#6, packA ⟨d, a, b, la, 16#5⟩, some (0#20 ++ sc ++ od ++ 0#3 ++ n), sp⟩
  | .amowSwap d a b la n od sc sp => some ⟨0x31#6, packA ⟨d, a, b, la, 17#5⟩, some (0#20 ++ sc ++ od ++ 0#3 ++ n), sp⟩
  | .amowCas d a b la n od sc sp => some ⟨0x31#6, packA ⟨d, a, b, la, 18#5⟩, some (0#20 ++ sc ++ od ++ 0#3 ++ n), sp⟩
  | .fenceAcq s sp => some ⟨0x32#6, packA ⟨0#5, 0#5, 0#5, 0#4, 0#3 ++ s⟩, none, sp⟩
  | .fenceRel s sp => some ⟨0x32#6, packA ⟨0#5, 0#5, 0#5, 0#4, 1#3 ++ s⟩, none, sp⟩
  | .fenceFull s sp => some ⟨0x32#6, packA ⟨0#5, 0#5, 0#5, 0#4, 2#3 ++ s⟩, none, sp⟩
  | .cadd d a b la s sp => some ⟨0x32#6, packA ⟨d, a, b, la, 3#3 ++ s⟩, none, sp⟩
  | .cwait d a b la s sp => some ⟨0x32#6, packA ⟨d, a, b, la, 4#3 ++ s⟩, none, sp⟩
  | .cpoll d a la s sp => some ⟨0x32#6, packA ⟨d, a, 0#5, la, 5#3 ++ s⟩, none, sp⟩
  | .tick a sp => some ⟨0x32#6, packA ⟨0#5, a, 0#5, 0#4, 24#5⟩, none, sp⟩
  | .sbind d k b sp => some ⟨0x33#6, packA ⟨d, k, b, 0#4, 0#5⟩, none, sp⟩
  | .sunbd k sp => some ⟨0x33#6, packA ⟨0#5, k, 0#5, 0#4, 1#5⟩, none, sp⟩
  | .sarr d k b la sp => some ⟨0x33#6, packA ⟨d, k, b, la, 2#5⟩, none, sp⟩
  | .sarrb k b sp => some ⟨0x33#6, packA ⟨0#5, k, b, 0#4, 3#5⟩, none, sp⟩
  | .swait d k b la sp => some ⟨0x33#6, packA ⟨d, k, b, la, 4#5⟩, none, sp⟩
  | .stest d k b la sp => some ⟨0x33#6, packA ⟨d, k, b, la, 5#5⟩, none, sp⟩
  | .sleave k sp => some ⟨0x33#6, packA ⟨0#5, k, 0#5, 0#4, 6#5⟩, none, sp⟩
  | .trigx d a la sp => some ⟨0x33#6, packA ⟨d, a, 0#5, la, 7#5⟩, none, sp⟩
  | .tcfg d s la sp => some ⟨0x34#6, packT ⟨d, 0#3, 0#3, s, la, 0#6⟩, none, sp⟩
  | .tfmt s la sp => some ⟨0x34#6, packT ⟨0#3, 0#3, 0#3, s, la, 1#6⟩, none, sp⟩
  | .tscale h s la n od sp => some ⟨0x34#6, packT ⟨0#2 ++ h, 0#3, 0#3, s, la, 2#6⟩, some (0#24 ++ 0#1 ++ od ++ n), sp⟩
  | .tzero d la sp => some ⟨0x34#6, packT ⟨d, 0#3, 0#3, 0#5, la, 3#6⟩, none, sp⟩
  | .tldr d s la n od i sp => some ⟨0x34#6, packT ⟨d, 0#3, 0#3, s, la, 4#6⟩, some (i ++ 0#1 ++ od ++ n), sp⟩
  | .tstr a s la n od i sp => some ⟨0x34#6, packT ⟨0#3, a, 0#3, s, la, 5#6⟩, some (i ++ 0#1 ++ od ++ n), sp⟩
  | .tmovr x s la h v sp => some ⟨0x34#6, packT ⟨if h == 0#1 then x else 0#3, if h == 0#1 then 0#3 else x, 0#3, s, la, 6#6⟩, some (0#26 ++ h ++ v), sp⟩
  | .tmovc x s la h v sp => some ⟨0x34#6, packT ⟨if h == 0#1 then x else 0#3, if h == 0#1 then 0#3 else x, 0#3, s, la, 7#6⟩, some (0#26 ++ h ++ v), sp⟩
  | .mma d a b la sp => some ⟨0x34#6, packT ⟨d, a, b, 0#5, la, 8#6⟩, none, sp⟩
  | .mmas d a s la sp => some ⟨0x34#6, packT ⟨d, a, 0#3, s, la, 9#6⟩, none, sp⟩
  | .mmaSat d a b la sp => some ⟨0x34#6, packT ⟨d, a, b, 0#5, la, 10#6⟩, none, sp⟩
  | .mmasSat d a s la sp => some ⟨0x34#6, packT ⟨d, a, 0#3, s, la, 11#6⟩, none, sp⟩
  | .gload s la n od i sp => some ⟨0x34#6, packT ⟨0#3, 0#3, 0#3, s, la, 12#6⟩, some (i ++ 0#1 ++ od ++ n), sp⟩
  | .gdrop s la sp => some ⟨0x34#6, packT ⟨0#3, 0#3, 0#3, s, la, 13#6⟩, none, sp⟩
  | .tdrain d la sp => some ⟨0x34#6, packT ⟨d, 0#3, 0#3, 0#5, la, 14#6⟩, none, sp⟩
  | .tfill d la sp => some ⟨0x34#6, packT ⟨d, 0#3, 0#3, 0#5, la, 15#6⟩, none, sp⟩
  | .tstat a s la sp => some ⟨0x34#6, packT ⟨0#3, a, 0#3, s, la, 16#6⟩, none, sp⟩
  | .tfree d la sp => some ⟨0x34#6, packT ⟨d, 0#3, 0#3, 0#5, la, 17#6⟩, none, sp⟩
  | .topen d a sp => some ⟨0x35#6, packA ⟨d, a, 0#5, 0#4, 0#5⟩, none, sp⟩
  | .tclose a sp => some ⟨0x35#6, packA ⟨0#5, a, 0#5, 0#4, 1#5⟩, none, sp⟩
  | .tacqS a b sp => some ⟨0x35#6, packA ⟨0#5, a, b, 0#4, 2#5⟩, none, sp⟩
  | .tacqW a b sp => some ⟨0x35#6, packA ⟨0#5, a, b, 0#4, 3#5⟩, none, sp⟩
  | .tacqA a b sp => some ⟨0x35#6, packA ⟨0#5, a, b, 0#4, 4#5⟩, none, sp⟩
  | .trel a b sp => some ⟨0x35#6, packA ⟨0#5, a, b, 0#4, 5#5⟩, none, sp⟩
  | .tsplit d a b sp => some ⟨0x35#6, packA ⟨d, a, b, 0#4, 6#5⟩, none, sp⟩
  | .tqry d a b sp => some ⟨0x35#6, packA ⟨d, a, b, 0#4, 7#5⟩, none, sp⟩
  | .tdesc d a b sp => some ⟨0x35#6, packA ⟨d, a, b, 0#4, 8#5⟩, none, sp⟩
  | .yskew d a b sp => some ⟨0x36#6, packA ⟨d, a, b, 0#4, 0#5⟩, none, sp⟩
  | .yunsk d a sp => some ⟨0x36#6, packA ⟨d, a, 0#5, 0#4, 1#5⟩, none, sp⟩
  | .dadd d a b la sp => some ⟨0x38#6, packA ⟨d, a, b, la, 0#5⟩, none, sp⟩
  | .dsub d a b la sp => some ⟨0x38#6, packA ⟨d, a, b, la, 1#5⟩, none, sp⟩
  | .dmul d a b la sp => some ⟨0x38#6, packA ⟨d, a, b, la, 2#5⟩, none, sp⟩
  | .ddiv d a b la sp => some ⟨0x38#6, packA ⟨d, a, b, la, 3#5⟩, none, sp⟩
  | .dsqrt d a la sp => some ⟨0x38#6, packA ⟨d, a, 0#5, la, 4#5⟩, none, sp⟩
  | .dmin d a b la sp => some ⟨0x38#6, packA ⟨d, a, b, la, 5#5⟩, none, sp⟩
  | .dmax d a b la sp => some ⟨0x38#6, packA ⟨d, a, b, la, 6#5⟩, none, sp⟩
  | .dcmp d a b la c sp => some ⟨0x38#6, packA ⟨d, a, b, la, 1#2 ++ c⟩, none, sp⟩
  | .dcvtToF64 d a r la t sp => some ⟨0x38#6, packA ⟨d, a, 0#2 ++ r, la, 2#2 ++ t⟩, none, sp⟩
  | .dcvtFromF64 d a r la t sp => some ⟨0x38#6, packA ⟨d, a, 0#2 ++ r, la, 3#2 ++ t⟩, none, sp⟩
  | .dfma d a b c la sp => some ⟨0x39#6, packB ⟨d, a, b, c, la⟩, none, sp⟩
  | .vdfma d a b c m n sp => some ⟨0x3A#6, packW ⟨d, a, b, c, m, n⟩, none, sp⟩
  | .fdiv d a b la sp => some ⟨0x3B#6, packA ⟨d, a, b, la, 0#5⟩, none, sp⟩
  | .fsqrt d a la sp => some ⟨0x3B#6, packA ⟨d, a, 0#5, la, 1#5⟩, none, sp⟩
  | .fexp2 d a la sp => some ⟨0x3B#6, packA ⟨d, a, 0#5, la, 2#5⟩, none, sp⟩
  | .flog2 d a la sp => some ⟨0x3B#6, packA ⟨d, a, 0#5, la, 3#5⟩, none, sp⟩
  | .fsin d a la sp => some ⟨0x3B#6, packA ⟨d, a, 0#5, la, 4#5⟩, none, sp⟩
  | .fcos d a la sp => some ⟨0x3B#6, packA ⟨d, a, 0#5, la, 5#5⟩, none, sp⟩
  | .frcp d a la sp => some ⟨0x3B#6, packA ⟨d, a, 0#5, la, 6#5⟩, none, sp⟩
  | .frsq d a la sp => some ⟨0x3B#6, packA ⟨d, a, 0#5, la, 7#5⟩, none, sp⟩
  | .shipw  sp => some ⟨0x3B#6, packA ⟨0#5, 0#5, 0#5, 0#4, 16#5⟩, none, sp⟩
  | .migrate  sp => some ⟨0x3B#6, packA ⟨0#5, 0#5, 0#5, 0#4, 17#5⟩, none, sp⟩
  | .msend d a b sp => some ⟨0x3C#6, packA ⟨d, a, b, 0#4, 0#5⟩, none, sp⟩
  | .msendT d a b sp => some ⟨0x3C#6, packA ⟨d, a, b, 0#4, 1#5⟩, none, sp⟩
  | .mmask d a b sp => some ⟨0x3C#6, packA ⟨d, a, b, 0#4, 2#5⟩, none, sp⟩
  | .mbox d a b sp => some ⟨0x3C#6, packA ⟨d, a, b, 0#4, 3#5⟩, none, sp⟩
  | .mdone d sp => some ⟨0x3C#6, packA ⟨d, 0#5, 0#5, 0#4, 4#5⟩, none, sp⟩
  | .rdsend d k b sp => some ⟨0x3C#6, packA ⟨d, 0#2 ++ k, b, 0#4, 5#5⟩, none, sp⟩
  | .rdrecv d k b la sp => some ⟨0x3C#6, packA ⟨d, 0#2 ++ k, b, la, 6#5⟩, none, sp⟩
  | .cpy d a b sp => some ⟨0x3D#6, packA ⟨d, a, b, 0#4, 0#5⟩, none, sp⟩
  | .cpyt d a b sp => some ⟨0x3D#6, packA ⟨d, a, b, 0#4, 1#5⟩, none, sp⟩
  | .cpyq d a sp => some ⟨0x3D#6, packA ⟨d, a, 0#5, 0#4, 2#5⟩, none, sp⟩
  | .krd d k sp => some ⟨0x3E#6, packKN ⟨d, k, 0#7⟩, none, sp⟩
  | .kwr a k sp => some ⟨0x3E#6, packKN ⟨a, k, 1#7⟩, none, sp⟩
  | .eret a b sp => some ⟨0x3E#6, packK ⟨a, b, 0#5, 0#2, 8#7⟩, none, sp⟩
  | .waiti d a sp => some ⟨0x3E#6, packK ⟨d, a, 0#5, 0#2, 9#7⟩, none, sp⟩
  | .tlbw d a b sp => some ⟨0x3E#6, packK ⟨d, a, b, 0#2, 16#7⟩, none, sp⟩
  | .tlbinv a b sp => some ⟨0x3E#6, packK ⟨0#5, a, b, 0#2, 17#7⟩, none, sp⟩
  | .aswch d a sp => some ⟨0x3E#6, packK ⟨d, a, 0#5, 0#2, 18#7⟩, none, sp⟩
  | .launch d a sp => some ⟨0x3E#6, packK ⟨d, a, 0#5, 0#2, 24#7⟩, none, sp⟩
  | .launchT d a sp => some ⟨0x3E#6, packK ⟨d, a, 0#5, 0#2, 25#7⟩, none, sp⟩
  | .swout d a sp => some ⟨0x3E#6, packK ⟨d, a, 0#5, 0#2, 26#7⟩, none, sp⟩
  | .swin d a sp => some ⟨0x3E#6, packK ⟨d, a, 0#5, 0#2, 27#7⟩, none, sp⟩
  | .rdcfg d a b sp => some ⟨0x3E#6, packK ⟨d, a, b, 0#2, 32#7⟩, none, sp⟩
  | .longLatencyCompletion _ _ => none
  | .settle _ => none
  | .fetchFill _ => none
  | .storeBufferDrain _ => none
  | .guestDispatch _ => none
  | .shippedCompletion _ _ => none
  | .shippedFault _ _ => none
  | .cancelPacket _ => none
  | .migrateTransferDone _ => none
  | .forwardedReply _ => none
  | .matrixPipeStart _ => none
  | .matrixCompletion _ _ => none
  | .tileTransferCompletion _ => none
  | .skewRearrangeDone _ => none
  | .penaltyUpdate _ => none
  | .mirrorUpdate => none
  | .tenureGrant => none
  | .recall => none
  | .drainRequest => none
  | .watchWake _ => none
  | .watchPoll _ => none
  | .waitDeadline _ => none
  | .activationStart _ => none
  | .statGather _ => none
  | .messageArrival _ => none
  | .heldMessagePlaced _ _ => none
  | .mailboxWaitExpiry _ _ => none
  | .messageAnswer _ _ _ => none
  | .handlerActivation _ _ => none
  | .portArbitration _ _ => none
  | .reductionRound _ _ => none
  | .routerPowerDown _ => none
  | .routerWake _ _ => none
  | .routerReady _ => none
  | .pageWalk _ _ => none
  | .atsCompletion _ _ _ _ _ _ => none
  | .priSuccess _ _ => none
  | .priInvalidRequest _ _ => none
  | .priResponseFailure _ => none
  | .atsInvalidateRequest _ _ _ _ => none
  | .invalidateCompletion => none
  | .transferStart _ => none
  | .transferComplete _ _ => none
  | .transferFailed _ _ => none
  | .remotePathLoss _ => none
  | .sertenPut _ _ _ _ => none
  | .hostMemoryWrite _ _ _ => none
  | .hostMemoryRead _ _ => none
  | .hostCounterAdd _ _ _ => none
  | .eqConfigWrite _ _ _ => none
  | .registerWrite _ _ => none
  | .launchRecordTake _ _ _ => none
  | .deviceQueueAdmit _ _ _ => none
  | .teamPlacement _ => none
  | .priorityAging _ _ => none
  | .quantumExpiry _ => none
  | .parkExpiry _ => none
  | .safewaitExpiry _ => none
  | .swapOut _ => none
  | .eventBacklogDrain _ => none
  | .requestTimeout _ => none
  | .functionLevelReset _ => none
  | .errorCorrected _ _ _ => none
  | .poisonConsumed _ => none
  | .uncorrectableError _ => none
  | .pipeFailure _ => none
  | .exchangeComplete _ _ => none
  | .deviceFault _ => none
  | .deviceReset => none
  | .go _ => none
  | .imageVerifyDone _ => none
  | .bringUpReady _ => none
  | .recoveryReset => none
  | .spdmRequest _ => none
  | .clockStepDown _ _ => none
  | .clockStepUp => none
  | .thermalTrip => none
  | .waitiTimeout _ => none
  | .linkRetrained => none
  | .sertenGet _ _ _ _ => none
  | .sertenCounterAdd _ _ _ _ => none
  | .portLinkChange _ _ => none
  | .coalescingIntervalEnd _ => none

/-- The words of an instruction, base word first; none for an event. -/
def encode (i : Instr) : List (BitVec 32) :=
  match i.parts with
  | none => []
  | some p => p.words

end Sys2Proof
end

