-- ==== Sys2Proof/Machine/Sync.lean ====
section
/-! DEFINITION. Meanings of atomics at memory (majors 0x30 and 0x31, but AMOW), fences, counters, TICK, triggers, sheaves
and skewed regions (R230-R234, R259, R307-R314, R317-R342). -/
namespace Sys2Proof.Machine

/-! ### AMO and AMOV (R311-R314) -/

/-- The key of an atomic's operand, translated for its kind of access. -/
def translateAtomic (va : Word) (n : Nat) (k : Access) : Act Nat := do
  awaitAcquires
  let x ← getMe
  let segs ← translateRange x.who va n k
  awaitKeys segs
  return (segs.head?.map (fun g => g.1)).getD 0

/-- An atomic by the strand in the focus; the bytes read before it. An activation holds one that returns nothing, and
releases its hold before one that returns a value (R382). -/
def atomicOf (va : Word) (op : AtomicOp) (k : Access) (n : BitVec 5) (od sc : BitVec 2) (returns : Bool) : Act (List Byte) := do
  let x ← getMe
  if x.holding && !returns then do
    holdRoom false
    let key ← translateAtomic va op.size k
    modifyMe (fun x => x.hold (.atomic key va op sc (od.getLsbD 1) false n x.modes.nudef))
    return []
  else do
    holdRoom true
    let (key, way) ← checkAtomic va op.size op.spans k (!returns && op.accumulates) false
    let x ← getMe
    let old ← atomicAt (x.toucher n) (agentOf x.pos) x.modes.asid va.toNat key op sc (od.getLsbD 1) way x.fenceEpoch
    if od.getLsbD 1 then endFence else pure ()
    if od.getLsbD 0 then acquireLater sc else pure ()
    return old

/-- AMO (R312): `f` is FN5, operation and width. CAS expects the value of sd. -/
def amoForm (d a b : BitVec 5) (la : BitVec 4) (op : BitVec 4) (w : BitVec 1) (n : BitVec 5) (od sc : BitVec 2) : Act Unit := do
  let va ← rdS a
  let v ← rdS b
  let e ← (if op = 9#4 then rdS d else return 0)
  claim (.s d)
  aligned va (if w = 1#1 then 8 else 4)
  let old ← atomicOf va (.amo op (w == 1#1) v e) .atomic n od sc (d != 0#5)
  if d = 0#5 then pure ()
  else deliverRead [(va, if w = 1#1 then 8 else 4)] [] la (od.getLsbD 0) [.s d (BitVec.ofNat 64 (leValue old))]

/-- AMOV (R314). -/
def amovForm (d a : BitVec 5) (t : BitVec 3) (n : BitVec 5) (m : BitVec 3) (od sc : BitVec 2) : Act Unit := do
  let va ← rdS a
  let v ← rdV d
  let k ← rdM m
  aligned va 64
  let _ ← atomicOf va (.amov t k v) .atomic n od sc false
  pure ()

def execAmoAdd (d a b : BitVec 5) (la : BitVec 4) (w : BitVec 1) (n : BitVec 5) (od sc : BitVec 2) (sp : SafePoint) :=
  instrA (opens (.amoAdd d a b 0 w n od sc none) la [.s d] (od.getLsbD 0)) true true sp (amoForm d a b la 0 w n od sc)
def execAmoAnd (d a b : BitVec 5) (la : BitVec 4) (w : BitVec 1) (n : BitVec 5) (od sc : BitVec 2) (sp : SafePoint) :=
  instrA (opens (.amoAnd d a b 0 w n od sc none) la [.s d] (od.getLsbD 0)) true true sp (amoForm d a b la 1 w n od sc)
def execAmoOr (d a b : BitVec 5) (la : BitVec 4) (w : BitVec 1) (n : BitVec 5) (od sc : BitVec 2) (sp : SafePoint) :=
  instrA (opens (.amoOr d a b 0 w n od sc none) la [.s d] (od.getLsbD 0)) true true sp (amoForm d a b la 2 w n od sc)
def execAmoXor (d a b : BitVec 5) (la : BitVec 4) (w : BitVec 1) (n : BitVec 5) (od sc : BitVec 2) (sp : SafePoint) :=
  instrA (opens (.amoXor d a b 0 w n od sc none) la [.s d] (od.getLsbD 0)) true true sp (amoForm d a b la 3 w n od sc)
def execAmoMinI (d a b : BitVec 5) (la : BitVec 4) (w : BitVec 1) (n : BitVec 5) (od sc : BitVec 2) (sp : SafePoint) :=
  instrA (opens (.amoMinI d a b 0 w n od sc none) la [.s d] (od.getLsbD 0)) true true sp (amoForm d a b la 4 w n od sc)
def execAmoMinN (d a b : BitVec 5) (la : BitVec 4) (w : BitVec 1) (n : BitVec 5) (od sc : BitVec 2) (sp : SafePoint) :=
  instrA (opens (.amoMinN d a b 0 w n od sc none) la [.s d] (od.getLsbD 0)) true true sp (amoForm d a b la 5 w n od sc)
def execAmoMaxI (d a b : BitVec 5) (la : BitVec 4) (w : BitVec 1) (n : BitVec 5) (od sc : BitVec 2) (sp : SafePoint) :=
  instrA (opens (.amoMaxI d a b 0 w n od sc none) la [.s d] (od.getLsbD 0)) true true sp (amoForm d a b la 6 w n od sc)
def execAmoMaxN (d a b : BitVec 5) (la : BitVec 4) (w : BitVec 1) (n : BitVec 5) (od sc : BitVec 2) (sp : SafePoint) :=
  instrA (opens (.amoMaxN d a b 0 w n od sc none) la [.s d] (od.getLsbD 0)) true true sp (amoForm d a b la 7 w n od sc)
def execAmoSwap (d a b : BitVec 5) (la : BitVec 4) (w : BitVec 1) (n : BitVec 5) (od sc : BitVec 2) (sp : SafePoint) :=
  instrA (opens (.amoSwap d a b 0 w n od sc none) la [.s d] (od.getLsbD 0)) true true sp (amoForm d a b la 8 w n od sc)
def execAmoCas (d a b : BitVec 5) (la : BitVec 4) (w : BitVec 1) (n : BitVec 5) (od sc : BitVec 2) (sp : SafePoint) :=
  instrA (opens (.amoCas d a b 0 w n od sc none) la [.s d] (od.getLsbD 0)) true true sp (amoForm d a b la 9 w n od sc)
def execAmov (d a : BitVec 5) (t : BitVec 3) (n : BitVec 5) (m : BitVec 3) (od sc : BitVec 2) (sp : SafePoint) :=
  instrA (opensStore (.amov d a t n m od sc none)) true true sp (amovForm d a t n m od sc)

/-! ### FENCE (R298, R300-R302, R310) -/

/-- Older loads and atomics of the strand have returned. -/
def awaitLoads : Act Unit := do
  let x ← getMe
  if x.pending.isEmpty then pure () else stall

/-- A mark of a FENCE takes effect once the stores before it have left the store buffer: the span before it ends, and where
one starts, the domain is written back at system scope and the epoch closes; the strand's stores and atomics up to its next fence
or release deposit their records (R298). -/
def fenceMark (m : FenceMark) : Act Unit := do
  endFence
  match m with
  | .ends => pure ()
  | .starts scope =>
    if scope = 0#2 then pure ()
    else do
      let x ← getMe
      if scope = 3#2 then writeBackAll x.pos.yidx true else pure ()
      let e ← closeEpoch x.pos.yidx
      modifyMe (fun x => { x with fenceRel := some (scope, e) })

/-- A FENCE marks its place behind the older stores, which the strand does not wait for (R310). -/
def putMark (m : FenceMark) : Act Unit := do
  let x ← getMe
  if x.storeBuf.isEmpty then fenceMark m
  else modifyMe (fun x => { x with
    storeBuf := x.storeBuf ++ [{ key := 0, va := 0, bytes := [], nu := 0, nudef := 0, rel := none, mark := some m }] })

/-- FENCE.REL: it waits for nothing; younger stores wait for it in the store buffer (R310). -/
def fenceRelease (scope : BitVec 2) : Act Unit := putMark (.starts scope)

/-- FENCE.ACQ. -/
def fenceAcqForm (scope : BitVec 2) : Act Unit := do
  awaitLoads
  awaitAcquires
  putMark .ends
  acquireLater scope

/-- FENCE.FULL: what the domain holds dirty of device memory is written back before the acquire. -/
def fenceFullForm (scope : BitVec 2) : Act Unit := do
  awaitLoads
  awaitAcquires
  awaitStores
  let x ← getMe
  if scope = 1#2 || scope = 2#2 then writeBackAll x.pos.yidx false else pure ()
  fenceRelease scope
  acquireLater scope

def execFenceAcq (s : BitVec 2) (sp : SafePoint) := instr false true sp (fenceAcqForm s)
def execFenceRel (s : BitVec 2) (sp : SafePoint) := instr false true sp (fenceRelease s)
def execFenceFull (s : BitVec 2) (sp : SafePoint) := instr false true sp (fenceFullForm s)

/-! ### CADD, CWAIT, CPOLL (R332-R335), TICK (R259) -/

/-- The virtual line of a tiled counter. -/
def counterLine (x : Strand) (va : Word) (tiled : Bool) : Option (BitVec 16 × Nat) :=
  if tiled then some (x.modes.asid, va.toNat / 128) else none

/-- CADD. A leaf that is not readable refuses it with 0x12, as R349 has it, where R333 translates it as a store (DEDUCED, log entry
84). -/
def caddForm (d a b : BitVec 5) (la : BitVec 4) (s : BitVec 2) : Act Unit := do
  let va ← rdS a
  let v ← rdS b
  claim (.s d)
  let x ← getMe
  if x.holding && d = 0#5 then do
    holdRoom false
    if va.extractLsb' 0 3 ≠ 0#3 then raise 0x31 va
    else do
      let key ← translateAtomic va 8 .atomic
      if isHostMem key then raise 0x13 va
      else do
        modifyMe (fun x => x.hold (.cadd key va v s))
        setReason 0
  else do
    holdRoom true
    let (key, tiled) ← counterKey va true
    let x ← getMe
    releaseAt (x.toucher 30) s (if tiled then none else some key) tiled
    atCounter (x.toucher 30) key (counterLine x va tiled)
    let (old, sat) ← counterAdd key v
    setReason (if sat then 1 else 0)
    deliver la false [.s d old]

/-- CWAIT. -/
def cwaitForm (d a b : BitVec 5) (la : BitVec 4) (s : BitVec 2) : Act Unit := do
  let va ← rdS a
  let t ← rdS b
  let timeout ← rdS (b + 1)
  claim (.s d)
  awaitAcquires
  awaitStores
  holdWait .cwait timeout (fun w => do
    let (key, tiled) ← counterKey va false
    let x ← getMe
    atCounter (x.toucher 30) key (counterLine x va tiled)
    let st ← getS
    if t.toNat ≤ st.counter key then do
      endWait
      acquireLater s
      deliver la true [.s d 1]
    else if w.over st.cycle then do
      endWait
      deliver la false [.s d 0]
    else waitOn w (some key))

/-- CPOLL. -/
def cpollForm (d a : BitVec 5) (la : BitVec 4) (s : BitVec 2) : Act Unit := do
  let va ← rdS a
  claim (.s d)
  let (key, tiled) ← counterKey va false
  let x ← getMe
  atCounter (x.toucher 30) key (counterLine x va tiled)
  let st ← getS
  acquireLater s
  deliver la true [.s d (BitVec.ofNat 64 (st.counter key))]

/-- TICK. A strand that belongs to no team, as a supervisor's does, has no team clock, and its TICK has no effect (DESIGN CHOICE,
log entry 61: R259 names the team's clock and no other). -/
def tickForm (a : BitVec 5) : Act Unit := do
  let v ← rdS a
  let n := min v.toNat 255
  let s ← getS
  match (if n = 0 then none else s.team s.me.tid) with
  | none => pure ()
  | some t => do
    modifyTeam t.tid (fun t => t.tick n s.cycle)
    sendMirror (t.tick n s.cycle)

def execCadd (d a b : BitVec 5) (la : BitVec 4) (s : BitVec 2) (sp : SafePoint) :=
  instrA (opens (.cadd d a b 0 s none) la [.s d] false) false true sp (caddForm d a b la s)
def execCwait (d a b : BitVec 5) (la : BitVec 4) (s : BitVec 2) (sp : SafePoint) :=
  instrA (opens (.cwait d a b 0 s none) la [.s d] true) false true sp (cwaitForm d a b la s)
def execCpoll (d a : BitVec 5) (la : BitVec 4) (s : BitVec 2) (sp : SafePoint) :=
  instrA (opens (.cpoll d a 0 s none) la [.s d] true) false true sp (cpollForm d a la s)
def execTick (a : BitVec 5) (sp : SafePoint) := instr false true sp (tickForm a)

/-! ### TRIG, TRIGX (R323, R336, R337) -/

/-- Serial numbers of a team's triggers that are still armed. -/
def Yard.serials (Y : Yard) (tid : Nat) : List (BitVec 24) := (Y.triggers.filter (fun t => t.tid == tid)).map (fun t => t.token)

/-- TRIG. -/
def trigForm (d a b c : BitVec 5) (la : BitVec 4) : Act Unit := do
  let va ← rdS a
  let target ← rdS b
  let entry ← rdS c
  let arg ← rdS (c + 1)
  claim (.s d)
  if va.extractLsb' 0 3 ≠ 0#3 then raise 0x31 va
  else if entry.extractLsb' 0 2 ≠ 0#2 then raise 0x14 entry
  else do
    let (key, tiled) ← counterKey va false
    let s ← getS
    let y := s.me.pos.yidx
    let Y := s.yard y
    if 256 ≤ Y.triggers.length then do
      setReason 1
      deliver la false [.s d 0]
    else do
      let tid := s.me.tid
      let tok := nextSerial (Y.serials tid) 257 (((s.team tid).map (fun t => t.nextToken)).getD 1)
      modifyTeam tid (fun t => { t with nextToken := tok + 1 })
      setReason 0
      atCounter (s.me.toucher 30) key (counterLine s.me va tiled)
      let s ← getS
      let fired := target.toNat ≤ s.counter key
      modifyYard y (fun Y =>
        { Y with
          triggers := Y.triggers ++ [⟨tid, tok, key, va, target, entry, arg, fired⟩]
          actq := if fired then Y.actq ++ [⟨tid, .trigger entry arg (isYardMem key) tok, 0⟩] else Y.actq })
      deliver la false [.s d (tok.zeroExtend 64)]

/-- TRIGX. -/
def trigxForm (d a : BitVec 5) (la : BitVec 4) : Act Unit := do
  let t ← rdS a
  claim (.s d)
  let s ← getS
  let y := s.me.pos.yidx
  let hit := fun (r : Trigger) => r.tid == s.me.tid && !r.fired && r.token.zeroExtend 64 == t
  if (s.yard y).triggers.any hit then do
    modifyYard y (fun Y => { Y with triggers := Y.triggers.filter (fun r => !hit r) })
    deliver la false [.s d 1]
  else deliver la false [.s d 0]

def execTrig (d a b c : BitVec 5) (la : BitVec 4) (sp : SafePoint) :=
  instrA (opens (.trig d a b c 0 none) la [.s d] false) false true sp (trigForm d a b c la)
def execTrigx (d a : BitVec 5) (la : BitVec 4) (sp : SafePoint) := instr false true sp (trigxForm d a la)

/-! ### Sheaves (R338-R342) -/

/-- SBIND. -/
def sbindForm (d k b : BitVec 5) : Act Unit := do
  let va ← rdS b
  claim (.s d)
  awaitAcquires
  awaitStores
  let x ← getMe
  let s ← getS
  let key := s.windowKey x.tid (va.toNat - apertureBase)
  if inAperture va.toNat then awaitKeys [(key, 64)] else pure ()
  if va.extractLsb' 0 6 ≠ 0#6 then raise 0x31 va
  else if !inAperture va.toNat then fail d 3
  else if s.allotment x.tid ≤ va.toNat - apertureBase then raise 0x10 va
  else if s.poisonedAt x.pos.yidx x.pos.heavy [(key, 64)] then raise 0x50 (s.poisonAddr x.pos.yidx x.pos.heavy [(key, 64)])
  else if 8 ≤ (s.sheaf key).flags then fail d 4
  else if ((s.slotAddr (coreKey x.home) k).map (fun a => a != va)).getD false then fail d 2
  else do
    modifyMe (fun x => { x with binds := x.binds.filter (fun e => e.n != k) ++ [⟨k, va, none⟩] })
    succeed d 1

/-- SUNBD. -/
def sunbdForm (k : BitVec 5) : Act Unit := modifyMe (fun x => { x with binds := x.binds.filter (fun e => e.n != k) })

/-- SARR. -/
def sarrForm (d k b : BitVec 5) (la : BitVec 4) : Act Unit := do
  let v ← rdS b
  claim (.s d)
  let (b, key) ← boundSheaf k
  let s ← getS
  let old := s.sheaf key
  sheafRelease old
  putSheaf s.me.tid b.off key old (old.updated (old.add 1 v.toNat))
  modifyMe (fun x => x.setLast k (some (BitVec.ofNat 32 old.phase)))
  deliver la false [.s d (BitVec.ofNat 64 old.phase)]

/-- SARRB. -/
def sarrbForm (k b : BitVec 5) : Act Unit := do
  let v ← rdS b
  let (b, key) ← boundSheaf k
  let s ← getS
  let old := s.sheaf key
  sheafRelease old
  putSheaf s.me.tid b.off key old (old.updated (old.add 0 v.toNat))

/-- SWAIT. -/
def swaitForm (d k b : BitVec 5) (la : BitVec 4) : Act Unit := do
  let t ← rdS b
  let timeout ← rdS (b + 1)
  claim (.s d)
  awaitAcquires
  awaitStores
  holdWait .swait timeout (fun w => do
    let (b, key) ← boundSheaf k
    let s ← getS
    if tokenPassed (s.visiblePhase s.me.tid b.off key) t then do
      endWait
      acquireLater (s.sheaf key).scope
      deliver la true [.s d 1]
    else if w.over s.cycle then do
      endWait
      deliver la false [.s d 0]
    else waitOn w (some key))

/-- STEST. -/
def stestForm (d k b : BitVec 5) (la : BitVec 4) : Act Unit := do
  let t ← rdS b
  claim (.s d)
  awaitStores
  let (b, key) ← boundSheaf k
  let s ← getS
  if tokenPassed (s.visiblePhase s.me.tid b.off key) t then do
    acquireLater (s.sheaf key).scope
    deliver la true [.s d 1]
  else deliver la false [.s d 0]

/-- SLEAVE. -/
def sleaveForm (k : BitVec 5) : Act Unit := leaveReleased k

def execSbind (d k b : BitVec 5) (sp : SafePoint) := instr false true sp (sbindForm d k b)
def execSunbd (k : BitVec 5) (sp : SafePoint) := instr false true sp (sunbdForm k)
def execSarr (d k b : BitVec 5) (la : BitVec 4) (sp : SafePoint) := instr false true sp (sarrForm d k b la)
def execSarrb (k b : BitVec 5) (sp : SafePoint) := instr false true sp (sarrbForm k b)
def execSwait (d k b : BitVec 5) (la : BitVec 4) (sp : SafePoint) :=
  instrA (opens (.swait d k b 0 none) la [.s d] true) false true sp (swaitForm d k b la)
def execStest (d k b : BitVec 5) (la : BitVec 4) (sp : SafePoint) := instr false true sp (stestForm d k b la)
def execSleave (k : BitVec 5) (sp : SafePoint) := instr false true sp (sleaveForm k)

/-! ### YSKEW, YUNSK (R232-R234) -/

/-- The bank of a word of a team's window at a yard (R225, R230): bits [6:3] of its offset, in a skewed region turned by its row. The
mapping changes no value that an access reads, so the words of a region and their poison are kept under their unskewed address
(DESIGN CHOICE, log entry 69). -/
def State.bankOf (s : State) (y tid off : Nat) : Nat :=
  match (s.yard y).skews.find? (fun k => k.tid == tid && !k.leaving && k.base ≤ off && off < k.base + k.rows * k.pitch) with
  | none => off / 8 % 16
  | some k => ((off - k.base) % k.pitch / 8 % 16 + (off - k.base) / k.pitch) % 16

/-- Cycles of a rearrangement (R234). -/
def skewCycles (rows pitch : Nat) : Nat := (rows * pitch + 127) / 128

/-- YSKEW. The region is busy from the cycle after sd is written. -/
def yskewForm (d a b : BitVec 5) : Act Unit := do
  let va ← rdS a
  let v ← rdS b
  claim (.s d)
  let s ← getS
  let x := s.me
  let Y := s.yard x.pos.yidx
  let o := va.toNat - apertureBase
  let rows := (v.extractLsb' 0 12).toNat + 1
  let pitch := 128 * (v.extractLsb' 16 8).toNat
  let mine := Y.skews.filter (fun k => k.tid == x.tid && !k.leaving)
  if v.extractLsb' 12 4 ≠ 0#4 || v.extractLsb' 24 40 ≠ 0#40 || pitch = 0 then fail d 4
  else if !inAperture va.toNat || o % 128 ≠ 0 then fail d 3
  else if s.allotment x.tid < o + rows * pitch then fail d 3
  else if mine.any (fun k => k.base < o + rows * pitch && o < k.base + k.rows * k.pitch) then fail d 2
  else if 8 ≤ mine.length || 64 ≤ (Y.skews.filter (fun k => !k.leaving)).length then fail d 1
  else do
    modifyYard x.pos.yidx (fun Y =>
      { Y with skews := Y.skews ++ [⟨x.tid, o, rows, pitch, s.cycle + 2 + skewCycles rows pitch, false⟩] })
    succeed d 1

/-- YUNSK: accesses wait until the words are back in order, so the entry stays for that time, on its way out. -/
def yunskForm (d a : BitVec 5) : Act Unit := do
  let va ← rdS a
  claim (.s d)
  let s ← getS
  let x := s.me
  let o := va.toNat - apertureBase
  let hit := fun (k : Skew) => k.tid == x.tid && !k.leaving && inAperture va.toNat && k.base == o
  if (s.yard x.pos.yidx).skews.any hit then do
    modifyYard x.pos.yidx (fun Y =>
      { Y with
        skews := Y.skews.map (fun k =>
          if hit k then { k with busyUntil := s.cycle + 2 + skewCycles k.rows k.pitch, leaving := true } else k) })
    succeed d 1
  else fail d 5

def execYskew (d a b : BitVec 5) (sp : SafePoint) := instr false true sp (yskewForm d a b)
def execYunsk (d a : BitVec 5) (sp : SafePoint) := instr false true sp (yunskForm d a)

end Sys2Proof.Machine
end

