-- ==== Sys2Proof/Machine/System.lean ====
section
/-! DEFINITION. Meanings of major 0x3E: control registers (R72-R74, R112, R113), the return from a trap and WAITI (R114,
R115), translation (R358-R361), launches and swaps (R406-R408), reduction-tree configuration (R391). -/
namespace Sys2Proof.Machine

/-! ### Control registers (R73) -/

/-- Whether a number is assigned (R73). -/
def controlAssigned (n : Nat) : Bool :=
  n ≤ 4 || (0x10 ≤ n && n ≤ 0x13) || n == 0x20 || (0x30 ≤ n && n ≤ 0x34) || (0x40 ≤ n && n ≤ 0x43) || n == 0x50 || n == 0x51
    || (0x60 ≤ n && n ≤ 0x6F) || (0x70 ≤ n && n ≤ 0x73) || n == 0x80 || n == 0x81 || (0x90 ≤ n && n ≤ 0x93)
    || n == 0xA0 || n == 0xA1 || n == 0xB0

/-- User access of R73. -/
inductive UserAccess where
  | rw | ro | no
deriving DecidableEq, Repr

def userAccess (n : Nat) : UserAccess :=
  if (0x10 ≤ n && n ≤ 0x13) || n == 0x30 then .rw else if n == 0x32 || n == 0x91 || n == 0x92 then .no else .ro

/-- One bit as a word. -/
def bitWord (b : Bool) (i : Nat) : Word := if b then BitVec.twoPow 64 i else 0

/-- K.STATUS (R91). -/
def Status.word (t : Status) : Word :=
  bitWord t.sup 0 ||| bitWord t.migt 1 ||| bitWord t.mig 2 ||| bitWord t.act 3 ||| bitWord t.paired 4 ||| bitWord t.safereq 5
    ||| (t.reason.zeroExtend 64 <<< 8)

/-- K.FINFO (R95). -/
def TrapRegs.finfo (t : TrapRegs) : Word :=
  t.ilen.zeroExtend 64 ||| (t.squash.zeroExtend 64 <<< 2) ||| (t.hyidx.zeroExtend 64 <<< 8) ||| (t.seq.zeroExtend 64 <<< 14)

/-- K.FPC (R95). -/
def TrapRegs.fpc (t : TrapRegs) : Word := t.pc.zeroExtend 64 <<< 2

/-- K.NANMODE (R46). -/
def Modes.nanWord (m : Modes) : Word :=
  let r := m.nanrep
  bitWord m.nanmode 0 ||| bitWord r.rvalid 8 ||| (r.pipe.zeroExtend 64 <<< 9) ||| (r.row.zeroExtend 64 <<< 10)
    ||| (r.col.zeroExtend 64 <<< 14) ||| (r.kstep.zeroExtend 64 <<< 18) ||| (r.yidx.zeroExtend 64 <<< 26)

/-- K.TFMT (R197). -/
def FmtCtx.reg (f : FmtCtx) : Word := f.word.zeroExtend 64 ||| bitWord f.valid 31

/-- K.ASID (R344). -/
def Modes.asidWord (m : Modes) : Word :=
  m.asid.zeroExtend 64 ||| (m.pasid.zeroExtend 64 <<< 16) ||| (m.tenant.zeroExtend 64 <<< 36)

/-- K.CORE (R19). -/
def coreReg (p : Pos) : Word := BitVec.ofNat 64 (p.core + (if p.heavy then 128 else 0) + p.slot * 256)

/-- K.YARD (R19). -/
def State.yardWord (s : State) (y : Nat) : Word :=
  let st := s.yardStop y
  BitVec.ofNat 64 (y + st * 2 ^ 8 + st / 16 * 2 ^ 14)

/-- K.TEAMID (R400). -/
def Team.idWord (t : Team) (g : Grid) : Word :=
  BitVec.ofNat 64 (t.tid % 2 ^ 32 + t.prio % 8 * 2 ^ 32) ||| bitWord g.nomatrix 35 ||| bitWord g.paired 36

/-- K.TEAMCLK (R239). -/
def Team.clkWord (t : Team) : Word := t.clk.zeroExtend 64 ||| BitVec.ofNat 64 (t.period * 2 ^ 32)

/-- The low bits of a word. -/
def lowMask (n : Nat) : Word := BitVec.ofNat 64 (2 ^ n - 1)

/-- The bits from `lo` to `hi`. -/
def fieldMask (hi lo : Nat) : Word := BitVec.ofNat 64 (2 ^ (hi + 1) - 2 ^ lo)

/-- The fields of K.TRAPMIG (R96). -/
def trapmigMask : Word :=
  fieldMask 4 1 ||| fieldMask 10 8 ||| fieldMask 20 16 ||| fieldMask 22 22 ||| fieldMask 26 24 ||| fieldMask 34 32
    ||| fieldMask 42 40 ||| fieldMask 49 48 ||| fieldMask 56 56 ||| fieldMask 60 60

/-- A team register of the strand; of a strand without a team, whose registers no rule gives a value, a free value under
the register's fields. -/
def teamReg (mask : Word) (f : Team → Grid → Word) : Act Word := do
  let s ← getS
  match (s.team s.me.tid).bind (fun t => (s.grid t.grid).map (fun g => f t g)) with
  | some v => return v
  | none => do
    let c ← freshFree
    return Config.freeWord c &&& mask

/-- ReadControl (R113). -/
def readControl (n : Nat) : Act Word := do
  let s ← getS
  let x := s.me
  let Y := (s.yard x.pos.yidx).regs
  match n with
  | 0x000 => return x.st.word
  | 0x001 => return x.trap.code.zeroExtend 64
  | 0x002 => return x.trap.fpc
  | 0x003 => return x.trap.addr
  | 0x004 => return x.trap.finfo
  | 0x010 => return bitWord x.modes.nve 0 ||| bitWord x.modes.dze 1
  | 0x011 => return x.arch.fpflags.zeroExtend 64
  | 0x012 => return x.modes.rmode.zeroExtend 64
  | 0x013 => return x.modes.nanWord
  | 0x020 => return x.fmt.reg
  | 0x030 => return x.modes.nudef.zeroExtend 64
  | 0x031 => teamReg (lowMask 53) (fun t _ => t.clkWord)
  | 0x032 => return s.dev.nufloor
  | 0x033 => return (s.func x.modes.tenant.toNat).nupen.zeroExtend 64
  | 0x034 =>
    let f := s.func x.modes.tenant.toNat
    return BitVec.ofNat 64 f.nuHonLast ||| (f.nuWin.zeroExtend 64 <<< 32)
  | 0x040 => teamReg (lowMask 37) (fun t g => t.idWord g)
  | 0x041 => return x.index.zeroExtend 64
  | 0x042 => return coreReg x.pos
  | 0x043 => return s.yardWord x.pos.yidx
  | 0x050 => return Y.share
  | 0x051 => return Y.gage
  | 0x070 => return Y.quantum
  | 0x071 => return Y.safewait
  | 0x072 => return Y.park
  | 0x073 => return Y.trapmig
  | 0x080 => return (s.spaceOf x.modes.asid).htbase
  | 0x081 => return (s.spaceOf x.modes.asid).htfree
  | 0x090 => return x.modes.asidWord
  | 0x091 => return (s.spaceOf x.modes.asid).ptbase
  | 0x092 => return Y.evbase
  | 0x093 => teamReg (fieldMask 55 6) (fun t _ => t.savebase &&& fieldMask 55 6)
  | 0x0A0 => return s.dev.nocw
  | 0x0A1 => return s.dev.nocage
  | 0x0B0 => teamReg (lowMask 32) (fun t _ => t.mbwait)
  | n => return Y.mwgt.toArray.getD (n - 0x060) 0

/-- A yard register written. -/
def modifyRegs (f : YardRegs → YardRegs) : Act Unit := do
  let x ← getMe
  modifyYard x.pos.yidx (fun Y => { Y with regs := f Y.regs })

/-- A register of the strand's address space written; of one that is not live, nothing (R361). -/
def modifySpace (f : Space → Space) : Act Unit := do
  let s ← getS
  let a := s.me.modes.asid
  if a = 0#16 || (s.space a).isSome then modifyDev (fun d => d.putSpace (f (s.spaceOf a))) else pure ()

/-- WriteControl for a register that the strand may write, field by field (R6, R113). -/
def writeControl (n : Nat) (v : Word) : Act Unit :=
  match n with
  | 0x001 => modifyMe (fun x => { x with trap := { x.trap with code := v.extractLsb' 0 8 } })
  | 0x002 => modifyMe (fun x => { x with trap := { x.trap with pc := v.extractLsb' 2 54 } })
  | 0x003 => modifyMe (fun x => { x with trap := { x.trap with addr := v } })
  | 0x010 => modifyMe (fun x => { x with modes := { x.modes with nve := v.getLsbD 0, dze := v.getLsbD 1 } })
  | 0x011 => modifyMe (fun x => { x with arch := { x.arch with fpflags := x.arch.fpflags &&& ~~~(v.extractLsb' 0 6) } })
  | 0x012 => modifyMe (fun x => { x with modes := { x.modes with rmode := v.extractLsb' 0 2 } })
  | 0x013 => modifyMe (fun x => { x with modes := { x.modes with nanmode := v.getLsbD 0, nanrep := ⟨false, 0, 0, 0, 0, 0⟩ } })
  | 0x030 => modifyMe (fun x => { x with modes := { x.modes with nudef := v.extractLsb' 0 5 } })
  | 0x032 => modifyDev (fun d => { d with nufloor := v &&& lowMask 17 })
  | 0x050 => modifyRegs (fun r => { r with share := v &&& lowMask 8 })
  | 0x051 => modifyRegs (fun r => { r with gage := v &&& lowMask 16 })
  | 0x070 => modifyRegs (fun r => { r with quantum := v &&& lowMask 32 })
  | 0x071 => modifyRegs (fun r => { r with safewait := v &&& lowMask 32 })
  | 0x072 => modifyRegs (fun r => { r with park := v &&& lowMask 32 })
  | 0x073 => modifyRegs (fun r => { r with trapmig := v &&& trapmigMask })
  | 0x080 => modifySpace (fun x => { x with htbase := v &&& (lowMask 5 ||| fieldMask 55 12) })
  | 0x081 => modifySpace (fun x => { x with htfree := v &&& lowMask 61 })
  | 0x091 => modifySpace (fun x => { x with ptbase := v &&& (lowMask 1 ||| fieldMask 51 16) })
  | 0x092 => modifyRegs (fun r => { r with evbase := v &&& fieldMask 55 6 })
  | 0x0A0 => modifyDev (fun d => { d with nocw := v &&& lowMask 48 })
  | 0x0A1 => modifyDev (fun d => { d with nocage := v &&& lowMask 8 })
  | 0x0B0 => do
    let x ← getMe
    modifyTeam x.tid (fun t => { t with mbwait := v &&& lowMask 32 })
  | n =>
    if 0x060 ≤ n && n ≤ 0x06F then
      modifyRegs (fun r =>
        { r with mwgt := Vector.ofFn (fun i => if i.val = n - 0x060 then v &&& 0x0F0F0F0F0F0F0F0F else r.mwgt[i]) })
    else pure ()

/-- No shipped instruction of the strand is outstanding, its commit buffer is empty, and on a heavy core every older H-class
form has completed (R74, R186). -/
def waitShipped : Act Unit := do
  let x ← getMe
  if x.window.isEmpty && !x.pending.any (fun p => p.hclass) then pure () else stall

/-- Checks that KRD and KWR share (R113). -/
def controlChecks (n : Nat) : Act Unit := do
  let x ← getMe
  if !controlAssigned n then raise 0x01 0
  else if !x.st.sup && userAccess n = .no then raise 0x04 0
  else if n ≤ 0x02F then waitShipped
  else pure ()

/-- KRD. -/
def krdForm (d : BitVec 5) (k : BitVec 12) : Act Unit := do
  controlChecks k.toNat
  claim (.s d)
  let v ← readControl k.toNat
  wrS d v

/-- KWR. -/
def kwrForm (a : BitVec 5) (k : BitVec 12) : Act Unit := do
  controlChecks k.toNat
  let v ← rdS a
  let x ← getMe
  if x.st.sup || userAccess k.toNat = .rw then writeControl k.toNat v else pure ()

def execKrd (d : BitVec 5) (k : BitVec 12) (sp : SafePoint) := instr false false sp (krdForm d k)
def execKwr (a : BitVec 5) (k : BitVec 12) (sp : SafePoint) := instr false true sp (kwrForm a k)

/-! ### ERET, WAITI (R114, R115) -/

/-- The position that a reference word names in a yard (R115). -/
def refPos (y : Nat) (w : Word) : Pos := ⟨y, w.getLsbD 7, (w.extractLsb' 0 7).toNat, (w.extractLsb' 8 3).toNat⟩

/-- The parked strand that a reference word names, its notification delivered: in the slot of the word, or, of a migrated strand that
has since taken the own slot for which it waited, there (R114, R189; DEDUCED, log entry 90). -/
def State.parkedAt (s : State) (p : Pos) : Option Strand :=
  match s.at? p with
  | some y => if y.run = .parkedTrap true then some y else none
  | none => s.strands.find? (fun y => y.home == p && y.pos.heavy && y.run == .parkedTrap true)

/-- ERET. -/
def eretForm (a b : BitVec 5) : Act Unit := do
  needSup
  needHeavy
  let sa ← rdS a
  let s ← getS
  let x := s.me
  if b = 0#5 then
    if !x.st.migt then pure ()
    else
      let t := if a = 0#5 then x.trap.fpc else sa
      if t.extractLsb' 0 2 ≠ 0#2 then raise 0x14 t else returnFromTrap t
  else do
    let r ← rdS b
    let p := refPos x.pos.yidx r
    match (if r.getLsbD 15 then s.parkedAt p else none) with
    | none => pure ()
    | some y =>
      let t := if a = 0#5 then y.trap.fpc else sa
      if t.extractLsb' 0 2 ≠ 0#2 then raise 0x14 t else resumeParked y.pos t

/-- The reference word of a parked strand (R115). -/
def Strand.refWord (x : Strand) : Word :=
  BitVec.ofNat 64 (x.pos.core + (if x.pos.heavy then 2 ^ 7 else 0) + x.pos.slot * 2 ^ 8 + 2 ^ 15) ||| (x.trap.code.zeroExtend 64 <<< 16)
    ||| (x.trap.finfo <<< 32)

/-- WAITI. -/
def waitiForm (d a : BitVec 5) : Act Unit := do
  needSup
  needHeavy
  if d = 0#5 || 29#5 < d then raise 0x01 0 else pure ()
  let timeout ← rdS a
  claim (.s d)
  claim (.s (d + 1))
  claim (.s (d + 2))
  let w ← waitOf .waiti timeout
  let s ← getS
  let y := s.me.pos.yidx
  match (s.yard y).notes.head?.bind s.at? with
  | some q => do
    endWait
    modifyYard y (fun Y => { Y with notes := Y.notes.drop 1 })
    modifyAt q.pos (fun q => { q with run := .parkedTrap true })
    wrS d q.refWord
    wrS (d + 1) q.trap.addr
    wrS (d + 2) q.trap.fpc
  | none =>
    if w.over s.cycle then do
      endWait
      wrS d 0
      wrS (d + 1) 0
      wrS (d + 2) 0
    else waitOn w none

def execEret (a b : BitVec 5) (sp : SafePoint) := instr false true sp (eretForm a b)
def execWaiti (d a : BitVec 5) (sp : SafePoint) := instr false true sp (waitiForm d a)

/-! ### TLBW, TLBINV, ASWCH (R358-R361) -/

/-- The level of a size code of TLBW (R359). -/
def tlbwLevel (sa : Word) : Nat := (sa.extractLsb' 0 2).toNat

/-- TLBW. -/
def tlbwForm (d a b : BitVec 5) : Act Unit := do
  needSup
  needHeavy
  let sa ← rdS a
  let sb ← rdS b
  claim (.s d)
  let s ← getS
  let x := s.me
  let lv := tlbwLevel sa
  let va := (sa.extractLsb' 19 37).toNat * 2 ^ 19
  let e := leafEntry x.modes.asid va lv sb.toNat (sa.getLsbD 2)
  let Y := s.yard x.pos.yidx
  if lv = 0 || sa.extractLsb' 3 16 ≠ 0#16 || sa.extractLsb' 56 8 ≠ 0#8 then fail d 3
  else if !sb.getLsbD 0 || !sb.getLsbD 1 || malformed lv sb.toNat then fail d 2
  else if e.pinned && 2 ≤ Y.tlb.countP (fun f => f.set == e.set && f.pinned) then fail d 1
  else do
    emit (.yard x.pos.yidx
      { Y with
        tlb := heavyInsert (Y.tlb.filter (fun f =>
          !(f.asid == e.asid && (f.bits == e.bits && f.vpage == e.vpage || f.ats && e.maps f.asid (f.vpage * 2 ^ f.bits))))) e })
    succeed d 1

/-- Entries that a KIND of TLBINV names (R360). -/
def tlbNamed (kind : Nat) (asid : BitVec 16) (va : Nat) (pin : Bool) (e : TlbEntry) : Bool :=
  (pin || !e.pinned) && (match kind with
    | 0 => e.maps asid va
    | 1 => e.asid == asid
    | _ => true)

/-- The entries of every TLB of the package that a test names. -/
def State.tlbEntries (s : State) (p : TlbEntry → Bool) : List TlbEntry :=
  ((s.yards.flatMap (fun e => e.2.tlb)) ++ (s.cores.flatMap (fun e => e.2.utlb))
    ++ s.dev.engines.flatMap (fun e => e.2.tlb)).filter p

/-- The key and the address of a held effect that has taken its translation (R382). -/
def HoldItem.places : HoldItem → List (Nat × Nat)
  | .store sts _ => sts.map (fun h => (h.key, h.va.toNat))
  | .atomic key va _ _ _ _ _ _ => [(key, va.toNat)]
  | .cadd key va _ _ => [(key, va.toNat)]
  | .msg _ _ _ => []

/-- The accesses of a strand that have taken their translation and have not been made, its stores in the store buffer, a pair
buffer, a hold or the commit buffer, and those whose data has not returned. -/
def Strand.places (x : Strand) : List (Nat × Nat) :=
  ((x.storeBuf ++ (match x.pair with
      | some p => p.buf
      | none => []) ++ x.arch.held.flatten).filter (fun h => h.mark.isNone)).map (fun h => (h.key, h.va.toNat))
    ++ (match x.act with
      | some a => a.hold.flatMap HoldItem.places
      | none => [])
    ++ x.pending.flatMap (fun p => p.uses)

/-- Whether a use of one of some removed entries is in flight (R357): an access that took its translation from it. -/
def State.usesOf (s : State) (gone : List TlbEntry) : Bool :=
  s.strands.any (fun x => x.places.any (fun g => gone.any (fun e => e.vpage == g.2 / 2 ^ e.bits && e.key g.2 == g.1)))

/-- Entries removed from every TLB of the package (R357, R360). -/
def invalidateTlbs (p : TlbEntry → Bool) : Act Unit := do
  let s ← getS
  forAll (s.yards.filter (fun e => e.2.tlb.any p)) (fun e => modifyYard e.1 (fun Y => { Y with tlb := Y.tlb.filter (fun t => !p t) }))
  forAll (s.cores.filter (fun e => e.2.utlb.any p)) (fun e => modifyCore e.1 (fun c => { c with utlb := c.utlb.filter (fun t => !p t) }))
  if s.dev.engines.any (fun e => e.2.tlb.any p) then
    modifyDev (fun d => { d with engines := d.engines.map (fun e => (e.1, { e.2 with tlb := e.2.tlb.filter (fun t => !p t) })) })
  else pure ()

/-- The removed entries that a strand's TLBINV waits for (R360 step 3). -/
def State.tlbWait (s : State) (p : Pos) : Option (List TlbEntry) :=
  (s.dev.tlbWaits.find? (fun e => e.1 == p)).map (fun e => e.2)

/-- The steps of TLBINV (R360): FENCE.FULL.D, the removal, and the wait until no use of the removed entries is in flight. A strand
that waits has made the first two. -/
def invalidateAndWait (p : TlbEntry → Bool) : Act Unit := do
  let s ← getS
  match s.tlbWait s.me.pos with
  | some gone =>
    if s.usesOf gone then stall
    else modifyDev (fun d => { d with tlbWaits := d.tlbWaits.filter (fun e => e.1 != s.me.pos) })
  | none => do
    fenceFullForm 2
    let gone := s.tlbEntries p
    invalidateTlbs p
    if s.usesOf gone then do
      modifyDev (fun d => { d with tlbWaits := d.tlbWaits ++ [(s.me.pos, gone)] })
      suspendKeeping .stalled
    else pure ()

/-- TLBINV. -/
def tlbinvForm (a b : BitVec 5) : Act Unit := do
  needSup
  needHeavy
  let va ← rdS a
  let c ← rdS b
  let kind := (c.extractLsb' 16 2).toNat
  if c.extractLsb' 19 45 ≠ 0#45 || kind = 3 then raise 0x01 0
  else do
    invalidateAndWait (tlbNamed kind (c.extractLsb' 0 16) va.toNat (c.getLsbD 18))

/-- Whether an address space is live: ASID 0 is always (R343). -/
def State.isLive (s : State) (a : BitVec 16) : Bool := a == 0#16 || (s.space a).isSome

/-- The strand's address space switched (R361). -/
def switchTo (asid : BitVec 16) (pasid : BitVec 20) (tenant : BitVec 4) : Act Unit :=
  modifyMe (fun x => { x with modes := { x.modes with asid := asid, pasid := pasid, tenant := tenant }, fetchBuf := [] })

/-- Whether a strand is of an address space: it runs there, or its handler has taken it elsewhere (R361). -/
def Strand.ofSpace (x : Strand) (a : BitVec 16) : Bool := x.modes.asid == a || (x.st.migt && x.trapAsid.1 == a)

/-- Whether a strand of an address space is placed or saved (R361). -/
def State.asidInUse (s : State) (a : BitVec 16) : Bool :=
  s.strands.any (fun x => x.run != .empty && x.ofSpace a) || s.dev.saved.any (fun v => v.strands.any (fun x => x.ofSpace a))

/-- The device without an address space, and without its page requests (R361). -/
def Dev.forgetSpace (d : Dev) (a : BitVec 16) : Dev :=
  { d with
    pageReqs := d.pageReqs.filter (fun r => r.asid != a)
    pageFaults := d.pageFaults.filter (fun r => r.1 != a)
    spaces := d.spaces.filter (fun x => x.asid != a) }

/-- The teardown of an address space (R361): its tiles close, TLBINV, its page requests end, and nothing waits on them. -/
def tearDown (a : BitVec 16) : Act Unit := do
  let s ← getS
  forAll (s.dev.tiles.filter (fun t => t.asid == a)) closeTileQuietly
  let s ← getS
  if s.dev.tiles.any (fun t => t.asid == a) then suspendKeeping .stalled
  else do
    invalidateAndWait (tlbNamed 1 a 0 true)
    modifyDev (fun d => d.forgetSpace a)

/-- ASWCH. ASID 0 has PASID 0 and tenant 0, and stands outside the check of PASIDs in use (DESIGN CHOICE, log entry 91). -/
def aswchForm (d a : BitVec 5) : Act Unit := do
  needSup
  needHeavy
  let w ← rdS a
  claim (.s d)
  let s ← getS
  let asid := w.extractLsb' 0 16
  let pasid := w.extractLsb' 16 20
  let tenant := w.extractLsb' 36 4
  let op := (w.extractLsb' 40 2).toNat
  if w.extractLsb' 42 22 ≠ 0#22 || op = 3 then raise 0x01 0
  else if op = 0 then
    if !s.isLive asid then fail d 1
    else do
      let sp := s.spaceOf asid
      switchTo asid sp.pasid sp.tenant
      succeed d 1
  else if op = 1 then
    if s.isLive asid || s.dev.spaces.any (fun x => x.tenant == tenant && x.pasid == pasid && x.asid != 0#16) then fail d 2
    else do
      modifyDev (fun d => d.putSpace ⟨asid, pasid, tenant, 0, 0, 0⟩)
      switchTo asid pasid tenant
      succeed d 1
  else if asid = 0#16 || !s.isLive asid || asid = s.me.modes.asid then fail d 3
  else if s.asidInUse asid then fail d 4
  else if s.dev.engines.any (fun e => e.2.queue.any (fun t => t.asid == asid)) then stall
  else do
    tearDown asid
    succeed d 1

def execTlbw (d a b : BitVec 5) (sp : SafePoint) := instr false true sp (tlbwForm d a b)
def execTlbinv (a b : BitVec 5) (sp : SafePoint) := instr false true sp (tlbinvForm a b)
def execAswch (d a : BitVec 5) (sp : SafePoint) := instr false true sp (aswchForm d a)

/-! ### LAUNCH, SWOUT, SWIN (R407, R408) -/

/-- Records an overflow area holds when full (R396). -/
def Grid.ovfRecords (g : Grid) : Nat := (g.ovfsize - 64) / 64

/-- The key of a byte of an overflow area. -/
def State.ovfKey (s : State) (g : Grid) (off : Nat) : Option Nat :=
  (s.devicePage g.asid (g.ovf.toNat + off)).map (fun p => p * 4096 + (g.ovf.toNat + off) % 4096)

/-- LAUNCH and LAUNCH.T. Where the page of an overflow area's next record has no translation the record is not written, and WRITTEN still
counts it (DESIGN CHOICE, log entry 93). -/
def launchForm (quiet : Bool) (d a : BitVec 5) : Act Unit := do
  let va ← rdS a
  claim (.s d)
  if va.extractLsb' 0 6 ≠ 0#6 then raise 0x14 va
  else do
    let rec_ ← loadMem va 64 30 none
    releaseWhole 2
    let s ← getS
    let x := s.me
    let Y := s.yard x.pos.yidx
    let grid := (s.team x.tid).bind (fun t => s.grid t.grid)
    let ovf := grid.bind (fun g => (s.overflow g).map (fun o => (g, o)))
    let waiting := match ovf with
      | some (_, w, dr, _) => w - dr
      | none => 0
    if !(Record.of rec_).valid x.modes.tenant then fail d 4
    else if waiting = 0 && Y.dlq.length < 64 then do
      emit (.yard x.pos.yidx { Y with dlq := Y.dlq ++ [⟨rec_, x.modes.asid, (grid.map (fun g => g.gid)).getD 0⟩] })
      succeed d 1
    else
      match ovf with
      | some (g, w, _, hdr) =>
        if waiting < g.ovfRecords then do
          match s.ovfKey g (64 + 64 * (w % g.ovfRecords)) with
          | some k => emit (.mem k rec_)
          | none => pure ()
          emit (.mem hdr (leBytes 8 (w + 1)))
          succeed d 2
        else if quiet then fail d 2
        else do
          setReason 2
          raiseKeeping 0x38 va
      | none =>
        if quiet then fail d 2
        else do
          setReason 2
          raiseKeeping 0x38 va

def execLaunch (d a : BitVec 5) (sp : SafePoint) := instr false true sp (launchForm false d a)
def execLaunchT (d a : BitVec 5) (sp : SafePoint) := instr false true sp (launchForm true d a)

/-- SWOUT. -/
def swoutForm (d a : BitVec 5) : Act Unit := do
  needSup
  needHeavy
  let v ← rdS a
  claim (.s d)
  let s ← getS
  if v.extractLsb' 32 32 ≠ 0#32 then fail d 4
  else
    match (s.residents s.me.pos.yidx).find? (fun t => t.tid == v.toNat) with
    | none => fail d 1
    | some t =>
      if s.delivered t.tid then fail d 2
      else do
        if t.where_ = .placed then startSwap t.tid else pure ()
        succeed d 1

/-- SWIN. -/
def swinForm (d a : BitVec 5) : Act Unit := do
  needSup
  needHeavy
  let v ← rdS a
  claim (.s d)
  let s ← getS
  if v.extractLsb' 32 32 ≠ 0#32 then fail d 4
  else
    match s.pendingTeams.find? (fun e => e.1.tid == v.toNat && e.1.where_ == .saved) with
    | none => fail d 1
    | some (t, g) =>
      if !s.fits s.me.pos.yidx t g then fail d 3
      else do
        placeTeam t g s.me.pos.yidx
        succeed d 1

def execSwout (d a : BitVec 5) (sp : SafePoint) := instr false true sp (swoutForm d a)
def execSwin (d a : BitVec 5) (sp : SafePoint) := instr false true sp (swinForm d a)

/-! ### RDCFG (R391) -/

/-- Whether a tree has traffic in flight or a round open (R391). -/
def State.treeBusy (s : State) (k : Nat) : Bool :=
  s.dev.trees.any (fun e => e.1 == k && !e.2.bufs.isEmpty) || s.dev.net.any (fun p => match p.body with
    | .vector t _ => t == k
    | _ => false)

/-- Whether a message of a route class is on its way. -/
def State.classBusy (s : State) (c : Nat) : Bool :=
  s.dev.msgs.any (fun m => m.cls.toNat == c) || s.dev.answers.any (fun a => a.cls.toNat == c)
    || s.dev.net.any (fun k => match k.body with
      | .message m => m.cls.toNat == c
      | .answer a => a.cls.toNat == c
      | .vector _ _ => false
      | .traffic _ => false)
    || s.yards.any (fun e => e.2.heldMsgs.any (fun m => m.cls.toNat == c))

/-- The bytes of root slot `k` of a yard, at the highest granule (R229). -/
def rootSlot (y k : Nat) : Nat := yardKey y (1023 * 4096 + 64 * k)

/-- RDCFG. A total that has not been read stays where the tree is configured anew with the same root, and goes with another one (DESIGN
CHOICE, log entry 92). -/
def rdcfgForm (d a b : BitVec 5) : Act Unit := do
  needSup
  let w ← rdS a
  let v ← rdS b
  claim (.s d)
  let s ← getS
  if w.getLsbD 9 then
    let c := (w.extractLsb' 0 4).toNat
    if w.extractLsb' 5 4 ≠ 0#4 || w.extractLsb' 10 6 ≠ 0#6 || w.extractLsb' 32 32 ≠ 0#32 || v ≠ 0 then fail d 4
    else if s.classBusy c then fail d 2
    else do
      modifyDev (fun d => { d with routes := assocSet d.routes c ⟨w.getLsbD 4, w.extractLsb' 16 16⟩ })
      succeed d 1
  else
    let k := (w.extractLsb' 0 3).toNat
    let members := (List.range 56).filter (fun y => v.getLsbD y)
    let root := (w.extractLsb' 10 6).toNat
    let old := (s.dev.trees.find? (fun e => e.1 == k)).map (fun e => e.2)
    if w.extractLsb' 16 16 ≠ 0#16 || w.extractLsb' 36 28 ≠ 0#28 || v.extractLsb' 56 8 ≠ 0#8 || 5 ≤ (w.extractLsb' 4 3).toNat
        || w.extractLsb' 7 2 = 3#2 || !s.isYard root || members.any (fun y => !s.isYard y) || members.isEmpty then fail d 4
    else if s.treeBusy k then fail d 2
    else if w.getLsbD 3 then do
      modifyDev (fun d =>
        { d with
          trees := assocSet d.trees k
            { typ := (w.extractLsb' 4 3).toNat, op := (w.extractLsb' 7 2).toNat, root := root, tenant := w.extractLsb' 32 4,
              members := members, bufs := [], total := old.bind (fun t => if t.root = root then t.total else none),
              devices := [] } })
      succeed d 1
    else do
      modifyDev (fun d => { d with trees := d.trees.filter (fun e => e.1 != k) })
      succeed d 1

def execRdcfg (d a b : BitVec 5) (sp : SafePoint) := instr false true sp (rdcfgForm d a b)

end Sys2Proof.Machine
end

