-- ==== Sys2Proof/Machine/Handles.lean ====
section
/-! DEFINITION. Meanings of the tenure forms, major 0x35 (R281-R288). -/
namespace Sys2Proof.Machine

/-! ### Intents -/

/-- An intent replaced, or cleared (R270). -/
def Dev.setIntent (d : Dev) (t : TileObj) (tid agent : Nat) (k : Option Tenure) : Dev :=
  let rest := d.intents.filter (fun i => !(i.asid == t.asid && i.index == t.index && i.tid == tid && i.agent == agent))
  { d with intents := match k with
    | some k => rest ++ [⟨t.asid, t.index, tid, agent, k⟩]
    | none => rest }

/-! ### TOPEN, TCLOSE (R282, R283) -/

/-- Whether every home of a list of regions has room for their registrations (R266). -/
def State.canRegister (s : State) (asid : BitVec 16) (rs : List Nat) : Bool :=
  rs.all (fun r => s.registrations (homeOf asid r) + rs.countP (fun q => homeOf asid q == homeOf asid r) ≤ 4096)

/-- K.HTFREE after its head entry is taken (R264). -/
def Space.taken (x : Space) (next : Nat) : Space :=
  { x with htfree := if x.count = 1 then htfreeOf 0 0 0 else htfreeOf next x.tail (x.count - 1) }

/-- TOPEN. -/
def topenForm (d a : BitVec 5) : Act Unit := do
  let va ← rdS a
  claim (.s d)
  if va.extractLsb' 0 6 ≠ 0#6 then raise 0x14 va
  else do
    let bytes ← loadMem va 64 30 none
    let x ← getMe
    match Desc.ofBytes bytes with
    | none => fail d 4
    | some ds => do
      let s ← getS
      let rs := ds.regions 0 ds.outerExt
      let sp := s.spaceOf x.modes.asid
      if ds.meets apertureBase (apertureBase + apertureSize) then fail d 5
      else if 64 < rs.length then fail d 2
      else if 20 < sp.log2n || sp.count = 0 then fail d 3
      else do
        let _ ← entryKey x.who sp.head .load
        let key ← entryKey x.who sp.head .store
        let s ← getS
        if !s.canRegister x.modes.asid rs then fail d 1
        else do
          let g := s.entryGen key
          drainTile x.modes.asid ds
          emit (.mem key bytes)
          modifyDev (fun dv =>
            { dv.putSpace (sp.taken (s.entryNext key)) with
              tiles := dv.tiles ++
                [{ asid := x.modes.asid, index := sp.head, gen := BitVec.ofNat 12 g, desc := ds,
                   pieces := [⟨0, ds.outerExt, []⟩], regions := rs, forced := false, owner := x.tid, closing := false }] })
          succeed d (BitVec.ofNat 64 (g * 2 ^ 20 + sp.head))

/-- TCLOSE. -/
def tcloseForm (a : BitVec 5) : Act Unit := do
  let h ← rdS a
  let x ← getMe
  let t ← checkHandle x.who h
  translateAndClose x.who t

/-! ### TACQ, TREL (R284, R285) -/

/-- What a TACQ asks: its own range, granted, and that overlapping tiles give way (R269, R271). -/
def State.tacqAsks (s : State) (t : TileObj) (k : Tenure) (lo hi : Nat) : List TenAsk :=
  ⟨t, k, [(lo, hi)], true⟩ :: (s.overlapping t [(lo, hi)]).map (fun e => ⟨e.1, k, e.2, false⟩)

/-- TACQ: it waits while the homes serve its requests, and ends with the grant (R271, R272). -/
def tacqForm (k : Tenure) (a b : BitVec 5) : Act Unit := do
  let h ← rdS a
  let r ← rdS b
  let x ← getMe
  let t ← checkHandle x.who h
  let (lo, hi, agent) ← rangeOf x.pos t r
  let s ← getS
  let mine := s.reqsOf x.pos .tacq
  if mine.any (fun q => !q.done) then stall
  else do
    let asks := s.tacqAsks t k lo hi
    let d := (s.dev.setIntent t x.tid agent (some k)).dropReqs x.pos .tacq
    if s.meetable x.pos .tacq agent (!mine.isEmpty) asks then emit (.dev (d.grantAll agent asks))
    else suspendAs .stalled [.dev { d with tenReqs := d.tenReqs ++ askFor x.pos .tacq lo agent asks }]

/-- The pieces of a range after TREL's splits (R285). -/
def TileObj.cutRange (t : TileObj) (lo hi : Nat) : TileObj := (t.meeting [(lo, hi)]).foldl (fun t p => t.cutPiece p lo hi) t

/-- TREL. -/
def trelForm (a b : BitVec 5) : Act Unit := do
  let h ← rdS a
  let r ← rdS b
  let x ← getMe
  let t ← checkHandle x.who h
  let (lo, hi, agent) ← rangeOf x.pos t r
  modifyDev (fun d => d.setIntent t x.tid agent none)
  let s ← getS
  if s.dev.intents.any (fun i => i.asid == t.asid && i.index == t.index && i.agent == agent) then pure ()
  else do
    let t' := t.cutRange lo hi
    let mine := (t'.meeting [(lo, hi)]).filter (fun p => (p.kindOf agent).isSome)
    forAll (mine.filter (fun p => p.kindOf agent != some .a)) (fun p => dropPieceLines t' agent p.lo p.hi)
    modifyDev (fun d => d.putTile
      { t' with pieces := t'.pieces.map (fun p => if p.meets [(lo, hi)] then p.setKind agent none else p) })

/-! ### TSPLIT, TQRY, TDESC (R286-R288) -/

/-- The pieces that TSPLIT makes. -/
def splitPieces (e k : Nat) : List Piece :=
  (List.range k).map (fun j => ⟨j * (e / k), if j + 1 = k then e else (j + 1) * (e / k), []⟩)

/-- TSPLIT. -/
def tsplitForm (d a b : BitVec 5) : Act Unit := do
  let h ← rdS a
  let v ← rdS b
  claim (.s d)
  let x ← getMe
  let t ← checkHandle x.who h
  let e := t.desc.outerExt
  let k := v.toNat
  if !t.desc.split then fail d 1
  else if k = 0 || 16 < k || e < k then fail d 2
  else do
    recallAll t
    modifyDev (fun dv =>
      { dv with
        tiles := dv.tiles.map (fun u => if u.asid = t.asid && u.index = t.index then { u with pieces := splitPieces e k } else u) })
    succeed d 1

/-- The code of a kind (R287). -/
def kindCode : Option Tenure → Nat
  | none => 0
  | some .s => 1
  | some .w => 2
  | some .a => 3

/-- TQRY. -/
def tqryForm (d a b : BitVec 5) : Act Unit := do
  let h ← rdS a
  let v ← rdS b
  claim (.s d)
  let x ← getMe
  let t ← checkHandle x.who h
  let s ← getS
  let ps := t.pieces.mergeSort (fun p q => p.lo ≤ q.lo)
  let agent := agentOf x.pos
  match ps[(v.extractLsb' 0 4).toNat]? with
  | none => wrS d (BitVec.ofNat 64 (ps.length % 32))
  | some p =>
    wrS d (BitVec.ofNat 64
      (ps.length % 32 + (if t.forced then 2 ^ 5 else 0) + kindCode (p.kindOf agent) * 2 ^ 6
        + kindCode (s.intent t agent x.tid) * 2 ^ 8 + p.lo % 2 ^ 32 * 2 ^ 16 + p.held.length % 256 * 2 ^ 48))

/-- The 64 bytes of a registered descriptor (R261). -/
def Desc.bytes (d : Desc) : List Byte :=
  leBytes 8 d.base ++ (List.range 4).flatMap (fun k => leBytes 4 (d.extent k))
    ++ [1, 2, 3].flatMap (fun k => leBytes 8 (d.stride k)) ++ leBytes 1 d.eszl2 ++ leBytes 1 d.rank ++ leBytes 1 d.flags
    ++ List.replicate 13 0

/-- TDESC. -/
def tdescForm (d a b : BitVec 5) : Act Unit := do
  let h ← rdS a
  let v ← rdS b
  claim (.s d)
  let x ← getMe
  let t ← checkHandle x.who h
  wrS d (BitVec.ofNat 64 (leValue ((t.desc.bytes.drop (8 * (v.extractLsb' 0 3).toNat)).take 8)))

def execTopen (d a : BitVec 5) (sp : SafePoint) := instr false true sp (topenForm d a)
def execTclose (a : BitVec 5) (sp : SafePoint) := instr false true sp (tcloseForm a)
def execTacqS (a b : BitVec 5) (sp : SafePoint) := instr false true sp (tacqForm .s a b)
def execTacqW (a b : BitVec 5) (sp : SafePoint) := instr false true sp (tacqForm .w a b)
def execTacqA (a b : BitVec 5) (sp : SafePoint) := instr false true sp (tacqForm .a a b)
def execTrel (a b : BitVec 5) (sp : SafePoint) := instr false true sp (trelForm a b)
def execTsplit (d a b : BitVec 5) (sp : SafePoint) := instr false true sp (tsplitForm d a b)
def execTqry (d a b : BitVec 5) (sp : SafePoint) := instr false true sp (tqryForm d a b)
def execTdesc (d a b : BitVec 5) (sp : SafePoint) := instr false true sp (tdescForm d a b)

end Sys2Proof.Machine
end

