-- ==== Sys2Proof/Machine/Sending.lean ====
section
/-! DEFINITION. Meanings of the messages, mailboxes and reduction trees, major 0x3C (R382-R390). -/
namespace Sys2Proof.Machine

/-! ### MSEND (R386) -/

/-- A refusal: MSEND.T returns it, MSEND traps with its REASON written (R93). -/
def refuse (quiet : Bool) (d : BitVec 5) (w : Word) (c : Nat) : Act Unit :=
  if quiet then fail d c
  else do
    setReason c
    raiseKeeping 0x38 w

/-- The payload of a message, after the release. -/
def messagePayload (w pa : Word) : Act (List Byte) := do
  releaseWhole 2
  loadMem pa (destLen w) 30 none

/-- MSEND outside a hold: it waits for the answer (R386). -/
def sendNow (quiet : Bool) (d : BitVec 5) (w pa : Word) : Act Unit := do
  let x ← getMe
  match x.sent with
  | some _ =>
    if x.answers.isEmpty then suspendAs .answerWait []
    else do
      let c := x.answerOf 0
      modifyMe (fun x => { x with sent := none, answers := [] })
      if c = 0 then succeed d 1 else refuse quiet d w c
  | none => do
    let p ← messagePayload w pa
    let s ← getS
    if !s.maySend s.me (destClass w) then refuse quiet d w 3
    else do
      modifyDev (s.sendMsg (s.message w p 0))
      modifyMe (fun x => { x with sent := some 1, answers := [] })
      suspendKeeping .answerWait

/-- MSEND and MSEND.T. -/
def msendForm (quiet : Bool) (d a b : BitVec 5) : Act Unit := do
  let w ← rdS a
  let pa ← rdS b
  claim (.s d)
  let s ← getS
  if destClass w = 15#4 && !s.me.st.sup then raise 0x04 0
  else if !s.destOk w then fail d 4
  else if pa.extractLsb' 0 3 ≠ 0#3 then raise 0x14 pa
  else if s.me.holding then do
    holdRoom false
    let p ← messagePayload w pa
    modifyMe (fun x => x.hold (.msg w p (!quiet)))
    succeed d 1
  else sendNow quiet d w pa

def execMsend (d a b : BitVec 5) (sp : SafePoint) := instr false true sp (msendForm false d a b)
def execMsendT (d a b : BitVec 5) (sp : SafePoint) := instr false true sp (msendForm true d a b)

/-! ### MMASK, MBOX, MDONE (R387-R389) -/

/-- MMASK. -/
def mmaskForm (d a b : BitVec 5) : Act Unit := do
  let ch ← rdS a
  let v ← rdS b
  claim (.s d)
  let old ← teamReg (lowMask 15) (fun t _ => t.mmask.zeroExtend 64)
  let x ← getMe
  let c := ch.extractLsb' 0 15
  modifyTeam x.tid (fun t => { t with mmask := (t.mmask &&& ~~~c) ||| (c &&& v.extractLsb' 0 15) })
  wrS d old

/-- MBOX configures. -/
def mboxOn (d : BitVec 5) (cls : BitVec 4) (size : Nat) (va entry : Word) : Act Unit := do
  let s ← getS
  let x := s.me
  let off := va.toNat - apertureBase
  if size < 512 || 65536 < size then fail d 4
  else if va.extractLsb' 0 6 ≠ 0#6 then raise 0x14 va
  else if entry.extractLsb' 0 2 ≠ 0#2 then raise 0x14 entry
  else if !inAperture va.toNat || s.allotment x.tid < off + size then fail d 3
  else if ((s.yard x.pos.yidx).mailbox cls).isSome then fail d 2
  else do
    if s.windowHeld x.tid off size then stall else pure ()
    let m : Mailbox := ⟨cls, x.tid, off, size, entry, [], false⟩
    modifyYard x.pos.yidx (fun Y => { Y with mailboxes := Y.mailboxes ++ [m] })
    modifyTeam x.tid (fun t => { t with homeYard := some x.pos.yidx })
    writeTeam x.tid 2 off ((MbCtl.mk 64 64 0 0 0).bytes ++ List.replicate 32 0)
    succeed d 1

/-- MBOX removes: records that have not started are dropped and counted. -/
def mboxOff (d : BitVec 5) (cls : BitVec 4) : Act Unit := do
  let s ← getS
  let x := s.me
  let y := x.pos.yidx
  match (s.yard y).mailbox cls with
  | none => fail d 5
  | some m =>
    if m.tid ≠ x.tid then fail d 5
    else if m.running || s.windowHeld m.tid m.mb m.size then stall
    else do
      if m.unstarted.isEmpty then pure () else countRefused m m.unstarted.length
      modifyYard y (fun Y => { Y with mailboxes := Y.mailboxes.filter (fun m => m.cls != cls) })
      let s ← getS
      if (s.yard y).mailboxes.any (fun m => m.tid == x.tid) then pure ()
      else modifyTeam x.tid (fun t => { t with homeYard := none })
      succeed d 1

/-- MBOX. -/
def mboxForm (d a b : BitVec 5) : Act Unit := do
  let w ← rdS a
  let va ← rdS b
  let entry ← rdS (b + 1)
  claim (.s d)
  let x ← getMe
  let cls := w.extractLsb' 0 4
  if w.extractLsb' 5 3 ≠ 0#3 || w.extractLsb' 19 45 ≠ 0#45 then fail d 4
  else if cls = 15#4 && !x.st.sup then raise 0x04 0
  else if w.getLsbD 4 then mboxOn d cls (64 * (w.extractLsb' 8 11).toNat) va entry
  else mboxOff d cls

/-- MDONE. -/
def mdoneForm (d : BitVec 5) : Act Unit := do
  claim (.s d)
  let x ← getMe
  if x.holding then do
    let (n, bad) ← mdoneSteps
    wrS d (BitVec.ofNat 64 n)
    match bad with
    | some (_, dst) => raiseKeeping 0x38 dst
    | none => pure ()
  else succeed d 0

def execMmask (d a b : BitVec 5) (sp : SafePoint) := instr false true sp (mmaskForm d a b)
def execMbox (d a b : BitVec 5) (sp : SafePoint) := instr false true sp (mboxForm d a b)
def execMdone (d : BitVec 5) (sp : SafePoint) := instr false true sp (mdoneForm d)

/-! ### RDSEND, RDRECV (R390) -/

/-- A tree by its number. -/
def Dev.tree (d : Dev) (k : BitVec 3) : Option Tree := (d.trees.find? (fun e => e.1 == k.toNat)).map (fun e => e.2)

/-- RDSEND: a second vector of a round enters the next one, and a third waits (R384). -/
def rdsendForm (d : BitVec 5) (k : BitVec 3) (b : BitVec 5) : Act Unit := do
  let v ← rdV b
  claim (.s d)
  let s ← getS
  let x := s.me
  match s.dev.tree k with
  | none => fail d 1
  | some t =>
    if t.tenant ≠ x.modes.tenant || !t.members.contains x.pos.yidx then fail d 2
    else if 2 ≤ t.bufs.countP (fun e => e.1 == s.yardStop x.pos.yidx && e.2.1 == 0) then stall
    else do
      releaseWhole 2
      modifyDev (fun dv =>
        { dv with trees := assocSet dv.trees k.toNat { t with bufs := t.bufs ++ [(s.yardStop x.pos.yidx, 0, v)] } })
      succeed d 1

/-- RDRECV. -/
def rdrecvForm (d : BitVec 5) (k : BitVec 3) (b : BitVec 5) (la : BitVec 4) : Act Unit := do
  let timeout ← rdS b
  claim (.v d)
  let w ← waitOf .rdrecv timeout
  let s ← getS
  let x := s.me
  match s.dev.tree k with
  | none => do
    endWait
    setReason 1
  | some t =>
    if t.tenant ≠ x.modes.tenant || t.root ≠ x.pos.yidx then do
      endWait
      setReason 2
    else
      match t.total with
      | some v => do
        endWait
        modifyDev (fun dv => { dv with trees := assocSet dv.trees k.toNat { t with total := none } })
        setReason 0
        acquireLater 2
        deliver la true [.v d v]
      | none =>
        if w.over s.cycle then do
          endWait
          setReason 3
        else waitOn w none

def execRdsend (d : BitVec 5) (k : BitVec 3) (b : BitVec 5) (sp : SafePoint) := instr false true sp (rdsendForm d k b)
def execRdrecv (d : BitVec 5) (k : BitVec 3) (b : BitVec 5) (la : BitVec 4) (sp : SafePoint) :=
  instrA (opens (.rdrecv d k b 0 none) la [.v d] true) false true sp (rdrecvForm d k b la)

end Sys2Proof.Machine
end

