-- ==== Sys2Proof/Machine/Copy.lean ====
section
/-! DEFINITION. Copy engines (R306, R409-R419): meanings of CPY, CPYT and CPYQ, and how a transfer moves its bytes, one
destination line after another. -/
namespace Sys2Proof.Machine

/-! ### Issue (R410, R414, R416-R418) -/

/-- The engine of a paddock with the shortest queue, if one has room (R410). -/
def State.pickEngine (s : State) (y : Nat) : Option Nat :=
  let p := s.yardStop y / 16
  (bestBy (fun b a => (s.engine b).queue.length < (s.engine a).queue.length)
    ((List.range 8).map (fun k => 8 * p + k))).bind
    (fun e => if (s.engine e).queue.length < 16 then some e else none)

/-- Fields of a control word (R416) and of a completion word (R414). -/
def ctlDir (w : Word) : Nat := (w.extractLsb' 42 2).toNat
def ctlDev (w : Word) : Nat := (w.extractLsb' 48 16).toNat
def compAddr (c : Word) : Nat := (c.extractLsb' 3 53).toNat * 8

/-- Whether a completion word is in order (R414). -/
def compOk (w c : Word) : Bool :=
  c == 0 || (!c.getLsbD 2 && c.extractLsb' 56 8 == 0#8 && (!c.getLsbD 1 || (ctlDir w == 1 && !c.getLsbD 0))
    && (!c.getLsbD 0 || (compAddr c % 64 == 0 && inAperture (compAddr c))))

/-- Whether a control word is in order (R416). -/
def ctlOk (w : Word) : Bool := w.extractLsb' 44 4 == 0#4 && ctlDir w != 3 && (ctlDir w != 0 || ctlDev w == 0)

/-- The next serial of an engine (R416). -/
def nextTicket (n : Nat) : Nat := if n + 1 < 2 ^ 40 then n + 1 else 1

/-- What a transfer asks of the tiles that its destination meets: W tenure on its exact set of bytes (R306, R418). -/
def State.engineAsks (s : State) (t : Transfer) : List TenAsk :=
  (s.dev.tiles.filter (fun u => u.asid == t.asid)).filterMap (fun u =>
    let spans := u.desc.spansOf t.dstRuns
    if spans.isEmpty then none else some ⟨u, .w, spans, true⟩)

/-- At its issue a transfer takes W tenure on its destination, or stands at the homes for it (R306, R412); a grant is registered
for it to its end. -/
def takeDestination (e : Nat) (t : Transfer) : Act Unit := do
  let s ← getS
  let l := s.engineAsks t
  let p := supPos t.yidx
  let b : ReqBy := .engine e t.serial
  let asks := askFor p b t.dst.toNat (128 + e) l
  if s.meetable p b (128 + e) false l then
    modifyDev (fun d =>
      { (d.grantAll (128 + e) l) with tenReqs := d.tenReqs ++ asks.map (fun r => { r with done := true }) })
  else modifyDev (fun d => { d with tenReqs := d.tenReqs ++ asks })

/-- The copies of a transfer's destination lines are written back and dropped, and its issuing yard's dirty bytes of its source
lines are written back (R306). -/
def drainForTransfer (t : Transfer) : Act Unit := do
  let s ← getS
  drainLines (fun line => s.locks t (line * 128) 128)
  let s ← getS
  forAll ((s.yard t.yidx).domain.filter (fun d => d.dirty != 0 && s.runsHit t.asid t.tid t.srcRuns (d.line * 128) 128)) (cleanLine t.yidx)

/-- A transfer queued: what CPY and CPYT share. -/
def queueTransfer (d : BitVec 5) (dst src w c : Word) (len : Nat) (dd sd : Option Desc) : Act Unit := do
  let s ← getS
  if !ctlOk w || !compOk w c then fail d 4
  else if ctlDir w ≠ 0 && !s.dev.links.any (fun l => l.2 == ctlDev w) then fail d 3
  else do
    releaseWhole 2
    let s ← getS
    let x := s.me
    match s.pickEngine x.pos.yidx with
    | none => fail d 1
    | some e => do
      let E := s.engine e
      let t : Transfer :=
        { serial := E.next, tid := x.tid, asid := x.modes.asid, yidx := x.pos.yidx, tenant := x.modes.tenant, dst := dst,
          src := src, ctl := w, comp := c, len := len, dstDesc := dd, srcDesc := sd, left := len, cursor := 0, line := none,
          state := 1, cause := 0, since := s.cycle, nudef := x.modes.nudef }
      modifyDev (fun dv => { dv with engines := assocSet dv.engines e { E with next := nextTicket E.next, queue := E.queue ++ [t] } })
      drainForTransfer t
      takeDestination e t
      succeed d (BitVec.ofNat 64 (e + E.next * 2 ^ 8))

/-- CPY. -/
def cpyForm (d a b : BitVec 5) : Act Unit := do
  let dst ← rdS a
  let src ← rdS (a + 1)
  let w ← rdS b
  let c ← rdS (b + 1)
  claim (.s d)
  queueTransfer d dst src w c (w.extractLsb' 0 32).toNat none none

/-- Bytes of a tile. -/
def Desc.size (d : Desc) : Nat := ((List.range d.rank).map d.extent).foldl (fun a b => a * b) (d.stride 0)

/-- A descriptor read by CPYT. -/
def readDesc (va : Word) : Act (Option Desc) := do
  if va.extractLsb' 0 6 ≠ 0#6 then raise 0x14 va
  else do
    let b ← loadMem va 64 30 none
    return Desc.ofBytes b

/-- CPYT. -/
def cpytForm (d a b : BitVec 5) : Act Unit := do
  let dst ← rdS a
  let src ← rdS (a + 1)
  let w ← rdS b
  let c ← rdS (b + 1)
  claim (.s d)
  let dd ← readDesc dst
  let sd ← readDesc src
  match dd, sd with
  | some dd, some sd =>
    if w.extractLsb' 0 32 ≠ 0#32 then fail d 4
    else if dd.eszl2 ≠ sd.eszl2 || dd.rank ≠ sd.rank || dd.ext ≠ sd.ext then fail d 5
    else queueTransfer d dst src w c dd.size (some dd) (some sd)
  | _, _ => fail d 4

/-- The transfers that an engine remembers (R419). -/
def Engine.remembered (E : Engine) : List Transfer :=
  let all := E.history ++ E.queue
  all.drop (all.length - 256)

/-- CPYQ. -/
def cpyqForm (d a : BitVec 5) : Act Unit := do
  let v ← rdS a
  claim (.s d)
  let s ← getS
  let n := (v.extractLsb' 8 40).toNat
  let found := if v.extractLsb' 5 3 = 0#3 && v.extractLsb' 48 16 = 0#16 then
      (s.engine (v.extractLsb' 0 5).toNat).remembered.find? (fun t => t.serial == n && t.asid == s.me.modes.asid)
    else none
  match found with
  | none => wrS d (BitVec.twoPow 64 34)
  | some t => wrS d (BitVec.ofNat 64 (t.left % 2 ^ 32 + t.state * 2 ^ 32 + t.cause % 256 * 2 ^ 40))

def execCpy (d a b : BitVec 5) (sp : SafePoint) := instr false true sp (cpyForm d a b)
def execCpyt (d a b : BitVec 5) (sp : SafePoint) := instr false true sp (cpytForm d a b)
def execCpyq (d a : BitVec 5) (sp : SafePoint) := instr false true sp (cpyqForm d a)

/-! ### What a transfer moves (R409, R412, R418) -/

/-- A transfer as the maker of accesses: its issuer's address space, with user permissions but in ASID 0. -/
def Transfer.who (e : Nat) (t : Transfer) : Who :=
  { pos := supPos t.yidx, asid := t.asid, sup := t.asid == 0#16, tid := t.tid, heavy := true, asker := .engine e }

/-- Bytes that a transfer moves together, which lie in one line at either end. -/
structure Part where
  dst : Nat
  src : Nat
  n : Nat
deriving DecidableEq, Repr

/-- A run cut at the lines of its two ends. -/
def cutParts : Nat → Nat → Nat → Nat → List Part
  | 0, _, _, _ => []
  | fuel + 1, d, s, n =>
    let m := min n (min (128 - d % 128) (128 - s % 128))
    if n = 0 then [] else ⟨d, s, m⟩ :: cutParts fuel (d + m) (s + m) (n - m)

/-- The runs that a transfer copies, at both ends, in ascending order: for a tile, its elements in the order of their indices. -/
def Transfer.runs (t : Transfer) : List Part :=
  match t.dstDesc, t.srcDesc with
  | some dd, some sd => ((dd.runs 0 dd.outerExt).zip (sd.runs 0 sd.outerExt)).map (fun e => ⟨e.1.1, e.2.1, e.1.2⟩)
  | _, _ => if t.len = 0 then [] else [⟨t.dst.toNat, t.src.toNat, t.len⟩]

/-- Whether a CPY's destination lies above an overlapping source (R409). -/
def Transfer.descends (t : Transfer) : Bool :=
  ctlDir t.ctl == 0 && t.dstDesc.isNone && t.src.toNat < t.dst.toNat && t.dst.toNat < t.src.toNat + t.len

/-- The parts of a transfer in the order in which it proceeds. A tile's elements move in ascending order, so that of an
overlapping source and destination an element is read before or after it is overwritten as that order has it: R418 leaves
which value is copied open (DESIGN CHOICE, log entry 62). -/
def Transfer.parts (t : Transfer) : List Part :=
  let l := t.runs.flatMap (fun r => cutParts (2 * (r.n / 128) + 4) r.dst r.src r.n)
  if t.descends then l.reverse else l

/-- Parts grouped by the destination line that they fill together. -/
def groupLines : List Part → List (List Part)
  | [] => []
  | p :: rest =>
    match groupLines rest with
    | (q :: g) :: gs => if q.dst / 128 = p.dst / 128 then (p :: q :: g) :: gs else [p] :: (q :: g) :: gs
    | gs => [p] :: gs

/-- The units of a transfer: each destination line is written once (R409). -/
def Transfer.units (t : Transfer) : List (List Part) := groupLines t.parts

/-- Bytes of parts. -/
def partBytes (l : List Part) : Nat := (l.map (fun p => p.n)).sum

/-! ### Where its bytes lie (R409, R413) -/

/-- What an engine finds at an address: a key, a failure, a miss of its TLB, or a host page without a translation. -/
inductive EngPlace where
  | at_ (key : Nat)
  | fault (cause : Nat)
  | walk
  | page (leaf : TlbEntry)
deriving DecidableEq, Repr

/-- The entry of an engine's TLB for an address, the host's translation of a page before its leaf. -/
def Engine.lookup (E : Engine) (asid : BitVec 16) (va : Nat) : Option TlbEntry :=
  let l := E.tlb.filter (fun x => x.maps asid va)
  (l.find? (fun x => x.ats)).orElse fun _ => l.head?

/-- Translation of an address for an engine (R346, R349, R355, R409, R413). -/
def State.engPlace (s : State) (e : Nat) (t : Transfer) (va : Nat) (k : Access) : EngPlace :=
  let miss := k.missCause.toNat
  if 2 ^ 56 ≤ va then .fault miss
  else if inAperture va then
    match (if va - apertureBase < s.allotment t.tid then s.teamKey t.tid (va - apertureBase) else none) with
    | some key => .at_ key
    | none => .fault miss
  else if t.asid = 0#16 then (if va < dramEnd then .at_ va else .fault miss)
  else
    match (s.engine e).lookup t.asid va with
    | some x =>
      match x.refuses false k with
      | some c => .fault c.toNat
      | none =>
        if !x.hostLeaf || (x.ats && x.hostGrants k) then .at_ (x.key va)
        else if s.dev.refusedPage t.asid (va / 4096) (.engine e) then .fault 0x16
        else .page x
    | none =>
      match (s.yard t.yidx).ended (.engine e) t.asid va with
      | none => if s.dev.refusedPage t.asid (va / 4096) (.engine e) then .fault 0x16 else .walk
      | some ⟨_, none⟩ => .fault miss
      | some ⟨_, some x⟩ =>
        match x.refuses false k with
        | some c => .fault c.toNat
        | none => if s.dev.refusedPage t.asid (va / 4096) (.engine e) then .fault 0x16 else .page x

/-- Both ends of a part: none for the end of a put or a get that lies on the other device. -/
structure PartPlace where
  part : Part
  dst : Option EngPlace
  src : Option EngPlace

def State.partPlace (s : State) (e : Nat) (t : Transfer) (p : Part) : PartPlace :=
  { part := p
    dst := if ctlDir t.ctl = 1 then none else some (s.engPlace e t p.dst .store)
    src := if ctlDir t.ctl = 2 then none else some (s.engPlace e t p.src .load) }

/-- The two ends of a part with their addresses and accesses. -/
def PartPlace.ends (p : PartPlace) : List (Nat × Access × EngPlace) :=
  (p.src.toList.map (fun x => (p.part.src, .load, x))) ++ p.dst.toList.map (fun x => (p.part.dst, .store, x))

/-- The key of an end. -/
def EngPlace.key : EngPlace → Option Nat
  | .at_ k => some k
  | _ => none

/-- Whether an end has still to be translated. -/
def EngPlace.misses : EngPlace → Bool
  | .walk => true
  | .page _ => true
  | _ => false

/-- The cause an end fails with. -/
def EngPlace.cause : EngPlace → Option Nat
  | .fault c => some c
  | _ => none

/-- Whether both ends of a part are translated. -/
def PartPlace.ready (p : PartPlace) : Bool := p.ends.all (fun x => x.2.2.key.isSome)

/-- The key of a part's source, and of its destination. -/
def PartPlace.srcKey (p : PartPlace) : Option Nat := p.src.bind EngPlace.key
def PartPlace.dstKey (p : PartPlace) : Option Nat := p.dst.bind EngPlace.key

/-- Whether a part reads poisoned bytes (R431). -/
def State.partPoisoned (s : State) (p : PartPlace) : Bool :=
  match p.srcKey with
  | some k => s.poisoned [(k, p.part.n)]
  | none => false

/-- The cause with which a unit of a transfer fails, in the order in which it proceeds (R413, R431). -/
def State.unitCause (s : State) (l : List PartPlace) : Option Nat :=
  l.findSome? (fun p => (p.ends.findSome? (fun x => x.2.2.cause)).orElse fun _ => if s.partPoisoned p then some 0x50 else none)

/-- Whether a part must wait: for the host link, for a rearrangement (R234), or for an access that a grant was made for (R272). -/
def State.partHeld (s : State) (e : Nat) (t : Transfer) (p : PartPlace) : Bool :=
  p.ends.any (fun x => match x.2.2.key with
    | some k => (isHostMem k && !s.dev.hostLinkUp) || s.skewBusyKey k p.part.n
    | none => false)
  || (p.srcKey.any isDram
    && s.graced (128 + e) (uncoveredAsks .s (s.touching t.asid (p.part.src / 128 * 128) 128)))
  || (p.dstKey.any isDram && s.graced (128 + e) (uncoveredAsks .w (s.touching t.asid p.part.dst p.part.n)))

/-! ### Its moves -/

/-- The caches of an engine's accesses: the slices alone (R411). -/
def Transfer.toucher (e : Nat) (t : Transfer) (nu : BitVec 5) : Toucher :=
  ⟨supPos t.yidx, t.tid, t.tenant, nu, t.nudef, true, none, some e⟩

/-- The bytes of a part's source, of which each line is read once, as an uncovered access where it is tiled (R412); and the
transfer, which keeps the line. -/
def readPart (e : Nat) (t : Transfer) (p : Part) (key : Nat) : Act (Transfer × List Byte) := do
  let cut := fun (l : List Byte) => (l.drop (p.src % 128)).take p.n
  match (match t.line with
      | some (l, bs) => if l = p.src / 128 then some bs else none
      | none => none) with
  | some bs => return (t, cut bs)
  | none => do
    let s ← getS
    let asks := if isDram key then uncoveredAsks .s (s.touching t.asid (p.src / 128 * 128) 128) else []
    recallAsks (128 + e) asks (holdersOf asks)
    if isYardMem key then pure () else sliceTouch (t.toucher e (t.ctl.extractLsb' 32 5)) key .read
    let s ← getS
    let bs := s.mem.readBytes (key - p.src % 128) 128
    return ({ t with line := some (p.src / 128, bs) }, cut bs)

/-- The sources of a unit, all read before its line is written; for a get, the bytes that the other device has sent. -/
def readUnit (e : Nat) (t : Transfer) : List PartPlace → List Byte → Act (Transfer × List (PartPlace × List Byte))
  | [], _ => return (t, [])
  | p :: rest, data => do
    let (t, bs) ← (match p.srcKey with
      | some k => readPart e t p.part k
      | none => return (t, data.take p.part.n))
    let (t, more) ← readUnit e t rest (data.drop p.part.n)
    return (t, (p, bs) :: more)

/-- The line of a unit written at its slice; every agent's copies of it go, and whatever tenure stands against it (R273, R306). -/
def writeUnit (e : Nat) (t : Transfer) (l : List (PartPlace × List Byte)) : Act Unit := do
  match l.findSome? (fun p => p.1.dstKey) with
  | none => pure ()
  | some k =>
    if isYardMem k then pure ()
    else do
      let s ← getS
      let asks := if isDram k then l.flatMap (fun p => uncoveredAsks .w (s.touching t.asid p.1.part.dst p.1.part.n)) else []
      recallAsks (128 + e) asks (holdersOf asks)
      drainLines (fun line => line == k / 128)
      sliceTouch (t.toucher e (t.ctl.extractLsb' 37 5)) k (.write (l.map (fun p => p.2.length)).sum)
  forAll l (fun p => match p.1.dstKey with
    | some k => do
      clearPoison k p.2.length
      emit (.mem k p.2)
    | none => pure ())

/-- An engine's TLB after it has used translations of addresses. -/
def Engine.used (E : Engine) (asid : BitVec 16) (vas : List Nat) : Engine :=
  { E with
    tlb := vas.foldl (fun l va => match { E with tlb := l }.lookup asid va with
      | some x => touchFront l x
      | none => l) E.tlb }

/-- A unit moved; the transfer after it. -/
def moveUnit (e : Nat) (t : Transfer) (l : List PartPlace) (data : List Byte) : Act Transfer := do
  let (t, read) ← readUnit e t l data
  writeUnit e t read
  modifyDev (fun d =>
    { d with engines := assocSet d.engines e ((assocGet Engine.reset d.engines e).used t.asid (l.flatMap (fun p => p.ends.map (fun x => x.1)))) })
  return { t with cursor := t.cursor + 1, left := t.left - partBytes (l.map (fun p => p.part)) }

/-- Destination blocks of poisoned source blocks, as a part writes them (R431). -/
def State.poisonCopied (s : State) (l : List PartPlace) : List Nat :=
  l.flatMap (fun p =>
    match p.srcKey, p.dstKey with
    | some src, some dst =>
      (s.dev.poison.filter (fun b => b * 64 < src + p.part.n && src < b * 64 + 64)).flatMap (fun b =>
        let lo := dst + (max src (b * 64) - src)
        let hi := dst + (min (src + p.part.n) (b * 64 + 64) - src)
        (List.range ((hi - 1) / 64 + 1 - lo / 64)).map (fun i => lo / 64 + i))
    | _, _ => [])

/-- A unit that reads poison, written as poisoned (R431). -/
def writePoisoned (e : Nat) (t : Transfer) (l : List PartPlace) : Act Unit := do
  let s ← getS
  let bad := s.poisonCopied l
  let (t, read) ← readUnit e t l []
  writeUnit e t read
  storePoison 14 bad

/-- The bytes of a failed transfer that were written beyond its last full line are unspecified (R413): a free choice for each. -/
def partialWrite (e : Nat) (t : Transfer) (c : Nat) : Nat → List PartPlace → List Byte → Act Nat
  | _, [], _ => return 0
  | i, p :: rest, data => do
    let s ← getS
    let bad := s.poisonCopied [p]
    let (t, bs) ← (match p.srcKey with
      | some k => readPart e t p.part k
      | none => return (t, data.take p.part.n))
    let picks := (List.range bs.length).filter (fun j => Config.freeChoice (c * 2 ^ 33 + i + j) % 2 == 1)
    forAll picks (fun j => match p.dstKey with
      | some k => writeUnit e t [({ p with dst := some (.at_ (k + j)) }, [bs.getD j 0])]
      | none => pure ())
    if picks.isEmpty then pure () else storePoison 14 bad
    let r ← partialWrite e t c (i + bs.length) rest (data.drop p.part.n)
    return picks.length + r

end Sys2Proof.Machine
end

