-- ==== Sys2Proof/Machine/Tiles.lean ====
section
/-! DEFINITION. Tiles, the format context, the granary and the sums of the matrix pipes (R36-R40, R190-R206, R216-R220). -/
namespace Sys2Proof.Machine

/-! ### Element types and configurations (R191, R192) -/

/-- The element-type codes. -/
def ElemTy.ofCode : Nat → Option ElemTy
  | 0 => some .f32 | 1 => some .f16 | 2 => some .bf16 | 3 => some .f64 | 4 => some .i8 | 5 => some .i32 | 6 => some .l6
  | _ => none

def ElemTy.code : ElemTy → Nat
  | .f32 => 0 | .f16 => 1 | .bf16 => 2 | .f64 => 3 | .i8 => 4 | .i32 => 5 | .l6 => 6

/-- Size of an element in a tile, and in memory but for L6. -/
def ElemTy.size : ElemTy → Nat
  | .f32 => 4 | .f16 => 2 | .bf16 => 2 | .f64 => 8 | .i8 => 1 | .i32 => 4 | .l6 => 1

/-- The float format of an element type; the others have none. -/
def ElemTy.fmt : ElemTy → Option FFmt
  | .f32 => some .f32 | .f16 => some .f16 | .bf16 => some .bf16 | .f64 => some .f64 | _ => none

/-- Bytes in memory of `n` elements in a row (R33). -/
def ElemTy.memBytes (t : ElemTy) (n : Nat) : Nat := if t = .l6 then 3 * n / 4 else t.size * n

/-- A configuration word read (R192); none if it is invalid. -/
def TileCfg.ofWord (w : Word) : Option TileCfg :=
  let rb8 := (w.extractLsb' 8 5).toNat
  if w.extractLsb' 4 4 ≠ 0#4 || w.extractLsb' 13 3 ≠ 0#3 || w.extractLsb' 19 45 ≠ 0#45 || rb8 = 0 || 24 < rb8 then none
  else (ElemTy.ofCode (w.extractLsb' 16 3).toNat).map (fun t => ⟨(w.extractLsb' 0 4).toNat + 1, 8 * rb8, t⟩)

/-- The configuration word in force (R221). -/
def TileCfg.word (c : TileCfg) : Nat := (c.rows - 1) + c.rb / 8 * 2 ^ 8 + c.et.code * 2 ^ 16

/-- Columns of a tile. -/
def TileCfg.cols (c : TileCfg) : Nat := c.rb / c.et.size

/-- Bytes of a row in memory. -/
def TileCfg.memRow (c : TileCfg) : Nat := c.et.memBytes c.cols

/-- Contents of a physical tile: row i at byte 192 i. -/
abbrev TileData := BitVec 24576

/-- Element (i, k) of a tile's contents. -/
def TileData.elem (t : TileData) (e i k : Nat) : Nat := t.toNat / 2 ^ (8 * (192 * i + e * k)) % 2 ^ (8 * e)

/-- Row i as elements. -/
def TileData.row (t : TileData) (c : TileCfg) (i : Nat) : List Nat := (List.range c.cols).map (fun k => TileData.elem t c.et.size i k)

/-- Contents with one element replaced. -/
def TileData.setElem (t : TileData) (e i k v : Nat) : TileData :=
  let sh := 8 * (192 * i + e * k)
  (t &&& ~~~(BitVec.ofNat 24576 ((2 ^ (8 * e) - 1) * 2 ^ sh))) ||| BitVec.ofNat 24576 (v % 2 ^ (8 * e) * 2 ^ sh)

/-- Contents from rows of elements. -/
def TileData.ofRows (e : Nat) (rows : List (List Nat)) : TileData :=
  BitVec.ofNat 24576 ((rows.zipIdx.map (fun r =>
    ((r.1.zipIdx.map (fun v => v.1 % 2 ^ (8 * e) * 2 ^ (8 * e * v.2))).sum) * 2 ^ (8 * 192 * r.2))).sum)

/-- The elements of bytes in memory form: packed codes for L6 (R33). -/
def ElemTy.fromMem (t : ElemTy) (n : Nat) (bytes : List Byte) : List Nat :=
  let v := leValue bytes
  let w := if t = .l6 then 6 else 8 * t.size
  (List.range n).map (fun i => v / 2 ^ (w * i) % 2 ^ w)

/-- Elements in memory form. -/
def ElemTy.toMem (t : ElemTy) (l : List Nat) : List Byte :=
  let w := if t = .l6 then 6 else 8 * t.size
  leBytes (t.memBytes l.length) ((l.zipIdx.map (fun v => v.1 % 2 ^ w * 2 ^ (w * v.2))).sum)

/-! ### The format context (R197-R199) -/

/-- Whether a format word is valid (R198). -/
def formatValid (w : Word) : Bool :=
  let aty := (w.extractLsb' 0 3).toNat
  let cty := (w.extractLsb' 6 3).toNat
  let spn := (w.extractLsb' 11 3).toNat
  let scm := (w.extractLsb' 14 2).toNat
  w.extractLsb' 16 48 == 0#48 && (w.extractLsb' 3 3).toNat == aty && spn ≤ 4 && (scm == 0 || aty == 4 || aty == 6)
    && (match aty with
      | 0 => cty == 0
      | 1 => cty == 0 || cty == 1
      | 2 => cty == 0 || cty == 2
      | 3 => cty == 3 && spn == 0
      | 4 => cty == 5
      | 6 => cty == 0
      | _ => false)

/-- Fields of a context. -/
def FmtCtx.aty (f : FmtCtx) : Option ElemTy := ElemTy.ofCode (f.word.extractLsb' 0 3).toNat
def FmtCtx.bty (f : FmtCtx) : Option ElemTy := ElemTy.ofCode (f.word.extractLsb' 3 3).toNat
def FmtCtx.cty (f : FmtCtx) : Option ElemTy := ElemTy.ofCode (f.word.extractLsb' 6 3).toNat
def FmtCtx.rm (f : FmtCtx) : RMode := RMode.ofCode (f.word.extractLsb' 9 2).toNat
def FmtCtx.spn (f : FmtCtx) : BitVec 3 := f.word.extractLsb' 11 3
def FmtCtx.scm (f : FmtCtx) : Nat := (f.word.extractLsb' 14 2).toNat

/-- The exponent of a product's scale for row i of A, row j of B and group g (R36, R217). -/
def FmtCtx.scale (f : FmtCtx) (i j g : Nat) : Int :=
  (if f.scm % 2 = 1 then sLane 8 (lane 8 f.sca (4 * i + g)) else 0)
    + (if 2 ≤ f.scm then sLane 8 (lane 8 f.scb (4 * j + g)) else 0)

/-- Present elements of a group by sparsity code (R197). -/
def sparseCount (c : BitVec 3) : Nat :=
  match c.toNat with
  | 1 => 8 | 2 => 12 | 3 => 16 | _ => 24

/-! ### Sums (R38-R40) -/

/-- One element's new bits, its flags, and the first k-block or group whose result was NaN (R46). -/
structure SumRes where
  bits : Nat
  fl : FpFlags
  nan : Option Nat

/-- A list cut into parts of `n` elements, the last one shorter. -/
def parts {α : Type} (n : Nat) : Nat → List α → List (List α)
  | 0, _ => []
  | fuel + 1, l => if l.isEmpty then [] else l.take n :: parts n fuel (l.drop n)

/-- One more k-block or group result. -/
def SumRes.add (r : SumRes) (b : Nat) (x : FRes) : SumRes :=
  ⟨x.1, r.fl.or x.2, if x.2.np && r.nan.isNone then some b else r.nan⟩

/-- The sum over k-blocks of R38. -/
def floatSum (f : FFmt) (mode : RMode) (n c : Nat) (prods : List FVal) : SumRes :=
  (parts n prods.length prods).zipIdx.foldl (fun r b => r.add b.2 (kBlockSum f mode (f.value r.bits :: b.1)))
    ⟨c, FpFlags.none, none⟩

/-- The product of two L6 codes with 23 fractional bits (R39 step 1). -/
def l6Product (a b : Nat) : Int :=
  let q := a % 32 + b % 32
  if a % 32 = 0 || b % 32 = 0 then 0 else sgnNat (a / 32 % 2 != b / 32 % 2) (l6T (q % 4) * 2 ^ (q / 4))

/-- One group of R39. -/
def l6Group (scale : Int) (c : Nat) (l : List (Nat × Nat)) : FRes :=
  if l.any (fun p => p.1 % 64 == l6NaR || p.2 % 64 == l6NaR) then (FFmt.f32.canonicalNaN, flagNP)
  else
    let g := l.foldl (fun (s : Int) p => s + l6Product p.1 p.2) 0
    let v : FRes := if g = 0 then (0, FpFlags.none) else FFmt.f32.round .rne (g < 0) g.natAbs (scale - 23)
    let r := FFmt.f32.dest.add .rne (FFmt.f32.value c) (FFmt.f32.value v.1)
    (r.1, v.2.or r.2)

/-- The sum over groups of R39. -/
def l6Sum (scale : Nat → Int) (c : Nat) (l : List (Nat × Nat)) : SumRes :=
  (parts 48 l.length l).zipIdx.foldl (fun r g => r.add g.2 (l6Group (scale g.2) r.bits g.1)) ⟨c, FpFlags.none, none⟩

/-- An I8 product scaled, truncated toward zero (R40). -/
def i8Product (scale : Int) (a b : Nat) : Int :=
  let p := sLane 8 a * sLane 8 b
  if 0 ≤ scale then p * (2 ^ scale.toNat : Nat) else p.tdiv ((2 ^ (-scale).toNat : Nat) : Int)

/-- The exact total of R40. -/
def i8Sum (sat : Bool) (scale : Nat → Int) (c : Nat) (l : List (Nat × Nat)) : SumRes :=
  let total := l.zipIdx.foldl (fun (s : Int) p => s + i8Product (scale (p.2 / 48)) p.1.1 p.1.2) (sLane 32 c)
  ⟨wrapInt 32 (if sat then clampInt true 32 total else total), FpFlags.none, none⟩

/-- One element of a matrix product (R217): rows i of A and j of B, and the old element. A zero that stands for an absent element
of sparse B is multiplied as a dense operand's zero would be (R37), so that against an infinity or a NaN its product is a NaN: R38
calls these products exact zeros, which settles them for finite elements only (DESIGN CHOICE, log entry 63). -/
def FmtCtx.sum (f : FmtCtx) (sat : Bool) (i j c : Nat) (a b : List Nat) : SumRes :=
  let l := a.zip b
  match f.aty, f.cty with
  | some .l6, _ => l6Sum (f.scale i j) c l
  | some .i8, _ => i8Sum sat (f.scale i j) c l
  | some ta, some tc =>
    match ta.fmt, tc.fmt with
    | some fa, some fc =>
      floatSum fc f.rm (match ta with
        | .f64 => 16
        | .f32 => 8
        | _ => 32) c (l.map (fun p => (fa.value p.1).times (fa.value p.2)))
    | _, _ => ⟨c, FpFlags.none, none⟩
  | _, _ => ⟨c, FpFlags.none, none⟩

/-- A whole product: the new rows, the flags, and the first NaN as k-block, row and column (R46). -/
structure MatRes where
  rows : List (List Nat)
  fl : FpFlags
  nan : Option (Nat × Nat × Nat)

/-- The earlier of two NaN places: by k-block, then row, then column. -/
def nanBefore (a b : Nat × Nat × Nat) : Bool :=
  a.1 < b.1 || (a.1 == b.1 && (a.2.1 < b.2.1 || (a.2.1 == b.2.1 && a.2.2 < b.2.2)))

/-- td + A × B transposed. -/
def FmtCtx.product (f : FmtCtx) (sat : Bool) (a b c : List (List Nat)) : MatRes :=
  let cells := a.zipIdx.map (fun ra => b.zipIdx.map (fun rb =>
    (f.sum sat ra.2 rb.2 ((c.getD ra.2 []).getD rb.2 0) ra.1 rb.1, ra.2, rb.2)))
  let all := cells.flatten
  { rows := cells.map (fun r => r.map (fun x => x.1.bits))
    fl := all.foldl (fun acc x => acc.or x.1.fl) FpFlags.none
    nan := bestBy nanBefore (all.filterMap (fun x => x.1.nan.map (fun k => (k, x.2.1, x.2.2)))) }

/-! ### Granary operands (R37, R206) -/

/-- Bytes of one group record. -/
def groupBytes (t : ElemTy) (spn : BitVec 3) : Nat := 8 + t.memBytes (sparseCount spn)

/-- A group expanded to 48 elements; none for bad metadata (R37). -/
def expandGroup (t : ElemTy) (spn : BitVec 3) (bytes : List Byte) : Option (List Nat) :=
  let m := leValue (bytes.take 8)
  let n := sparseCount spn
  if 2 ^ 48 ≤ m || popCount 48 m ≠ n then none
  else
    let es := t.fromMem n (bytes.drop 8)
    some ((List.range 48).map (fun i => if m / 2 ^ i % 2 = 1 then es.getD (popCount i m) 0 else 0))

/-- A slot's rows expanded. -/
def GranSlot.expand (g : GranSlot) : Option (List (List Nat)) :=
  g.rows.mapM (fun r => ((parts (groupBytes g.et g.spn) g.ng r).mapM (expandGroup g.et g.spn)).map List.flatten)

/-! ### Residence (R193-R195) -/

/-- Tile registers that an operation names. -/
def HOp.tiles : HOp → List (BitVec 3)
  | .tcfg d => [d]
  | .tzero d => [d]
  | .tldr d _ _ _ => [d]
  | .tstr a _ _ _ => [a]
  | .tmovr x _ => [x]
  | .tmovc x _ => [x]
  | .mma d a b _ => [d, a, b]
  | .mmas d a _ => [d, a]
  | .tdrain d => [d]
  | .tfill d => [d]
  | .tstat a => [a]
  | .tfree d => [d]
  | _ => []

/-- The packets of matrix operations that are queued or in a pipe. -/
def Heavy.matrixPackets (H : Heavy) : List Packet := (H.matq ++ H.pipes.map (fun p => p.2)).map (fun m => m.pkt)

/-- The tiles that operations pin, by their owners' home slots: those dispatched and not complete, in the matrix queue, a pipe, the
tile transfer unit, or held up at an access (R194). -/
def State.pinned (s : State) (y : Nat) : List (Pos × BitVec 3) :=
  let H := (s.yard y).heavy
  let home := fun (p : Pos) => ((s.at? p).map (fun x => x.home)).getD p
  (H.matrixPackets ++ H.running).flatMap (fun k => k.op.tiles.map (fun j => (home k.pos, j)))
    ++ H.transfers.flatMap (fun t => t.tiles.map (fun j => (home t.reply.pos, j)))

/-- The strand's tile register j. -/
def Strand.tile (x : Strand) (j : BitVec 3) : TileReg := x.tiles[j.toNat]'j.isLt

/-- A tile register of the strand in the focus set. -/
def setTile (j : BitVec 3) (r : TileReg) : Act Unit := modifyMe (fun x => { x with tiles := x.tiles.set j.toNat r j.isLt })

/-- Tile state that cannot be saved or refilled: its team is lost (R195). -/
def loseTiles (x : Strand) : Act Unit := do
  let s ← getS
  if x.tid = 0 then deviceFault (McRecord.of 7 0x50 0 x.pos x.tid s.cycle) else killTeam x.tid 0x50 0 x.pos

/-- The resident tile that R194 evicts. -/
def Heavy.victimTile (H : Heavy) (pins : List (Pos × BitVec 3)) : Option PhysTile :=
  bestBy (fun b a => b.lastUse < a.lastUse || (b.lastUse == a.lastUse && b.idx < a.idx))
    (H.tiles.filter (fun t => !pins.contains (t.owner, t.reg)))

/-- A tile evicted: saved if dirty, released, SPILLED. -/
def evictTile (y : Nat) (p : PhysTile) : Act Unit := do
  let s ← getS
  match s.strands.find? (fun x => x.home == p.owner && x.run != .empty) with
  | none => modifyHeavy y (fun H => { H with tiles := H.tiles.filter (fun q => q.idx != p.idx) })
  | some x =>
    match s.team x.tid with
    | some t => do
      let (r, ok) ← drainReg t x p.reg.toNat (x.tile p.reg)
      modifyAt x.pos (fun x => { x with tiles := x.tiles.set p.reg.toNat r p.reg.isLt })
      if ok then pure () else loseTiles x
    | none => do
      modifyHeavy y (fun H => { H with tiles := H.tiles.filter (fun q => q.idx != p.idx) })
      if (x.tile p.reg).st = .dirty then loseTiles x
      else modifyAt x.pos (fun x => { x with tiles := x.tiles.set p.reg.toNat { x.tile p.reg with st := .spilled, phys := none } p.reg.isLt })

/-- The lowest physical tile that is free. -/
def Heavy.freeTile (H : Heavy) : Option Nat := (List.range 256).find? (fun i => !H.tiles.any (fun t => t.idx == i))

/-- The contents of a register's save slot, if they can be read (R195). -/
def State.savedTile (s : State) (x : Strand) (j : BitVec 3) : Option TileData :=
  (s.team x.tid).bind (fun t =>
    let off := saveOffset x.index.toNat j.toNat
    let keys := (List.range 3072).map (fun i => s.saveKey t (off + i) false)
    if keys.any (fun k => k.isNone) || s.poisoned (keys.filterMap (fun k => k.map (fun k => (k, 1)))) then none
    else some (BitVec.ofNat 24576 (leValue (keys.map (fun k => s.mem.read (k.getD 0))))))

/-- The tiles that an operation pins itself, and the cycle of its dispatch (R194). -/
structure TileUse where
  pins : List (Pos × BitVec 3)
  now : Nat

/-- What an operation needs of a tile: its place alone, its contents, or both for a write still to come. -/
inductive TileNeed where
  | overwrite | read | update
deriving DecidableEq, Repr

/-- The tile register of the strand in the focus made ready under R193; false if its team was lost on the way. An update
keeps the state of a tile until its write. -/
def readyTile (j : BitVec 3) (need : TileNeed) (use : TileUse) : Act Bool := do
  let x ← getMe
  let y := x.home.yidx
  let r := x.tile j
  if r.phys.isSome || (r.st = .empty && need = .read) then return true
  else do
    let s ← getS
    match (s.yard y).heavy.freeTile with
    | some _ => pure ()
    | none =>
      match (s.yard y).heavy.victimTile (use.pins ++ s.pinned y) with
      | some p => evictTile y p
      | none => pure ()
    let s ← getS
    if s.me.run = .empty || s.me.pos ≠ x.pos then return false
    else
      match (s.yard y).heavy.freeTile with
      | none => stall
      | some i =>
        match (if r.st = .spilled && need ≠ .overwrite then s.savedTile x j else some 0) with
        | none => do
          loseTiles x
          return false
        | some d => do
          modifyHeavy y (fun H => { H with tiles := H.tiles ++ [⟨i, x.home, j, d, use.now⟩] })
          setTile j { r with phys := some i, st := if r.st = .spilled then .clean else r.st }
          return true

/-- Several tiles made ready. -/
def readyTiles (l : List (BitVec 3 × TileNeed)) (use : TileUse) : Act Bool :=
  match l with
  | [] => return true
  | (j, n) :: rest => do
    let ok ← readyTile j n use
    if ok then readyTiles rest use else return false

/-- The contents of a tile register of the strand in the focus: zeros for an EMPTY tile. -/
def tileData (j : BitVec 3) : Act TileData := do
  let s ← getS
  return ((s.yard s.me.home.yidx).heavy.tileOf s.me.home j.toNat).elim 0 (fun p => p.data)

/-- A resident tile written: DIRTY (R193). -/
def putTileData (j : BitVec 3) (d : TileData) : Act Unit := do
  let x ← getMe
  modifyHeavy x.home.yidx (fun H =>
    { H with tiles := H.tiles.map (fun t => if t.owner = x.home && t.reg = j then { t with data := d } else t) })
  setTile j { x.tile j with st := .dirty }

/-- A tile register's physical tile given up. -/
def releaseTile (j : BitVec 3) : Act Unit := do
  let x ← getMe
  modifyHeavy x.home.yidx (fun H => { H with tiles := H.tiles.filter (fun t => !(t.owner == x.home && t.reg == j)) })
  setTile j { x.tile j with phys := none }

/-- Recency of the tiles that a dispatch names (R194). -/
def useTiles (op : HOp) : Act Unit := do
  let s ← getS
  let x := s.me
  if op.tiles.isEmpty then pure ()
  else modifyHeavy x.home.yidx (fun H =>
    { H with
      tiles := H.tiles.map (fun t => if t.owner = x.home && op.tiles.contains t.reg then { t with lastUse := s.cycle } else t) })

end Sys2Proof.Machine
end

