-- ==== Sys2Proof/Machine/HeavyOps.lean ====
section
/-! DEFINITION. What an H-class operation does at the heavy core, for a shipped packet and for the heavy core's own strands
(R160, R172-R185, R210-R221, R316). The strand it works for stands in the focus. -/
namespace Sys2Proof.Machine

/-- Whether an operation is a form of major 0x34. -/
def HOp.isTile : HOp → Bool
  | .tcfg _ | .tfmt | .tscale _ _ _ | .tzero _ | .tldr _ _ _ _ | .tstr _ _ _ _ | .tmovr _ _ | .tmovc _ _ | .mma _ _ _ _
  | .mmas _ _ _ | .gload _ _ _ | .gdrop | .tdrain _ | .tfill _ | .tstat _ | .tfree _ => true
  | _ => false

/-- In what state an operation executes: the maker of its accesses, the tenure agent and its requests, the caches' view of it,
whether it is an own strand's, whose accesses follow the held stores of its window, the modes in force at its issue (R160), and the
cycle of its dispatch (R194). -/
structure HCtx where
  who : Who
  agent : Nat
  by_ : ReqBy
  w : Toucher
  own : Bool
  rmode : RMode
  nve : Bool
  dze : Bool
  nanmode : Bool
  now : Nat

/-- The context of a heavy core's own strand, whose operation is dispatched as it issues. -/
def Strand.hctx (x : Strand) (now : Nat) : HCtx :=
  { who := x.who, agent := agentOf x.pos, by_ := .access, w := x.toucher 30, own := true, rmode := RMode.ofCode x.modes.rmode.toNat, nve := x.modes.nve,
    dze := x.modes.dze, nanmode := x.modes.nanmode, now := now }

/-- The context of a packet from a strand: user permissions in the sender's address space (R176), and for a tile access the clock
of its yard at the dispatch (R242). -/
def Packet.hctx (k : Packet) (tid : Nat) : HCtx :=
  { who := ⟨k.pos, k.asid, false, tid, true, .strand k.pos true k.seq.toNat⟩, agent := 64 + k.pos.yidx, by_ := .shipped k.seq,
    w := ⟨k.pos, tid, k.tenant, 30, k.nudef, true, if k.op.isTile then k.began.map (fun b => b.2) else none, none⟩, own := false, rmode := RMode.ofCode k.rmode.toNat, nve := k.nve, dze := k.dze,
    nanmode := k.nanmode, now := (k.began.map (fun b => b.1)).getD k.since }

/-- How an operation ends: its results, a matrix operation that now has its operands, or the loss of its team. -/
inductive HEnd where
  | regs (effs : List RegEff)
  | matrix (slot : Option GranSlot)
  | gone

/-! ### Floating point -/

/-- Results with their flags, or the trap that the flags raise (R43-R46). -/
def HCtx.flags (c : HCtx) (f : FpFlags) (effs : List RegEff) : Act HEnd :=
  match fpCause c.nve c.dze c.nanmode f with
  | some cause => raise cause 0
  | none => return .regs (effs ++ [.flags f.bits (!c.nanmode)])

/-- DADD, DSUB, DMUL, DDIV, DSQRT, DMIN, DMAX by number, on F64 patterns (R179). -/
def f64Op (k : Nat) (mode : RMode) (a b : Nat) : FRes :=
  let f := FFmt.f64
  match k with
  | 0 => f.dest.add mode (f.value a) (f.value b)
  | 1 => f.dest.add mode (f.value a) (f.value b).negate
  | 2 => f.dest.mul mode (f.value a) (f.value b)
  | 3 => f.div mode (f.value a) (f.value b)
  | 4 => f.sqrt mode (f.value a)
  | 5 => f.dest.minMax false a b (f.value a) (f.value b)
  | _ => f.dest.minMax true a b (f.value a) (f.value b)

/-- The forms of major 0x3B by number (R183-R185). -/
def f32Op (k : Nat) (mode : RMode) (a b : Nat) : FRes :=
  let f := FFmt.f32
  match k with
  | 0 => f.div mode (f.value a) (f.value b)
  | 1 => f.sqrt mode (f.value a)
  | 2 => fexp2 (f.value a)
  | 3 => flog2 (f.value a)
  | 4 => fsincos false (f.value a)
  | 5 => fsincos true (f.value a)
  | 6 => frcp mode (f.value a)
  | _ => frsq (f.value a)

/-- The low 64 bits of an operand slot, as a number. -/
def slotNat (l : List Vec) (i : Nat) : Nat := (l.getD i 0).toNat % 2 ^ 64

/-- A scalar result. -/
def scalarRes (dests : List RegId) (v : Word) : List RegEff :=
  match dests with
  | [.s d] => [.s d v]
  | _ => []

/-- A vector result. -/
def vectorRes (dests : List RegId) (v : Vec) : List RegEff :=
  match dests with
  | [.v d] => [.v d v]
  | _ => []

/-- The floating-point operations (R179-R185): results are merged under the mask where they are written (R171). -/
def HCtx.fp (c : HCtx) (op : HOp) (dests : List RegId) (mask : Word) (o : List Vec) : Act HEnd :=
  let f := FFmt.f64
  let scalar := fun (r : FRes) => c.flags r.2 (scalarRes dests (BitVec.ofNat 64 r.1))
  let vector := fun (g : Nat → FRes) =>
    let r := mergeLanesF 64 mask 0 g
    c.flags r.2 (vectorRes dests r.1)
  let mode := fun (r : BitVec 3) => if r = 4#3 then c.rmode else RMode.ofCode r.toNat
  match op with
  | .dfp k => scalar (f64Op k.toNat c.rmode (slotNat o 0) (slotNat o 1))
  | .dcmp k =>
    let r := fcmp k.toNat (f.value (slotNat o 0)) (f.value (slotNat o 1))
    scalar (if r.1 then 1 else 0, r.2)
  | .dcvtTo t r => scalar (f.dest.convert (mode r) (codeValue t.toNat (BitVec.ofNat 64 (slotNat o 0))))
  | .dcvtFrom t r =>
    let (v, fl) := convertCode t.toNat (mode r) (f.value (slotNat o 0))
    c.flags fl (scalarRes dests v)
  | .dfma => scalar (f.dest.fma c.rmode (f.value (slotNat o 0)) (f.value (slotNat o 1)) (f.value (slotNat o 2)))
  | .vdop k => vector (fun i => f64Op k.toNat c.rmode (lane 64 (o.getD 0 0) i) (lane 64 (o.getD 1 0) i))
  | .vdfma n =>
    vector (fun i =>
      let p := f.value (lane 64 (o.getD 0 0) i)
      f.dest.fma c.rmode (if n = 1#1 then p.negate else p) (f.value (lane 64 (o.getD 1 0) i)) (f.value (lane 64 (o.getD 2 0) i)))
  | .f32 k => scalar (f32Op k.toNat c.rmode (slotNat o 0 % 2 ^ 32) (slotNat o 1 % 2 ^ 32))
  | _ => return .regs []

/-! ### Memory -/

/-- The byte that the strand's own stores hold at a key, those of its shipped window apart: shipped work is older. -/
def Strand.olderByte (x : Strand) (k : Nat) : Option Byte := { x with arch := { x.arch with held := [] } }.ownByte k

/-- The byte that the strand's own stores hold at a key for an operation. -/
def HCtx.storeByte (c : HCtx) (x : Strand) (k : Nat) : Option Byte := if c.own then x.ownByte k else x.olderByte k

/-- How the segments of rows meet the open tiles, before any row is accessed (R267, R272, R273). -/
def HCtx.ways (c : HCtx) (l : List (Word × List (Nat × Nat))) (need : Tenure) : Act (List (List Seg)) := do
  let s ← getS
  let rows := l.map (fun r => placeSegs r.1.toNat r.2)
  let dram := rows.flatten.filter (fun g => isDram g.1)
  let place := fun (way : Nat × Nat × Nat → TenWay) =>
    rows.map (fun r => r.map (fun g => (⟨g.1, g.2.1, g.2.2, way g⟩ : Seg)))
  if s.dev.tiles.isEmpty || dram.isEmpty then return place (fun _ => .untiled)
  else do
    let ways ← meetTenure c.who c.by_ c.agent (dram.map (fun g => (g.2.1, g.2.2))) need false
    return place (fun g => if isDram g.1 then ways.getD (dram.findIdx (fun h => h == g)) .untiled else .untiled)

/-- The bytes of a segment that the heavy core reads (R169, R295, R296). -/
def HCtx.segBytes (c : HCtx) (s : State) (atSlice : Bool) (g : Seg) : List Byte :=
  (List.range g.n).map (fun i => match c.storeByte s.me (g.key + i) with
    | some b => b
    | none =>
      if s.tiledIn c.who.asid g (g.key + i) then s.mem.read (g.key + i)
      else s.coreByte (supPos c.who.pos.yidx) atSlice (g.key + i))

/-- A row loaded by the heavy core. -/
def HCtx.load (c : HCtx) (segs : List (Nat × Nat)) (gs : List Seg) (nu : BitVec 5) (o : Order) : Act (List Byte) := do
  let s ← getS
  if s.poisonedAt c.who.pos.yidx true segs then raise 0x50 (s.poisonAddr c.who.pos.yidx true segs)
  else do
    let atSlice := match o with
      | some sc => sc != 0#2
      | none => false
    emit (.touches (s.touches ++ gs.flatMap (s.segTouches { c.w with nu := nu } c.who.asid atSlice)))
    return gs.flatMap (c.segBytes s atSlice)

/-- The acquire side of an ordered load. -/
def HCtx.acquire (c : HCtx) (o : Order) : Act Unit :=
  match o with
  | some sc => queueTouch (.acquire c.w sc)
  | none => pure ()

/-- Rows of a memory form, checked and translated in ascending order (R210): their addresses and segments. -/
def HCtx.rows (c : HCtx) (base : Word) (stride : BitVec 24) (n rows align : Nat) (k : Access) :
    Act (List (Word × List (Nat × Nat))) := do
  let at_ := fun (i : Nat) => base + BitVec.ofNat 64 i * stride.signExtend 64
  let l ← collect (List.range rows) (fun i => do
    aligned (at_ i) align
    let segs ← translateRange c.who (at_ i) n k
    return (at_ i, segs))
  aligned (at_ rows) align
  awaitKeys (l.flatMap (fun r => r.2))
  return l

/-- Loads of rows, once all are translated and none has to wait. -/
def HCtx.loadRows (c : HCtx) (l : List (Word × List (Nat × Nat))) (nu : BitVec 5) (o : Order) : Act (List (List Byte)) := do
  let ways ← c.ways l .s
  let rows ← collect (l.zip ways) (fun r => c.load r.1.2 r.2 nu o)
  c.acquire o
  return rows

/-- Stores by the heavy core for the strand, all rows translated (R215): into the hold of an activation (R382), else performed. -/
def HCtx.storeRows (c : HCtx) (l : List ((Word × List (Nat × Nat)) × List Byte)) (nu : BitVec 5) (o : Order) : Act Unit := do
  let sts := l.flatMap (fun r => storesOf r.1.1.toNat r.1.2 r.2 nu c.w.nudef o)
  let x ← getMe
  if x.holding then modifyMe (fun x => x.hold (.store sts true))
  else do
    awaitStores
    let ways ← c.ways (l.map (fun r => r.1)) .w
    forAll (sts.zip ways.flatten) (fun e => do
      let x ← getMe
      performMet { c.w with nu := nu } c.who.asid e.1 x.fenceEpoch e.2.way)
    if o.isSome then endFence else pure ()

/-- AMOW (R316): d = 0 returns nothing. -/
def HCtx.amow (c : HCtx) (k : BitVec 2) (d : BitVec 5) (n : BitVec 5) (od sc : BitVec 2) (va : Word) (v : Vec) : Act HEnd := do
  let op : AtomicOp := .amow k v
  aligned va 16
  let segs ← translateRange c.who va 16 .atomic
  awaitKeys segs
  let key := (segs.head?.map (fun g => g.1)).getD 0
  let x ← getMe
  if x.holding && d = 0#5 then do
    modifyMe (fun x => x.hold (.atomic key va op sc (od.getLsbD 1) true n c.w.nudef))
    return .regs []
  else do
    awaitStores
    let way ← atomicWay c.who c.by_ c.agent va.toNat key op.spans (if d = 0#5 && op.accumulates then .a else .w) false
    let s ← getS
    if s.poisonedAt c.who.pos.yidx true segs then raise 0x50 (s.poisonAddr c.who.pos.yidx true segs)
    else do
      let old ← atomicAt { c.w with nu := n } c.agent c.who.asid va.toNat key op sc (od.getLsbD 1) way s.me.fenceEpoch
      if od.getLsbD 1 then endFence else pure ()
      if od.getLsbD 0 then c.acquire (some sc) else pure ()
      let a := leValue old
      return .regs (if d = 0#5 then [] else [.s d (BitVec.ofNat 64 a), .s (d + 1) (BitVec.ofNat 64 (a / 2 ^ 64))])

/-! ### Tile forms -/

/-- The configuration of a tile; cause 0x20 without one (R190). -/
def needTile (j : BitVec 3) : Act TileCfg := do
  let x ← getMe
  match (x.tile j).cfg with
  | some c => return c
  | none => raise 0x20 0

/-- Poison in the tiles an operation reads (R432). -/
def usePoison (l : List (BitVec 3)) : Act Unit := do
  let x ← getMe
  if l.any (fun j => x.poisonTiles.contains j.toNat) then raise 0x50 (unitAddr 8) else pure ()

/-- A tile wholly rewritten holds no poison. -/
def clearTilePoison (j : BitVec 3) : Act Unit := do
  let x ← getMe
  if x.poisonTiles.isEmpty then pure ()
  else emit (.strand { x with poisonTiles := x.poisonTiles.filter (fun i => i != j.toNat) })

/-- Granary slots of the strand's team (R205). -/
def State.granarySize (s : State) (tid : Nat) : Nat :=
  match s.team tid with
  | some t => ((s.grid t.grid).map (fun g => g.granary)).getD 0
  | none => 0

/-- A team's granary slot, if it is not empty. -/
def State.granarySlot (s : State) (y tid idx : Nat) : Option GranSlot :=
  (s.yard y).heavy.granary.find? (fun g => g.tid == tid && g.idx == idx)

/-- The format context; cause 0x22 where it is invalid. -/
def needFormat : Act FmtCtx := do
  let x ← getMe
  if x.fmt.valid then return x.fmt else raise 0x22 0

/-- A condition on shapes: cause 0x21. -/
def needShape (b : Bool) : Act Unit := if b then pure () else raise 0x21 0

/-- The pins of an operation itself. -/
def HOp.pins (op : HOp) (home : Pos) : List (Pos × BitVec 3) := op.tiles.map (fun j => (home, j))

/-- A program that goes on only while the team lives. -/
def ifAlive (ok : Bool) (a : Act HEnd) : Act HEnd := if ok then a else return .gone

/-- TCFG (R211). -/
def tileConfigure (d : BitVec 3) (w : Word) : Act HEnd :=
  match TileCfg.ofWord w with
  | none => raise 0x21 0
  | some cfg => do
    clearTilePoison d
    releaseTile d
    setTile d ⟨some cfg, .empty, none⟩
    return .regs []

/-- TFMT (R212). -/
def tileFormat (w : Word) : Act HEnd := do
  if !formatValid w then raise 0x22 0
  else do
    modifyMe (fun x =>
      { x with
        fmt := { x.fmt with
          word := w.extractLsb' 0 16, valid := true,
          sca := if x.fmt.valid then x.fmt.sca else 0, scb := if x.fmt.valid then x.fmt.scb else 0 } })
    return .regs []

/-- TSCALE (R213). -/
def HCtx.tileScale (c : HCtx) (h : BitVec 1) (n : BitVec 5) (od : BitVec 2) (base : Word) : Act HEnd := do
  let _ ← needFormat
  let l ← c.rows base 0 64 1 8 .load
  let rows ← c.loadRows l n (orderOf od)
  let v : Vec := BitVec.ofNat 512 (leValue rows.flatten)
  modifyMe (fun x => { x with fmt := if h = 0#1 then { x.fmt with sca := v } else { x.fmt with scb := v } })
  return .regs []

/-- TZERO (R214). -/
def tileZero (d : BitVec 3) (use : TileUse) : Act HEnd := do
  let _ ← needTile d
  let ok ← readyTile d .overwrite use
  ifAlive ok (do
    clearTilePoison d
    putTileData d 0
    return .regs [])

/-- TLDR (R215). -/
def HCtx.tileLoad (c : HCtx) (d : BitVec 3) (n : BitVec 5) (od : BitVec 2) (stride : BitVec 24) (base : Word)
    (use : TileUse) : Act HEnd := do
  let cfg ← needTile d
  let l ← c.rows base stride cfg.memRow cfg.rows cfg.et.size .load
  let rows ← c.loadRows l n (orderOf od)
  let ok ← readyTile d .overwrite use
  ifAlive ok (do
    clearTilePoison d
    putTileData d (TileData.ofRows cfg.et.size (rows.map (cfg.et.fromMem cfg.cols)))
    return .regs [])

/-- TSTR (R215). -/
def HCtx.tileStore (c : HCtx) (a : BitVec 3) (n : BitVec 5) (od : BitVec 2) (stride : BitVec 24) (base : Word)
    (use : TileUse) : Act HEnd := do
  let cfg ← needTile a
  usePoison [a]
  let l ← c.rows base stride cfg.memRow cfg.rows cfg.et.size .store
  let ok ← readyTile a .read use
  ifAlive ok (do
    let t ← tileData a
    c.storeRows (l.zipIdx.map (fun r => (r.1, cfg.et.toMem (TileData.row t cfg r.2)))) n (orderOf od)
    return .regs [])

/-- The value an element takes when a vector is written into it: codes of L6 have six bits. -/
def ElemTy.clean (t : ElemTy) (v : Nat) : Nat := if t = .l6 then v % 64 else v

/-- Elements of a tile that a move covers (R216): element and vector position in elements. -/
def moveCells (column : Bool) (cfg : TileCfg) (w : Word) : List ((Nat × Nat) × Nat) :=
  let e := cfg.et.size
  (List.range (64 / e)).filterMap (fun i =>
    if column then
      let r := (w.extractLsb' 8 4).toNat + i
      if r < cfg.rows then some ((r, (w.extractLsb' 0 8).toNat), i) else none
    else
      let k := 64 / e * (w.extractLsb' 4 2).toNat + i
      if k < cfg.cols then some (((w.extractLsb' 0 4).toNat, k), i) else none)

/-- TMOVR and TMOVC (R216). -/
def tileMove (column : Bool) (j : BitVec 3) (toVec : Bool) (w : Word) (v : Vec) (dests : List RegId)
    (use : TileUse) : Act HEnd := do
  let cfg ← needTile j
  let e := cfg.et.size
  needShape (if column then (w.extractLsb' 0 8).toNat < cfg.cols && (w.extractLsb' 8 4).toNat < cfg.rows
    else (w.extractLsb' 0 4).toNat < cfg.rows && w.extractLsb' 4 2 != 3#2 && 64 * (w.extractLsb' 4 2).toNat < cfg.rb)
  usePoison [j]
  let cells := moveCells column cfg w
  let ok ← readyTile j (if toVec then .read else .update) use
  ifAlive ok (do
    let t ← tileData j
    if toVec then
      return .regs (vectorRes dests (BitVec.ofNat 512
        ((cells.map (fun c => TileData.elem t e c.1.1 c.1.2 * 2 ^ (8 * e * c.2))).sum)))
    else do
      putTileData j (cells.foldl (fun t c => TileData.setElem t e c.1.1 c.1.2 (cfg.et.clean (lane (8 * e) v c.2))) t)
      return .regs [])

/-- A matrix operation's operands checked and made ready (R210, R218, R219). Consumed poison, which R210 does not list, stands
after the shapes and before the metadata (DESIGN CHOICE, log entry 64); tiles are allotted in the order ta, tb, td, which R194
leaves open (DESIGN CHOICE, log entry 65). -/
def matrixReady (d a : BitVec 3) (b : Option (BitVec 3)) (slot : Nat) (sat : Bool) (use : TileUse) :
    Act HEnd := do
  let cd ← needTile d
  let ca ← needTile a
  let cb ← (match b with
    | some b => do
      let c ← needTile b
      return some c
    | none => return none)
  let s ← getS
  let x := s.me
  let g := s.granarySlot x.home.yidx x.tid slot
  if b.isNone && slot < s.granarySize x.tid && g.isNone then raise 0x20 0
  else do
    let f ← needFormat
    if (sat && f.aty ≠ some .i8) || (b.isSome != (f.spn == 0#3)) then raise 0x22 0
    else do
      let (nb, kb, tb) := match cb, g with
        | some c, _ => (c.rows, c.cols, some c.et)
        | none, some g => (g.nr, 48 * g.ng, some g.et)
        | none, none => (0, 0, none)
      needShape (some ca.et == f.aty && tb == f.bty && some cd.et == f.cty && ca.cols == kb && cd.rows == ca.rows
        && cd.cols == nb && (b.isSome || (slot < s.granarySize x.tid && g.map (fun g => g.spn) == some f.spn)))
      usePoison ([d, a] ++ b.toList)
      if b.isNone && (g.map (fun g => g.poisoned)).getD false then raise 0x50 (unitAddr 9)
      else if b.isNone && ((g.bind GranSlot.expand).isNone) then raise 0x22 0
      else do
        let ok ← readyTiles ([(a, .read)] ++ (b.map (fun b => (b, TileNeed.read))).toList ++ [(d, .update)]) use
        return if ok then .matrix (if b.isSome then none else g) else .gone

/-- The product of a matrix operation that is ready. -/
def matrixResult (op : HOp) (slot : Option GranSlot) : Act (Option (BitVec 3 × TileCfg × MatRes)) := do
  let x ← getMe
  match op with
  | .mma d a b sat => do
    let td ← tileData d
    let ta ← tileData a
    let tb ← tileData b
    match (x.tile d).cfg, (x.tile a).cfg, (x.tile b).cfg with
    | some cd, some ca, some cb =>
      return some (d, cd, x.fmt.product sat ((List.range ca.rows).map (TileData.row ta ca))
        ((List.range cb.rows).map (TileData.row tb cb)) ((List.range cd.rows).map (TileData.row td cd)))
    | _, _, _ => return none
  | .mmas d a sat => do
    let td ← tileData d
    let ta ← tileData a
    match (x.tile d).cfg, (x.tile a).cfg, slot.bind GranSlot.expand with
    | some cd, some ca, some b =>
      return some (d, cd, x.fmt.product sat ((List.range ca.rows).map (TileData.row ta ca)) b
        ((List.range cd.rows).map (TileData.row td cd)))
    | _, _, _ => return none
  | _ => return none

/-- The report of a NaN (R46). -/
def MatRes.report (r : MatRes) (pipe y : Nat) : Option NanReport :=
  r.nan.map (fun k =>
    { rvalid := true, pipe := BitVec.ofNat 1 pipe, row := BitVec.ofNat 4 k.2.1, col := BitVec.ofNat 4 k.2.2,
      kstep := BitVec.ofNat 8 k.1, yidx := BitVec.ofNat 6 y })

/-- GLOAD's control word read (R220): slot, rows, groups, type and sparsity code. SPN codes 5 to 7, which R220 does
not list and for which it names no cause, raise cause 0x21 as SPN 0 does (DESIGN CHOICE, log entry 66). -/
def gloadControl (w : Word) : Option (Nat × Nat × Nat × ElemTy × BitVec 3) :=
  let ng := (w.extractLsb' 16 2).toNat + 1
  let spn := w.extractLsb' 24 3
  match ElemTy.ofCode (w.extractLsb' 20 3).toNat with
  | none => none
  | some t =>
    if w.extractLsb' 9 3 ≠ 0#3 || w.extractLsb' 18 2 ≠ 0#2 || w.getLsbD 23 || w.extractLsb' 27 37 ≠ 0#37 || spn = 0#3
        || 4 < spn.toNat || t = .f64 || t = .i32 || 192 < ng * 48 * t.size then none
    else some ((w.extractLsb' 0 9).toNat, (w.extractLsb' 12 4).toNat + 1, ng, t, spn)

/-- GLOAD (R206, R220). -/
def HCtx.granaryLoad (c : HCtx) (n : BitVec 5) (od : BitVec 2) (stride : BitVec 24) (base w : Word) : Act HEnd := do
  let s ← getS
  let x := s.me
  match gloadControl w with
  | none => raise 0x21 0
  | some (slot, nr, ng, t, spn) => do
    needShape (slot < s.granarySize x.tid)
    aligned base 8
    let bytes := ng * groupBytes t spn
    let l ← c.rows base stride bytes nr t.size .load
    let rows ← c.loadRows l n (orderOf od)
    modifyHeavy x.home.yidx (fun H =>
      { H with
        granary := H.granary.filter (fun g => !(g.tid == x.tid && g.idx == slot)) ++ [⟨x.tid, slot, nr, ng, t, spn, rows, false⟩] })
    return .regs []

/-- GDROP (R220). -/
def granaryDrop (w : Word) : Act HEnd := do
  let s ← getS
  let x := s.me
  let slot := (w.extractLsb' 0 9).toNat
  needShape (slot < s.granarySize x.tid)
  modifyHeavy x.home.yidx (fun H => { H with granary := H.granary.filter (fun g => !(g.tid == x.tid && g.idx == slot)) })
  return .regs []

/-- TDRAIN (R193): the device saves a dirty tile; a tile of a strand without a team has no save slot. -/
def tileDrain (d : BitVec 3) : Act HEnd := do
  let s ← getS
  let x := s.me
  match (s.yard x.home.yidx).heavy.tileOf x.home d.toNat with
  | none => return .regs []
  | some p => do
    evictTile x.home.yidx p
    let y ← getMe
    return if y.run = .empty || y.pos ≠ x.pos then .gone else .regs []

/-- TFILL (R193). -/
def tileFill (d : BitVec 3) (use : TileUse) : Act HEnd := do
  let x ← getMe
  if (x.tile d).cfg.isNone then return .regs []
  else do
    let ok ← readyTile d .read use
    ifAlive ok (return .regs [])

/-- TFREE (R193). -/
def tileFree (d : BitVec 3) : Act HEnd := do
  let x ← getMe
  if (x.tile d).cfg.isNone then return .regs []
  else do
    clearTilePoison d
    releaseTile d
    setTile d TileReg.unconfigured
    return .regs []

/-- TSTAT's word (R221). -/
def TileReg.stat (r : TileReg) : Word :=
  match r.cfg with
  | none => 0
  | some c => BitVec.ofNat 64 (c.word + 2 ^ 20 + 2 ^ 21 * (match r.st with
    | .empty => 0
    | .clean => 1
    | .dirty => 2
    | .spilled => 3))

/-- Whether an operation runs in a matrix pipe (R200). -/
def HOp.isMatrix : HOp → Bool
  | .mma _ _ _ _ | .mmas _ _ _ => true
  | _ => false

/-- Operations with a memory operand. -/
def HOp.isMemory : HOp → Bool
  | .amow _ _ _ _ _ | .tscale _ _ _ | .tldr _ _ _ _ | .tstr _ _ _ _ | .gload _ _ _ => true
  | _ => false

/-- Operations that are acquires (R291). -/
def HOp.acquires : HOp → Bool
  | .amow _ _ _ od _ => od.getLsbD 0
  | .tscale _ _ od => (orderOf od).isSome
  | .tldr _ _ od _ => (orderOf od).isSome
  | .gload _ od _ => (orderOf od).isSome
  | _ => false

/-- Side-effecting operations (R168). -/
def HOp.side : HOp → Bool
  | .amow _ _ _ _ _ => true
  | .tstat _ => false
  | op => op.isTile

/-- Whether an older operation of a slot that is under way names a tile: queued for a pipe, in one, or held up at an access. -/
def State.tileBusy (s : State) (p : Pos) (j : BitVec 3) : Bool :=
  let H := (s.yard p.yidx).heavy
  (H.matrixPackets ++ H.running).any (fun k => k.pos == p && k.op.side && k.op.tiles.contains j)

/-- An operation executed for the strand in the focus, with its mask and operand values. -/
def HCtx.eval (c : HCtx) (op : HOp) (dests : List RegId) (mask : Word) (o : List Vec) : Act HEnd := do
  let s ← getS
  let use : TileUse := ⟨op.pins s.me.home, c.now⟩
  let w : Word := (o.getD 0 0).extractLsb' 0 64
  if op.isTile && (s.yard s.me.home.yidx).heavy.failed then raise 0x03 0
  else
    match op with
    | .amow k d n od sc => c.amow k d n od sc w (o.getD 1 0)
    | .tcfg d => tileConfigure d w
    | .tfmt => tileFormat w
    | .tscale h n od => c.tileScale h n od w
    | .tzero d => tileZero d use
    | .tldr d n od st => c.tileLoad d n od st w use
    | .tstr a n od st => c.tileStore a n od st w use
    | .tmovr x dir => tileMove false x (dir == 1#1) w (o.getD 1 0) dests use
    | .tmovc x dir => tileMove true x (dir == 1#1) w (o.getD 1 0) dests use
    | .mma d a b sat => matrixReady d a (some b) 0 sat use
    | .mmas d a sat => matrixReady d a none (w.extractLsb' 0 9).toNat sat use
    | .gload n od st => c.granaryLoad n od st w ((o.getD 1 0).extractLsb' 0 64)
    | .gdrop => granaryDrop w
    | .tdrain d => tileDrain d
    | .tfill d => tileFill d use
    | .tstat a => if s.tileBusy s.me.pos a then stall else return .regs (scalarRes dests (s.me.tile a).stat)
    | .tfree d => tileFree d
    | op => c.fp op dests mask o

end Sys2Proof.Machine
end

