-- ==== Sys2Proof/Machine/Heavy.lean ====
section
/-! DEFINITION. Meanings of the H-class forms (majors 0x27, 0x38 to 0x3B, AMOW and 0x34), shipped from a lean core or executed
by the heavy core's own strand (R160-R162), and of SHIPW and MIGRATE (R186-R189). -/
namespace Sys2Proof.Machine

/-! ### Issue -/

/-- The next sequence number of R161. -/
def nextSeqNo (n : BitVec 8) : BitVec 8 := if n = 255#8 then 1#8 else n + 1

/-- The oldest packet of each lean core's guest queue waits from the cycle in which it became the head (R167). -/
def Heavy.enqueue (H : Heavy) (k : Packet) : Heavy := { H with queue := H.queue ++ [k] }

/-- A lean core's packets, oldest first. -/
def Heavy.queueOf (H : Heavy) (core : Nat) : List Packet := H.queue.filter (fun k => k.pos.core == core)

/-- A scalar operand in its slot (R160). -/
def scalarSlot (v : Word) : Vec := v.zeroExtend 512

/-- A result as its destination receives it: inactive lanes of a vector keep their value (R138, R171). -/
def Arch.merge (a : Arch) (mask : Word) : RegEff → RegEff
  | .v d x => .v d (mergeLanes 64 mask (a.vreg d) (fun i => lane 64 x i))
  | e => e

/-- The pipe that is free first. -/
def Heavy.freePipe (H : Heavy) : Option Nat := [0, 1].find? (fun p => !H.pipes.any (fun e => e.1 == p))

/-- The packet of an operation of the strand in the focus (R160). -/
def Strand.packet (x : Strand) (op : HOp) (dests : List RegId) (mask : Word) (o : List Vec) (now : Nat) : Packet :=
  { pos := x.pos, seq := x.nextSeq, asid := x.modes.asid, tenant := x.modes.tenant, dests := dests, rmode := x.modes.rmode,
    nve := x.modes.nve, dze := x.modes.dze, nanmode := x.modes.nanmode, nudef := x.modes.nudef, op := op, mask := mask,
    opnd := o, since := now, began := none }

/-- The strand with an operation outstanding in its window (R57, R161). -/
def Strand.outstanding (x : Strand) (op : HOp) (dests : List RegId) (mask : Word) (la len : Nat) : Strand :=
  { x with
    nextSeq := nextSeqNo x.nextSeq
    window := x.window ++ [{ seq := x.nextSeq, dests := dests, mask := mask, la := la, left := la, ilen := BitVec.ofNat 2 len,
                             done := false, safePoint := none, base := { x.arch with pcw := x.basePc len },
                             acq := op.acquires, unsettled := none }] }

/-- A shipped form leaves a lean core (R160-R162): it stalls while the queue of its core or its window is full. -/
def ship (op : HOp) (dests : List RegId) (mask : Word) (o : List Vec) (la : Nat) (len : Nat) : Act Unit := do
  let s ← getS
  let x := s.me
  if 8 ≤ ((s.yard x.pos.yidx).heavy.queueOf x.pos.core).length || 16 ≤ (outstandingSeqs x.window).length then stall
  else do
    emit (.strand (x.outstanding op dests mask la len))
    modifyHeavy x.pos.yidx (fun H => H.enqueue (x.packet op dests mask o s.cycle))

/-- Whether an operation may end in a trap of its flags (R44, R46). -/
def Packet.mayTrap (k : Packet) : Bool := k.nve || k.dze || k.nanmode

/-- Whether a tile operation must find an earlier matrix operation of its strand ended (R202): one writes a register, the format
context among them, that the other names. -/
def HOp.clashes (op earlier : HOp) : Bool :=
  let writes := fun (o : HOp) => match o with
    | .mma d _ _ _ => [d]
    | .mmas d _ _ => [d]
    | o => o.tiles
  match op with
  | .tfmt => true
  | .tscale _ _ _ => true
  | op => (writes op).any (fun j => earlier.tiles.contains j) || (writes earlier).any (fun j => op.tiles.contains j)

/-- Whether an operation executes in the tile transfer unit (R200). -/
def HOp.isTransfer (op : HOp) : Bool := op.isTile && !op.isMatrix

/-- Whether the tile transfer unit, which serves its operations in dispatch order (R200), holds up none that was dispatched before
that of a slot with a number; an own strand has one at a time, whatever its number. -/
def Heavy.unitTurn (H : Heavy) (p : Pos) (seq : BitVec 8) : Bool :=
  (H.running.takeWhile (fun q => !(q.pos == p && (p.heavy || q.seq == seq)))).all (fun q => !q.op.isTransfer)

/-- The tile transfer unit without the form of an own strand. -/
def Heavy.leaveUnit (H : Heavy) (p : Pos) : Heavy := { H with running := H.running.filter (fun q => q.pos != p) }

/-- Whether an operation of the heavy core's own strand has to wait: a matrix operation while the matrix queue is full (R200); a
tile operation that clashes with one in a pipe (R202); one of the tile transfer unit while that holds up an earlier one (R200); and
a side effect, which nothing undoes, until no older instruction of the
strand can fault any more and its held stores have left (R93). -/
def State.ownHeld (s : State) (x : Strand) (op : HOp) : Bool :=
  let H := (s.yard x.pos.yidx).heavy
  let mine := H.matrixPackets.filter (fun k => k.pos == x.pos)
  (op.isMatrix && 8 ≤ H.matq.length) || (op.isTransfer && !H.unitTurn x.pos 0) || (op.isTile && mine.any (fun k => op.clashes k.op))
    || (op.side && !(x.arch.held.isEmpty
      && x.window.all (fun e => e.over || mine.any (fun k => k.seq == e.seq && !k.mayTrap))))

/-- Recency of an operation's tiles, which stands when the operation traps (R194). -/
def withRecency {α : Type} (op : HOp) (a : Act α) : Act α := fun r =>
  match useTiles op r with
  | .error e => .error e
  | .ok (_, r1) =>
    match a r1 with
    | .error (.trap c f keep) => .error (.trap c f ((r1.log.take (r1.log.length - r.log.length)).reverse ++ keep))
    | o => o

/-- A form of the heavy core's own strand in the tile transfer unit: while it is held up there, what is dispatched after it waits
(R200). `k` is the form as a packet. -/
def inUnit {α : Type} (k : Packet) (a : Act α) : Act α := fun r =>
  let Y := r.s.yard k.pos.yidx
  let out : List Eff :=
    if Y.heavy.running.any (fun q => q.pos == k.pos) then [.yard k.pos.yidx { Y with heavy := Y.heavy.leaveUnit k.pos }] else []
  match a r with
  | .error (.suspend run effs) =>
    let Z := (applyAll r.s effs).yard k.pos.yidx
    .error (.suspend run (if Z.heavy.running.any (fun q => q.pos == k.pos) then effs
      else effs ++ [.yard k.pos.yidx { Z with heavy := { Z.heavy with running := Z.heavy.running ++ [k] } }]))
  | .error (.trap c f keep) => .error (.trap c f (keep ++ out))
  | .error e => .error e
  | .ok (v, r') =>
    if out.isEmpty then .ok (v, r')
    else
      match modifyHeavy k.pos.yidx (fun H => H.leaveUnit k.pos) r' with
      | .ok (_, r'') => .ok (v, r'')
      | .error e => .error e

/-- A form executed by the heavy core's own strand. A matrix operation joins the matrix queue and stays outstanding (R200). -/
def executeHere (op : HOp) (dests : List RegId) (mask : Word) (o : List Vec) (la : BitVec 4) (len : Nat) : Act Unit := do
  let s ← getS
  if s.ownHeld s.me op then stall
  else do
    let run := withRecency op ((s.me.hctx s.cycle).eval op dests mask o)
    let out ← (if op.isTransfer then inUnit (s.me.packet op dests mask o s.cycle) run else run)
    match out with
    | .gone => pure ()
    | .regs effs => do
      let x ← getMe
      deliverAs true [] [] la false (effs.map (x.arch.merge mask))
    | .matrix slot => do
      let x ← getMe
      emit (.strand (x.outstanding op dests mask la.toNat len))
      modifyHeavy x.pos.yidx (fun H => { H with matq := H.matq ++ [⟨x.packet op dests mask o s.cycle, slot⟩] })

/-- The class-H part of a form whose operands are read: a memory form issues under no older acquire (R291). -/
def heavyForm (len : Nat) (op : HOp) (dests : List RegId) (mask : Word) (o : List Vec) (la : BitVec 4) : Act Unit := do
  forAll dests claim
  if op.isMemory then awaitAcquires else pure ()
  let x ← getMe
  if x.pos.heavy then executeHere op dests mask o la len else ship op dests mask o la.toNat len

/-! ### Forms -/

/-- sd from scalar operands (R178-R180, R183). -/
def heavyScalar (op : HOp) (d : BitVec 5) (srcs : List (BitVec 5)) (la : BitVec 4) (len : Nat) : Act Unit := do
  let o ← collect srcs (fun r => do
    let v ← rdS r
    return scalarSlot v)
  heavyForm len op [.s d] (BitVec.allOnes 64) o la

/-- vd from vector operands under a mask (R181, R182). -/
def heavyVector (op : HOp) (d : BitVec 5) (srcs : List (BitVec 5)) (m : BitVec 3) (len : Nat) : Act Unit := do
  let o ← collect srcs rdV
  let k ← rdM m
  let _ ← rdOld d m
  heavyForm len op [.v d] k o 0

/-- A form of major 0x34 with its scalar operands; a side effect of an activation before MDONE that stores goes to its
hold, which must have room (R382). -/
def tileForm (op : HOp) (dests : List RegId) (srcs : List (BitVec 5)) (la : BitVec 4) (len : Nat) : Act Unit := do
  needMatrix
  let o ← collect srcs (fun r => do
    let v ← rdS r
    return scalarSlot v)
  heavyForm len op dests (BitVec.allOnes 64) o la

/-- TSTR. -/
def tstrForm (a : BitVec 3) (s : BitVec 5) (la : BitVec 4) (n : BitVec 5) (od : BitVec 2) (i : BitVec 24) (len : Nat) :
    Act Unit := do
  needMatrix
  let x ← getMe
  if x.holding then do
    waitShipped
    holdRoom false
  else pure ()
  let b ← rdS s
  heavyForm len (.tstr a n od i) [] (BitVec.allOnes 64) [scalarSlot b] la

/-- TMOVR and TMOVC: DIR 0 carries the vector, DIR 1 writes it. -/
def tmoveForm (op : HOp) (s : BitVec 5) (la : BitVec 4) (h : BitVec 1) (v : BitVec 5) (len : Nat) : Act Unit := do
  needMatrix
  let w ← rdS s
  if h = 0#1 then do
    let x ← rdV v
    heavyForm len op [] (BitVec.allOnes 64) [scalarSlot w, x] la
  else heavyForm len op [.v v] (BitVec.allOnes 64) [scalarSlot w] la

/-- AMOW (R315, R316): an activation releases its hold before one that returns a value (R382). -/
def amowForm (k : BitVec 2) (d a b : BitVec 5) (la : BitVec 4) (n : BitVec 5) (od sc : BitVec 2) (len : Nat) : Act Unit := do
  let x ← getMe
  if x.holding then do
    waitShipped
    holdRoom (d != 0#5)
  else pure ()
  let va ← rdS a
  let v ← rdV b
  heavyForm len (.amow k d n od sc) (if d = 0#5 then [] else [.s d, .s (d + 1)]) (BitVec.allOnes 64) [scalarSlot va, v] la

/-! ### Meanings: FP64 vectors (R181, R182) -/

def execVdopAdd (d a b : BitVec 5) (m : BitVec 3) (sp : SafePoint) :=
  instrH false false sp (heavyVector (.vdop 0) d [a, b] m (words false sp))
def execVdopSub (d a b : BitVec 5) (m : BitVec 3) (sp : SafePoint) :=
  instrH false false sp (heavyVector (.vdop 1) d [a, b] m (words false sp))
def execVdopMul (d a b : BitVec 5) (m : BitVec 3) (sp : SafePoint) :=
  instrH false false sp (heavyVector (.vdop 2) d [a, b] m (words false sp))
def execVdopMin (d a b : BitVec 5) (m : BitVec 3) (sp : SafePoint) :=
  instrH false false sp (heavyVector (.vdop 5) d [a, b] m (words false sp))
def execVdopMax (d a b : BitVec 5) (m : BitVec 3) (sp : SafePoint) :=
  instrH false false sp (heavyVector (.vdop 6) d [a, b] m (words false sp))
def execVdopDiv (d a b : BitVec 5) (m : BitVec 3) (sp : SafePoint) :=
  instrH false false sp (heavyVector (.vdop 3) d [a, b] m (words false sp))
def execVdopSqrt (d a : BitVec 5) (m : BitVec 3) (sp : SafePoint) :=
  instrH false false sp (heavyVector (.vdop 4) d [a] m (words false sp))
def execVdfma (d a b c : BitVec 5) (m : BitVec 3) (n : BitVec 1) (sp : SafePoint) :=
  instrH false false sp (heavyVector (.vdfma n) d [a, b, c] m (words false sp))

/-! ### Meanings: FP64 and F32 scalars (R178-R185) -/

def execDadd (d a b : BitVec 5) (la : BitVec 4) (sp : SafePoint) :=
  instrH false false sp (heavyScalar (.dfp 0) d [a, b] la (words false sp))
def execDsub (d a b : BitVec 5) (la : BitVec 4) (sp : SafePoint) :=
  instrH false false sp (heavyScalar (.dfp 1) d [a, b] la (words false sp))
def execDmul (d a b : BitVec 5) (la : BitVec 4) (sp : SafePoint) :=
  instrH false false sp (heavyScalar (.dfp 2) d [a, b] la (words false sp))
def execDdiv (d a b : BitVec 5) (la : BitVec 4) (sp : SafePoint) :=
  instrH false false sp (heavyScalar (.dfp 3) d [a, b] la (words false sp))
def execDsqrt (d a : BitVec 5) (la : BitVec 4) (sp : SafePoint) :=
  instrH false false sp (heavyScalar (.dfp 4) d [a] la (words false sp))
def execDmin (d a b : BitVec 5) (la : BitVec 4) (sp : SafePoint) :=
  instrH false false sp (heavyScalar (.dfp 5) d [a, b] la (words false sp))
def execDmax (d a b : BitVec 5) (la : BitVec 4) (sp : SafePoint) :=
  instrH false false sp (heavyScalar (.dfp 6) d [a, b] la (words false sp))
def execDcmp (d a b : BitVec 5) (la : BitVec 4) (c : BitVec 3) (sp : SafePoint) :=
  instrH false false sp (heavyScalar (.dcmp c) d [a, b] la (words false sp))
def execDcvtToF64 (d a : BitVec 5) (r : BitVec 3) (la : BitVec 4) (t : BitVec 3) (sp : SafePoint) :=
  instrH false false sp (heavyScalar (.dcvtTo t r) d [a] la (words false sp))
def execDcvtFromF64 (d a : BitVec 5) (r : BitVec 3) (la : BitVec 4) (t : BitVec 3) (sp : SafePoint) :=
  instrH false false sp (heavyScalar (.dcvtFrom t r) d [a] la (words false sp))
def execDfma (d a b c : BitVec 5) (la : BitVec 4) (sp : SafePoint) :=
  instrH false false sp (heavyScalar .dfma d [a, b, c] la (words false sp))
def execFdiv (d a b : BitVec 5) (la : BitVec 4) (sp : SafePoint) :=
  instrH false false sp (heavyScalar (.f32 0) d [a, b] la (words false sp))
def execFsqrt (d a : BitVec 5) (la : BitVec 4) (sp : SafePoint) :=
  instrH false false sp (heavyScalar (.f32 1) d [a] la (words false sp))
def execFexp2 (d a : BitVec 5) (la : BitVec 4) (sp : SafePoint) :=
  instrH false false sp (heavyScalar (.f32 2) d [a] la (words false sp))
def execFlog2 (d a : BitVec 5) (la : BitVec 4) (sp : SafePoint) :=
  instrH false false sp (heavyScalar (.f32 3) d [a] la (words false sp))
def execFsin (d a : BitVec 5) (la : BitVec 4) (sp : SafePoint) :=
  instrH false false sp (heavyScalar (.f32 4) d [a] la (words false sp))
def execFcos (d a : BitVec 5) (la : BitVec 4) (sp : SafePoint) :=
  instrH false false sp (heavyScalar (.f32 5) d [a] la (words false sp))
def execFrcp (d a : BitVec 5) (la : BitVec 4) (sp : SafePoint) :=
  instrH false false sp (heavyScalar (.f32 6) d [a] la (words false sp))
def execFrsq (d a : BitVec 5) (la : BitVec 4) (sp : SafePoint) :=
  instrH false false sp (heavyScalar (.f32 7) d [a] la (words false sp))

/-! ### Meanings: AMOW (R315, R316) -/

/-- How an AMOW of the heavy core's own strand may be unsettled (R484). -/
def amowOpening (i : Instr) (d : BitVec 5) (la : BitVec 4) (od : BitVec 2) : Opening :=
  opens i la (if d = 0#5 then [] else [.s d, .s (d + 1)]) (od.getLsbD 0)

def execAmowAdd (d a b : BitVec 5) (la : BitVec 4) (n : BitVec 5) (od sc : BitVec 2) (sp : SafePoint) :=
  instrHA (amowOpening (.amowAdd d a b 0 n od sc none) d la od) true true sp (amowForm 0 d a b la n od sc (words true sp))
def execAmowSwap (d a b : BitVec 5) (la : BitVec 4) (n : BitVec 5) (od sc : BitVec 2) (sp : SafePoint) :=
  instrHA (amowOpening (.amowSwap d a b 0 n od sc none) d la od) true true sp (amowForm 1 d a b la n od sc (words true sp))
def execAmowCas (d a b : BitVec 5) (la : BitVec 4) (n : BitVec 5) (od sc : BitVec 2) (sp : SafePoint) :=
  instrHA (amowOpening (.amowCas d a b 0 n od sc none) d la od) true true sp (amowForm 2 d a b la n od sc (words true sp))

/-! ### Meanings: tiles (R211-R221) -/

def execTcfg (d : BitVec 3) (s : BitVec 5) (la : BitVec 4) (sp : SafePoint) :=
  instrH false true sp (tileForm (.tcfg d) [] [s] la (words false sp))
def execTfmt (s : BitVec 5) (la : BitVec 4) (sp : SafePoint) :=
  instrH false true sp (tileForm .tfmt [] [s] la (words false sp))
def execTscale (h : BitVec 1) (s : BitVec 5) (la : BitVec 4) (n : BitVec 5) (od : BitVec 2) (sp : SafePoint) :=
  instrH true true sp (tileForm (.tscale h n od) [] [s] la (words true sp))
def execTzero (d : BitVec 3) (la : BitVec 4) (sp : SafePoint) :=
  instrH false true sp (tileForm (.tzero d) [] [] la (words false sp))
def execTldr (d : BitVec 3) (s : BitVec 5) (la : BitVec 4) (n : BitVec 5) (od : BitVec 2) (i : BitVec 24) (sp : SafePoint) :=
  instrH true true sp (tileForm (.tldr d n od i) [] [s] la (words true sp))
def execTstr (a : BitVec 3) (s : BitVec 5) (la : BitVec 4) (n : BitVec 5) (od : BitVec 2) (i : BitVec 24) (sp : SafePoint) :=
  instrH true true sp (tstrForm a s la n od i (words true sp))
def execTmovr (x : BitVec 3) (s : BitVec 5) (la : BitVec 4) (h : BitVec 1) (v : BitVec 5) (sp : SafePoint) :=
  instrH true true sp (tmoveForm (.tmovr x h) s la h v (words true sp))
def execTmovc (x : BitVec 3) (s : BitVec 5) (la : BitVec 4) (h : BitVec 1) (v : BitVec 5) (sp : SafePoint) :=
  instrH true true sp (tmoveForm (.tmovc x h) s la h v (words true sp))
def execMma (d a b : BitVec 3) (la : BitVec 4) (sp : SafePoint) :=
  instrH false true sp (tileForm (.mma d a b false) [] [] la (words false sp))
def execMmas (d a : BitVec 3) (s : BitVec 5) (la : BitVec 4) (sp : SafePoint) :=
  instrH false true sp (tileForm (.mmas d a false) [] [s] la (words false sp))
def execMmaSat (d a b : BitVec 3) (la : BitVec 4) (sp : SafePoint) :=
  instrH false true sp (tileForm (.mma d a b true) [] [] la (words false sp))
def execMmasSat (d a : BitVec 3) (s : BitVec 5) (la : BitVec 4) (sp : SafePoint) :=
  instrH false true sp (tileForm (.mmas d a true) [] [s] la (words false sp))
def execGload (s : BitVec 5) (la : BitVec 4) (n : BitVec 5) (od : BitVec 2) (i : BitVec 24) (sp : SafePoint) :=
  instrH true true sp (tileForm (.gload n od i) [] [s, s + 1] la (words true sp))
def execGdrop (s : BitVec 5) (la : BitVec 4) (sp : SafePoint) :=
  instrH false true sp (tileForm .gdrop [] [s] la (words false sp))
def execTdrain (d : BitVec 3) (la : BitVec 4) (sp : SafePoint) :=
  instrH false true sp (tileForm (.tdrain d) [] [] la (words false sp))
def execTfill (d : BitVec 3) (la : BitVec 4) (sp : SafePoint) :=
  instrH false true sp (tileForm (.tfill d) [] [] la (words false sp))
def execTstat (a : BitVec 3) (s : BitVec 5) (la : BitVec 4) (sp : SafePoint) :=
  instrH false false sp (tileForm (.tstat a) [.s s] [] la (words false sp))
def execTfree (d : BitVec 3) (la : BitVec 4) (sp : SafePoint) :=
  instrH false true sp (tileForm (.tfree d) [] [] la (words false sp))

/-! ### SHIPW and MIGRATE -/

/-- SHIPW (R186): in a window it issues and holds back what follows until nothing precedes it; at the heavy core it waits
until every older H-class form has completed. -/
def shipwForm : Act Unit := do
  let x ← getMe
  if x.pos.heavy then waitShipped
  else if x.window.isEmpty then pure ()
  else emit (.strand { x with
    window := x.window ++ [{ seq := 0, dests := [], mask := 0, la := 0, left := 0, ilen := 0, done := false, safePoint := none,
                             base := x.arch, acq := false, unsettled := none }] })

/-- MIGRATE (R187-R189). K.STATUS.MIG changes as the move begins. -/
def migrateForm : Act Unit := do
  let s ← getS
  let x := s.me
  if x.st.migt || (x.pos.heavy && x.pos.slot = 0) then pure ()
  else do
    waitShipped
    awaitStores
    if s.dev.forwards.any (fun f => f.2 == x.pos) then stall
    else if x.st.mig then
      emit (.strand { x with run := .moving (s.cycle + 48) x.home, st := { x.st with mig := false }, nextSeq := 1, fetchBuf := [] })
    else
      match s.ownFor x.pos.yidx with
      | some p =>
        emit (.strand { x with run := .moving (s.cycle + 48) p, st := { x.st with mig := true }, fetchBuf := [] })
      | none => do
        emit (.strand { x with run := .slotWait, fetchBuf := [] })
        modifyHeavy x.pos.yidx (fun H => { H with ownWait := H.ownWait ++ [x.pos] })

def execShipw (sp : SafePoint) := instrH false false sp shipwForm
def execMigrate (sp : SafePoint) := instr false true sp migrateForm

end Sys2Proof.Machine
end

