-- ==== Sys2Proof/Machine/Fetch.lean ====
section
/-! DEFINITION. Fetching an instruction (R61-R64, R485): the fetch buffer, the instruction cache, and the faults of a fetch. -/
namespace Sys2Proof.Machine

/-- Bytes at a virtual address that the fetch buffer holds (R63); blocks are named by their virtual block number. -/
def Strand.fetched (x : Strand) (va n : Nat) : Option (List Byte) :=
  (List.range n).mapM (fun i =>
    (x.fetchBuf.find? (fun b => b.1 == (va + i) / 128)).bind (fun b => b.2[(va + i) % 128]?))

/-- The word at a virtual address in the fetch buffer. -/
def Strand.fetchedWord (x : Strand) (va : Nat) : Option (BitVec 32) :=
  (x.fetched va 4).map (fun b => BitVec.ofNat 32 (leValue b))

/-- The first byte of the next instruction that the fetch buffer lacks, and whether it is the base word's; none if the whole
instruction is there. -/
def Strand.missing (x : Strand) : Option (Nat × Bool) :=
  let pc := (pcOf x.arch.pcw).toNat
  match x.fetchedWord pc with
  | none => some (pc, true)
  | some w =>
    let n := 4 * lengthOf w
    match x.fetched pc n with
    | some _ => none
    | none => some ((pc + n - 1) / 128 * 128, false)

/-- The key of a code byte (R61, R62): a later word on a following page has cause 0x09. -/
def fetchKey (x : Strand) (va : Nat) (base : Bool) : Act Nat := fun r =>
  let pc := (pcOf x.arch.pcw).toNat
  match translate x.who (BitVec.ofNat 64 va) .fetch r with
  | .error (.trap c f k) =>
    if base || va / 4096 = pc / 4096 then .error (.trap c (if base then f else pcOf x.arch.pcw) k)
    else .error (.trap 0x09 (BitVec.ofNat 64 va) [])
  | o => o

/-- A block entered in the fetch buffer: a new block of the program counter stands there alone. -/
def Strand.enterBlock (x : Strand) (block : Nat) (bytes : List Byte) : Strand :=
  let pcb := (pcOf x.arch.pcw).toNat / 128
  { x with fetchBuf := (if block = pcb then [] else x.fetchBuf.filter (fun b => b.1 == pcb)) ++ [(block, bytes)] }

/-- The fetch buffer holds the block of the program counter and at most the one after it (R63). -/
def Strand.pruned (x : Strand) : Strand :=
  let pcb := (pcOf x.arch.pcw).toNat / 128
  { x with fetchBuf := x.fetchBuf.filter (fun b => b.1 == pcb || b.1 == pcb + 1) }

/-- Whether a block of a core's instruction cache is there: a heavy core's is part of its private cache (R20). -/
def State.icacheHas (s : State) (k : Nat × Bool × Nat) (line : Nat) : Bool :=
  !k.2.1 || (s.yard k.1).heavy.privCache.any (fun l => l.line == line)

/-- A block in a core's instruction cache. -/
def State.icacheLine (s : State) (k : Nat × Bool × Nat) (line : Nat) : Option (Nat × List Byte) :=
  if s.icacheHas k line then (s.core k).icache.find? (fun e => e.1 == line) else none

/-- A block entered in a core's instruction cache, which holds 64 blocks on a lean core and what the private cache holds on a heavy
one (R20). -/
def State.icacheInsert (s : State) (k : Nat × Bool × Nat) (line : Nat) (bytes : List Byte) : List (Nat × List Byte) :=
  let rest := (s.core k).icache.filter (fun e => e.1 != line && s.icacheHas k e.1)
  (line, bytes) :: (if k.2.1 then rest else rest.take 63)

/-- The next instruction's bytes from the fetch buffer; a block of the instruction cache comes at once, and for any other
the strand is Stalled until it arrives (R485). -/
def fetchBytes : Nat → Act (List Byte)
  | 0 => suspendAs .fetching []
  | fuel + 1 => do
    let s ← getS
    let x := s.me
    match x.missing with
    | none =>
      let pc := (pcOf x.arch.pcw).toNat
      let n := 4 * lengthOf ((x.fetchedWord pc).getD 0)
      return (x.fetched pc n).getD []
    | some (va, base) => do
      let k ← fetchKey x va base
      let key := k / 128 * 128
      if s.poisonedAt x.pos.yidx x.pos.heavy [(key, 128)] then raise 0x50 (s.poisonAddr x.pos.yidx x.pos.heavy [(key, 128)])
      else
        match (if isDram key then s.icacheLine (coreKey x.pos) (key / 128) else none) with
        | some e => do
          emit (.strand (x.enterBlock (va / 128) e.2))
          fetchBytes fuel
        | none => suspendAs .fetching []

/-- The bytes of the strand's next instruction. -/
def fetchInstr : Act (List Byte) := do
  let x ← getMe
  if x.pruned.fetchBuf.length = x.fetchBuf.length then pure () else emit (.strand x.pruned)
  fetchBytes 3

/-- What a fetch of a block leaves in the caches (R485): it passes through the yard cache or the private cache, and no L1. -/
def fetchTouch (x : Strand) (g : Seg) : Act Unit := do
  let w := x.toucher 30
  let line := g.key / 128
  let s ← getS
  if isYardMem g.key then pure ()
  else if g.meets then emit (.touches (s.touches ++ s.segTouches w x.modes.asid false g))
  else do
    let _ ← cacheTouch w line none
    supplyLine w g.key (BitVec.allOnes 128) false

/-- The bytes that a fetch finds (R485): those that a load by the strand through its yard domain would see. -/
def State.codeBytes (s : State) (x : Strand) (g : Seg) : List Byte :=
  (List.range g.n).map (fun i => match x.ownByte (g.key + i) with
    | some b => b
    | none =>
      if s.tiledIn x.modes.asid g (g.key + i) then s.mem.read (g.key + i) else s.cachedByte x.pos.yidx x.pos.heavy (g.key + i))

/-- A missing block arrives (R485): as a load of the block by the strand with NU 30 finds it, into the instruction cache, or from
the banks of yard memory. -/
def fillBlock (va : Nat) (base : Bool) : Act Unit := do
  let x ← getMe
  let k ← fetchKey x va base
  let key := k / 128 * 128
  awaitKeys [(key, 128)]
  let gs ← tileWays x.who .access (agentOf x.pos) (va / 128 * 128) [(key, 128)] .s false
  forAll gs (fetchTouch x)
  let s ← getS
  let bytes := gs.flatMap (s.codeBytes x)
  if isDram key then modifyCore (coreKey x.pos) (fun c => { c with icache := s.icacheInsert (coreKey x.pos) (key / 128) bytes })
  else pure ()
  modifyMe (fun x => { x.enterBlock (va / 128) bytes with run := .ready })

end Sys2Proof.Machine
end

