-- ==== Sys2Proof/Machine/Settle.lean ====
section
/-! DEFINITION. Unsettled local instructions (R484): the effect of each form that can be one, its commit as it settles, its
fault, and what it goes on waiting for. -/
namespace Sys2Proof.Machine

/-- A program on the strand of a slot, which stands in the focus meanwhile. -/
def onStrand (p : Pos) (name : String) (a : Act Unit) : Act Unit := do
  let s ← getS
  require (s.at? p).isSome name
  let back := s.me.pos
  emit (.focus p)
  a
  emit (.focus back)

/-- A program's end, whatever it is. -/
def capture {α : Type} (a : Act α) : Act (Except Stop α) := fun r =>
  match a r with
  | .ok (x, r') => .ok (.ok x, r')
  | .error e => .ok (.error e, r)

/-- Whether a program goes on from a state and changes it. -/
def State.changes (s : State) (a : Act Unit) : Bool :=
  match a ⟨s, []⟩ with
  | .ok (_, r) => decide (r.s ≠ s)
  | .error _ => false

/-- The effect of an unsettled instruction: the forms that R484 lists, with lookahead 0, since what follows one has issued. -/
def accessBody : Instr → Option (Act Unit)
  | .ld d a n _ w o _ => some (ldForm d a n 0 w o 0)
  | .ldOffset d a n _ w o i _ => some (ldForm d a n 0 w o (imm i))
  | .st d a n w o _ => some (stForm d a n w o 0)
  | .stOffset d a n w o i _ => some (stForm d a n w o (imm i))
  | .ldv d a n _ o _ => some (ldvForm false d a n 0 o 0)
  | .ldvOffset d a n _ o i _ => some (ldvForm false d a n 0 o (imm i))
  | .ldvL6 d a n _ o _ => some (ldvForm true d a n 0 o 0)
  | .ldvL6Offset d a n _ o i _ => some (ldvForm true d a n 0 o (imm i))
  | .stv d a n o _ => some (stvForm false d a n o 0)
  | .stvOffset d a n o i _ => some (stvForm false d a n o (imm i))
  | .stvL6 d a n o _ => some (stvForm true d a n o 0)
  | .stvL6Offset d a n o i _ => some (stvForm true d a n o (imm i))
  | .ldm d a n _ c o _ => some (ldmForm d a n 0 c o 0)
  | .ldmOffset d a n _ c o i _ => some (ldmForm d a n 0 c o (imm i))
  | .stm d a n c o _ => some (stmForm d a n c o 0)
  | .stmOffset d a n c o i _ => some (stmForm d a n c o (imm i))
  | .gath d a b _ w n m od sc _ => some (gathForm d a b 0 w n m od sc)
  | .ldvs d a b _ w n m od sc _ => some (ldvsForm d a b 0 w n m od sc)
  | .scat d a b w n m od sc _ => some (scatForm d a b w n m od sc)
  | .stvs d a b w n m od sc _ => some (stvsForm d a b w n m od sc)
  | .amoAdd d a b _ w n od sc _ => some (amoForm d a b 0 0 w n od sc)
  | .amoAnd d a b _ w n od sc _ => some (amoForm d a b 0 1 w n od sc)
  | .amoOr d a b _ w n od sc _ => some (amoForm d a b 0 2 w n od sc)
  | .amoXor d a b _ w n od sc _ => some (amoForm d a b 0 3 w n od sc)
  | .amoMinI d a b _ w n od sc _ => some (amoForm d a b 0 4 w n od sc)
  | .amoMinN d a b _ w n od sc _ => some (amoForm d a b 0 5 w n od sc)
  | .amoMaxI d a b _ w n od sc _ => some (amoForm d a b 0 6 w n od sc)
  | .amoMaxN d a b _ w n od sc _ => some (amoForm d a b 0 7 w n od sc)
  | .amoSwap d a b _ w n od sc _ => some (amoForm d a b 0 8 w n od sc)
  | .amoCas d a b _ w n od sc _ => some (amoForm d a b 0 9 w n od sc)
  | .amowAdd d a b _ n od sc _ => some (amowForm 0 d a b 0 n od sc 2)
  | .amowSwap d a b _ n od sc _ => some (amowForm 1 d a b 0 n od sc 2)
  | .amowCas d a b _ n od sc _ => some (amowForm 2 d a b 0 n od sc 2)
  | .amov d a t n m od sc _ => some (amovForm d a t n m od sc)
  | .cadd d a b _ s _ => some (caddForm d a b 0 s)
  | .cwait d a b _ s _ => some (cwaitForm d a b 0 s)
  | .cpoll d a _ s _ => some (cpollForm d a 0 s)
  | .trig d a b c _ _ => some (trigForm d a b c 0)
  | .swait d k b _ _ => some (swaitForm d k b 0)
  | .rdrecv d k b _ _ => some (rdrecvForm d k b 0)
  | _ => none

/-! ### Settling -/

/-- A register's value, and whether it is poisoned, taken from other registers. -/
def Arch.copyReg (src : Arch) (a : Arch) (r : RegId) : Arch :=
  let b := a.apply (match r with
    | .s n => .s n (src.sreg n)
    | .v n => .v n (src.vreg n)
    | .m n => .m n (src.mreg n))
  if src.poisoned.contains r then { b with poisoned := b.poisoned ++ [r] } else b

/-- Registers as a settled instruction leaves them for what follows it: its results and its held stores, which take their place in
the commit buffer after those of what precedes it (R170). -/
def Arch.settled (src : Arch) (dests : List RegId) (n : Nat) (a : Arch) : Arch :=
  let b := dests.foldl (Arch.copyReg src) a
  { b with held := b.held.take n ++ src.held.drop n ++ b.held.drop n }

/-- The strand as it stood at an entry of its window, with what precedes the entry there. -/
def Strand.standAt (x : Strand) (e : WEntry) (i id : Nat) : Strand :=
  { x with arch := e.base, window := x.window.take i, nextLocal := id }

/-- Whether a pair performs an instruction after agreement, so that the point after it is an agreed one (R439, R441): of those that
can be unsettled, all but loads and stores. -/
def Instr.agreedFirst (i : Instr) : Bool :=
  match i with
  | .ld .. | .ldOffset .. | .st .. | .stOffset .. | .ldv .. | .ldvOffset .. | .ldvL6 .. | .ldvL6Offset .. | .stv .. | .stvOffset ..
  | .stvL6 .. | .stvL6Offset .. | .ldm .. | .ldmOffset .. | .stm .. | .stmOffset .. | .gath .. | .ldvs .. | .scat .. | .stvs .. => false
  | _ => true

/-- A pair after an unsettled instruction of it has settled: its agreed point stands after the instruction, where nothing of its
interval precedes that one (R441); another joins its interval (R440). -/
def Pair.settled (p : Pair) (e : WEntry) (agreed : Bool) (z : Arch) (log : List Eff) : Pair :=
  if agreed then { p with agreed := { z with pcw := e.base.pcw + BitVec.ofNat 62 e.ilen.toNat, held := [] }, failed := false }
  else p.retired log

/-- The strand `x` after its entry `e` at place `i` has settled without fault, where `z` is the strand that its effect left and
`log` what it did. -/
def Strand.afterSettling (x : Strand) (e : WEntry) (i : Nat) (agreed : Bool) (log : List Eff) (z : Strand) : Strand :=
  let go := z.arch.settled e.dests e.base.held.length
  { z with
    nextLocal := x.nextLocal
    pair := z.pair.map (fun p => p.settled e agreed z.arch log)
    arch := go x.arch
    window := x.window.take i ++ { e with done := true, unsettled := none }
      :: (x.window.drop (i + 1)).map (fun f => { f with base := go f.base }) }

/-- The fault of an unsettled instruction that nothing precedes (R93, R173): what is younger is squashed. -/
def settleFault (e : WEntry) (i : Nat) (cause : BitVec 8) (faddr : Word) : Act Unit := do
  let x ← getMe
  sendCancel (x.window.drop (i + 1))
  modifyMe (fun x => { x with arch := e.base, window := [] })
  takeTrap e.base.pcw cause faddr e.ilen (e.la - e.left)

/-- An unsettled instruction of the strand in the focus, the entry at place `i` of its window, goes on: to its effect, to its fault
once nothing precedes it, or to what it waits for next. -/
def settleEntry (i : Nat) (e : WEntry) (u : Unsettled) : Act Unit := fun r =>
  let x := r.s.me
  let back := fun (effs : List Eff) (keep : Strand → Strand) => (do
    emit (.strand (x.standAt e i u.id))
    emitAll effs
    modifyMe keep : Act Unit)
  match accessBody u.instr with
  | none => .ok ((), r)
  | some body =>
    match body ⟨{ r.s with me := x.standAt e i u.id }, []⟩ with
    | .ok (_, r') => (do
        back r'.log.reverse (x.afterSettling e i (Instr.agreedFirst u.instr) r'.log.reverse)
        commitWindow : Act Unit) r
    | .error (.trap c f keep) =>
      if i = 0 then (do
        back keep (fun z => { z with arch := x.arch, window := x.window, nextLocal := x.nextLocal })
        settleFault e i c f : Act Unit) r
      else .ok ((), r)
    | .error (.suspend run effs) =>
      back effs (fun z =>
        { z with
          nextLocal := x.nextLocal
          arch := x.arch
          window := x.window.take i ++ { e with unsettled := some { u with why := run } } :: x.window.drop (i + 1) }) r
    | .error .hazard => .ok ((), r)
    | .error (.refuse f) => .error (.refuse f)

/-- Whether a strand waits in an instruction. -/
def RunState.isWaiting : RunState → Bool
  | .waiting (.yieldFor _) => false
  | .waiting _ => true
  | _ => false

/-- The first unsettled instruction of the strand in the focus, among those for which a test holds, that can go on. -/
def State.settles (s : State) (test : Unsettled → Bool) : Option (Nat × WEntry × Unsettled) :=
  (s.me.window.zipIdx).findSome? (fun e => match e.1.unsettled with
    | some u => if test u && s.changes (settleEntry e.2 e.1 u) then some (e.2, e.1, u) else none
    | none => none)

/-- An unsettled instruction of the strand in the focus goes on, where one can. -/
def settleOne (test : Unsettled → Bool) (name : String) : Act Unit := do
  let s ← getS
  let (i, e, u) ← requireSome (s.settles test) name
  settleEntry i e u

/-- SETTLE (R484): an access whose translation is resolved goes on, to its effect or its fault. One with lookahead 0, under which
nothing has issued, is made again by its strand. -/
def execSettle (p : Pos) :=
  event (onStrand p "SETTLE" (do
    let s ← getS
    if s.me.run == .walking || s.me.run == .pageWait then do
      require (!s.awaits p.yidx s.me.who.asker) "SETTLE"
      emit (.strand { s.me with run := .ready })
    else settleOne (fun u => !u.why.isWaiting) "SETTLE"))

end Sys2Proof.Machine
end

