-- ==== Sys2Proof/Machine/Arrivals.lean ====
section
/-! DEFINITION. Device events at a strand and at the heavy core: results that arrive, code blocks, store
buffers, shipped work, matrix and tile operations, and moves of contexts (R57, R162-R175, R187-R189, R200-R203, R222,
R237, R485). An event that nothing in the state is waiting for is refused. -/
namespace Sys2Proof.Machine

/-! ### Local results (R57, R484) -/

/-- A result that arrives is written, also in the registers that a squash would restore, and in those of the agreed point of a pair
that it belongs to (R441). -/
def Strand.arrive (x : Strand) (q : Pending) : Strand :=
  let y := q.effs.foldl Strand.applyReg x
  { y with
    window := y.window.map (fun e => { e with base := q.effs.foldl Arch.apply e.base })
    pair := y.pair.map (fun p =>
      if q.agreed then { p with agreed := q.effs.foldl Arch.apply p.agreed } else p.returned q.effs) }

/-- The outstanding local result at a place of the list is written. -/
def arriveLocal (n : Nat) (name : String) : Act Unit := do
  let x ← getMe
  let p ← requireSome x.pending[n]? name
  emit (.strand { x.arrive p with pending := x.pending.eraseIdx n })

/-- LONG_LATENCY_COMPLETION (R57): of a result that returns to the core where the strand stands. -/
def execLongLatencyCompletion (p : Pos) (n : Nat) :=
  event (onStrand p "LONG_LATENCY_COMPLETION" (do
    let x ← getMe
    require (x.pending[n]?.any (fun q => !q.forwarded)) "LONG_LATENCY_COMPLETION"
    arriveLocal n "LONG_LATENCY_COMPLETION"))

/-- A program whose wait is no failure: what it does before it waits stands. A trap of it is left to the strand's own next try. -/
def goingOn (a : Act Unit) (otherwise : Act Unit) : Act Unit := fun r =>
  match a r with
  | .error (.suspend _ effs) => emitAll effs r
  | .error (.trap _ _ _) => otherwise r
  | o => o

/-- FETCH_FILL (R485). A fetch that cannot translate any more is tried again by its strand. -/
def execFetchFill (p : Pos) :=
  event (onStrand p "FETCH_FILL" (do
    let x ← getMe
    require (x.run == .fetching) "FETCH_FILL"
    let again : Act Unit := modifyMe (fun x => { x with run := .ready })
    match x.missing with
    | none => again
    | some (va, base) => goingOn (fillBlock va base) again))

/-! ### Store buffers (R237, R274) -/

/-- The oldest store of a store buffer leaves it, or asks for the tenure it needs; the mark of a FENCE takes effect (R298). A
store waits for its bytes (R234, R306). -/
def drainStore (name : String) : Act Unit := do
  let s ← getS
  let x := s.me
  match x.storeBuf with
  | [] => notEnabled name
  | st :: rest =>
    match st.mark with
    | some m => do
      emit (.strand { x with storeBuf := rest })
      fenceMark m
    | none => do
      require (!s.keyHeld st.key st.bytes.length) name
      let mine := s.reqsOf x.pos .buffer
      require (!mine.any (fun r => !r.done)) name
      if mine.isEmpty then pure () else emit (.dev (s.dev.dropReqs x.pos .buffer))
      let asid := x.modes.asid
      let w : Toucher := ⟨x.pos, x.tid, x.modes.tenant, st.nu, st.nudef, x.pos.heavy, none, none⟩
      let perform := fun (way : TenWay) => do
        performMet w asid st x.fenceEpoch way
        modifyMe (fun x => { x with storeBuf := rest })
        if st.rel.isSome then endFence else pure ()
      if s.dev.tiles.isEmpty || !isDram st.key then perform .untiled
      else
        match s.meetAccess x.pos .buffer (agentOf x.pos) x.tid asid st.va.toNat st.bytes.length .w false with
        | .ok (d, way) => do
          emit (.dev (d.dropReqs x.pos .buffer))
          perform way
        | .error rs => modifyDev (fun d => { d with tenReqs := d.tenReqs ++ rs })

/-- STORE_BUFFER_DRAIN (R237). -/
def execStoreBufferDrain (p : Pos) :=
  event (onStrand p "STORE_BUFFER_DRAIN" (drainStore "STORE_BUFFER_DRAIN"))

/-! ### Guest queues (R163-R168, R173-R175) -/

/-- Nothing older in the sender's window can fault any more (R93, R168, R172). -/
def Strand.olderDone (x : Strand) (seq : BitVec 8) : Bool := (x.window.takeWhile (fun e => e.seq != seq)).all WEntry.over

/-- Whether the matrix queue has room for an operation (R200). -/
def Heavy.takes (H : Heavy) (op : HOp) : Bool := !op.isMatrix || H.matq.length < 8

/-- Whether the head of a queue may be dispatched (R168, R200). -/
def State.dispatchable (s : State) (y : Nat) (k : Packet) : Bool :=
  let H := (s.yard y).heavy
  match s.at? k.pos with
  | none => false
  | some x =>
    x.window.any (fun e => e.seq == k.seq && !e.done) && (!k.op.side || x.olderDone k.seq)
      && !H.cancels.any (fun c => c.pos == k.pos) && H.takes k.op

/-- The heads of the guest queues: core number and packet. -/
def Heavy.heads (H : Heavy) : List (Nat × Packet) :=
  ((H.queue.map (fun k => k.pos.core)).eraseDups).filterMap (fun c => (H.queueOf c).head?.map (fun k => (c, k)))

/-- The weight of a guest queue (R165). -/
def YardRegs.weight (r : YardRegs) (q : Nat) : Nat :=
  let w := r.mwgt.toList.getD (q / 8) 0
  max 1 ((w.extractLsb' (8 * (q % 8)) 4).toNat)

/-- The first queue with credit in the scan of R167. -/
def scanCredit (ptr : Nat) (credit : List (Nat × Nat)) (ready : List Nat) : Option Nat :=
  bestBy (fun b a => (b + 128 - ptr) % 128 < (a + 128 - ptr) % 128) (ready.filter (fun q => 0 < assocGet 0 credit q))

/-- DispatchGuest's choice among the dispatchable heads (R167): the queue, the credits and the pointer after it. -/
def chooseGuest (regs : YardRegs) (H : Heavy) (now : Nat) (heads : List (Nat × Packet)) :
    Option (Nat × List (Nat × Nat) × Nat) :=
  let age := regs.gage.toNat % 65536
  let old := if age = 0 then [] else heads.filter (fun h => age < now - h.2.since)
  match bestBy (fun (b a : Nat × Packet) => b.2.since < a.2.since || (b.2.since == a.2.since && b.1 < a.1)) old with
  | some h => some (h.1, assocSet H.credit h.1 (assocGet 0 H.credit h.1 - 1), H.ptr)
  | none =>
    let ready := heads.map (fun h => h.1)
    let credit := match scanCredit H.ptr H.credit ready with
      | some _ => H.credit
      | none => (List.range 128).map (fun q => (q, regs.weight q))
    (scanCredit H.ptr credit ready).map (fun q =>
      let c := assocGet 0 credit q - 1
      (q, assocSet credit q c, if c = 0 then (q + 1) % 128 else H.ptr))

/-- The heavy core's credits as a position is assigned: reloaded when both are spent (R164). -/
def Heavy.reload (H : Heavy) (share : Word) : Heavy :=
  if H.co = 0 && H.cg = 0 then { H with co := max 1 (share.toNat % 16), cg := max 1 (share.toNat / 16 % 16) } else H

/-- A position of the cycle given to the guest class, or to an own strand, which is the one that fills the last own position
(R90, R164). A class without credit spends none. -/
def Heavy.spendGuest (H : Heavy) (share : Word) : Heavy :=
  let H := H.reload share
  { H with cg := H.cg - 1, slotNo := H.slotNo + 1 }
def Heavy.spendOwn (H : Heavy) (share : Word) (slot : Nat) : Heavy :=
  let H := H.reload share
  { H with co := H.co - 1, slotNo := H.slotNo + 1, lead := some slot }

/-- A packet leaves its queue. -/
def Heavy.dequeue (H : Heavy) (k : Packet) (now : Nat) : Heavy :=
  { H with queue := newHeads H.queue (H.queue.filter (fun q => !(q.pos == k.pos && q.seq == k.seq))) now }

/-- A packet that is held up no longer. -/
def Heavy.unhold (H : Heavy) (k : Packet) : Heavy :=
  { H with running := H.running.filter (fun q => !(q.pos == k.pos && q.seq == k.seq)) }

/-- A packet executed for its sender, which stands in the focus (R168, R172): its result, its fault, or its place in the matrix
queue; where an access of it has to wait, or an earlier operation of the tile transfer unit is held up (R200), it is held up,
dispatched. -/
def runPacket (y : Nat) (k : Packet) (name : String) : Act Unit := do
  let s ← getS
  let reply := fun (b : ReplyBody) =>
    modifyHeavy y (fun H =>
      let H := H.unhold k
      let rep : Reply := ⟨k.pos, k.seq, y, b⟩
      if k.op.isTile then { H with transfers := H.transfers ++ [⟨rep, k.op.tiles⟩] } else { H with replies := H.replies ++ [rep] })
  let H := (s.yard y).heavy
  let turn := H.takes k.op && (!k.op.isTransfer || H.unitTurn k.pos k.seq)
  let r ← capture (if turn then (k.hctx s.me.tid).eval k.op k.dests k.mask k.opnd else stall)
  match r with
  | .ok (.regs effs) => reply (.done effs)
  | .ok (.matrix slot) => modifyHeavy y (fun H => { H.unhold k with matq := H.matq ++ [⟨k, slot⟩] })
  | .ok .gone => pure ()
  | .error (.trap c f keep) => do
    emitAll keep
    reply (.fault c f none)
  | .error (.suspend _ effs) => do
    emitAll effs
    modifyHeavy y (fun H =>
      if H.running.any (fun q => q.pos == k.pos && q.seq == k.seq) then H else { H with running := H.running ++ [k] })
  | .error .hazard => notEnabled name
  | .error (.refuse _) => notEnabled name

/-- What the guest class would do with a position: a dispatched packet that was held up goes on, or the head of a queue is
dispatched, with the credits and the pointer after it. -/
inductive GuestPick where
  | resume (k : Packet)
  | dispatch (k : Packet) (credit : List (Nat × Nat)) (ptr : Nat)

/-- A packet that was held up and can go on. -/
def State.resumable (s : State) (y : Nat) : Option Packet :=
  (s.yard y).heavy.running.find? (fun k => !k.pos.heavy && s.changes (onStrand k.pos "" (runPacket y k "")))

/-- GuestReady of R164, with the choice of R167: at most one packet leaves each queue per cycle. A dispatched packet that was held up
goes on before any head is dispatched, and takes a position and the guest class's credit as a dispatch does: R164 to R167 do not
speak of it (DESIGN CHOICE, log entry 83). -/
def State.guestPick (s : State) (y : Nat) : Option GuestPick :=
  let Y := s.yard y
  match s.resumable y with
  | some k => some (.resume k)
  | none =>
    (chooseGuest Y.regs Y.heavy s.cycle
      (Y.heavy.heads.filter (fun h => s.dispatchable y h.2 && !Y.heavy.sent.contains h.1))).bind (fun c =>
        (Y.heavy.queueOf c.1).head?.map (fun k => .dispatch k c.2.1 c.2.2))

/-- OwnReady of R164. -/
def State.ownReady (s : State) (y : Nat) : Bool := s.strands.any (fun x => x.pos.heavy && x.pos.yidx == y && x.canIssue)

/-- The class that takes the heavy core's next position (R164): whether it is that of the own strands; none while both have
nothing to do. -/
def State.ownsPosition (s : State) (y : Nat) : Option Bool :=
  let Y := s.yard y
  let H := Y.heavy.reload Y.regs.share
  let own := s.ownReady y
  let guest := (s.guestPick y).isSome
  if 0 < H.co && own then some true
  else if 0 < H.cg && guest then some false
  else if own then some true
  else if guest then some false
  else none

/-- The cycle of a heavy core ends when its four positions are filled or nothing can fill the next one (R164). -/
def State.endHeavyCycle (s : State) (y : Nat) : State :=
  let H := (s.yard y).heavy
  if H.slotNo = 0 || (H.slotNo < 4 && (s.ownsPosition y).isSome) then s
  else { s with yards := assocSet s.yards y { s.yard y with heavy := { H with slotNo := 0, sent := [], lead := none } } }

/-- GUEST_DISPATCH (R164, R167): the guest class takes a position. -/
def execGuestDispatch (y : Nat) :=
  event (do
    let name := "GUEST_DISPATCH"
    let s ← getS
    require (s.ownsPosition y == some false) name
    let pick ← requireSome (s.guestPick y) name
    modifyHeavy y (fun H => H.spendGuest (s.yard y).regs.share)
    match pick with
    | .resume k => onStrand k.pos name (runPacket y k name)
    | .dispatch k credit ptr => do
      modifyHeavy y (fun H =>
        { H.dequeue k s.cycle with credit := credit, ptr := ptr, sent := H.sent ++ [k.pos.core] })
      onStrand k.pos name (do
        let s ← getS
        useTiles k.op
        runPacket y { k with began := some (s.cycle, ownClock none (s.team s.me.tid)) } name))

/-- Whether a dispatched packet stands parked on a host page request (R175, R356). -/
def State.packetParked (s : State) (k : Packet) : Bool :=
  s.dev.pageReqs.any (fun q => q.waiters.any (fun v => v.pri && v.who == .strand k.pos true k.seq.toNat))

/-- CANCEL_PACKET (R174, R175): what is not dispatched, and what is parked on a host page request, is removed; what else is
dispatched goes on. A strand stopped for a full save goes back to its oldest removed instruction. -/
def execCancelPacket (y : Nat) :=
  event (do
    let name := "CANCEL_PACKET"
    let s ← getS
    let H := (s.yard y).heavy
    let c ← requireSome H.cancels.head? name
    let hit := fun (k : Packet) => k.pos == c.pos && c.seqs.contains k.seq
    let parked := H.running.filter (fun k => hit k && s.packetParked k)
    let gone := (H.queue.filter hit ++ parked).map (fun k => k.seq)
    let left := fun (a : Asker) => match a with
      | .strand p true n => p == c.pos && parked.any (fun k => k.seq.toNat == n)
      | _ => false
    modifyYard y (fun Y => Y.leave left)
    modifyDev (fun d => d.leave left)
    modifyHeavy y (fun H =>
      { H with
        queue := newHeads H.queue (H.queue.filter (fun k => !hit k)) s.cycle
        running := H.running.filter (fun k => !parked.contains k)
        cancels := H.cancels.drop 1 })
    match s.at? c.pos with
    | none => pure ()
    | some x => do
      forAll (gone.filter (fun q => !x.window.any (fun e => e.seq == q && !e.done)))
        (fun q => modifyDev (fun d => d.dropReqs c.pos (.shipped q)))
      match (if x.stopped then x.window.find? (fun e => gone.contains e.seq) else none) with
      | none => pure ()
      | some e => onStrand c.pos name (do
        modifyMe (fun x => { x with arch := e.base, window := x.window.takeWhile (fun f => f.seq != e.seq) })
        commitWindow))

/-! ### Results and faults at the sender (R171, R173) -/

/-- A reply removed from the heavy core's list. -/
def takeReply (r : Reply) : Act Unit := modifyHeavy r.hyidx (fun H => { H with replies := H.replies.erase r })

/-- The reply for a slot's instruction. -/
def State.reply? (s : State) (p : Pos) (seq : BitVec 8) : Option Reply :=
  (s.yard p.yidx).heavy.replies.find? (fun r => r.pos == p && r.seq == seq)

/-- A result is written into the live registers, those of younger entries and those of a pair's agreed point (R171, R441). -/
def Strand.receive (x : Strand) (e : WEntry) (effs : List RegEff) : Strand :=
  let put := fun (a : Arch) => (effs.map (a.merge e.mask)).foldl Arch.apply a
  let younger := (x.window.dropWhile (fun f => f.seq != e.seq)).drop 1
  { x with
    arch := put x.arch
    window := x.window.takeWhile (fun f => f.seq != e.seq) ++ [{ e with done := true }]
      ++ younger.map (fun f => { f with base := put f.base })
    pair := x.pair.map (fun p => if p.since = e.seq then { p with agreed := put p.agreed } else p.returned (effs.map (x.arch.merge e.mask))) }

/-- SHIPPED_COMPLETION (R171). A result for a cancelled number is discarded (R173 step 4). -/
def execShippedCompletion (p : Pos) (seq : BitVec 8) :=
  event (onStrand p "SHIPPED_COMPLETION" (do
    let name := "SHIPPED_COMPLETION"
    let s ← getS
    let x := s.me
    let r ← requireSome (s.reply? p seq) name
    match r.body with
    | .fault _ _ _ => do
      require (!x.window.any (fun e => e.seq == seq)) name
      takeReply r
    | .done effs => do
      takeReply r
      match x.window.find? (fun e => e.seq == seq && !e.done) with
      | none => pure ()
      | some e => do
        emit (.strand (x.receive e effs))
        commitWindow))

/-- The fault of an entry at the head of the window taken (R173): what is younger is squashed. A pair that has not agreed on the
instruction's issue does so first (R440). -/
def remoteFault (e : WEntry) (seq : BitVec 8) (cause : BitVec 8) (faddr : Word) (rep : Option NanReport) (hyidx : Nat) : Act Unit := do
  let x ← getMe
  sendCancel (x.window.drop 1)
  let modes := match rep with
    | some n => { x.modes with nanrep := n }
    | none => x.modes
  let y := { x with arch := e.base, window := [] }
  match (x.pair.map (fun q => q.agreed == e.base || q.since == seq)) with
  | some false => emit (.strand y.flushPending.exchange)
  | _ => do
    emit (.strand { y.flushPending with modes := modes })
    modifyMe (fun z => { z with pair := z.pair.map (fun q => { q with agreed := z.arch, count := 0, since := 0 }) })
    if cause = 0x50#8 then modifyMe (fun z => { z with run := .consumed (faddr.toNat % 2 ^ 63) })
    else routeTrap (TrapRegs.of (0x80#8 ||| cause) e.base.pcw faddr e.ilen (e.la - e.left) hyidx seq)

/-- The fault of a matrix operation of the heavy core's own strand, at the head of its window, is a local one (R75, R93). -/
def ownMatrixFault (e : WEntry) (cause : BitVec 8) (rep : Option NanReport) : Act Unit := do
  let x ← getMe
  sendCancel (x.window.drop 1)
  modifyMe (fun x => { x with
    arch := e.base, window := [], modes := match rep with
      | some n => { x.modes with nanrep := n }
      | none => x.modes })
  takeTrap e.base.pcw cause 0 e.ilen (e.la - e.left)

/-- SHIPPED_FAULT (R173): taken once every older instruction has returned or settled. A heavy core's own strand has the causes of
its own yard without bit 7 (R75, R437). -/
def execShippedFault (p : Pos) (seq : BitVec 8) :=
  event (onStrand p "SHIPPED_FAULT" (do
    let name := "SHIPPED_FAULT"
    let s ← getS
    let r ← requireSome (s.reply? p seq) name
    let e ← requireSome s.me.window.head? name
    require (e.seq == seq && !e.done) name
    match r.body with
    | .done _ => notEnabled name
    | .fault cause faddr rep => do
      takeReply r
      if p.heavy then ownMatrixFault e cause rep else remoteFault e seq cause faddr rep r.hyidx))

/-! ### Matrix pipes and the tile transfer unit (R200, R201, R222) -/

/-- MATRIX_PIPE_START (R200). -/
def execMatrixPipeStart (y : Nat) :=
  event (do
    let s ← getS
    let H := (s.yard y).heavy
    let m ← requireSome H.matq.head? "MATRIX_PIPE_START"
    let p ← requireSome H.freePipe "MATRIX_PIPE_START"
    modifyHeavy y (fun H => { H with matq := H.matq.drop 1, pipes := H.pipes ++ [(p, m)] }))

/-- How a matrix operation ends for its sender: a lean strand's with a reply, an own strand's in its window. -/
def endMatrix (y : Nat) (k : Packet) (b : ReplyBody) (name : String) : Act Unit := do
  let x ← getMe
  if k.pos.heavy then
    match b with
    | .done effs => do
      match x.window.find? (fun e => e.seq == k.seq && !e.done) with
      | none => pure ()
      | some e => do
        emit (.strand (x.receive e effs))
        commitWindow
    | .fault cause _ rep => do
      let e ← requireSome x.window.head? name
      require (e.seq == k.seq && !e.done) name
      ownMatrixFault e cause rep
  else modifyHeavy y (fun H => { H with replies := H.replies ++ [⟨k.pos, k.seq, y, b⟩] })

/-- MATRIX_COMPLETION (R201, R217): td is written, or the trap of its flags goes back with the report of R46. -/
def execMatrixCompletion (y pipe : Nat) :=
  event (do
    let name := "MATRIX_COMPLETION"
    let s ← getS
    let e ← requireSome ((s.yard y).heavy.pipes.find? (fun e => e.1 == pipe)) name
    let k := e.2.pkt
    modifyHeavy y (fun H => { H with pipes := H.pipes.filter (fun f => f.1 != pipe) })
    onStrand k.pos name (do
      let r ← matrixResult k.op e.2.slot
      match r with
      | none => endMatrix y k (.done []) name
      | some (d, cfg, m) =>
        match fpCause k.nve k.dze k.nanmode m.fl with
        | some cause => do
          let x ← getMe
          if (x.tile d).st = .empty then releaseTile d else pure ()
          endMatrix y k (.fault cause 0 (if k.nanmode then m.report pipe y else none)) name
        | none => do
          putTileData d (TileData.ofRows cfg.et.size m.rows)
          endMatrix y k (.done [.flags m.fl.bits (!k.nanmode)]) name))

/-- TILE_TRANSFER_COMPLETION (R222): in dispatch order. -/
def execTileTransferCompletion (y : Nat) :=
  event (do
    let s ← getS
    let t ← requireSome (s.yard y).heavy.transfers.head? "TILE_TRANSFER_COMPLETION"
    modifyHeavy y (fun H => { H with transfers := H.transfers.drop 1, replies := H.replies ++ [t.reply] }))

/-! ### Moves (R187-R189) -/

/-- Forwarding entries that no outstanding result needs are released (R188). -/
def releaseForwards : Act Unit := do
  let s ← getS
  let kept := s.dev.forwards.filter (fun f => match s.at? f.2 with
    | some x => x.pending.any (fun q => q.forwarded)
    | none => false)
  if kept = s.dev.forwards then pure () else emit (.dev { s.dev with forwards := kept })

/-- What the device holds under a slot, under the slot to which its strand has moved. -/
def Dev.follow (d : Dev) (p q : Pos) : Dev :=
  { d with
    tenReqs := d.tenReqs.map (fun r => if r.pos = p then { r with pos := q } else r)
    acquires := d.acquires.map (fun a => if a.w.pos = p then { a with w := { a.w with pos := q } } else a) }

/-- MIGRATE_TRANSFER_DONE (R187, R188): results still outstanding leave a forwarding entry. -/
def execMigrateTransferDone (p : Pos) :=
  event (do
    let name := "MIGRATE_TRANSFER_DONE"
    let s ← getS
    let x ← requireSome (s.at? p) name
    match x.run with
    | .moving t dst => do
      require (t ≤ s.cycle) name
      clearSlot p
      addStrand { x with pos := dst, run := .ready, pending := x.pending.map (fun q => { q with forwarded := true }) }
      modifyDev (fun d => d.follow p dst)
      if x.pending.isEmpty then pure ()
      else modifyDev (fun d => { d with forwards := d.forwards ++ [(p, dst)] })
    | _ => notEnabled name)

/-- FORWARDED_REPLY (R188): the oldest result that returns to the core that the strand has left is written. -/
def execForwardedReply (p : Pos) :=
  event (onStrand p "FORWARDED_REPLY" (do
    let x ← getMe
    let n ← requireSome (x.pending.findIdx? (fun q => q.forwarded)) "FORWARDED_REPLY"
    arriveLocal n "FORWARDED_REPLY"
    releaseForwards))

/-- The strands that wait for an own slot take it in order of request (R189). One that was saved there and is parked with its trap
stands there at once. -/
def serveOwnWait (y : Nat) : Nat → Act Unit
  | 0 => pure ()
  | fuel + 1 => do
    let s ← getS
    match (s.yard y).heavy.ownWait, s.freeOwn y with
    | p :: rest, some q => do
      modifyHeavy y (fun H => { H with ownWait := rest })
      let run : Option RunState := (s.at? p).map (fun x => x.run)
      match run with
      | some .slotWait => modifyAt p (fun x => { x with run := .moving (s.cycle + 48) q, st := { x.st with mig := true } })
      | some .trapWait => modifyAt p (fun x => { x with run := .moving (s.cycle + 48) q })
      | some (.parkedTrap _) =>
        match s.at? p with
        | none => pure ()
        | some x => do
          clearSlot p
          addStrand { x with pos := q }
          modifyYard y (fun Y => { Y with notes := Y.notes.map (fun n => if n = p then q else n) })
      | _ => pure ()
      serveOwnWait y fuel
    | _, _ => pure ()

end Sys2Proof.Machine
end

