-- ==== Sys2Proof/Machine/Waits.lean ====
section
/-! DEFINITION. Device events of waits, triggers, clocks, tenure and translation (R45, R115, R234, R241, R249, R271-R274, R300,
R320-R324, R352-R357). -/
namespace Sys2Proof.Machine

/-! ### Waits (R115, R320-R322) -/

/-- A waiting strand executes its instruction again. -/
def wakeStrand : Act Unit := modifyMe (fun x => { x with run := .ready })

/-- Whether a run state is a wait in CWAIT, SWAIT or RDRECV. -/
def RunState.isTimed : RunState → Bool
  | .waiting .cwait => true
  | .waiting .swait => true
  | .waiting .rdrecv => true
  | _ => false

/-- A CWAIT, SWAIT or RDRECV of the strand in the focus looks again: the strand makes it again, or, where others may issue under
it, it goes on in its window (R484). -/
def lookAgain (name : String) : Act Unit := do
  let x ← getMe
  if x.run.isTimed then wakeStrand else settleOne (fun u => u.why.isTimed) name

/-- WATCH_WAKE (R320). -/
def execWatchWake (p : Pos) :=
  event (onStrand p "WATCH_WAKE" (do
    let s ← getS
    require ((s.yard p.yidx).watches.any (fun w => w.pos == p && w.woken)) "WATCH_WAKE"
    lookAgain "WATCH_WAKE"))

/-- WATCH_POLL (R320). -/
def execWatchPoll (p : Pos) :=
  event (onStrand p "WATCH_POLL" (do
    let s ← getS
    let w ← requireSome s.me.wait "WATCH_POLL"
    require (!(s.yard p.yidx).watches.any (fun w => w.pos == p) && w.pollAt ≤ s.cycle) "WATCH_POLL"
    lookAgain "WATCH_POLL"))

/-- WAIT_DEADLINE (R321). -/
def execWaitDeadline (p : Pos) :=
  event (onStrand p "WAIT_DEADLINE" (do
    let s ← getS
    let w ← requireSome s.me.wait "WAIT_DEADLINE"
    require (w.over s.cycle) "WAIT_DEADLINE"
    lookAgain "WAIT_DEADLINE"))

/-- WAITI_TIMEOUT (R115). -/
def execWaitiTimeout (p : Pos) :=
  event (onStrand p "WAITI_TIMEOUT" (do
    let s ← getS
    let w ← requireSome s.me.wait "WAITI_TIMEOUT"
    require (s.me.run == .waiting .waiti && w.over s.cycle) "WAITI_TIMEOUT"
    wakeStrand))

/-! ### Activations (R324, R434) -/

/-- An activation's strand: the entry state of R86 with its argument, in the lowest empty slot. It begins with an acquire over the
records of the firing counter's line (R324). -/
def startActivation (t : Team) (g : Grid) (i : Nat) (entry arg : Word) (src : ActSource) (rollbacks : Nat) (scope : BitVec 2)
    (recs : List (Nat × BitVec 32)) : Act Unit := do
  let s ← getS
  let x := (s.entryStrand t g i entry arg).see recs
  addStrand { x with
    st := { x.st with act := true }
    act := some { src := src, hold := [], mdone := false, released := false, releasing := false, refusedT := 0, saturated := false,
                  rollbacks := rollbacks, sentMsgs := [] } }
  queueTouch (.acquire (x.toucher 30) scope)

/-- Where a request's activation enters and with which argument: a record's handler and window address (R381). -/
def State.activationEntry (s : State) (y : Nat) : ActSource → Option (Word × Word × BitVec 2)
  | .trigger entry arg yardCounter _ => some (entry, arg, if yardCounter then 0#2 else 2#2)
  | .message cls off =>
    ((s.yard y).mailbox cls).map (fun m => (m.entry, BitVec.ofNat 64 (apertureBase + m.mb + off), 2#2))

/-- Whether a source is a message whose class its team masks (R387). -/
def ActSource.maskedIn (a : ActSource) (t : Team) : Bool :=
  match a with
  | .message cls _ => t.mmask.getLsbD cls.toNat
  | .trigger _ _ _ _ => false

/-- The request of a yard's activation queue that can start, with its team and slot: none of a killed team (R436), and none of a
message whose class is masked (R381, R434). -/
def State.nextActivation (s : State) (y : Nat) : Option (ActReq × Team × Grid × Nat) :=
  (s.yard y).actq.findSome? (fun a =>
    (s.team a.tid).bind (fun t =>
      if t.where_ == .placed && t.yidx == y && !t.killed && !a.src.maskedIn t then
        (s.grid t.grid).bind (fun g => (s.freeIndices t g).head?.map (fun i => (a, t, g, i)))
      else none))

/-- ACTIVATION_START (R324): fired triggers, and activations rolled back (R434). -/
def execActivationStart (y : Nat) :=
  event (do
    let s ← getS
    let (a, t, g, i) ← requireSome (s.nextActivation y) "ACTIVATION_START"
    let fired : List Trigger := match a.src with
      | .trigger _ _ _ tok => (s.yard y).triggers.filter (fun r => r.tid == a.tid && r.token == tok)
      | .message _ _ => []
    modifyYard y (fun Y =>
      { Y with
        actq := Y.actq.erase a
        triggers := Y.triggers.filter (fun r => !fired.contains r) })
    let recs := (fired.filter (fun r => !isYardMem r.key)).flatMap (fun r => s.lineRecords (r.key / 128))
    match s.activationEntry y a.src with
    | some (entry, arg, scope) => startActivation t g i entry arg a.src a.rollbacks scope recs
    | none => pure ())

/-! ### Statistics (R45) -/

/-- STAT_GATHER (R45): the counters of every core of the team, and of those that its strands have moved to, go into its record, and
the phase shows. The team's next end waits for it. -/
def execStatGather (tid : Nat) :=
  event (do
    let s ← getS
    let t ← requireSome (s.team tid) "STAT_GATHER"
    let off ← requireSome t.statWaits.head? "STAT_GATHER"
    let key := s.windowKey tid off
    require (t.resident && !s.keyHeld key 64) "STAT_GATHER"
    let ks := (t.cores.map (fun c => (t.yidx, false, c)) ++ (s.teamStrands tid).map (fun x => coreKey x.pos)).eraseDups
    let sums := ks.map (fun k => (s.core k).ev)
    forAll ks (fun k => modifyCore k (fun c => { c with ev := EvCounts.zero }))
    match s.areaKey t 0x40 with
    | none => pure ()
    | some k => do
      let old := fun (i : Nat) => leValue (s.mem.readBytes (k + 8 * i) 8)
      let total := fun (i : Nat) (f : EvCounts → Nat) => leBytes 8 (min (old i + (sums.map f).sum) maxU64)
      emit (.mem k (total 0 (fun e => e.nv) ++ total 1 (fun e => e.dz) ++ total 2 (fun e => e.ofl) ++ total 3 (fun e => e.uf)
        ++ total 4 (fun e => e.np) ++ leBytes 8 ((s.visiblePhase tid off key + 1) % 2 ^ 32) ++ List.replicate 16 0))
    modifyTeam tid (fun t => { t with statWaits := t.statWaits.drop 1 })
    wakeKey key
    checkTeamEnd tid)

/-! ### Yard memory, clocks and penalties (R234, R241, R249) -/

/-- SKEW_REARRANGE_DONE (R234). -/
def execSkewRearrangeDone (y : Nat) :=
  event (do
    let s ← getS
    let k ← requireSome ((s.yard y).skews.find? (fun k => k.busyUntil != 0 && k.busyUntil ≤ s.cycle)) "SKEW_REARRANGE_DONE"
    modifyYard y (fun Y =>
      { Y with
        skews := if k.leaving then Y.skews.erase k
          else Y.skews.map (fun j => if j = k then { j with busyUntil := 0 } else j) })
    checkTeamEnd k.tid)

/-- MIRROR_UPDATE (R241): the first update that is due reaches its stop and wakes its router (R372). -/
def execMirrorUpdate :=
  event (do
    let s ← getS
    let m ← requireSome (s.dev.mirrorMsgs.find? (fun m => m.due ≤ s.cycle)) "MIRROR_UPDATE"
    modifyDev (fun d =>
      { d with
        mirrorMsgs := d.mirrorMsgs.erase m
        mirrors := assocSet d.mirrors m.stop (putMirror (assocGet [] d.mirrors m.stop) m)
        routers := assocSet d.routers m.stop ((s.router m.stop).wake s.cycle) }))

/-- PENALTY_UPDATE (R249): the penalty shift and the reports follow a closed window by 2,048 cycles. -/
def execPenaltyUpdate (tenant : Nat) :=
  event (do
    let s ← getS
    let f := s.func tenant
    let c ← requireSome (f.closing.head?) "PENALTY_UPDATE"
    require (c.1 ≤ s.cycle) "PENALTY_UPDATE"
    let (all, floor) := c.2
    let hon := min all 65536
    let up := hon < floor && f.nupen.toNat < 7
    let down := floor < hon && 0 < f.nupen.toNat
    modifyFunc tenant (fun f =>
      let f := if up then f.bump 12 else if down then f.bump 13 else f
      { f with
        closing := f.closing.drop 1
        nupen := if up then f.nupen + 1 else if down then f.nupen - 1 else f.nupen
        nuHonLast := hon
        nuWin := f.nuWin + 1 }))

/-! ### Tenure (R271-R274) -/

/-- Whether a request is of the access that its registration serves now, in the order of arrival (R272 step 2). -/
def State.turnAtHome (s : State) (r : TenReq) : Bool :=
  (s.dev.tenReqs.find? (fun q => !q.done && q.asid == r.asid && q.index == r.index)).any
    (fun q => q.pos == r.pos && q.by_ == r.by_)

/-- The accesses that the homes serve now, as groups of requests: each is the oldest of every registration it asks. -/
def State.servedGroups (s : State) : List (List TenReq) :=
  let open_ := s.dev.tenReqs.filter (fun r => !r.done)
  let groups := ((open_.map (fun r => (r.pos, r.by_))).eraseDups).map (fun k => open_.filter (fun r => r.pos == k.1 && r.by_ == k.2))
  groups.filter (fun g => g.all s.turnAtHome)

/-- What stands against a request: the tile, the piece, its holder and what its home does (R271). -/
def State.reqConflict (s : State) (r : TenReq) : Option (TileObj × Piece × Nat × Recall) :=
  (s.tile r.asid r.index).bind (fun t => (t.conflict r.agent r.kind r.grant r.spans).map (fun c => (t, c.1, c.2.1, c.2.2)))

/-- RECALL (R272): a conflicting holder of an access served now gives its tenure up, once the access that it was granted for is
made. -/
def execRecall :=
  event (do
    let s ← getS
    let (r, t, p, h, a) ← requireSome
      (s.servedGroups.flatten.findSome? (fun r => (s.reqConflict r).bind (fun c =>
        if s.graceFor c.1 c.2.1 c.2.2.1 then none else some (r, c.1, c.2.1, c.2.2.1, c.2.2.2)))) "RECALL"
    recallPiece t p h a r.spans)

/-- A request granted. -/
def Dev.grantReq (d : Dev) (r : TenReq) : Dev :=
  if r.grant then
    { d with
      tiles := d.tiles.map (fun t => if t.asid = r.asid && t.index = r.index then t.grant r.agent r.kind r.spans else t) }
  else d

/-- TENURE_GRANT (R272): every request of an access served now is met. -/
def execTenureGrant :=
  event (do
    let s ← getS
    let rs ← requireSome (s.servedGroups.find? (fun g => g.all (fun r => (s.reqConflict r).isNone))) "TENURE_GRANT"
    let d := rs.foldl Dev.grantReq s.dev
    emit (.dev { d with tenReqs := d.tenReqs.map (fun q => if rs.contains q then { q with done := true } else q) }))

/-- DRAIN_REQUEST (R300): a yard answers a drain request of the acquire that has waited longest. -/
def execDrainRequest :=
  event (do
    let s ← getS
    let q ← requireSome s.dev.acquires.head? "DRAIN_REQUEST"
    let e ← requireSome q.asks.head? "DRAIN_REQUEST"
    answerDrain q e)

/-! ### Translation (R352, R355-R357) -/

/-- The yard through which an asker translates. -/
def State.askerYard (s : State) : Asker → Nat
  | .strand p _ _ => p.yidx
  | .prefetch w _ _ => w.pos.yidx
  | .engine e => ((s.engine e).queue.head?.map (fun t => t.yidx)).getD 0
  | .tile asid index => ((s.tile asid index).bind (fun t => (s.team t.owner).map (fun m => m.yidx))).getD 0

/-- An entry found for an asker fills the heavy TLB of its yard, and for a lean core its micro-TLB, or the 64 entries of an engine's
TLB (R351, R409). -/
def fillFor (who : Asker) (e : TlbEntry) : Act Unit := do
  let s ← getS
  let y := s.askerYard who
  let heavy := modifyYard y (fun Y => { Y with tlb := heavyInsert Y.tlb e })
  let lean := fun (p : Pos) => modifyCore (coreKey p) (fun c => { c with utlb := microInsert c.utlb e })
  match who with
  | .strand p h _ => do
    heavy
    if h then pure () else lean p
  | .prefetch w _ _ => do
    heavy
    if w.heavy then pure () else lean w.pos
  | .engine n => modifyDev (fun d =>
      let g := assocGet Engine.reset d.engines n
      { d with engines := assocSet d.engines n { g with tlb := e :: (g.tlb.filter (fun f => f != e)).take 63 } })
  | .tile _ _ => heavy

/-- A PREF goes on once its translation is there (R257). -/
def goOn (who : Asker) (asid : BitVec 16) : Act Unit :=
  match who with
  | .prefetch w sup va => prefetch w sup asid va
  | _ => pure ()

/-- Whether nothing waits for an asker's translation: a PREF, which has no fault to take (R257). -/
def Asker.isPrefetch : Asker → Bool
  | .prefetch _ _ _ => true
  | _ => false

/-- PAGE_WALK (R352): one of the eight walks under way ends, for every miss of its page. A failed walk fills nothing and leaves its
fault for those who asked, one that meets a HOST leaf sends them to the host (R355); an entry that TLBW has written meanwhile
governs (R359). -/
def execPageWalk (y n : Nat) :=
  event (do
    let s ← getS
    require (n < 8) "PAGE_WALK"
    let w ← requireSome (s.yard y).walks[n]? "PAGE_WALK"
    let va := w.va.toNat
    let written := (s.yard y).tlb.find? (fun e => e.maps w.asid va && !e.ats)
    let found := written.orElse (fun _ => s.walk w.asid va)
    let mine := fun (v : WalkReq) => match found with
      | some e => e.maps v.asid v.va.toNat
      | none => v.covers w.asid va
    let done := (s.yard y).walks.filter mine
    let askers := (done.flatMap (fun v => v.askers)).eraseDups
    let ends := fun (leaf : Option TlbEntry) (keep : Asker → Bool) =>
      (done.map (fun v => (⟨{ v with askers := v.askers.filter keep }, leaf⟩ : EndedWalk))).filter (fun e => !e.req.askers.isEmpty)
    modifyYard y (fun Y =>
      { Y with
        walks := Y.walks.filter (fun v => !mine v)
        endedWalks := Y.endedWalks ++ (match found with
          | none => ends none (fun a => !a.isPrefetch)
          | some e => if e.hostLeaf && written.isNone then ends (some e) (fun _ => true) else []) }.admitWalks)
    match found with
    | none => pure ()
    | some e => do
      if e.hostLeaf then pure () else forAll askers (fun a => fillFor a e)
      forAll askers (fun a => goOn a w.asid))

/-- Whether an asker waits for the host's translation, and not for a page request. -/
def PageWaiter.translating (v : PageWaiter) : Bool := v.asked && !v.pri && !v.failed

/-- Whether an answer of the host grants what an asker needs (R355). -/
def PageWaiter.granted (v : PageWaiter) (r w : Bool) : Bool := (!v.read || r) && (!v.write || w)

/-- An asker after an answer that does not grant what it needs: a page request stands for it, or it is refused at its third
attempt (R356). A PREF makes no page request (R257). -/
def PageWaiter.refused (v : PageWaiter) : Option PageWaiter :=
  if v.who.isPrefetch then none else some (if 2 ≤ v.tries then { v with asked := false, failed := true } else { v with asked := false, pri := true })

/-- ATS_COMPLETION (R355): the host's answer for a page: its read and write permissions, its host address and the size of
the translation in bits. Each asker whose need it grants goes on; for another, a page request starts. What fills the TLBs reaches no
further than the leaf's page (DEDUCED, log entry 81). -/
def execAtsCompletion (asid : BitVec 16) (page : Nat) (r w : Bool) (hpa bits : Nat) :=
  event (do
    let name := "ATS_COMPLETION"
    let s ← getS
    let q ← requireSome (s.dev.pageReqs.find? (fun q =>
      q.asid == asid && q.page == page && q.waiters.any PageWaiter.translating)) name
    require (12 ≤ bits && bits ≤ 31) name
    let va := page * 4096
    let asked := q.waiters.filter PageWaiter.translating
    let left := q.waiters.filterMap (fun v =>
      if !v.translating then some v else if v.granted r w then none else v.refused)
    modifyDev (fun d =>
      { d with
        pageReqs := (d.pageReqs.map (fun p => if p = q then { p with waiters := left } else p)).filter (fun p => !p.waiters.isEmpty)
        pageFaults := if left.any (fun v => v.pri) && !d.pageFaults.contains (asid, page) then d.pageFaults ++ [(asid, page)]
          else d.pageFaults })
    if !r && !w then pure ()
    else forAll asked (fun v =>
      let b := min bits v.leaf.bits
      fillFor v.who
        { v.leaf with vpage := va / 2 ^ b, bits := b, ppage := hpa / 2 ^ b, hostR := r, hostW := w, ats := true, pinned := false })
    forAll (asked.filter (fun v => v.granted r w)) (fun v => goOn v.who asid))

/-- The page requests with the host: its allocation is 1,024, and further ones wait in order of fault (R356). -/
def Dev.outstanding (d : Dev) : List (BitVec 16 × Nat) := d.pageFaults.take 1024

/-- The host's response to a page request: what it makes of those who wait for it. -/
def pageResponse (asid : BitVec 16) (page : Nat) (f : PageWaiter → PageWaiter) (name : String) : Act Unit := do
  let s ← getS
  require (s.dev.outstanding.contains (asid, page)) name
  modifyDev (fun d =>
    { d.mapReq asid page (fun v => some (if v.pri then f v else v)) with
      pageFaults := d.pageFaults.filter (fun q => q != (asid, page)) })

/-- A leaf that stands in the heavy TLB of an asker's yard or in an engine's TLB, as TLBW may have written it (R359). -/
def State.standingLeaf (s : State) (who : Asker) (e : TlbEntry) : Bool := (s.yard (s.askerYard who)).tlb.contains e

/-- PRI_SUCCESS (R356): the accesses request translation again, each after a walk (R355), but where TLBW has written the leaf. -/
def execPriSuccess (asid : BitVec 16) (page : Nat) :=
  event (do
    let s ← getS
    let again := fun (v : PageWaiter) => v.pri && !s.standingLeaf v.who v.leaf
    let qs := s.dev.pageReqs.filter (fun q => q.asid == asid && q.page == page)
    pageResponse asid page (fun v => { v with pri := false, tries := v.tries + 1, asked := !again v, since := s.cycle }) "PRI_SUCCESS"
    forAll (qs.flatMap (fun q => q.waiters.filter again)) (fun v =>
      modifyYard (s.askerYard v.who) (fun Y => Y.askWalk v.who asid (BitVec.ofNat 64 (page * 4096)))))

/-- PRI_INVALID_REQUEST (R356). -/
def execPriInvalidRequest (asid : BitVec 16) (page : Nat) :=
  event (pageResponse asid page (fun v => { v with pri := false, failed := true }) "PRI_INVALID_REQUEST")

/-- The tenant of an address space. -/
def State.tenantOf (s : State) (asid : BitVec 16) : Nat := (s.spaceOf asid).tenant.toNat

/-- The requests of a function refused (R356, R424): its page requests, or its Translation Requests too. -/
def failRequests (tenant : Nat) (all : Bool) : Act Unit := do
  let s ← getS
  modifyDev (fun d =>
    { d with
      pageReqs := (d.pageReqs.map (fun r =>
        if s.tenantOf r.asid = tenant then
          { r with
            waiters := r.waiters.filterMap (fun v =>
              if !(all || v.pri) then some v
              else if v.who.isPrefetch then none else some { v with pri := false, failed := true }) }
        else r)).filter (fun r => !r.waiters.isEmpty)
      pageFaults := d.pageFaults.filter (fun q => s.tenantOf q.1 != tenant) })

/-- PRI_RESPONSE_FAILURE (R356). -/
def execPriResponseFailure (tenant : Nat) :=
  event (do
    let s ← getS
    require (s.dev.outstanding.any (fun q => s.tenantOf q.1 == tenant)) "PRI_RESPONSE_FAILURE"
    failRequests tenant false)

/-- ATS_INVALIDATE_REQUEST (R357): a PASID of a function and a range of addresses. -/
def execAtsInvalidateRequest (tenant : BitVec 4) (pasid : BitVec 20) (base len : Nat) :=
  event (do
    let s ← getS
    require (s.dev.invals.length < 32) "ATS_INVALIDATE_REQUEST"
    let hit := fun (e : TlbEntry) =>
      e.ats && (s.spaceOf e.asid).tenant == tenant && (s.spaceOf e.asid).pasid == pasid
        && e.vpage * 2 ^ e.bits < base + len && base < (e.vpage + 1) * 2 ^ e.bits
    let gone := s.tlbEntries hit
    invalidateTlbs hit
    modifyDev (fun d => { d with invals := d.invals ++ [⟨tenant, pasid, base, len, gone⟩] }))

/-- INVALIDATE_COMPLETION (R357): the oldest invalidation completes once no use of an entry it removed is in flight. -/
def execInvalidateCompletion :=
  event (do
    let s ← getS
    let q ← requireSome s.dev.invals.head? "INVALIDATE_COMPLETION"
    require (!s.usesOf q.gone) "INVALIDATE_COMPLETION"
    modifyDev (fun d => { d with invals := d.invals.drop 1 }))

end Sys2Proof.Machine
end

