-- ==== Sys2Proof/Machine/Net.lean ====
section
/-! DEFINITION. Device events of the mesh, of messages and of reduction trees (R364-R386). -/
namespace Sys2Proof.Machine

/-! ### Arbitration (R368) -/

/-- The output port that a packet requests; 0 at its destination. -/
def NetPacket.port (k : NetPacket) : Nat :=
  match nextHop k.stop k.dst with
  | some (_, p, _) => p
  | none => 0

/-- Whether a hop crosses the link between paddocks 3 and 0 (R364). -/
def crossesSeam (a b : Nat) : Bool := (a / 16 == 3 && b / 16 == 0) || (a / 16 == 0 && b / 16 == 3)

/-- The first packets of each input and channel. -/
def headPackets (l : List NetPacket) : List NetPacket :=
  (l.filter (fun k => k.input != 5)).foldl (fun acc k => if acc.any (fun h => h.stop == k.stop && h.input == k.input && h.vc == k.vc) then acc else acc ++ [k]) []

/-- A packet after its next hop. -/
def NetPacket.moved (k : NetPacket) : NetPacket :=
  match nextHop k.stop k.dst with
  | some (n, p, _) => { k with stop := n, input := inputOf p, crossed := k.crossed || crossesSeam k.stop n }
  | none => k

/-- Whether a packet holds a downstream credit (R364): room at the next input for min(flits, 4) flits, at a die-to-die input
in the half it uses, of a router that accepts flits. At its destination, a vector needs room in the combine buffer of its child
port, which holds two rounds (R383). -/
def State.hasCredit (s : State) (k : NetPacket) : Bool :=
  match nextHop k.stop k.dst with
  | none =>
    match k.body with
    | .vector n _ => s.dev.trees.all (fun e => e.1 != n || e.2.bufs.countP (fun b => b.1 == k.stop && b.2.1 == k.input) < 2)
    | _ => true
  | some (n, _, die) =>
    let m := k.moved
    let used := ((s.dev.net.filter (fun q => q.stop == n && q.input == m.input && q.vc == k.vc
      && (!die || q.crossed == m.crossed))).map (fun q => min q.flits 4)).sum
    (s.router n).power == .up && used + min k.flits 4 ≤ 4

/-- The candidates at an output port (R368). -/
def State.candidates (s : State) (stop port : Nat) : List NetPacket :=
  (headPackets (s.dev.net.filter (fun k => k.stop == stop))).filter (fun k => k.port == port && s.hasCredit k)

/-- The weight of a channel (R367). -/
def nocWeight (w : Word) (v : Nat) : Nat := max 1 (w.toNat / 2 ^ (4 * v) % 16)

/-- The channel that the scan of R368 finds. -/
def scanChannel (q : Nat) (credit : List (Nat × Nat)) (vcs : List Nat) : Option Nat :=
  bestBy (fun b a => (b + 12 - q) % 12 < (a + 12 - q) % 12) (vcs.filter (fun v => 0 < assocGet 0 credit v))

/-- One unit of a channel's credit spent. -/
def spend (credit : List (Nat × Nat)) (v : Nat) : List (Nat × Nat) := assocSet credit v (assocGet 0 credit v - 1)

/-- The input granted last on a channel, input 4 at reset. -/
def Port.served (p : Port) (v : Nat) : Nat := assocGet 4 p.last v

/-- The choice of R368 among candidates: the packet granted and the port after it. -/
def Port.grant (p : Port) (nocw age : Word) (cands : List NetPacket) : Option (NetPacket × Port) :=
  let limit := age.toNat % 256
  let old := if limit = 0 then [] else cands.filter (fun k => limit ≤ k.age.toNat)
  match bestBy (fun (b a : NetPacket) => a.age.toNat < b.age.toNat || (b.age == a.age && (b.vc < a.vc || (b.vc == a.vc && b.input < a.input))))
      old with
  | some k => some (k, { p with credit := spend p.credit k.vc, last := assocSet p.last k.vc k.input })
  | none =>
    let vcs := cands.map (fun k => k.vc)
    let credit := match scanChannel p.q p.credit vcs with
      | some _ => p.credit
      | none => (List.range 12).map (fun v => (v, nocWeight nocw v))
    (scanChannel p.q credit vcs).bind (fun v =>
      (bestBy (fun (b a : NetPacket) => (b.input + 4 - p.served v) % 5 < (a.input + 4 - p.served v) % 5)
        (cands.filter (fun k => k.vc == v))).map (fun k =>
          let c := spend credit v
          (k, { p with credit := c, q := if assocGet 0 c v = 0 then (v + 1) % 12 else p.q, last := assocSet p.last v k.input })))

/-- One round lost (R368). -/
def NetPacket.older (k : NetPacket) : NetPacket := if k.age = 255#8 then k else { k with age := k.age + 1 }

/-- The packets of a network with the first one that equals a candidate older by a round: a candidate stands before its equals, which
are behind it at its input. -/
def ageFirst : List NetPacket → NetPacket → List NetPacket
  | [], _ => []
  | x :: rest, q => if x = q then x.older :: rest else x :: ageFirst rest q

/-- A router changed. -/
def Dev.putRouter (d : Dev) (t : Nat) (r : Router) : Dev := { d with routers := assocSet d.routers t r }

/-- A vector in the combine buffer of a child port (R383). -/
def Tree.arrive (t : Tree) (stop input : Nat) (v : Vec) : Tree := { t with bufs := t.bufs ++ [(stop, input, v)] }

/-- PORT_ARBITRATION (R368): an output port of a router that is up grants one candidate, which stands at its next router or,
at the local output of its destination, has arrived at the interface, where an access at a slice has its reply. The port is free
again once the flits of the packet have left (R364). -/
def execPortArbitration (stop port : Nat) :=
  event (do
    let name := "PORT_ARBITRATION"
    let s ← getS
    let r := s.router stop
    require (r.power == .up) name
    let cands := s.candidates stop port
    let P := assocGet Port.reset r.ports port
    require (P.freeAt ≤ s.cycle) name
    let (k, p) ← requireSome (P.grant s.dev.nocw s.dev.nocage cands) name
    let net := (cands.erase k).foldl ageFirst (s.dev.net.erase k)
    let p := { p with freeAt := s.cycle + k.flits }
    let d := { s.dev.putRouter stop { r with idleSince := s.cycle, ports := assocSet r.ports port p } with net := net }
    let d := if k.input = 0 then d.admitLocal stop k.vc else d
    match nextHop stop k.dst with
    | some (n, _, _) =>
      emit (.dev ({ d with net := d.net ++ [k.moved] }.putRouter n { s.router n with idleSince := s.cycle }))
    | none =>
      match k.body with
      | .message m => emit (.dev { d with msgs := d.msgs ++ [m] })
      | .answer a => emit (.dev { d with answers := d.answers ++ [a] })
      | .vector n v => emit (.dev { d with trees := d.trees.map (fun e => if e.1 = n then (n, e.2.arrive stop k.input v) else e) })
      | .traffic none => emit (.dev d)
      | .traffic (some (dst, vc, flits)) => emit (.dev (d.inject stop dst vc flits (.traffic none))))

/-! ### Messages (R378-R386) -/

/-- The answer to a message sets out for its sender. -/
def answerMsg (m : Msg) (code : Nat) : Act Unit := do
  let s ← getS
  if m.src.isSome then emit (.dev (s.sendAnswer m code s.dev)) else pure ()

/-- Cycles that messages may wait for space in a mailbox (R379). -/
def State.mbWait (s : State) (m : Mailbox) : Nat :=
  match s.team m.tid with
  | some t => t.mbwait.toNat % 2 ^ 32
  | none => 0

/-- A message at the interface of its receiver (R378, R379, R386, R423). One whose mailbox an engine or a rearrangement holds waits
there (R234, R306). -/
def receiveMsg (m : Msg) : Act Unit := do
  let s ← getS
  if m.dst = 63 then
    let f := s.func m.tenant.toNat
    if f.eqsize = 0 then answerMsg m 2
    else if f.ringFull then answerMsg m 1
    else do
      writeEvent m.tenant.toNat
        { HostEvent.of 1 0 m.seq m.tid 0 with srcy := m.srcy, cls := m.cls.toNat, cycle := s.cycle, payload := m.payload }
      answerMsg m 0
  else
    let hold : Act Unit := modifyYard m.dst (fun Y => { Y with heldMsgs := Y.heldMsgs ++ [{ m with since := s.cycle }] })
    match (s.yard m.dst).mailbox m.cls with
    | none => answerMsg m 2
    | some mb =>
      if (s.yard m.dst).heldMsgs.any (fun h => h.cls == m.cls) || s.windowHeld mb.tid mb.mb mb.size then hold
      else do
        let ok ← placeRecord m.dst mb m
        if ok then answerMsg m 0
        else if s.mbWait mb = 0 then do
          countRefused mb 1
          answerMsg m 1
        else hold

/-- MESSAGE_ARRIVAL (R378, R386, R428). A message to the host waits at the interface while the link is isolated (R424). -/
def execMessageArrival (src : MsgFrom) :=
  event (do
    let name := "MESSAGE_ARRIVAL"
    let s ← getS
    match src with
    | .mesh => do
      let m ← requireSome (s.dev.msgs.find? (fun m => !m.remote && (m.dst != 63 || s.dev.hostLinkUp))) name
      modifyDev (fun d => { d with msgs := d.msgs.erase m })
      receiveMsg m
    | .peer cls srcy dst dev tenant payload => do
      require (s.dev.boot.phase == 5 && s.dev.links.any (fun l => l.2 == dev) && (if dst = 63 then s.dev.hostLinkUp else s.isYard dst)
        && payload.length % 8 == 0 && 8 ≤ payload.length && payload.length ≤ 256) name
      receiveMsg { cls := cls, srcy := srcy, dst := dst, remote := true, srcdev := dev, tenant := tenant, payload := payload,
                   since := s.cycle, src := none, seq := 0, tid := 0 })

/-- Whether a mailbox has space for a message now (R378, R379). -/
def State.placeable (s : State) (y : Nat) (mb : Mailbox) (m : Msg) : Bool :=
  match placeRecord y mb m ⟨s, []⟩ with
  | .ok (ok, _) => ok
  | .error _ => false

/-- The oldest held message of a class. -/
def Yard.heldOf (Y : Yard) (cls : BitVec 4) : Option Msg := Y.heldMsgs.find? (fun m => m.cls == cls)

/-- A held message leaves the interface. -/
def dropHeld (y : Nat) (m : Msg) : Act Unit := modifyYard y (fun Y => { Y with heldMsgs := Y.heldMsgs.erase m })

/-- HELD_MESSAGE_PLACED (R379). -/
def execHeldMessagePlaced (y : Nat) (cls : BitVec 4) :=
  event (do
    let name := "HELD_MESSAGE_PLACED"
    let s ← getS
    let m ← requireSome ((s.yard y).heldOf cls) name
    let mb ← requireSome ((s.yard y).mailbox cls) name
    require (!s.windowHeld mb.tid mb.mb mb.size) name
    let ok ← placeRecord y mb m
    require ok name
    dropHeld y m
    answerMsg m 0)

/-- MAILBOX_WAIT_EXPIRY (R379): the oldest held message has waited for too long, or its mailbox is gone; space still
lacks. -/
def execMailboxWaitExpiry (y : Nat) (cls : BitVec 4) :=
  event (do
    let name := "MAILBOX_WAIT_EXPIRY"
    let s ← getS
    let m ← requireSome ((s.yard y).heldOf cls) name
    match (s.yard y).mailbox cls with
    | none => do
      dropHeld y m
      answerMsg m 2
    | some mb => do
      require (m.since + s.mbWait mb ≤ s.cycle && !s.windowHeld mb.tid mb.mb mb.size && !s.placeable y mb m) name
      dropHeld y m
      countRefused mb 1
      answerMsg m 1)

/-- MESSAGE_ANSWER (R386): the answer to a strand's message number `n`; for a message to another device the code is the
receiver's. The strand goes on when its answers are there. -/
def execMessageAnswer (p : Pos) (n code : Nat) :=
  event (onStrand p "MESSAGE_ANSWER" (do
    let name := "MESSAGE_ANSWER"
    let s ← getS
    match s.dev.answers.find? (fun a => a.src == (p, n) && a.code == code) with
    | some a => modifyDev (fun d => { d with answers := d.answers.erase a })
    | none => do
      let m ← requireSome (s.dev.msgs.find? (fun m => m.remote && m.src == some (p, n))) name
      require (code ≤ 2 && s.dev.links.any (fun l => l.2 == m.srcdev)) name
      modifyDev (fun d => { d with msgs := d.msgs.erase m })
    modifyMe (fun x =>
      { x with answers := x.answers ++ [(n, code)], run := if x.run = .answerWait then .ready else x.run })))

/-- HANDLER_ACTIVATION (R381): one at a time in a class, in the order of the records, unless the class is masked. -/
def execHandlerActivation (y : Nat) (cls : BitVec 4) :=
  event (do
    let name := "HANDLER_ACTIVATION"
    let s ← getS
    let m ← requireSome ((s.yard y).mailbox cls) name
    let t ← requireSome (s.team m.tid) name
    let g ← requireSome (s.grid t.grid) name
    let off ← requireSome m.unstarted.head? name
    require (!m.running && !t.mmask.getLsbD cls.toNat && t.where_ == .placed && t.yidx == y && !t.killed) name
    let i ← requireSome (s.freeIndices t g).head? name
    modifyYard y (fun Y => Y.putMailbox { m with unstarted := m.unstarted.drop 1, running := true })
    startActivation t g i m.entry (BitVec.ofNat 64 (apertureBase + m.mb + off)) (.message cls off) 0 2 [])

/-! ### Reduction trees (R383, R384) -/

/-- Width of a lane of a reduction type. -/
def redWidth (typ : Nat) : Nat := if typ = 0 || typ = 3 then 32 else 64

/-- Combine on one lane (R383). -/
def redLane (typ op a b : Nat) : Nat :=
  let w := redWidth typ
  let float := fun (f : FFmt) =>
    if op = 0 then (f.dest.add .rne (f.value a) (f.value b)).1 else (f.dest.minMax (op == 2) a b (f.value a) (f.value b)).1
  match typ with
  | 2 => if op = 0 then min (a + b) (2 ^ 64 - 1) else laneMinMax false (op == 2) w a b
  | 3 => float .f32
  | 4 => float .f64
  | _ => if op = 0 then (a + b) % 2 ^ w else laneMinMax true (op == 2) w a b

/-- Combine on vectors, lane by lane. -/
def redVec (typ op : Nat) (u v : Vec) : Vec :=
  let w := redWidth typ
  ofLanes w (fun i => redLane typ op (lane w u i) (lane w v i))

/-- The oldest vector of each child port of a stop, ascending; none while one of them has no vector. -/
def Tree.roundAt (t : Tree) (ports : List Nat) (stop : Nat) : Option (List Vec) :=
  ports.mapM (fun i => (t.bufs.find? (fun b => b.1 == stop && b.2.1 == i)).map (fun b => b.2.2))

/-- The buffers without the oldest vector of each child port of a stop. -/
def dropRound (stop : Nat) (ports : List Nat) (bufs : List (Nat × Nat × Vec)) : List (Nat × Nat × Vec) :=
  ports.foldl (fun l i => match l.find? (fun b => b.1 == stop && b.2.1 == i) with
    | some b => l.erase b
    | none => l) bufs

/-- Vectors combined in ascending port order (R383). -/
def redAll (typ op : Nat) : List Vec → Vec
  | [] => 0
  | v :: rest => rest.foldl (redVec typ op) v

/-- The total of a tree that is extended to other devices (R429): those of the devices combined in ascending device id. What another
device brings is a free value. -/
def acrossDevices (t : Tree) (acc : Vec) : Act Vec := do
  let s ← getS
  let others ← collect t.devices (fun d => do
    let n ← freshFree
    return (d, Config.freeVec n))
  return redAll t.typ t.op ((((s.dev.devId, acc) :: others).mergeSort (fun a b => a.1 ≤ b.1)).map (fun e => e.2))

/-- A strand that waits in RDRECV looks at the root slot again, now or, with instructions issued under it, by its next reading
(R484). -/
def Strand.lookAtRoot (x : Strand) (now : Nat) : Strand :=
  if x.run = .waiting .rdrecv then { x with run := .ready }
  else { x with wait := x.wait.map (fun w => if w.kind = .rdrecv then { w with pollAt := now } else w) }

/-- REDUCTION_ROUND (R383): a router that holds a round combines it and sends it on, a packet of channel 10, RED (R362, R364), or
leaves the total in the root slot. A strand that waits there in RDRECV looks again. -/
def execReductionRound (k stop : Nat) :=
  event (do
    let name := "REDUCTION_ROUND"
    let s ← getS
    let t ← requireSome ((s.dev.trees.find? (fun e => e.1 == k)).map (fun e => e.2)) name
    require ((s.router stop).power == .up) name
    let ports := (List.range 5).filter (fun i => (s.treePorts t).contains (stop, i))
    require (!ports.isEmpty) name
    let vs ← requireSome (t.roundAt ports stop) name
    let acc := redAll t.typ t.op vs
    let bufs := dropRound stop ports t.bufs
    let put := fun (u : Tree) (d : Dev) => { d with trees := assocSet d.trees k u }
    let busy := fun (d : Dev) => d.putRouter stop { assocGet Router.reset d.routers stop with idleSince := s.cycle }
    match nextHop stop (s.yardStop t.root) with
    | some (n, _, _) => do
      require (s.dev.localRoom stop 10 2) name
      emit (.dev ((busy (put { t with bufs := bufs } s.dev)).inject stop n 10 2 (.vector k acc)))
    | none => do
      require t.total.isNone name
      emit (.dev (busy s.dev))
      let all ← acrossDevices t acc
      modifyDev (put { t with bufs := bufs, total := some all })
      emit (.mem (rootSlot t.root k) (leBytes 64 all.toNat))
      forAll (s.strands.filter (fun x => x.pos.yidx == t.root && x.lookAtRoot s.cycle != x)) (fun x =>
        modifyAt x.pos (fun x => x.lookAtRoot s.cycle)))

/-! ### Router power (R371, R372) -/

/-- Whether a tree with an open round passes through a stop. -/
def State.treeOpenAt (s : State) (stop : Nat) : Bool :=
  s.dev.trees.any (fun e => s.treeBusy e.1 && (s.treePorts e.2).any (fun p => p.1 == stop))

/-- Whether traffic calls for a router (R372): a flit at a neighbour or at its own stop, or a mirror update. -/
def State.wanted (s : State) (stop : Nat) : Bool :=
  s.dev.net.any (fun k => k.stop == stop || (nextHop k.stop k.dst).any (fun h => h.1 == stop))
    || s.dev.trees.any (fun e => e.2.bufs.any (fun b => b.1 == stop))
    || s.dev.mirrorMsgs.any (fun m => m.stop == stop && m.due ≤ s.cycle)

/-- ROUTER_POWER_DOWN (R371); a wake in the same cycle wins (R372). -/
def execRouterPowerDown (stop : Nat) :=
  event (do
    let s ← getS
    let r := s.router stop
    require (stop < 64 && r.idle s.cycle && r.upUntil ≤ s.cycle && !s.wanted stop && !s.treeOpenAt stop) "ROUTER_POWER_DOWN"
    emit (.dev (s.dev.putRouter stop { r with power := .down })))

/-- ROUTER_WAKE (R372): by a flit or a mirror update, or, where `sup`, by the supervisor. -/
def execRouterWake (stop : Nat) (sup : Bool) :=
  event (do
    let s ← getS
    let r := s.router stop
    require (stop < 64 && (r.power == .down || r.idle s.cycle) && (sup || s.wanted stop)) "ROUTER_WAKE"
    emit (.dev (s.dev.putRouter stop (r.wake s.cycle))))

/-- ROUTER_READY (R372). -/
def execRouterReady (stop : Nat) :=
  event (do
    let s ← getS
    let r := s.router stop
    match r.power with
    | .waking t => do
      require (t ≤ s.cycle) "ROUTER_READY"
      emit (.dev (s.dev.putRouter stop { r with power := .up }))
    | _ => notEnabled "ROUTER_READY")

end Sys2Proof.Machine
end

