-- ==== Sys2Proof/Machine/Engines.lean ====
section
/-! DEFINITION. Device events of copy engines, the host link and Serten (R303-R306, R331, R409-R428). -/
namespace Sys2Proof.Machine

/-! ### Transfers (R409-R415) -/

/-- Queued transfers of every engine, with their engines. -/
def State.queuedTransfers (s : State) : List (Nat × Transfer) := s.dev.engines.flatMap (fun e => e.2.queue.map (fun t => (e.1, t)))

/-- A transfer's engine and serial. -/
def xferId (u : Nat × Transfer) : Nat × Nat := (u.1, u.2.serial)

/-- Whether a transfer was issued before another. -/
def issuedBefore (u t : Nat × Transfer) : Bool := u.2.since < t.2.since || (u.2.since == t.2.since && u.1 < t.1)

/-- Whether runs of one transfer have bytes of another's destination. -/
def State.meetsDst (s : State) (u t : Transfer) (runs : List (Nat × Nat)) : Bool :=
  runs.any (fun r => (pagePieces r.1 r.2).any (fun p => match s.rangeKey t.asid t.tid p.1 with
    | some k => s.locks u k p.2
    | none => false))

/-- Transfers that wait for others: those behind others on their engine, and those whose source or destination meets an earlier
one's destination (R412). -/
def State.ordered (s : State) : List ((Nat × Nat) × (Nat × Nat)) :=
  let l := s.queuedTransfers
  l.flatMap (fun t => (l.filter (fun u => issuedBefore u t
    && (u.1 == t.1 || s.meetsDst u.2 t.2 (t.2.dstRuns ++ t.2.srcRuns)))).map (fun u => (xferId t, xferId u)))

/-- What some transfers wait for, in up to `fuel` steps. -/
def reach (edges : List ((Nat × Nat) × (Nat × Nat))) : Nat → List (Nat × Nat) → List (Nat × Nat)
  | 0, l => l
  | fuel + 1, l => reach edges fuel (l ++ (edges.filter (fun e => l.contains e.1 && !l.contains e.2)).map (fun e => e.2)).eraseDups

/-- Which transfer waits for which (R412). A source byte in a later transfer's destination is read after that transfer, unless
that one waits for this one (DEDUCED, log entry 67). -/
def State.waitsFor (s : State) : List ((Nat × Nat) × (Nat × Nat)) :=
  let l := s.queuedTransfers
  l.foldl (fun edges t => l.foldl (fun edges u =>
    if issuedBefore t u && s.meetsDst u.2 t.2 t.2.srcRuns && !(reach edges l.length [xferId u]).contains (xferId t)
    then edges ++ [(xferId t, xferId u)] else edges) edges) s.ordered

/-- Whether a transfer must wait for another (R412). -/
def State.transferHeld (s : State) (e : Nat) (t : Transfer) : Bool := s.waitsFor.any (fun w => w.1 == (e, t.serial))

/-- Whether the tenure that a transfer asked for at its issue has been granted (R306, R412). -/
def State.tenureReady (s : State) (e : Nat) (t : Transfer) : Bool :=
  s.dev.tenReqs.all (fun r => r.done || r.by_ != .engine e t.serial)

/-- A transfer at the head of its engine's queue replaced. -/
def Engine.putHead (E : Engine) (t : Transfer) : Engine := { E with queue := t :: E.queue.drop 1 }

/-- An engine changed. -/
def Dev.putEngine (d : Dev) (e : Nat) (E : Engine) : Dev := { d with engines := assocSet d.engines e E }

/-- A transfer's head replaced in the device. -/
def putTransfer (e : Nat) (t : Transfer) : Act Unit :=
  modifyDev (fun d => d.putEngine e ((assocGet Engine.reset d.engines e).putHead t))

/-- The units that a transfer has still to move, with their places. -/
def State.unitsLeft (s : State) (e : Nat) (t : Transfer) : List (List PartPlace) :=
  (t.units.drop t.cursor).map (fun u => u.map (s.partPlace e t))

/-- Whether a unit can move now. -/
def State.unitReady (s : State) (e : Nat) (t : Transfer) (l : List PartPlace) : Bool :=
  l.all (fun p => p.ready && !s.partHeld e t p) && (s.unitCause l).isNone

/-- What the ends of a unit miss is asked for: walks of the issuing yard, and host pages (R355, R409, R413). -/
def askPlaces (e : Nat) (t : Transfer) (l : List PartPlace) : Act Unit :=
  forAll (l.flatMap (fun p => p.ends)) (fun x => match x.2.2 with
    | .walk => modifyYard t.yidx (fun Y => Y.askWalk (.engine e) t.asid (BitVec.ofNat 64 x.1))
    | .page leaf => do
      modifyYard t.yidx (fun Y => Y.takeEnded (.engine e) t.asid x.1)
      let s ← getS
      modifyDev (fun d => d.addReq (x.1 / 4096) false x.2.1.reads x.2.1.writes (.engine e) leaf s.cycle)
    | _ => pure ())

/-- Bytes that a unit takes of what the other device has sent: those of a get. -/
def Transfer.takes (t : Transfer) (l : List PartPlace) : Nat := if ctlDir t.ctl = 2 then partBytes (l.map (fun p => p.part)) else 0

/-- TRANSFER_START (R409, R412, R413): the head of a queue begins to run, once the transfers before it have ended and its tenure
is granted; then its next destination line is written, or what that line misses is asked for. For a get, `data` holds the bytes
that the other device has sent for the line. -/
def execTransferStart (e : EngineTurn) :=
  event (do
    let name := "TRANSFER_START"
    let ⟨e, data⟩ := e
    let s ← getS
    let t ← requireSome (s.engine e).queue.head? name
    require (!s.transferHeld e t && s.tenureReady e t) name
    if t.state = 1 then putTransfer e { t with state := 2 }
    else do
      let l ← requireSome (s.unitsLeft e t).head? name
      if s.unitReady e t l then do
        require (data.length == t.takes l) name
        let t' ← moveUnit e t l data
        putTransfer e t'
      else do
        require (!s.awaits t.yidx (.engine e) && s.dev.hostLinkUp && (s.unitCause l).isNone
          && l.any (fun p => p.ends.any (fun x => x.2.2.misses))) name
        askPlaces e t l)

/-- A transfer leaves its queue for the list of those remembered (R419). -/
def Engine.finish (E : Engine) (t : Transfer) : Engine :=
  { E with
    queue := E.queue.filter (fun u => u.serial != t.serial)
    history := let h := E.history ++ [t]; h.drop (h.length - 256) }

/-- An engine's tenure for a transfer is released; what it holds for other transfers stays (R306). -/
def Dev.releaseTransfer (d : Dev) (e : Nat) (t : Transfer) : Dev :=
  let mine := fun (r : TenReq) => r.by_ == .engine e t.serial
  let gone := d.tenReqs.filter mine
  let rest := d.tenReqs.filter (fun r => !mine r)
  let tiles := d.tiles.map (fun u =>
    if gone.any (fun r => r.asid == u.asid && r.index == u.index) then
      let u' := { u with pieces := u.pieces.map (fun p => p.setKind (128 + e) none) }
      (rest.filter (fun r => r.done && r.grant && r.agent == 128 + e && r.asid == u.asid && r.index == u.index)).foldl
        (fun u r => u.grant (128 + e) r.kind r.spans) u'
    else u)
  { d with tiles := tiles, tenReqs := rest }

/-- A transfer ends: it leaves its queue, with its tenure and its translations' requests (R306, R413). -/
def endTransfer (e : Nat) (t : Transfer) : Act Unit := do
  modifyYard t.yidx (fun Y => Y.leave (fun a => a == .engine e))
  modifyDev (fun d =>
    ((d.releaseTransfer e t).leave (fun a => a == .engine e)).putEngine e
      ((assocGet Engine.reset d.engines e).finish { t with cursor := 0, line := none }))

/-- Whether a device is linked to a port (R427). -/
def State.linked (s : State) (dev : Nat) : Bool := s.dev.links.any (fun l => l.2 == dev)

/-- Whether a function is frozen (R424). -/
def State.isFrozen (s : State) (t : Nat) : Bool := (s.func t).frozen

/-- The cause with which a running transfer fails, if it does (R413, R415, R424, R428, R431): that of the line it is at. -/
def State.transferCause (s : State) (e : Nat) (t : Transfer) : Option Nat :=
  if s.isFrozen t.tenant.toNat then some 0x16
  else if ctlDir t.ctl != 0 && !s.linked (ctlDev t.ctl) then some 0x50
  else (s.unitsLeft e t).head?.bind s.unitCause

/-- The counter or sheaf of a completion word, or the cause of a CADD there (R414). -/
def State.compTarget (s : State) (t : Transfer) : Except Nat Nat :=
  let va := compAddr t.comp
  if t.asid = 0#16 && !inAperture va then (if va < dramEnd then .ok va else .error 0x11) else s.addTarget t.asid t.tid va

/-- Whether a completion word names a counter or sheaf of this device. -/
def Transfer.adds (t : Transfer) : Bool := t.comp != 0 && !t.comp.getLsbD 1

/-- Whether a completion add must wait: its target is held by a transfer that does not wait for this one, or as any access
from outside the strands (R306, R234, R272). -/
def State.compHeld (s : State) (e : Nat) (t : Transfer) : Bool :=
  let behind := fun (u : Nat × Transfer) => (reach s.waitsFor s.queuedTransfers.length [xferId u]).contains (e, t.serial)
  let n := if t.comp.getLsbD 0 then 64 else 8
  match s.compTarget t with
  | .ok k => t.adds && (s.queuedTransfers.any (fun u => !behind u && s.locks u.2 k n) || s.skewBusyKey k n
      || s.graced (128 + e) (uncoveredAsks .w (s.touchingKey k n)))
  | .error _ => false

/-- The completion add (R414): none, or the cause for which it is dropped. A remote counter is the other device's. A tiled
counter is met as an uncovered access (R317). -/
def completionAdd (e : Nat) (t : Transfer) : Act (Option Nat) := do
  let s ← getS
  if !t.adds then return none
  else
    match s.compTarget t with
    | .error c => return some c
    | .ok k => do
      if t.comp.getLsbD 0 then do
        let old := s.sheaf k
        putSheaf t.tid (compAddr t.comp - apertureBase) k old (old.updated (old.add 0 t.len))
      else do
        meetOutside (128 + e) k 8 .w
        let _ ← counterAdd k 1
      return none

/-- The ticket of a transfer (R416). -/
def ticketOf (e : Nat) (t : Transfer) : Nat := e + t.serial * 2 ^ 8

/-- A transfer has ended as failed (R413): its cause is remembered and posted. -/
def endFailed (e : Nat) (t : Transfer) (cause left : Nat) : Act Unit := do
  endTransfer e { t with state := 3, cause := cause, left := left }
  postEvent t.tenant.toNat (HostEvent.of 4 cause 0 t.tid (ticketOf e t))
  checkTeamEnd t.tid

/-- Bytes of a failed transfer written beyond its full lines: free choices over the parts that it could have moved. -/
def writeSome (e : Nat) (t : Transfer) : Act Nat := do
  let s ← getS
  let l := ((s.unitsLeft e t).filter (s.unitReady e t)).flatten
  let c ← freshFree
  let data ← (if ctlDir t.ctl = 2 then freeBytes (partBytes (l.map (fun p => p.part))) else return [])
  partialWrite e t c 0 l data

/-- A transfer fails (R413, R431): of a running one, a line that reads poison is written as poisoned, and of the rest any bytes
may have been written. -/
def failTransfer (e : Nat) (t : Transfer) (cause : Nat) : Act Unit := do
  if t.state = 2 then do
    let s ← getS
    let poisoned := (s.unitsLeft e t).head?.filter (fun l => l.all PartPlace.ready && l.any s.partPoisoned)
    let t' ← (match poisoned with
      | some l => do
        writePoisoned e t l
        return { t with cursor := t.cursor + 1, left := t.left - partBytes (l.map (fun p => p.part)) }
      | none => return t)
    let written ← writeSome e t'
    endFailed e t cause (t'.left - written)
  else endFailed e t cause t.left

/-- TRANSFER_FAILED (R413, R415, R428): of a running transfer or of a frozen function's; `remote` is the cause of a fault at
the other device. -/
def execTransferFailed (e : Nat) (remote : Option (BitVec 8)) :=
  event (do
    let name := "TRANSFER_FAILED"
    let s ← getS
    let t ← requireSome (s.engine e).queue.head? name
    require (t.state == 2 || s.isFrozen t.tenant.toNat) name
    let there := if ctlDir t.ctl = 0 then none else remote.map (fun c => c.toNat)
    let cause ← requireSome ((s.transferCause e t).orElse fun _ => there) name
    failTransfer e t cause)

/-- Units moved one after another. -/
def moveUnits (e : Nat) (t : Transfer) : List (List PartPlace) → List Byte → Act Transfer
  | [], _ => return t
  | l :: rest, data => do
    let t' ← moveUnit e t l data
    moveUnits e t' rest (data.drop (t.takes l))

/-- TRANSFER_COMPLETE (R306, R412, R414): the lines that are left are written, and the completion add is made; `data` holds the
bytes that the other device has sent for them. -/
def execTransferComplete (e : Nat) (data : List Byte) :=
  event (do
    let name := "TRANSFER_COMPLETE"
    let s ← getS
    let t ← requireSome (s.engine e).queue.head? name
    let l := s.unitsLeft e t
    require (t.state == 2 && !s.transferHeld e t && s.tenureReady e t && (s.transferCause e t).isNone
      && l.all (s.unitReady e t) && data.length == (l.map t.takes).sum && !s.compHeld e t) name
    let t' ← moveUnits e t l data
    putTransfer e { t' with state := 0, left := 0 }
    endTransfer e { t' with state := 0, left := 0 }
    let bad ← completionAdd e t
    match bad with
    | some c => do
      modifyDev (fun d =>
        let E := assocGet Engine.reset d.engines e
        d.putEngine e { E with history := E.history.map (fun u => if u.serial = t.serial then { u with state := 3, cause := c } else u) })
      postEvent t.tenant.toNat (HostEvent.of 4 c 0 t.tid (ticketOf e t))
    | none => pure ()
    checkTeamEnd t.tid)

/-! ### Links to other devices (R427, R428) -/

/-- PORT_LINK_CHANGE (R428). -/
def execPortLinkChange (port : Nat) (dev : Option (BitVec 16)) :=
  event (do
    require (port < 8) "PORT_LINK_CHANGE"
    modifyDev (fun d =>
      { d with links := d.links.filter (fun l => l.1 != port) ++ dev.toList.map (fun n => (port, n.toNat)) }))

/-- REMOTE_PATH_LOSS (R428): the transfers to a device that no port reaches fail. -/
def execRemotePathLoss (dev : BitVec 16) :=
  event (do
    let s ← getS
    let l := s.queuedTransfers.filter (fun u => ctlDir u.2.ctl != 0 && ctlDev u.2.ctl == dev.toNat)
    require (!s.linked dev.toNat && !l.isEmpty) "REMOTE_PATH_LOSS"
    forAll l (fun u => failTransfer u.1 u.2 0x50))

/-! ### Accesses from outside (R304, R305) -/

/-- Pieces of a range that lie in one line each. -/
def linesWithin (key n : Nat) : List (Nat × Nat) :=
  (linePieces (n / 128 + 2) key (List.replicate n 0)).map (fun p => (p.1, p.2.length))

/-- Bytes written at the slices from outside, line by line, each where nothing holds it (R273, R306). -/
def outsideWrite (name : String) (key : Nat) (bytes : List Byte) : Act Unit :=
  forAll (linePieces (bytes.length / 128 + 2) key bytes) (fun p => do
    let s ← getS
    require (!s.outsideHeld outsideAgent p.1 p.2.length .w) name
    meetOutside outsideAgent p.1 p.2.length .w
    clearPoison p.1 p.2.length
    emit (.mem p.1 p.2))

/-- Bytes read at the slices from outside, line by line, each where nothing holds it. -/
def outsideRead (name : String) (key n : Nat) : Act Unit :=
  forAll (linesWithin key n) (fun p => do
    let s ← getS
    require (!s.outsideHeld outsideAgent p.1 p.2 .s) name
    meetOutside outsideAgent p.1 p.2 .s)

/-- A counter add from outside the strands (R304, R305, R317): it waits for its bytes, and a tiled counter is met as an uncovered
access. -/
def outsideAdd (name : String) (key : Nat) (v : Word) : Act Unit := do
  let s ← getS
  require (!s.outsideHeld outsideAgent key 8 .w) name
  meetOutside outsideAgent key 8 .w
  let _ ← counterAdd key v

/-- Device pages behind a range of an address space with user permissions, as pieces; none if some byte is refused. -/
def State.exported (s : State) (asid : BitVec 16) (va n : Nat) (k : Access) : Option (List (Nat × Nat)) :=
  (List.range ((va + n + 4095) / 4096 - va / 4096)).mapM (fun i =>
    let lo := max va ((va / 4096 + i) * 4096)
    let hi := min (va + n) ((va / 4096 + i + 1) * 4096)
    (s.walk asid lo).bind (fun e =>
      if (e.refuses false k).isSome || e.hostLeaf then none else some (e.key lo, hi - lo)))

/-- Bytes cut to lengths. -/
def cutBytes : List (Nat × Nat) → List Byte → List (Nat × List Byte)
  | [], _ => []
  | (k, n) :: rest, bs => (k, bs.take n) :: cutBytes rest (bs.drop n)

/-- The address space that the device exports to another device's tenant (R428). -/
def Dev.exportedTo (d : Dev) (tenant : BitVec 4) : Option (BitVec 16) := (d.exports.find? (fun e => e.1 == tenant)).map (fun e => e.2)

/-- SERTEN_PUT (R305, R428): bytes for an address in the space that the device exports to the sender's tenant. Where the address faults, the fault is
the other device's and nothing happens here. -/
def execSertenPut (dev : BitVec 16) (tenant : BitVec 4) (va : Word) (bytes : List Byte) :=
  event (do
    let s ← getS
    require (s.dev.boot.phase == 5 && s.linked dev.toNat) "SERTEN_PUT"
    match (s.dev.exportedTo tenant).bind (fun a => s.exported a va.toNat bytes.length .store) with
    | none => pure ()
    | some l => forAll (cutBytes l bytes) (fun p => outsideWrite "SERTEN_PUT" p.1 p.2))

/-- SERTEN_GET (R428): the bytes leave the device. -/
def execSertenGet (dev : BitVec 16) (tenant : BitVec 4) (va : Word) (n : Nat) :=
  event (do
    let s ← getS
    require (s.dev.boot.phase == 5 && s.linked dev.toNat) "SERTEN_GET"
    match (s.dev.exportedTo tenant).bind (fun a => s.exported a va.toNat n .load) with
    | none => pure ()
    | some l => forAll l (fun p => outsideRead "SERTEN_GET" p.1 p.2))

/-- SERTEN_COUNTER_ADD (R305, R428). -/
def execSertenCounterAdd (dev : BitVec 16) (tenant : BitVec 4) (va : Word) (v : Word) :=
  event (do
    let s ← getS
    require (s.dev.boot.phase == 5 && s.linked dev.toNat) "SERTEN_COUNTER_ADD"
    match (s.dev.exportedTo tenant).map (fun a => s.addTarget a 0 va.toNat) with
    | some (.ok k) => outsideAdd "SERTEN_COUNTER_ADD" k v
    | _ => pure ())

/-- HOST_MEMORY_WRITE (R304, R431): a posted write to device memory, with the poisoned-data bit. -/
def execHostMemoryWrite (pa : Nat) (bytes : List Byte) (bad : Bool) :=
  event (do
    let s ← getS
    require (s.dev.boot.phase == 5 && pa + bytes.length ≤ dramEnd && !bytes.isEmpty) "HOST_MEMORY_WRITE"
    outsideWrite "HOST_MEMORY_WRITE" pa bytes
    if bad then
      storePoison (s.blockUnit pa) ((List.range ((pa + bytes.length - 1) / 64 + 1 - pa / 64)).map (fun i => pa / 64 + i))
    else pure ())

/-! ### BAR0 and BAR2 (R421-R423, R446) -/

/-- Whether a function's BAR0 is open (R446). -/
def State.barOpen (s : State) : Bool := s.dev.boot.phase == 5

/-- The binding of an alias of a function. -/
def Func.alias_ (F : Func) (n : Nat) : Option Alias := F.aliases.find? (fun a => a.n == n)

/-- The add of a host write to an alias (R331, R422): an unbound alias drops it. -/
def aliasAdd (f n : Nat) (v : Word) : Act Unit := do
  let s ← getS
  match (s.func f).alias_ n with
  | none => pure ()
  | some a =>
    match s.addTarget a.asid a.tid a.va.toNat with
    | .ok k => outsideAdd "HOST_COUNTER_ADD" k v
    | .error c => postEvent f (HostEvent.of 7 c 0 0 n)

/-- The event queue begun anew: a write to EQBASE or EQSIZE (R421). -/
def Func.restartQueue (F : Func) : Func := { F with eqwr := 0, eqrd := 0, eqlost := 0 }

/-- Whether a value is one that EQSIZE can hold (R421). -/
def eqsizeOk (v : Word) : Bool := v == 0 || (List.range 13).any (fun i => v.toNat == 16 * 2 ^ i)

/-- A host write of `n` bytes at an offset of a function's BAR0 (R421): 8 bytes at an aligned offset reach a register, and
others are dropped. EQBASE holds no bits below a 64-byte boundary, and a size that R421 does not list leaves EQSIZE as it is
(DESIGN CHOICE, log entry 68). -/
def barWrite (f off n : Nat) (v : Word) : Act Unit := do
  if n ≠ 8 || off % 8 ≠ 0 then pure ()
  else if off < 0x1000 then aliasAdd f (off / 8) v
  else if off = 0x2000 then
    modifyFunc f (fun F => { F.restartQueue with eqbase := v &&& ~~~63#64 })
  else if off = 0x2008 then
    modifyFunc f (fun F => { F.restartQueue with eqsize := if eqsizeOk v then v else F.eqsize })
  else if off = 0x2018 then modifyFunc f (fun F => { F with eqrd := v })
  else pure ()

/-- What a host read of device memory returns: the bytes, and whether the completion has the poisoned-data bit (R431). -/
def State.hostRead (s : State) (pa n : Nat) : List Byte × Bool := (s.mem.readBytes pa n, s.poisoned [(pa, n)])

/-- What a host read of `n` bytes at an offset of a function's BAR0 returns (R251, R421, R422, R425, R446): none for the counter of a
bound alias that cannot be reached, of which R422 states no value. -/
def State.barRead (s : State) (f off n : Nat) : Option Word :=
  let F := s.func f
  let q := (F.queues.find? (fun e => e.1 == (off - 0x3000) / 32)).map (fun e => e.2)
  if !s.barOpen || n ≠ 8 || off % 8 ≠ 0 then some 0
  else if off < 0x1000 then
    match F.alias_ (off / 8) with
    | none => some 0
    | some a => match s.addTarget a.asid a.tid a.va.toNat with
      | .ok k => some (BitVec.ofNat 64 (s.counter k))
      | .error _ => none
  else if off < 0x1000 + 8 * 14 then some (assocGet 0 F.counters ((off - 0x1000) / 8))
  else some (match off with
    | 0x2000 => F.eqbase
    | 0x2008 => F.eqsize
    | 0x2010 => F.eqwr
    | 0x2018 => F.eqrd
    | 0x2020 => F.eqlost
    | 0x2028 => BitVec.ofNat 64 ((if F.frozen then 1 else 0) + if F.recovered then 2 else 0)
    | _ =>
      if off < 0x3000 || 0x3080 ≤ off then 0
      else match q, (off - 0x3000) % 32 with
        | some q, 0 => BitVec.ofNat 64 q.taken
        | some q, 8 => BitVec.ofNat 64 q.complete
        | some q, 16 => BitVec.ofNat 64 q.lastseq
        | _, _ => 0)

/-- What a host read of BAR0 does at the home of a tiled counter: the uncovered read of R317 and R422. -/
def barTouch (f off n : Nat) : Act Unit := do
  let s ← getS
  if n = 8 && off % 8 = 0 && off < 0x1000 then
    match (s.func f).alias_ (off / 8) with
    | none => pure ()
    | some a => match s.addTarget a.asid a.tid a.va.toNat with
      | .ok k => outsideRead "HOST_MEMORY_READ" k 8
      | .error _ => pure ()
  else pure ()

/-- HOST_MEMORY_READ (R304, R421, R422, R431, R446): of device memory, or of the BAR0 of a function (State.hostRead and State.barRead
say what returns); the bytes leave the device. -/
def execHostMemoryRead (a : HostAddr) (n : Nat) :=
  event (do
    let s ← getS
    match a with
    | .memory pa => do
      require (s.barOpen && pa + n ≤ dramEnd) "HOST_MEMORY_READ"
      outsideRead "HOST_MEMORY_READ" pa n
    | .bar f off => do
      require (f < 16 && off + n ≤ 0x10000) "HOST_MEMORY_READ"
      if s.barOpen then barTouch f off n else pure ())

/-- HOST_COUNTER_ADD (R331, R422): a host write to an alias; outside phase 5 it is dropped (R446). -/
def execHostCounterAdd (f n : Nat) (v : Word) :=
  event (do
    let s ← getS
    require (f < 16 && n < 512) "HOST_COUNTER_ADD"
    if s.barOpen then barWrite f (8 * n) 8 v else pure ())

/-- EQ_CONFIG_WRITE (R421): EQBASE, or, where `size`, EQSIZE. -/
def execEqConfigWrite (f : Nat) (size : Bool) (v : Word) :=
  event (do
    let s ← getS
    require (f < 16) "EQ_CONFIG_WRITE"
    if s.barOpen then barWrite f (if size then 0x2008 else 0x2000) 8 v else pure ())

/-- EVENT_BACKLOG_DRAIN (R423): the oldest waiting event takes the entry that the host has freed. -/
def execEventBacklogDrain (f : Nat) :=
  event (do
    let s ← getS
    let F := s.func f
    let e ← requireSome F.backlog.head? "EVENT_BACKLOG_DRAIN"
    require (F.eqsize != 0 && !F.ringFull && s.dev.hostLinkUp) "EVENT_BACKLOG_DRAIN"
    modifyFunc f (fun F => { F with backlog := F.backlog.drop 1 })
    writeEvent f e)

/-- A host launch queue bound at the driver's request (R394): nothing taken. -/
def bindQueue (f q : Nat) (asid : BitVec 16) (va : Word) (n : Nat) : Act Unit := do
  let s ← getS
  let name := "REGISTER_WRITE"
  require (q < 4 && (List.range 11).any (fun i => n == 64 * 2 ^ i) && va.extractLsb' 0 6 == 0#6
    && (s.space asid).any (fun x => x.tenant.toNat == f)) name
  modifyFunc f (fun F =>
    { F with queues := assocSet F.queues q { asid := asid, va := va, n := n, taken := 0, complete := 0, lastseq := 0, doneRecs := [], header := none } })

/-- A counter alias bound at the driver's request (R422): in the aperture it names a team of the function. -/
def bindAlias (f n : Nat) (asid : BitVec 16) (va : Word) (tid : Nat) : Act Unit := do
  let s ← getS
  let name := "REGISTER_WRITE"
  require (n < 512 && (s.space asid).any (fun x => x.tenant.toNat == f)) name
  let mine := ((s.team tid).bind (fun t => s.grid t.grid)).any (fun g => g.tenant.toNat == f)
  require (!inAperture va.toNat || mine) name
  modifyFunc f (fun F =>
    { F with aliases := F.aliases.filter (fun a => a.n != n) ++ [⟨n, asid, va, if inAperture va.toNat then tid else 0⟩] })

/-- REGISTER_WRITE (R6, R307, R394, R421, R422, R428, R429, R446, R453): also the bindings, the exports and the extensions of trees that the supervisor
makes at the driver's request. -/
def execRegisterWrite (r : HostReg) (v : Word) :=
  event (do
    let s ← getS
    let b := s.dev.boot
    match r with
    | .bar f off n => do
      require (f < 16) "REGISTER_WRITE"
      if s.barOpen then barWrite f off n v else pure ()
    | .imgbase => if b.phase = 2 then modifyDev (fun d => { d with boot := { d.boot with imgbase := v } }) else pure ()
    | .imglen => if b.phase = 2 then modifyDev (fun d => { d with boot := { d.boot with imglen := v } }) else pure ()
    | .plim => do
      require (b.phase == 5) "REGISTER_WRITE"
      if v.toNat < b.plim then modifyDev (fun d => { d with boot := { d.boot with plim := max 1500 v.toNat } }) else pure ()
    | .atomicOps f => modifyFunc f (fun F => { F with atomicOps := v.getLsbD 0 })
    | .queue f q asid n => do
      require (b.phase == 5) "REGISTER_WRITE"
      bindQueue f q asid v n
    | .alias_ f n asid tid => do
      require (b.phase == 5) "REGISTER_WRITE"
      bindAlias f n asid v tid
    | .unalias f n => do
      require (b.phase == 5) "REGISTER_WRITE"
      modifyFunc f (fun F => { F with aliases := F.aliases.filter (fun a => a.n != n) })
    | .deviceId => do
      require (b.phase == 5) "REGISTER_WRITE"
      modifyDev (fun d => { d with devId := v.toNat % 2 ^ 16 })
    | .tree k devices => do
      require (b.phase == 5 && s.dev.trees.any (fun e => e.1 == k) && !s.treeBusy k) "REGISTER_WRITE"
      modifyDev (fun d => { d with trees := d.trees.map (fun e => if e.1 = k then (k, { e.2 with devices := devices }) else e) })
    | .export_ tenant => do
      require (b.phase == 5 && (s.space (v.extractLsb' 0 16)).isSome) "REGISTER_WRITE"
      modifyDev (fun d => { d with exports := d.exports.filter (fun e => e.1 != tenant) ++ [(tenant, v.extractLsb' 0 16)] })
    | .vfEnable => if b.phase = 5 then modifyDev (fun d => { d with vfEnable := v.getLsbD 0 }) else pure ())

end Sys2Proof.Machine
end

