-- ==== Sys2Proof/Machine/Placement.lean ====
section
/-! DEFINITION. Device events of the launch path and of the yard schedulers (R322, R394-R404). -/
namespace Sys2Proof.Machine

/-! ### Launch records (R394-R396) -/

/-- The key of a byte of a host launch queue. -/
def State.queueKey (s : State) (q : HostQueue) (off : Nat) : Option Nat :=
  (s.devicePage q.asid (q.va.toNat + off)).map (fun p => p * 4096 + (q.va.toNat + off) % 4096)

/-- LAUNCH_RECORD_TAKE (R394, R395, R401, R424): the next posted record of a host queue; `bases` are the save areas that the
supervisor allots its teams, none where it cannot. -/
def execLaunchRecordTake (f q : Nat) (bases : List Word) :=
  event (do
    let name := "LAUNCH_RECORD_TAKE"
    let s ← getS
    let Q ← requireSome (((s.func f).queues.find? (fun e => e.1 == q)).map (fun e => e.2)) name
    let hdr ← requireSome (s.queueKey Q 0) name
    require (s.dev.boot.phase == 5 && !s.isFrozen f && Q.taken < s.counter hdr) name
    let i := Q.taken
    let k ← requireSome (s.queueKey Q (64 + 64 * (i % Q.n))) name
    let rec_ := s.mem.readBytes k 64
    emit (.mem (hdr + 8) (leBytes 8 (i + 1)))
    let admitted := (Record.of rec_).valid (s.spaceOf Q.asid).tenant && !bases.isEmpty
    modifyFunc f (fun F =>
      { F with
        queues := assocSet F.queues q
          { Q with taken := i + 1, lastseq := if admitted then (Record.of rec_).seq else Q.lastseq } })
    takeRecord rec_ Q.asid (some (f, q, i)) bases name)

/-- The grids whose overflow areas hold records. -/
def State.waitingAreas (s : State) : List Nat := (s.dev.grids.filter (fun g => 0 < s.overflowCount g)).map (fun g => g.gid)

/-- Entries of a yard's queue that other areas have filled since an area last filled one. -/
def Yard.passedOf (Y : Yard) (gid : Nat) : Nat := assocGet 0 Y.passed gid

/-- Whether areas passed so many times can each supply one of 64 consecutive entries: among the next `m` entries there is room
for those that must come by then (R396). -/
def canSupply (passed : List Nat) : Bool := (List.range 64).all (fun m => passed.countP (fun p => 64 - p ≤ m) ≤ m)

/-- Whether an area may supply the next entry of a yard's queue (R396): the others can then still come in time; of more areas than
that is possible for, the one passed most often may. -/
def State.maySupply (s : State) (y gid : Nat) : Bool :=
  let Y := s.yard y
  let l := s.waitingAreas.filter (fun g => g != gid)
  canSupply (l.map (fun g => Y.passedOf g + 1)) || l.all (fun g => Y.passedOf g ≤ Y.passedOf gid)

/-- The entries that areas have seen pass, after an area has filled one. -/
def Yard.pass (Y : Yard) (gid : Nat) (areas : List Nat) : Yard :=
  { Y with passed := areas.map (fun g => (g, if g = gid then 0 else Y.passedOf g + 1)) }

/-- The oldest record of a grid's overflow area moves to a yard's device launch queue (R396). A grid that has completed goes
when its area is empty. -/
def refill (y gid : Nat) (name : String) : Act Unit := do
  let s ← getS
  let g ← requireSome (s.grid gid) name
  let (w, d, hdr) ← requireSome (s.overflow g) name
  require (d < w && (s.yard y).dlq.length < 64 && s.maySupply y gid) name
  let k ← requireSome (s.ovfKey g (64 + 64 * (d % g.ovfRecords))) name
  modifyYard y (fun Y => { Y with dlq := Y.dlq ++ [⟨s.mem.readBytes k 64, g.asid, gid⟩] })
  emit (.mem (hdr + 8) (leBytes 8 (d + 1)))
  let s ← getS
  modifyYard y (fun Y => Y.pass gid s.waitingAreas)
  if g.left = 0 && d + 1 = w then modifyDev (fun d => { d with grids := d.grids.filter (fun x => x.gid != gid) }) else pure ()

/-- DEVICE_QUEUE_ADMIT (R396): the oldest record of a yard's device launch queue that is not a frozen function's (R424), and the refill of the entry it frees from
an overflow area, where one holds records; an empty queue is refilled alone. -/
def execDeviceQueueAdmit (y : Nat) (area : Option Nat) (bases : List Word) :=
  event (do
    let name := "DEVICE_QUEUE_ADMIT"
    let s ← getS
    match (s.yard y).dlq.find? (fun r => !s.isFrozen (s.spaceOf r.asid).tenant.toNat) with
    | some r => do
      modifyYard y (fun Y => { Y with dlq := Y.dlq.erase r })
      takeRecord r.bytes r.asid none bases name
    | none => require area.isSome name
    match area with
    | some g => refill y g name
    | none => do
      let s ← getS
      require s.waitingAreas.isEmpty name)

/-! ### Placement and priority (R397-R399) -/

/-- TEAM_PLACEMENT (R397, R404): yards decide in ascending order. -/
def execTeamPlacement (y : Nat) :=
  event (do
    let s ← getS
    let (t, g) ← requireSome (s.nextPlacement y) "TEAM_PLACEMENT"
    require ((List.range y).all (fun z => (s.nextPlacement z).isNone)) "TEAM_PLACEMENT"
    placeTeam t g y)

/-- PRIORITY_AGING (R398): what a pending team has gained at a yard. -/
def execPriorityAging (y tid : Nat) :=
  event (do
    let name := "PRIORITY_AGING"
    let s ← getS
    let t ← requireSome (s.team tid) name
    let n := t.gainBy ((s.yard y).regs.quantum.toNat % 2 ^ 32) s.cycle
    require (t.isPending && s.isYard y && t.gain y < n) name
    modifyTeam tid (fun t => { t with gains := assocSet t.gains y n }))

/-- Whether a team's expired quantum ends in a swap (R398, R399): a blocking team, or one of at least its priority that
could fit the yard if it were empty. -/
def State.yieldsTo (s : State) (t : Team) : Bool :=
  s.pendingTeams.any (fun e =>
    s.blocking t.yidx e.1 e.2 || (s.fitsEmpty t.yidx e.1 e.2 && t.prio ≤ s.effective t.yidx e.1))

/-- QUANTUM_EXPIRY (R99, R399). -/
def execQuantumExpiry (tid : Nat) :=
  event (do
    let name := "QUANTUM_EXPIRY"
    let s ← getS
    let t ← requireSome (s.team tid) name
    let due ← requireSome t.quantumAt name
    require (t.where_ == .placed && due ≤ s.cycle && !s.delivered tid) name
    if s.yieldsTo t then startSwap tid
    else
      let q := (s.yard t.yidx).regs.quantum.toNat % 2 ^ 32
      modifyTeam tid (fun t => { t with quantumAt := if q = 0 then none else some (s.cycle + q) }))

/-- The state as a yard would see it once a team's resources are freed. -/
def State.without (s : State) (tid : Nat) : State :=
  { s with
    dev := { s.dev with teams := s.dev.teams.filter (fun t => t.tid != tid) }
    yards := s.yards.map (fun e => (e.1,
      { e.2 with triggers := e.2.triggers.filter (fun t => t.tid != tid), skews := e.2.skews.filter (fun k => k.tid != tid) })) }

/-- PARK_EXPIRY (R99, R322, R399): a strand that has waited in CWAIT or SWAIT for longer than K.PARK. -/
def execParkExpiry (p : Pos) :=
  event (do
    let name := "PARK_EXPIRY"
    let s ← getS
    let x ← requireSome (s.at? p) name
    let w ← requireSome x.wait name
    let due ← requireSome w.parkAt name
    let t ← requireSome (s.team x.tid) name
    require ((w.kind == .cwait || w.kind == .swait) && due < s.cycle && t.where_ == .placed
      && !s.delivered x.tid && s.pendingTeams.any (fun e => (s.without x.tid).fits t.yidx e.1 e.2)) name
    startSwap x.tid)

/-! ### Swap-out (R402) -/

/-- A strand stops at its instruction boundary; a pair agrees first (R441). -/
def stopNow : Act Unit := do
  let x ← getMe
  sendCancel x.window
  modifyMe (fun x => if x.mustAgree && x.settled then { x.exchange with stopped := true } else { x with stopped := true })

/-- Whether a strand that has stopped still has a hold to release, its interval agreed where it is a pair's. -/
def Strand.holdsOn (x : Strand) : Bool := x.settled && !x.mustAgree && x.act.any (fun a => !a.hold.isEmpty)

/-- A strand forced to a full save at its next instruction boundary: its hold is released first (R382), for which it may have to
wait, and its shipped work settles (R175). What a pair holds follows its agreement. -/
def forceStop : Act Unit := do
  let x ← getMe
  match (if x.holding && !x.mustAgree then x.act else none) with
  | some a => fun r =>
    match (if x.sent.isNone then startRelease a else performHold a.hold) r with
    | .ok (_, r') => stopNow r'
    | .error (.suspend _ effs) => emitAll effs r
    | .error e => .error e
  | none => stopNow

/-- SAFEWAIT_EXPIRY (R402 steps 2 and 3). -/
def execSafewaitExpiry (tid : Nat) :=
  event (do
    let name := "SAFEWAIT_EXPIRY"
    let s ← getS
    let t ← requireSome (s.team tid) name
    match t.where_ with
    | .leaving d => do
      let l := (s.teamStrands tid).filter (fun x => !x.stoppedForSwap && (!x.stopped || x.holdsOn))
      require (d ≤ s.cycle && !l.isEmpty) name
      forAll l (fun x => onStrand x.pos name forceStop)
    | _ => notEnabled name)

/-- SWAP_OUT (R99, R402 steps 4 and 5). -/
def execSwapOut (tid : Nat) :=
  event (do
    let name := "SWAP_OUT"
    let s ← getS
    let t ← requireSome (s.team tid) name
    match t.where_ with
    | .leaving _ => do
      require ((s.teamStrands tid).all Strand.stoppedForSwap && !s.transferOf tid && !s.rearranging tid && !s.delivered tid && !s.gathering tid
        && !t.killed) name
      saveTeam tid
    | _ => notEnabled name)

end Sys2Proof.Machine
end

