-- ==== Sys2Proof/Machine/Failure.lean ====
section
/-! DEFINITION. Device events of errors, of pairs and of the host link's failures (R424, R430-R442). -/
namespace Sys2Proof.Machine

/-! ### Corrected errors (R430, R442) -/

/-- ERROR_CORRECTED (R430): counted in the record of its unit, coalesced over an interval (R442). -/
def execErrorCorrected (y unit addr : Nat) :=
  event (do
    let s ← getS
    require (s.isYard y && 1 ≤ unit && unit ≤ 15) "ERROR_CORRECTED"
    modifyYard y (fun Y =>
      if Y.corrected.any (fun r => r.unit == unit) then
        { Y with corrected := Y.corrected.map (fun r => if r.unit = unit then { r with count := min (r.count + 1) (2 ^ 32 - 1) } else r) }
      else
        { Y with corrected := Y.corrected ++ [{ McRecord.of 1 0 unit ⟨0, false, 0, 0⟩ 0 s.cycle with addr := addr }] }))

/-- COALESCING_INTERVAL_END (R442): the intervals are those of 2^20 cycles. -/
def execCoalescingIntervalEnd (y : Nat) :=
  event (do
    let s ← getS
    let r ← requireSome ((s.yard y).corrected.find? (fun r => r.cycle / 2 ^ 20 < s.cycle / 2 ^ 20)) "COALESCING_INTERVAL_END"
    modifyYard y (fun Y => { Y with corrected := Y.corrected.erase r })
    reportRecord y r)

/-! ### Matrix pipes, tile file and granary (R204, R437) -/

/-- The destination tile of a matrix operation. -/
def HOp.matrixDest : HOp → Option (BitVec 3)
  | .mma d _ _ _ => some d
  | .mmas d _ _ => some d
  | _ => none

/-- A matrix operation ends with the cause of failed pipes, its destination unchanged. -/
def failMatrix (y : Nat) (k : Packet) (name : String) : Act Unit :=
  onStrand k.pos name (do
    match k.op.matrixDest with
    | some d => do
      let x ← getMe
      if (x.tile d).st = .empty then releaseTile d else pure ()
    | none => pure ()
    modifyHeavy y (fun H => { H with replies := H.replies ++ [⟨k.pos, k.seq, y, .fault 0x03 0 none⟩] }))

/-- A yard's matrix pipes fail: it takes only NOMATRIX grids, its matrix operations end, and its other teams are swapped out
(R437). -/
def failPipes (y : Nat) (name : String) : Act Unit := do
  let s ← getS
  let H := (s.yard y).heavy
  modifyHeavy y (fun H => { H with failed := true, pipes := [], matq := [] })
  forAll (H.pipes.map (fun e => e.2.pkt) ++ H.matq.map (fun m => m.pkt)) (fun k => failMatrix y k name)
  reportRecord y (McRecord.of 5 0 10 (supPos y) 0 s.cycle)
  forAll ((s.residents y).filter (fun t => t.where_ == .placed && !s.nomatrix t.tid)) (fun t => startSwap t.tid)

/-- Whether a tile operation is in flight at a heavy core (R204). -/
def Heavy.tileInFlight (H : Heavy) : Bool :=
  !H.pipes.isEmpty || !H.matq.isEmpty || !H.transfers.isEmpty || (H.queue ++ H.running).any (fun k => k.op.isTile)

/-- An error in the tile file or the granary of a yard while an operation is in flight there (R204). -/
def failInFlight (y : Nat) (name : String) : Act Unit := do
  let s ← getS
  let H := (s.yard y).heavy
  if H.tileInFlight && !H.failed then failPipes y name else pure ()

/-! ### Poison and uncorrectable errors (R431-R436) -/

/-- POISON_CONSUMED (R432, R433): the instruction that consumed poison is contained. -/
def execPoisonConsumed (p : Pos) :=
  event (do
    let s ← getS
    let x ← requireSome (s.at? p) "POISON_CONSUMED"
    match x.run with
    | .consumed unit => contain x 0x50 unit
    | _ => notEnabled "POISON_CONSUMED")

/-- An error in a register (R431, R441): in a pair it makes the next exchange differ, in another strand the register is poisoned,
which is reported once. s0 and m0 have no storage that an error could strike (R116, R139; DEDUCED, log entry 85). -/
def poisonReg (p : Pos) (r : RegId) (name : String) : Act Unit := do
  let s ← getS
  require (r != .s 0 && r != .m 0) name
  let x ← requireSome (s.at? p) name
  match x.pair with
  | some q => modifyAt p (fun x => { x with pair := some { q with bad := true } })
  | none =>
    if x.arch.poisoned.contains r then pure ()
    else do
      modifyAt p (fun x => { x with arch := { x.arch with poisoned := x.arch.poisoned ++ [r] } })
      reportPoison p.yidx 6 p x.tid 0

/-- An error in an architectural tile of a strand (R431, R437): both cores of a pair have the one tile. -/
def poisonTile (p : Pos) (j : BitVec 3) (name : String) : Act Unit := do
  let s ← getS
  let x ← requireSome (s.at? p) name
  if x.poisonTiles.contains j.toNat then pure ()
  else do
    modifyAt p (fun x => { x with poisonTiles := x.poisonTiles ++ [j.toNat] })
    reportPoison x.home.yidx 8 p x.tid 0
  failInFlight x.home.yidx name

/-- An error in a block of a line of the yard cache or, `heavy`, of the private cache (R430, R431). -/
def poisonCached (y : Nat) (heavy : Bool) (block : Nat) (name : String) : Act Unit := do
  let s ← getS
  let Y := s.yard y
  let unit := if heavy then 7 else 3
  match domLine Y.domain heavy (block / 2) with
  | some d =>
    if d.poison.getLsbD (block % 2) then pure ()
    else do
      modifyYard y (fun Y => { Y with domain := domPut Y.domain { d with poison := d.poison ||| BitVec.twoPow 2 (block % 2) } })
      reportPoison y unit ⟨0, false, 0, 0⟩ 0 (if isDram (block * 64) then block * 64 else 0)
  | none => do
    require (Y.holds heavy (block / 2)) name
    storePoison unit [block]

/-- UNCORRECTABLE_ERROR (R431, R433): poison, reported once when it is stored, or containment of what it strikes. -/
def execUncorrectableError (e : ErrSite) :=
  event (do
    let name := "UNCORRECTABLE_ERROR"
    let s ← getS
    match e with
    | .block k => do
      require (k < dramEnd || isYardMem k) name
      storePoison (s.blockUnit k) [k / 64]
    | .cached y heavy block => poisonCached y heavy block name
    | .sreg p r => poisonReg p (.s r) name
    | .vreg p r => poisonReg p (.v r) name
    | .mreg p r => poisonReg p (.m r) name
    | .tile p j => poisonTile p j name
    | .granary y tid idx => do
      let g ← requireSome ((s.yard y).heavy.granary.find? (fun g => g.tid == tid && g.idx == idx)) name
      if g.poisoned then pure ()
      else do
        modifyHeavy y (fun H =>
          { H with granary := H.granary.map (fun g => if g.tid = tid && g.idx = idx then { g with poisoned := true } else g) })
        reportPoison y 9 ⟨0, false, 0, 0⟩ tid 0
      failInFlight y name
    | .strand p => do
      let x ← requireSome (s.at? p) name
      match x.pair with
      | some q => modifyAt p (fun x => { x with pair := some { q with bad := true } })
      | none => contain x 0x50 6
    | .device y => do
      require (s.isYard y && s.dev.boot.phase != 15) name
      deviceFault (McRecord.of 7 0x50 15 (supPos y) 0 s.cycle))

/-- PIPE_FAILURE (R437). -/
def execPipeFailure (y : Nat) :=
  event (do
    let s ← getS
    require (s.isYard y && !(s.yard y).heavy.failed) "PIPE_FAILURE"
    failPipes y "PIPE_FAILURE")

/-! ### Pairs (R440, R441) -/

/-- A pair after an exchange that agrees: its stores leave the pair buffer, and the point is the agreed one. -/
def Strand.agree (x : Strand) (q : Pair) : Strand :=
  { q.buf.foldl (fun z st => z.passStore [st]) x with
    pending := x.pending.map (fun r => { r with agreed := true })
    run := if x.run = .agreeing then .ready else x.run
    pair := some { Pair.fresh x.arch with since := (x.window.head?.map (fun e => e.seq)).getD 0 } }

/-- A pair after an exchange that differs for the first time: both cores stand at the agreed point again. -/
def Strand.rollBack (x : Strand) (q : Pair) : Strand :=
  { x with
    arch := q.agreed
    window := x.window.filter (fun e => q.since != 0#8 && e.seq == q.since)
    pending := x.pending.filter (fun r => r.agreed)
    resumeMask := none
    wait := none
    run := .ready
    pair := some { q with count := 0, fp := 0, buf := [], failed := true, exchanging := false, bad := false } }

/-- EXCHANGE_COMPLETE (R441): `same` tells whether the two fingerprints agree. -/
def execExchangeComplete (p : Pos) (same : Bool) :=
  event (onStrand p "EXCHANGE_COMPLETE" (do
    let name := "EXCHANGE_COMPLETE"
    let s ← getS
    let x := s.me
    let q ← requireSome x.pair name
    require (q.exchanging || (x.stopped && x.mustAgree && x.settled)) name
    if same && !q.bad then emit (.strand (x.agree q))
    else if q.failed then killTeam x.tid 0x51 6 x.pos
    else do
      sendCancel (x.window.filter (fun e => !(q.since != 0#8 && e.seq == q.since)))
      emit (.strand (x.rollBack q))
      reportRecord x.pos.yidx (McRecord.of 4 0 6 x.pos x.tid s.cycle)))

/-! ### Device faults (R438) -/

/-- DEVICE_FAULT (R426, R438). -/
def execDeviceFault (unit : Nat) :=
  event (do
    let s ← getS
    require (s.dev.boot.phase != 15 && 1 ≤ unit && unit ≤ 15) "DEVICE_FAULT"
    deviceFault (McRecord.of 7 0 unit (supPos 0) 0 s.cycle))

/-! ### The host link (R424) -/

/-- Whether a result is that of a read of host memory. -/
def Pending.fromHost (q : Pending) : Bool := q.uses.any (fun u => isHostMem u.1)

/-- The running transfers whose current unit reads host memory, with their engines. -/
def State.hostTransfers (s : State) : List (Nat × Transfer) :=
  s.queuedTransfers.filter (fun u => u.2.state == 2
    && ((s.unitsLeft u.1 u.2).head?.getD []).any (fun p => p.srcKey.any isHostMem))

/-- The cycles since which non-posted requests of a function wait for the host: Translation Requests, reads of strands, and reads of
transfers, each counted from its transfer's issue (DESIGN CHOICE, log entry 87). -/
def State.hostWaits (s : State) (f : BitVec 4) : List Nat :=
  ((s.dev.pageReqs.filter (fun r => s.tenantOf r.asid == f.toNat)).flatMap (fun r =>
      (r.waiters.filter (fun v => v.asked && !v.pri && !v.failed)).map (fun v => v.since)))
    ++ ((s.strands.filter (fun x => x.modes.tenant == f)).flatMap (fun x => (x.pending.filter Pending.fromHost).map (fun q => q.since)))
    ++ (s.hostTransfers.filter (fun u => u.2.tenant == f)).map (fun u => u.2.since)

/-- The strand in the focus loses what it reads from the host: cause 0x16 at its oldest instruction that has not retired (DESIGN CHOICE,
log entry 87). -/
def failHostReads : Act Unit := do
  let x ← getMe
  let va := ((x.pending.find? Pending.fromHost).bind (fun q => (q.uses.find? (fun u => isHostMem u.1)).map (fun u => u.2))).getD 0
  sendCancel x.window
  let arch := (x.window.head?.map (fun e => e.base)).getD x.arch
  modifyMe (fun x => { x with arch := arch, window := [], pending := x.pending.filter (fun q => !q.fromHost) })
  takeTrap arch.pcw 0x16 (BitVec.ofNat 64 va) 1 0

/-- REQUEST_TIMEOUT (R424): a request of a function has had no answer for 20,000,000 cycles. Every request fails, of every function. -/
def execRequestTimeout (f : BitVec 4) :=
  event (do
    let s ← getS
    require ((s.hostWaits f).any (fun t => t + 20000000 ≤ s.cycle)) "REQUEST_TIMEOUT"
    modifyDev (fun d => { d with hostLinkUp := false })
    forAll (List.range 16) (fun t => failRequests t true)
    forAll (s.strands.filter (fun x => x.pending.any Pending.fromHost && (match x.run with
      | .moving _ _ => false
      | _ => true))) (fun x => onStrand x.pos "REQUEST_TIMEOUT" failHostReads)
    forAll s.hostTransfers (fun u => failTransfer u.1 u.2 0x16)
    modifyFunc f.toNat (fun F => { F with frozen := true })
    forAll ((List.range 16).filter (fun t => t != f.toNat)) (fun t => postEvent t (HostEvent.of 6 0 0 0 0))
    forAll (s.dev.teams.filter (fun t => t.where_ == .placed
      && (s.grid t.grid).any (fun g => g.tenant == f))) (fun t => startSwap t.tid))

/-- LINK_RETRAINED (R424). -/
def execLinkRetrained :=
  event (do
    let s ← getS
    require (!s.dev.hostLinkUp) "LINK_RETRAINED"
    modifyDev (fun d => { d with hostLinkUp := true, linkWaits := [] })
    forAll s.dev.linkWaits (fun e => goOn e.1 e.2))

/-- A tile of a frozen function closed: its accesses to host memory fail, so an entry that no device leaf maps is left as it stands
(R277, R424). -/
def closeFrozen (t : TileObj) : Act Unit := do
  let s ← getS
  let x := s.spaceOf t.asid
  let at_ := fun (i : Nat) => (s.devicePage t.asid ((x.entryVa i).toNat)).map (fun p => p * 4096 + (x.entryVa i).toNat % 4096)
  let w : Who := { pos := supPos 0, asid := t.asid, sup := true, tid := 0, heavy := true, asker := .tile t.asid t.index }
  match at_ t.index with
  | some k => closeTile w t k (if x.count = 0 then none else at_ x.tail)
  | none => do
    recallAll t
    drainTile t.asid t.desc
    modifyDev (fun d => d.removeTile t)

/-- An address space of a frozen function torn down (R361, R424), whose strands are gone. -/
def tearDownFrozen (a : BitVec 16) : Act Unit := do
  let s ← getS
  forAll (s.dev.tiles.filter (fun t => t.asid == a)) closeFrozen
  invalidateTlbs (tlbNamed 1 a 0 true)
  modifyDev (fun d => d.forgetSpace a)

/-- FUNCTION_LEVEL_RESET (R424) of a frozen function, once its transfers have failed (R415). -/
def execFunctionLevelReset (f : BitVec 4) :=
  event (do
    let name := "FUNCTION_LEVEL_RESET"
    let s ← getS
    require (s.isFrozen f.toNat && !s.queuedTransfers.any (fun u => u.2.tenant == f)) name
    require (s.dev.teams.all (fun t => !(s.rearranging t.tid && (s.grid t.grid).any (fun g => g.tenant == f)))) name
    forAll (s.dev.teams.filter (fun t => (s.grid t.grid).any (fun g => g.tenant == f))) (fun t => do
      forAll (s.teamStrands t.tid) removeStrand
      endTeam t.tid false)
    let mine := (s.dev.spaces.filter (fun x => x.tenant == f && x.asid != 0#16)).map (fun x => x.asid)
    forAll mine tearDownFrozen
    let s ← getS
    forAll (s.yards.filter (fun e => e.2.dlq.any (fun r => mine.contains r.asid))) (fun e =>
      modifyYard e.1 (fun Y => { Y with dlq := Y.dlq.filter (fun r => !mine.contains r.asid) }))
    modifyDev (fun d => { d with grids := d.grids.filter (fun g => g.tenant != f) })
    modifyFunc f.toNat (fun F =>
      { F with frozen := false, queues := F.queues.filter (fun q => !mine.contains q.2.asid)
               aliases := F.aliases.filter (fun a => !mine.contains a.asid) }))

end Sys2Proof.Machine
end

