-- ==== Sys2Proof/Machine/Life.lean ====
section
/-! DEFINITION. Device events of bring-up, recovery, attestation and the clock (R444-R454). -/
namespace Sys2Proof.Machine

/-! ### Identity (R444, R445, R448) -/

/-- Bytes 0 to 2,015 of the record, which its signature covers. -/
def Identity.signed (d : Identity) : List Byte :=
  leBytes 2 d.format ++ leBytes 2 d.length ++ leBytes 4 d.minsvn ++ leBytes 8 d.serial
    ++ d.enabled.flatMap (fun w => leBytes 2 w.toNat) ++ leBytes 40 d.padding.toNat ++ leBytes 1952 d.idpub.toNat

/-- The bytes of the record. -/
def Identity.bytes (d : Identity) : List Byte := d.signed ++ leBytes 3309 d.sig.toNat

/-- The identity key, derived at every reset (R444): its public and its private half. -/
def identityKey : List Byte × List Byte :=
  Config.mldsaKeygen (Config.shake256 (leBytes 32 Config.dieResponse.toNat ++ [1]) 256)

/-- The checks of R445 after the signature: ERR 0x02 where one fails. -/
def Identity.wellFormed (d : Identity) : Bool :=
  d.format == 1 && d.length == 5325 && d.padding == 0 && d.enabled.length == 4
    && d.enabled.all (fun w => ((List.range 16).countP (fun i => w.getLsbD i)) == 14)
    && leBytes 1952 d.idpub.toNat == identityKey.1

/-- ERR of phase 1; 0 where the record is valid (R445, R448). -/
def Identity.err (d : Identity) : Nat :=
  if !Config.mldsaVerify Config.productKey d.signed (leBytes 3309 d.sig.toNat) then 1 else if !d.wellFormed then 2 else 0

/-- The boot registers after phase 1. -/
def BringUp.afterIdentity (b : BringUp) (err next : Nat) : BringUp :=
  if err = 0 then { b with phase := next, err := 0 } else { b with phase := 15, err := err }

/-- DEVICE_RESET (R444, R447): every unit at reset but DRAM and the identity record, with phase 0 behind it: the identity key is
derived. -/
def execDeviceReset :=
  event (do
    let s ← getS
    loseCaches
    let d := { Dev.reset with ident := s.dev.ident, routers := routersAt s.cycle, freeCtr := s.dev.freeCtr }
    forAll s.yards (fun e => emit (.yard e.1 Yard.reset))
    forAll s.cores (fun e => emit (.core e.1 Core.reset))
    emit (.others [])
    emit (.strand (Strand.emptyAt (supPos 0)))
    emit (.touches [])
    emit (.dev { d with idKey := some identityKey, boot := { d.boot with phase := 1 } }))

/-- RECOVERY_RESET (R444, R447, R451): after the fault that reset every unit, phase 0 again. -/
def execRecoveryReset :=
  event (do
    let s ← getS
    require (s.dev.boot.recovery && s.dev.boot.phase == 0) "RECOVERY_RESET"
    modifyDev (fun d => { d with idKey := some identityKey, boot := { d.boot with phase := 1 } }))

/-- The end of phase 1 (R445, R447): the record is checked, which leads to WAITIMG, in a recovery reset to VERIFY, or to FAILED. -/
def execIdentityCheck :=
  event (do
    let s ← getS
    require (s.dev.boot.phase == 1) "IDENTITY"
    modifyDev (fun d => { d with boot := d.boot.afterIdentity d.ident.err (if d.boot.recovery then 3 else 2) }))

/-! ### The supervisor image (R446, R449) -/

/-- The supervisor region (R449). -/
def supRegion : Nat := 0x7FE0000000

/-- Whether IMGBASE and IMGLEN lie within the limits of R446. -/
def BringUp.imageLimits (b : BringUp) : Bool :=
  b.imgbase.extractLsb' 0 12 == 0#12 && 3373 ≤ b.imglen.toNat && b.imglen.toNat ≤ 67108864

/-- A whole image copied, page by page. -/
def copyImage (src dst : Nat) : Nat → Nat → Act Unit
  | 0, _ => pure ()
  | fuel + 1, n => do
    let s ← getS
    emit (.mem dst (s.mem.readBytes src (min n 4096)))
    if n ≤ 4096 then pure () else copyImage (src + 4096) (dst + 4096) fuel (n - 4096)

/-- GO (R446, R449): a write of 1 in phase 2 copies the image; any other write is dropped. -/
def execGo (v : Word) :=
  event (do
    let s ← getS
    let b := s.dev.boot
    if b.phase = 2 && v = 1 then
      if b.imageLimits then do
        modifyDev (fun d => { d with boot := { d.boot with phase := 3, go := true } })
        copyImage (hostKey b.imgbase.toNat) supRegion 16385 b.imglen.toNat
      else modifyDev (fun d => { d with boot := { d.boot with phase := 15, err := 3 } })
    else pure ())

/-- The digest that an image's signature covers: of its header and its body (R449). -/
def imageDigest (img : List Byte) : List Byte := Config.shake256 (img.take (img.length - 3309)) 512

/-- Whether an image's signature verifies (R449). -/
def imageSigned (img : List Byte) : Bool :=
  Config.mldsaVerify Config.productKey (imageDigest img) (img.drop (img.length - 3309))

/-- ERR of phase 3 (R448): 0 where the copy is in order. -/
def imageErr (img : List Byte) (len minsvn : Nat) (readOk : Bool) : Nat :=
  let f := fun (o n : Nat) => leValue ((img.drop o).take n)
  if !readOk || len ≠ 64 + f 8 8 + 3309 then 3
  else if f 0 4 ≠ 1 || f 24 40 ≠ 0 || !imageSigned img then 4
  else if f 4 4 < minsvn then 5
  else 0

/-- The length of the image to check: IMGLEN, or, in a recovery reset, which has none, as the header of the copy says, of at most what
R446 allows (DEDUCED, log entry 24). -/
def State.imageLength (s : State) : Nat :=
  if s.dev.boot.recovery then min (64 + leValue (s.mem.readBytes (supRegion + 8) 8) + 3309) 67108864 else s.dev.boot.imglen.toNat

/-- IMAGE_VERIFY_DONE (R447, R449, R450): `readOk` tells whether the host served the whole image, which a recovery reset does not
read. The digest that is found signed is kept for its measurement. -/
def execImageVerifyDone (readOk : Bool) :=
  event (do
    let s ← getS
    let b := s.dev.boot
    require (b.phase == 3) "IMAGE_VERIFY_DONE"
    let img := s.mem.readBytes supRegion s.imageLength
    let e := imageErr img s.imageLength s.dev.ident.minsvn (readOk || b.recovery)
    if e ≠ 0 then modifyDev (fun d => { d with boot := { d.boot with phase := 15, err := e } })
    else modifyDev (fun d =>
      { d with
        boot := { d.boot with phase := 4, digest := imageDigest img, svn := leValue ((img.drop 4).take 4),
                              entry := BitVec.ofNat 64 (leValue ((img.drop 16).take 8)) } }))

/-! ### READY (R426, R438, R447, R451) -/

/-- The supervisor of a yard at the image's entry. -/
def Strand.atEntry (y : Nat) (entry : Word) : Strand :=
  let x := Strand.supervisor y
  { x with run := .ready, arch := { x.arch with pcw := pcwOf (BitVec.ofNat 64 (supRegion + 64) + entry) } }

/-- The payload of a type-5 event (R423): TAKEN and COMPLETE of each queue before the recovery. -/
def Func.queuePayload (F : Func) : List Byte :=
  (List.range 4).flatMap (fun q =>
    match F.queues.find? (fun e => e.1 == q) with
    | some e => leBytes 8 e.2.taken ++ leBytes 8 e.2.complete
    | none => List.replicate 16 0)

/-- A function after a recovery reset (R426): RECOVERED, every queue with TAKEN at POSTED, and its type-5 event. -/
def recoverFunction (f : Nat) : Act Unit := do
  let s ← getS
  let F := s.func f
  postEvent f { HostEvent.of 5 0 0 0 F.queues.length with payload := F.queuePayload }
  forAll F.queues (fun e =>
    match e.2.header with
    | none => pure ()
    | some k => do
      emit (.mem (k + 8) (leBytes 8 (s.counter k)))
      modifyFunc f (fun F => { F with queues := assocSet F.queues e.1 { e.2 with taken := s.counter k, header := none } }))
  modifyFunc f (fun F => { F with recovered := true })

/-- BRING_UP_READY (R447): the supervisors start; `bad` are the yards whose matrix pipes fail their test. After a recovery
reset the record of the fault is delivered and every function told (R426, R438). -/
def execBringUpReady (bad : List Nat) :=
  event (do
    let s ← getS
    let b := s.dev.boot
    require (b.phase == 4) "BRING_UP_READY"
    modifyDev (fun d => { d with boot := { d.boot with phase := 5, recovery := false }, faultRec := none })
    forAll (bad.filter s.isYard) (fun y => modifyHeavy y (fun H => { H with failed := true }))
    forAll s.yardList (fun y => addStrand (Strand.atEntry y b.entry))
    if b.recovery then do
      forAll (List.range 16) recoverFunction
      match s.dev.faultRec with
      | some r => reportRecord r.pos.yidx r
      | none => pure ()
    else pure ())

/-! ### Attestation (R450) -/

/-- The measurement of an index, once it is available. -/
def State.measurement (s : State) (i : Nat) : Option (List Byte) :=
  let b := s.dev.boot
  let ready := fun (p : Nat) => p ≤ b.phase && b.phase ≤ 5
  match i with
  | 1 => if ready 2 then some (Config.shake256 s.dev.ident.bytes 512) else none
  | 2 => if ready 4 then some b.digest else none
  | 3 => if ready 4 then some (leBytes 4 b.svn ++ leBytes 4 s.dev.ident.minsvn) else none
  | _ => none

/-- SPDM_REQUEST (R450): the answer stands in the DOE mailbox. Any other answer than a measurement is made from the identity key and the
identity record, which the certificates rest on. -/
def execSpdmRequest (r : SpdmRequest) :=
  event (do
    let s ← getS
    let a := match r with
      | .measurement i => match s.measurement i with
        | some bs => DoeAnswer.measurement bs
        | none => .unexpected
      | .other bs => .other (Config.spdmAnswer (s.dev.idKey.map (fun k => k.2)) s.dev.ident.bytes bs)
    modifyDev (fun d => { d with boot := { d.boot with doe := a } }))

/-! ### BAR2 (R446) -/

/-- What a host read of `n` bytes at an offset of BAR2 of function 0 returns (R446, R447, R453). -/
def State.bar2Read (s : State) (off n : Nat) : Word :=
  let b := s.dev.boot
  let bit := fun (x : Bool) (i : Nat) => if x then 2 ^ i else 0
  if n ≠ 8 || off % 8 ≠ 0 then 0
  else if 0x1000 ≤ off && off < 0x1000 + 5325 then
    if 2 ≤ b.phase then BitVec.ofNat 64 (leValue ((s.dev.ident.bytes.drop (off - 0x1000)).take 8)) else 0
  else match off with
    | 0x0000 => BitVec.ofNat 64 (b.phase + b.err * 2 ^ 8 + bit b.recovery 16)
    | 0x0008 => b.imgbase
    | 0x0010 => b.imglen
    | 0x0020 => BitVec.ofNat 64 (b.clk + bit b.thermal 16 + bit b.power 17)
    | 0x0028 => BitVec.ofNat 64 b.plim
    | _ => 0

/-! ### Clock (R453) -/

/-- CLOCK_STEP_DOWN (R453): for temperature, power or both. -/
def execClockStepDown (thermal power : Bool) :=
  event (do
    require (thermal || power) "CLOCK_STEP_DOWN"
    modifyDev (fun d =>
      { d with boot := { d.boot with clk := max 1000 (d.boot.clk - 100), thermal := thermal, power := power } }))

/-- CLOCK_STEP_UP (R453): both conditions have cleared. -/
def execClockStepUp :=
  event (do
    let s ← getS
    require (s.dev.boot.clk < 2000) "CLOCK_STEP_UP"
    modifyDev (fun d => { d with boot := { d.boot with clk := min 2000 (d.boot.clk + 100), thermal := false, power := false } }))

/-- THERMAL_TRIP (R453): a device fault. -/
def execThermalTrip :=
  event (do
    let s ← getS
    require (s.dev.boot.phase != 15) "THERMAL_TRIP"
    deviceFault (McRecord.of 7 0 15 (supPos 0) 0 s.cycle))

end Sys2Proof.Machine
end

