-- ==== Sys2Proof/Machine/Sched.lean ====
section
/-! DEFINITION. What happens around each step: what the caches record, counters, slots and waits that the step has moved
(R45, R89, R107, R164, R189), whose turn is next (R87-R90), and which device events of the model's own accord may come
about. The order of steps is the model's choice among those the manual allows (DESIGN CHOICE, log entry 1). -/
namespace Sys2Proof.Machine

/-! ### Whose turn -/

/-- Whether a strand's next instruction may be tried: it is Ready or Stalled (R87). -/
def Strand.tryable (x : Strand) : Bool := (x.run == .ready || x.run == .stalled) && !x.stopped && x.resumeMask.isNone

/-- A core's place in the order of turns. -/
def coreOrder (p : Pos) : Nat := p.yidx * 256 + (if p.heavy then 128 else p.core)

/-- The slot at which a core's search starts: the one after that which issued last (R89); on a heavy core, the slot that filled the
position before in the same cycle (R90). -/
def State.searchFrom (s : State) (p : Pos) : Nat :=
  let next := (s.core (coreKey p)).last + 1
  if p.heavy then (s.yard p.yidx).heavy.lead.getD next else next

/-- A slot's distance from where its core's search starts. -/
def State.slotRank (s : State) (p : Pos) : Nat := (p.slot + 16 - s.searchFrom p) % 8

/-- Whether a strand can fill the next position of its core: on a heavy core, where that is one for own strands (R164). -/
def State.mayFill (s : State) (x : Strand) : Bool :=
  x.canIssue && (!x.pos.heavy || s.ownsPosition x.pos.yidx == some true)

/-- The strand from which a core issues next (R89, R90). -/
def State.corePick (s : State) (k : Nat × Bool × Nat) : Option Pos :=
  bestBy (fun b a => s.slotRank b < s.slotRank a)
    ((s.strands.filter (fun x => coreKey x.pos == k && s.mayFill x)).map (fun x => x.pos))

/-- Whether the strand in the focus is the one from which its core issues next. -/
def State.inTurn (s : State) : Bool := s.corePick (coreKey s.me.pos) == some s.me.pos

/-- A position's distance after another in the order of turns: the other cores ascending and round, then the own core; in a
core its own order. -/
def turnRank (s : State) (here p : Pos) : Nat :=
  let n := 64 * 256
  let d := (coreOrder p + n - coreOrder here - 1) % n
  d * 8 + s.slotRank p

/-- The strand whose turn is next, if one can issue. -/
def State.nextTurn (s : State) : Option Pos :=
  bestBy (fun b a => turnRank s s.me.pos b < turnRank s s.me.pos a) ((s.strands.filter s.mayFill).map (fun x => x.pos))

/-! ### After a step -/

/-- Whether a slot's strand may still issue for a YIELD interval (R107): it is Ready still. -/
def State.mayIssue (s : State) (k : Nat × Bool × Nat) (slot : Nat) : Bool :=
  s.strands.any (fun x => coreKey x.pos == k && x.pos.slot == slot && x.isReady)

/-- An issue in a step: the slot, and K.SHARE of its yard as it stood before the instruction. -/
structure Issue where
  pos : Pos
  share : Word

/-- A YIELD interval after a step in which the strand at `issued` has issued. -/
def Strand.yieldStep (x : Strand) (s : State) (issued : Option Issue) : Strand :=
  match x.run with
  | .waiting (.yieldFor l) =>
    let l := l.filter (fun q => s.mayIssue (coreKey x.pos) q
      && issued.map (fun i => i.pos) != some { x.pos with slot := q })
    if l.isEmpty then { x with run := .ready } else { x with run := .waiting (.yieldFor l) }
  | _ => x

/-- A strand in WAITI looks again when a notification stands (R115). -/
def Strand.waitiStep (x : Strand) (s : State) : Strand :=
  if x.run = .waiting .waiti && !(s.yard x.pos.yidx).notes.isEmpty then { x with run := .ready } else x

/-- Changes of strands that a step brings with it. -/
def stepStrands (f : Strand → Strand) : Act Unit := do
  let s ← getS
  if f s.me = s.me then pure () else emit (.strand (f s.me))
  if s.others.map f = s.others then pure () else emit (.others (s.others.map f))

/-- Events of instructions outside a window reach their core's counters (R45). -/
def countEventsOf (x : Strand) : Act Unit := do
  modifyCore (coreKey x.pos) (fun c => { c with ev := c.ev.add x.arch.ev })
  modifyAt x.pos (fun x => { x with arch := { x.arch with ev := EvCounts.zero } })

/-- The issue of an instruction: its slot issued last on its core (R89), and an own strand of a heavy core has taken a
position (R164), with the weights that stood before the instruction (R74). -/
def noteIssue (i : Issue) : Act Unit := do
  let s ← getS
  let p := i.pos
  if (s.core (coreKey p)).last = p.slot then pure () else modifyCore (coreKey p) (fun c => { c with last := p.slot })
  if p.heavy then modifyHeavy p.yidx (fun H => H.spendOwn i.share p.slot) else pure ()

/-- Whether a strand stands at an instruction that its swap-out saves it at: one that waits, or that is parked on a host page; an
activation that has not executed MDONE ignores the request until it is forced (R402). -/
def Strand.savedAtWait (x : Strand) : Bool :=
  x.pending.isEmpty && ((x.st.safereq && !x.holding) || x.stopped)
    && (match x.window.head?.bind (fun e => e.unsettled) with
      | some u => u.why.isWaiting || u.why == .pageWait || x.wait.isSome
      | none => false)

/-- What such strands have issued under their instruction is discarded (R322, R402). -/
def discardWaiting : Act Unit := do
  let s ← getS
  forAll (s.strands.filter Strand.savedAtWait) (fun x =>
    match x.discardUnder with
    | none => pure ()
    | some (z, seqs) => do
      modifyAt x.pos (fun _ => z)
      if seqs.isEmpty then pure ()
      else modifyHeavy x.pos.yidx (fun H => { H with cancels := H.cancels ++ [⟨x.pos, seqs⟩] }))

/-- The strands that wait for own slots of heavy cores take those that are free (R189). -/
def serveOwnWaits : Act Unit := do
  let s ← getS
  forAll (s.yards.filter (fun e => !e.2.heavy.ownWait.isEmpty)) (fun e => serveOwnWait e.1 e.2.heavy.ownWait.length)

/-- What follows every step; `issued` is the issue of an instruction in it. -/
def afterStep (issued : Option Issue) : Act Unit := do
  let s ← getS
  if s.touches.isEmpty then pure ()
  else do
    emit (.touches [])
    forAll s.touches runTouch
  let s ← getS
  forAll (s.strands.filter (fun x => x.window.isEmpty && x.arch.ev != EvCounts.zero)) countEventsOf
  match issued with
  | some i => noteIssue i
  | none => pure ()
  let s ← getS
  stepStrands (fun x => (x.yieldStep s issued).waitiStep s)
  discardWaiting
  retryClosings
  retryCompletions
  releaseForwards
  placeAllHeld
  serveOwnWaits

/-- The heavy cores whose cycle is over begin the next one (R164). -/
def State.endHeavyCycles (s : State) : State :=
  ((s.yards.filter (fun e => e.2.heavy.slotNo != 0)).map (fun e => e.1)).foldl State.endHeavyCycle s

/-- What follows every step, in the state; nothing where it cannot be. -/
def State.afterwards (issued : Option Issue) (s : State) : State :=
  match afterStep issued ⟨s, []⟩ with
  | .ok (_, r) => applyAll s r.log.reverse
  | .error _ => s

/-- Whether the strand that a step has tried has issued. -/
def Strand.hasIssued (x : Strand) : Bool :=
  match x.run with
  | .stalled => false
  | .fetching => false
  | .walking => false
  | .pageWait => false
  | .agreeing => false
  | _ => true

/-! ### Instructions that do not decode (R65) -/

/-- The meaning of bytes that are no instruction: cause 0x01 at their address. -/
def illegal (base : BitVec 32) (s : State) : Host.Outcome State Fault Refusal :=
  runAct (BitVec.ofNat 2 (lengthOf base)) (do
    checkIssue false false
    raise 0x01 (pcOf s.me.arch.pcw)) s

/-- The length in words of an instruction whose fetch ends early: 1 where its base word is not there (DESIGN CHOICE, log
entry 26). -/
def Strand.fetchLength (x : Strand) : Nat := ((x.fetchedWord (pcOf x.arch.pcw).toNat).map lengthOf).getD 1

/-! ### Device events of the model's own accord -/

/-- An instruction where a test holds. -/
def when_ (b : Bool) (i : Instr) : List Instr := if b then [i] else []

/-- Whether a strand has consumed poison. -/
def RunState.isConsumed : RunState → Bool
  | .consumed _ => true
  | _ => false

/-- Whether a strand is on its way. -/
def RunState.isMoving : RunState → Bool
  | .moving _ _ => true
  | _ => false

/-- Events that a strand's state may call for. -/
noncomputable def Strand.events (x : Strand) : List Instr :=
  when_ x.run.isConsumed (.poisonConsumed x.pos)
    ++ when_ (x.run == .fetching) (.fetchFill x.pos)
    ++ when_ (x.run == .walking || x.run == .pageWait || x.window.any (fun e => e.unsettled.isSome)) (.settle x.pos)
    ++ when_ x.run.isMoving (.migrateTransferDone x.pos)
    ++ when_ (x.pair.any (fun q => q.exchanging || x.stopped)) (.exchangeComplete x.pos true)
    ++ when_ (!x.storeBuf.isEmpty) (.storeBufferDrain x.pos)
    ++ (if x.run.isWaiting || x.wait.isSome then [.watchWake x.pos, .watchPoll x.pos, .waitDeadline x.pos, .waitiTimeout x.pos] else [])
    ++ when_ (x.wait.isSome) (.parkExpiry x.pos)
    ++ when_ (!x.pending.isEmpty && !x.canIssue) (.longLatencyCompletion x.pos 0)
    ++ when_ (!x.pending.isEmpty) (.longLatencyCompletion x.pos 0)

/-- Events of a reply list. -/
noncomputable def Reply.events (r : Reply) : List Instr := [.shippedCompletion r.pos r.seq, .shippedFault r.pos r.seq]

/-- Events that a yard's state may call for. -/
noncomputable def Yard.events (y : Nat) (Y : Yard) : List Instr :=
  let H := Y.heavy
  when_ (!H.cancels.isEmpty) (.cancelPacket y)
    ++ H.replies.flatMap Reply.events
    ++ when_ (!H.transfers.isEmpty) (.tileTransferCompletion y)
    ++ H.pipes.map (fun e => .matrixCompletion y e.1)
    ++ when_ (!H.matq.isEmpty) (.matrixPipeStart y)
    ++ when_ (!H.queue.isEmpty || !H.running.isEmpty) (.guestDispatch y)
    ++ (List.range (min 8 Y.walks.length)).map (fun n => .pageWalk y n)
    ++ when_ (Y.skews.any (fun k => k.busyUntil != 0)) (.skewRearrangeDone y)
    ++ when_ (!Y.actq.isEmpty) (.activationStart y)
    ++ (Y.mailboxes.filter (fun m => !m.unstarted.isEmpty && !m.running)).map (fun m => .handlerActivation y m.cls)
    ++ (Y.heldMsgs.map (fun m => m.cls)).eraseDups.flatMap (fun c => [.heldMessagePlaced y c, .mailboxWaitExpiry y c])
    ++ when_ (!Y.corrected.isEmpty) (.coalescingIntervalEnd y)

/-- Events that a team's state may call for. -/
noncomputable def Team.events (s : State) (t : Team) : List Instr :=
  (match t.where_ with
    | .leaving _ => [.swapOut t.tid, .safewaitExpiry t.tid]
    | .placed => when_ t.quantumAt.isSome (.quantumExpiry t.tid)
    | _ => s.yardList.map (fun y => .priorityAging y t.tid))
    ++ when_ (!t.statWaits.isEmpty) (.statGather t.tid)

/-- Events that the state of the mesh may call for. -/
noncomputable def State.meshEvents (s : State) : List Instr :=
  let d := s.dev
  ((d.net.map (fun k => (k.stop, k.port))).eraseDups.map (fun e => Instr.portArbitration e.1 e.2))
    ++ d.trees.flatMap (fun e => ((e.2.bufs.map (fun b => b.1)).eraseDups.map (fun stop => Instr.reductionRound e.1 stop)))
    ++ d.routers.flatMap (fun e => match e.2.power with
      | .down => [Instr.routerWake e.1 false]
      | .waking _ => [.routerReady e.1]
      | .up => [])
    ++ when_ (!d.msgs.isEmpty) (.messageArrival .mesh)
    ++ d.answers.map (fun a => .messageAnswer a.src.1 a.src.2 a.code)
    ++ when_ (!d.mirrorMsgs.isEmpty) .mirrorUpdate
    ++ (if 2048 ≤ s.cycle then ((List.range 64).filter (fun t => (s.router t).idleSince + 2048 ≤ s.cycle && (s.router t).power == .up)).map
      (fun t => Instr.routerPowerDown t) else [])

/-- Events that an engine's state may call for. -/
noncomputable def engineEvents (e : Nat × Engine) : List Instr :=
  match e.2.queue.head? with
  | none => []
  | some t => [.transferFailed e.1 none, .transferStart ⟨e.1, []⟩] ++ when_ (ctlDir t.ctl != 2) (.transferComplete e.1 [])

/-- Events that the device's state may call for. -/
noncomputable def State.deviceEvents (s : State) : List Instr :=
  let d := s.dev
  when_ (d.boot.recovery && d.boot.phase == 0) .recoveryReset
    ++ when_ (d.boot.recovery && d.boot.phase == 3) (.imageVerifyDone true)
    ++ when_ (d.boot.phase == 4) (.bringUpReady [])
    ++ when_ (!d.acquires.isEmpty) .drainRequest
    ++ (if d.tenReqs.any (fun r => !r.done) then [.recall, .tenureGrant] else [])
    ++ d.engines.flatMap engineEvents
    ++ (s.queuedTransfers.filter (fun u => ctlDir u.2.ctl != 0 && !s.linked (ctlDev u.2.ctl))).map
      (fun u => .remotePathLoss (BitVec.ofNat 16 (ctlDev u.2.ctl)))
    ++ when_ (!d.invals.isEmpty) .invalidateCompletion
    ++ d.funcs.flatMap (fun e => when_ (!e.2.closing.isEmpty) (.penaltyUpdate e.1) ++ when_ (!e.2.backlog.isEmpty) (.eventBacklogDrain e.1))
    ++ d.forwards.map (fun f => .forwardedReply f.2)
    ++ (if s.pendingTeams.isEmpty then [] else s.yardList.map (fun y => .teamPlacement y))

/-- A list begun at another place. -/
def rotated {α : Type} (n : Nat) (l : List α) : List α := l.drop (n % l.length) ++ l.take (n % l.length)

/-- The events that may come about now, begun at a place that moves on with the cycles. -/
noncomputable def State.events (s : State) : List Instr :=
  rotated s.cycle
    (s.strands.flatMap Strand.events ++ s.yards.flatMap (fun e => e.2.events e.1) ++ s.dev.teams.flatMap (Team.events s)
      ++ s.meshEvents ++ s.deviceEvents)

end Sys2Proof.Machine
end

