-- ==== Sys2Proof/Machine/Vector.lean ====
section
/-! DEFINITION. Meanings of the vector and mask instructions (R137-R159). -/
namespace Sys2Proof.Machine

/-! ### Majors 0x18 to 0x1A (R144) -/

def execVadd (d a b : BitVec 5) (m ty : BitVec 3) (sp : SafePoint) :=
  instr false false sp (vbinary d a b m ty (fun _ x y => x + y))
def execVsub (d a b : BitVec 5) (m ty : BitVec 3) (sp : SafePoint) :=
  instr false false sp (vbinary d a b m ty (fun w x y => x + 2 ^ w - y))
def execVmul (d a b : BitVec 5) (m ty : BitVec 3) (sp : SafePoint) :=
  instr false false sp (vbinary d a b m ty (fun _ x y => x * y))
def execVminI (d a b : BitVec 5) (m ty : BitVec 3) (sp : SafePoint) :=
  instr false false sp (vbinary d a b m ty (laneMinMax true false))
def execVminN (d a b : BitVec 5) (m ty : BitVec 3) (sp : SafePoint) :=
  instr false false sp (vbinary d a b m ty (laneMinMax false false))
def execVmaxI (d a b : BitVec 5) (m ty : BitVec 3) (sp : SafePoint) :=
  instr false false sp (vbinary d a b m ty (laneMinMax true true))
def execVmaxN (d a b : BitVec 5) (m ty : BitVec 3) (sp : SafePoint) :=
  instr false false sp (vbinary d a b m ty (laneMinMax false true))
def execVand (d a b : BitVec 5) (m ty : BitVec 3) (sp : SafePoint) :=
  instr false false sp (vbinary d a b m ty (fun _ x y => laneBits ty (x &&& y)))
def execVor (d a b : BitVec 5) (m ty : BitVec 3) (sp : SafePoint) :=
  instr false false sp (vbinary d a b m ty (fun _ x y => laneBits ty (x ||| y)))
def execVxor (d a b : BitVec 5) (m ty : BitVec 3) (sp : SafePoint) :=
  instr false false sp (vbinary d a b m ty (fun _ x y => laneBits ty (x ^^^ y)))
def execVshl (d a b : BitVec 5) (m ty : BitVec 3) (sp : SafePoint) := instr false false sp (vbinary d a b m ty laneShl)
def execVshrN (d a b : BitVec 5) (m ty : BitVec 3) (sp : SafePoint) := instr false false sp (vbinary d a b m ty laneShrN)
def execVshrI (d a b : BitVec 5) (m ty : BitVec 3) (sp : SafePoint) := instr false false sp (vbinary d a b m ty laneShrI)
def execVabs (d a : BitVec 5) (m ty : BitVec 3) (sp : SafePoint) :=
  instr false false sp (vunary d a m ty (fun _ x => laneAbs ty x))
def execVaddSatI (d a b : BitVec 5) (m ty : BitVec 3) (sp : SafePoint) :=
  instr false false sp (vbinary d a b m ty (laneAddSat true))
def execVaddSatN (d a b : BitVec 5) (m ty : BitVec 3) (sp : SafePoint) :=
  instr false false sp (vbinary d a b m ty (laneAddSat false))
def execVsubSatI (d a b : BitVec 5) (m ty : BitVec 3) (sp : SafePoint) :=
  instr false false sp (vbinary d a b m ty (laneSubSat true))
def execVsubSatN (d a b : BitVec 5) (m ty : BitVec 3) (sp : SafePoint) :=
  instr false false sp (vbinary d a b m ty (laneSubSat false))
def execVmulhI (d a b : BitVec 5) (m ty : BitVec 3) (sp : SafePoint) :=
  instr false false sp (vbinary d a b m ty (laneMulh true))
def execVmulhN (d a b : BitVec 5) (m ty : BitVec 3) (sp : SafePoint) :=
  instr false false sp (vbinary d a b m ty (laneMulh false))

/-! ### Compares (R145, R150) -/

/-- VCMP (R145). -/
def vcmpForm (d : BitVec 3) (a b : BitVec 5) (m ty c : BitVec 3) : Act Unit := do
  let x ← rdV a
  let y ← rdV b
  let k ← rdM m
  let w := tyWidth ty
  wrM d (maskOf w k (fun i => laneCond c.toNat w (lane w x i) (lane w y i)))

def execVcmp (d : BitVec 3) (a b : BitVec 5) (m ty c : BitVec 3) (sp : SafePoint) :=
  instr false false sp (vcmpForm d a b m ty c)

/-- VFCMP (R150): flags of the active lanes. -/
def vfcmpForm (d : BitVec 3) (a b : BitVec 5) (m ty c : BitVec 3) : Act Unit := do
  let x ← rdV a
  let y ← rdV b
  let k ← rdM m
  claim (.m d)
  let w := tyWidth ty
  let f := tyFmt ty
  let r := fun i => fcmp c.toNat (f.value (lane w x i)) (f.value (lane w y i))
  raiseFlags (((List.range (512 / w)).filter (active k)).foldl (fun fl i => fl.or (r i).2) FpFlags.none)
  wrM d (maskOf w k (fun i => (r i).1))

def execVfcmp (d : BitVec 3) (a b : BitVec 5) (m ty c : BitVec 3) (sp : SafePoint) :=
  instr false false sp (vfcmpForm d a b m ty c)

/-! ### Floating-point lanes (R146-R151) -/

def execVfadd (d a b : BitVec 5) (m ty : BitVec 3) (sp : SafePoint) :=
  instr false false sp (vfbinary d a b m ty (fun mode x y => (laneDest ty).add mode (laneValue ty x) (laneValue ty y)))
def execVfsub (d a b : BitVec 5) (m ty : BitVec 3) (sp : SafePoint) :=
  instr false false sp
    (vfbinary d a b m ty (fun mode x y => (laneDest ty).add mode (laneValue ty x) (laneValue ty y).negate))
def execVfmul (d a b : BitVec 5) (m ty : BitVec 3) (sp : SafePoint) :=
  instr false false sp (vfbinary d a b m ty (fun mode x y => (laneDest ty).mul mode (laneValue ty x) (laneValue ty y)))
def execVfmin (d a b : BitVec 5) (m ty : BitVec 3) (sp : SafePoint) :=
  instr false false sp (vfbinary d a b m ty (fun _ x y => laneFMinMax ty false x y))
def execVfmax (d a b : BitVec 5) (m ty : BitVec 3) (sp : SafePoint) :=
  instr false false sp (vfbinary d a b m ty (fun _ x y => laneFMinMax ty true x y))
def execVrcpe (d a : BitVec 5) (m ty : BitVec 3) (sp : SafePoint) :=
  instr false false sp (vfunary d a m ty (fun mode x => (tyFmt ty).estimate false mode (laneValue ty x)))
def execVrsqe (d a : BitVec 5) (m ty : BitVec 3) (sp : SafePoint) :=
  instr false false sp (vfunary d a m ty (fun mode x => (tyFmt ty).estimate true mode (laneValue ty x)))

/-- VFCVT (R151): destination type `ty`, source type `q`, `u` the unsigned integer side. -/
def vfcvtForm (d a : BitVec 5) (u : BitVec 1) (q m ty r : BitVec 3) : Act Unit := do
  let x ← rdV a
  let k ← rdM m
  let old ← rdOld d m
  let mode ← modeOf r
  wrVF d (convertLanes q ty (u == 1#1) mode k x old)

def execVfcvt (d a : BitVec 5) (u : BitVec 1) (q m ty r : BitVec 3) (sp : SafePoint) :=
  instr false false sp (vfcvtForm d a u q m ty r)

def execVffmaF32 (d a b c : BitVec 5) (m : BitVec 3) (n : BitVec 1) (sp : SafePoint) :=
  instr false false sp (vffma .f32 d a b c m n)
def execVffmaF16 (d a b c : BitVec 5) (m : BitVec 3) (n : BitVec 1) (sp : SafePoint) :=
  instr false false sp (vffma .f16 d a b c m n)
def execVffmaBf16 (d a b c : BitVec 5) (m : BitVec 3) (n : BitVec 1) (sp : SafePoint) :=
  instr false false sp (vffma .bf16 d a b c m n)

/-! ### Dot products (R152) -/

def execVdot4I8 (d a b : BitVec 5) (m : BitVec 3) (sp : SafePoint) := instr false false sp (vdot true false 4 d a b m)
def execVdot4N8 (d a b : BitVec 5) (m : BitVec 3) (sp : SafePoint) := instr false false sp (vdot false false 4 d a b m)
def execVdot4I8Sat (d a b : BitVec 5) (m : BitVec 3) (sp : SafePoint) := instr false false sp (vdot true true 4 d a b m)
def execVdot4N8Sat (d a b : BitVec 5) (m : BitVec 3) (sp : SafePoint) := instr false false sp (vdot false true 4 d a b m)
def execVdot2I16 (d a b : BitVec 5) (m : BitVec 3) (sp : SafePoint) := instr false false sp (vdot true false 2 d a b m)
def execVdot2N16 (d a b : BitVec 5) (m : BitVec 3) (sp : SafePoint) := instr false false sp (vdot false false 2 d a b m)
def execVdot2I16Sat (d a b : BitVec 5) (m : BitVec 3) (sp : SafePoint) := instr false false sp (vdot true true 2 d a b m)
def execVdot2N16Sat (d a b : BitVec 5) (m : BitVec 3) (sp : SafePoint) := instr false false sp (vdot false true 2 d a b m)

/-! ### Lane movement (R153, R154) -/

/-- VSPLAT. -/
def vsplatForm (d a : BitVec 5) (m ty : BitVec 3) : Act Unit := do
  let x ← rdS a
  let k ← rdM m
  let old ← rdOld d m
  wrV d (mergeLanes (tyWidth ty) k old (fun _ => laneBits ty x.toNat))

/-- VEXTR. -/
def vextrForm (d a b : BitVec 5) (ty : BitVec 3) : Act Unit := do
  let x ← rdV a
  let i ← rdS b
  let w := tyWidth ty
  wrS d (BitVec.ofNat 64 (laneBits ty (lane w x (laneIndex w i.toNat))))

/-- VINS. -/
def vinsForm (d a b : BitVec 5) (ty : BitVec 3) : Act Unit := do
  let x ← rdS a
  let i ← rdS b
  let old ← rdV d
  let w := tyWidth ty
  wrV d (ofLanes w (fun j => if j = laneIndex w i.toNat then laneBits ty x.toNat else lane w old j))

/-- VSLIDE. -/
def vslideForm (d a b : BitVec 5) (m ty : BitVec 3) : Act Unit := do
  let x ← rdV a
  let k ← rdS b
  let mk ← rdM m
  let old ← rdOld d m
  wrV d (mergeLanes (tyWidth ty) mk old (slideLane ty x k.toInt))

/-- VPERM: all of va is read. -/
def vpermForm (d a b : BitVec 5) (m ty : BitVec 3) : Act Unit := do
  let x ← rdV a
  let y ← rdV b
  let k ← rdM m
  let old ← rdOld d m
  let w := tyWidth ty
  wrV d (mergeLanes w k old (fun i => laneBits ty (lane w x (laneIndex w (lane w y i)))))

/-- VCOMPR and VEXPND: the mask operand selects. -/
def vselectForm (d a : BitVec 5) (m : BitVec 3) (f : Word → Vec → Vec) : Act Unit := do
  let x ← rdV a
  let k ← rdM m
  wrV d (f k x)

/-- VSEL. -/
def vselForm (d a b : BitVec 5) (m ty : BitVec 3) : Act Unit := do
  let x ← rdV a
  let y ← rdV b
  let k ← rdM m
  let w := tyWidth ty
  wrV d (ofLanes w (fun i => laneBits ty (if active k i then lane w x i else lane w y i)))

def execVsplat (d a : BitVec 5) (m ty : BitVec 3) (sp : SafePoint) := instr false false sp (vsplatForm d a m ty)
def execVextr (d a b : BitVec 5) (ty : BitVec 3) (sp : SafePoint) := instr false false sp (vextrForm d a b ty)
def execVins (d a b : BitVec 5) (ty : BitVec 3) (sp : SafePoint) := instr false false sp (vinsForm d a b ty)
def execVperm (d a b : BitVec 5) (m ty : BitVec 3) (sp : SafePoint) := instr false false sp (vpermForm d a b m ty)
def execVslide (d a b : BitVec 5) (m ty : BitVec 3) (sp : SafePoint) := instr false false sp (vslideForm d a b m ty)
def execVcompr (d a : BitVec 5) (m ty : BitVec 3) (sp : SafePoint) :=
  instr false false sp (vselectForm d a m (compressLanes ty))
def execVexpnd (d a : BitVec 5) (m ty : BitVec 3) (sp : SafePoint) :=
  instr false false sp (vselectForm d a m (expandLanes ty))
def execVsel (d a b : BitVec 5) (m ty : BitVec 3) (sp : SafePoint) := instr false false sp (vselForm d a b m ty)

/-! ### Reductions and scans (R155, R156) -/

def execVredAdd (d a : BitVec 5) (m ty : BitVec 3) (sp : SafePoint) := instr false false sp (vred 0 d a m ty)
def execVredMin (d a : BitVec 5) (m ty : BitVec 3) (sp : SafePoint) := instr false false sp (vred 1 d a m ty)
def execVredMax (d a : BitVec 5) (m ty : BitVec 3) (sp : SafePoint) := instr false false sp (vred 2 d a m ty)

/-- VRED.ADD.SAT. -/
def vredSatForm (d a : BitVec 5) (m ty : BitVec 3) : Act Unit := do
  let x ← rdV a
  let k ← rdM m
  wrS d (reduceSat ty k x)

def execVredAddSat (d a : BitVec 5) (m ty : BitVec 3) (sp : SafePoint) := instr false false sp (vredSatForm d a m ty)
def execVscanAdd (d a : BitVec 5) (m ty : BitVec 3) (sp : SafePoint) := instr false false sp (vscan 0 d a m ty)
def execVscanMin (d a : BitVec 5) (m ty : BitVec 3) (sp : SafePoint) := instr false false sp (vscan 1 d a m ty)
def execVscanMax (d a : BitVec 5) (m ty : BitVec 3) (sp : SafePoint) := instr false false sp (vscan 2 d a m ty)

/-! ### L6 packing (R157) -/

/-- vd ← f(va), every lane. -/
def vwhole (d a : BitVec 5) (f : Vec → Vec) : Act Unit := do
  let x ← rdV a
  wrV d (f x)

def execVpkl6 (d a : BitVec 5) (sp : SafePoint) := instr false false sp (vwhole d a packL6)
def execVupl6 (d a : BitVec 5) (sp : SafePoint) := instr false false sp (vwhole d a unpackL6)

/-! ### Masks (R158, R159) -/

/-- md ← f(ma, mb). -/
def mbinary (d a b : BitVec 3) (f : Word → Word → Word) : Act Unit := do
  let x ← rdM a
  let y ← rdM b
  wrM d (f x y)

/-- md ← NOT ma. -/
def mnotForm (d a : BitVec 3) : Act Unit := do
  let x ← rdM a
  wrM d (~~~x)

/-- sd ← f(ma). -/
def mscalar (d : BitVec 5) (a : BitVec 3) (f : Word → Word) : Act Unit := do
  let x ← rdM a
  wrS d (f x)

/-- md ← sa. -/
def msetForm (d : BitVec 3) (a : BitVec 5) : Act Unit := do
  let x ← rdS a
  wrM d x

def execMand (d a b : BitVec 3) (sp : SafePoint) := instr false false sp (mbinary d a b (· &&& ·))
def execMor (d a b : BitVec 3) (sp : SafePoint) := instr false false sp (mbinary d a b (· ||| ·))
def execMxor (d a b : BitVec 3) (sp : SafePoint) := instr false false sp (mbinary d a b (· ^^^ ·))
def execMnot (d a : BitVec 3) (sp : SafePoint) := instr false false sp (mnotForm d a)
def execMpopc (d : BitVec 5) (a : BitVec 3) (sp : SafePoint) := instr false false sp (mscalar d a popc64)
def execMfirst (d : BitVec 5) (a : BitVec 3) (sp : SafePoint) := instr false false sp (mscalar d a firstBit)
def execMset (d : BitVec 3) (a : BitVec 5) (sp : SafePoint) := instr false false sp (msetForm d a)

end Sys2Proof.Machine
end

