-- ==== Sys2Proof/Machine/Dispatch.lean ====
section
/-! DEFINITION. One arm for every row of the opcode table. -/
namespace Sys2Proof.Machine

/-- The meaning of an instruction or event in a state. -/
def exec (i : Instr) (s : State) : Host.Outcome State Fault Refusal :=
  match i with
  | .br o sp => Sys2Proof.Machine.execBr o sp s
  | .call o sp => Sys2Proof.Machine.execCall o sp s
  | .brm m c o sp => Sys2Proof.Machine.execBrm m c o sp s
  | .bcmp a b c o sp => Sys2Proof.Machine.execBcmp a b c o sp s
  | .bcmpImm32 a b c o sp => Sys2Proof.Machine.execBcmpImm32 a b c o sp s
  | .loop c o sp => Sys2Proof.Machine.execLoop c o sp s
  | .callr a sp => Sys2Proof.Machine.execCallr a sp s
  | .jmp a sp => Sys2Proof.Machine.execJmp a sp s
  | .nop => Sys2Proof.Machine.execNop s
  | .yield sp => Sys2Proof.Machine.execYield sp s
  | .exit sp => Sys2Proof.Machine.execExit sp s
  | .spawn d a b sp => Sys2Proof.Machine.execSpawn d a b sp s
  | .trap a sp => Sys2Proof.Machine.execTrap a sp s
  | .isync sp => Sys2Proof.Machine.execIsync sp s
  | .trig d a b c la sp => Sys2Proof.Machine.execTrig d a b c la sp s
  | .add d a b sp => Sys2Proof.Machine.execAdd d a b sp s
  | .sub d a b sp => Sys2Proof.Machine.execSub d a b sp s
  | .and d a b sp => Sys2Proof.Machine.execAnd d a b sp s
  | .or d a b sp => Sys2Proof.Machine.execOr d a b sp s
  | .xor d a b sp => Sys2Proof.Machine.execXor d a b sp s
  | .andn d a b sp => Sys2Proof.Machine.execAndn d a b sp s
  | .shl d a b sp => Sys2Proof.Machine.execShl d a b sp s
  | .shrN d a b sp => Sys2Proof.Machine.execShrN d a b sp s
  | .shrI d a b sp => Sys2Proof.Machine.execShrI d a b sp s
  | .rot d a b sp => Sys2Proof.Machine.execRot d a b sp s
  | .minI d a b sp => Sys2Proof.Machine.execMinI d a b sp s
  | .minN d a b sp => Sys2Proof.Machine.execMinN d a b sp s
  | .maxI d a b sp => Sys2Proof.Machine.execMaxI d a b sp s
  | .maxN d a b sp => Sys2Proof.Machine.execMaxN d a b sp s
  | .clz d a sp => Sys2Proof.Machine.execClz d a sp s
  | .ctz d a sp => Sys2Proof.Machine.execCtz d a sp s
  | .popc d a sp => Sys2Proof.Machine.execPopc d a sp s
  | .shadd1 d a b sp => Sys2Proof.Machine.execShadd1 d a b sp s
  | .shadd2 d a b sp => Sys2Proof.Machine.execShadd2 d a b sp s
  | .shadd3 d a b sp => Sys2Proof.Machine.execShadd3 d a b sp s
  | .shadd4 d a b sp => Sys2Proof.Machine.execShadd4 d a b sp s
  | .scmp d a b c sp => Sys2Proof.Machine.execScmp d a b c sp s
  | .mul d a b sp => Sys2Proof.Machine.execMul d a b sp s
  | .mulhI d a b sp => Sys2Proof.Machine.execMulhI d a b sp s
  | .mulhN d a b sp => Sys2Proof.Machine.execMulhN d a b sp s
  | .divI d a b sp => Sys2Proof.Machine.execDivI d a b sp s
  | .divN d a b sp => Sys2Proof.Machine.execDivN d a b sp s
  | .remI d a b sp => Sys2Proof.Machine.execRemI d a b sp s
  | .remN d a b sp => Sys2Proof.Machine.execRemN d a b sp s
  | .addi d a im sp => Sys2Proof.Machine.execAddi d a im sp s
  | .addiImm32 d a im sp => Sys2Proof.Machine.execAddiImm32 d a im sp s
  | .andi d a im sp => Sys2Proof.Machine.execAndi d a im sp s
  | .andiImm32 d a im sp => Sys2Proof.Machine.execAndiImm32 d a im sp s
  | .ori d a im sp => Sys2Proof.Machine.execOri d a im sp s
  | .oriImm32 d a im sp => Sys2Proof.Machine.execOriImm32 d a im sp s
  | .xori d a im sp => Sys2Proof.Machine.execXori d a im sp s
  | .xoriImm32 d a im sp => Sys2Proof.Machine.execXoriImm32 d a im sp s
  | .shli d a im sp => Sys2Proof.Machine.execShli d a im sp s
  | .shriN d a im sp => Sys2Proof.Machine.execShriN d a im sp s
  | .shriI d a im sp => Sys2Proof.Machine.execShriI d a im sp s
  | .movi d im sp => Sys2Proof.Machine.execMovi d im sp s
  | .moviImm32 d im sp => Sys2Proof.Machine.execMoviImm32 d im sp s
  | .movhi d a im sp => Sys2Proof.Machine.execMovhi d a im sp s
  | .movhiImm32 d a im sp => Sys2Proof.Machine.execMovhiImm32 d a im sp s
  | .sel d a b c sp => Sys2Proof.Machine.execSel d a b c sp s
  | .extb d a b c sp => Sys2Proof.Machine.execExtb d a b c sp s
  | .insb d a b c sp => Sys2Proof.Machine.execInsb d a b c sp s
  | .ffmaF32 d a b c sp => Sys2Proof.Machine.execFfmaF32 d a b c sp s
  | .ffmaF16 d a b c sp => Sys2Proof.Machine.execFfmaF16 d a b c sp s
  | .ffmaBf16 d a b c sp => Sys2Proof.Machine.execFfmaBf16 d a b c sp s
  | .fadd d a b t sp => Sys2Proof.Machine.execFadd d a b t sp s
  | .fsub d a b t sp => Sys2Proof.Machine.execFsub d a b t sp s
  | .fmul d a b t sp => Sys2Proof.Machine.execFmul d a b t sp s
  | .fmin d a b t sp => Sys2Proof.Machine.execFmin d a b t sp s
  | .fmax d a b t sp => Sys2Proof.Machine.execFmax d a b t sp s
  | .fsgnJ d a b t sp => Sys2Proof.Machine.execFsgnJ d a b t sp s
  | .fsgnJn d a b t sp => Sys2Proof.Machine.execFsgnJn d a b t sp s
  | .fsgnJx d a b t sp => Sys2Proof.Machine.execFsgnJx d a b t sp s
  | .fcmp d a b t c sp => Sys2Proof.Machine.execFcmp d a b t c sp s
  | .fclass d a t sp => Sys2Proof.Machine.execFclass d a t sp s
  | .fcvtFromFloat d a r q p sp => Sys2Proof.Machine.execFcvtFromFloat d a r q p sp s
  | .fcvtToFloat d a r p q sp => Sys2Proof.Machine.execFcvtToFloat d a r p q sp s
  | .vadd d a b m ty sp => Sys2Proof.Machine.execVadd d a b m ty sp s
  | .vsub d a b m ty sp => Sys2Proof.Machine.execVsub d a b m ty sp s
  | .vmul d a b m ty sp => Sys2Proof.Machine.execVmul d a b m ty sp s
  | .vminI d a b m ty sp => Sys2Proof.Machine.execVminI d a b m ty sp s
  | .vminN d a b m ty sp => Sys2Proof.Machine.execVminN d a b m ty sp s
  | .vmaxI d a b m ty sp => Sys2Proof.Machine.execVmaxI d a b m ty sp s
  | .vmaxN d a b m ty sp => Sys2Proof.Machine.execVmaxN d a b m ty sp s
  | .vand d a b m ty sp => Sys2Proof.Machine.execVand d a b m ty sp s
  | .vor d a b m ty sp => Sys2Proof.Machine.execVor d a b m ty sp s
  | .vxor d a b m ty sp => Sys2Proof.Machine.execVxor d a b m ty sp s
  | .vshl d a b m ty sp => Sys2Proof.Machine.execVshl d a b m ty sp s
  | .vshrN d a b m ty sp => Sys2Proof.Machine.execVshrN d a b m ty sp s
  | .vshrI d a b m ty sp => Sys2Proof.Machine.execVshrI d a b m ty sp s
  | .vabs d a m ty sp => Sys2Proof.Machine.execVabs d a m ty sp s
  | .vaddSatI d a b m ty sp => Sys2Proof.Machine.execVaddSatI d a b m ty sp s
  | .vaddSatN d a b m ty sp => Sys2Proof.Machine.execVaddSatN d a b m ty sp s
  | .vsubSatI d a b m ty sp => Sys2Proof.Machine.execVsubSatI d a b m ty sp s
  | .vsubSatN d a b m ty sp => Sys2Proof.Machine.execVsubSatN d a b m ty sp s
  | .vmulhI d a b m ty sp => Sys2Proof.Machine.execVmulhI d a b m ty sp s
  | .vmulhN d a b m ty sp => Sys2Proof.Machine.execVmulhN d a b m ty sp s
  | .vcmp d a b m ty c sp => Sys2Proof.Machine.execVcmp d a b m ty c sp s
  | .vfadd d a b m ty sp => Sys2Proof.Machine.execVfadd d a b m ty sp s
  | .vfsub d a b m ty sp => Sys2Proof.Machine.execVfsub d a b m ty sp s
  | .vfmul d a b m ty sp => Sys2Proof.Machine.execVfmul d a b m ty sp s
  | .vfmin d a b m ty sp => Sys2Proof.Machine.execVfmin d a b m ty sp s
  | .vfmax d a b m ty sp => Sys2Proof.Machine.execVfmax d a b m ty sp s
  | .vrcpe d a m ty sp => Sys2Proof.Machine.execVrcpe d a m ty sp s
  | .vrsqe d a m ty sp => Sys2Proof.Machine.execVrsqe d a m ty sp s
  | .vfcvt d a u q m ty r sp => Sys2Proof.Machine.execVfcvt d a u q m ty r sp s
  | .vfcmp d a b m ty c sp => Sys2Proof.Machine.execVfcmp d a b m ty c sp s
  | .vsplat d a m ty sp => Sys2Proof.Machine.execVsplat d a m ty sp s
  | .vextr d a b ty sp => Sys2Proof.Machine.execVextr d a b ty sp s
  | .vins d a b ty sp => Sys2Proof.Machine.execVins d a b ty sp s
  | .vperm d a b m ty sp => Sys2Proof.Machine.execVperm d a b m ty sp s
  | .vslide d a b m ty sp => Sys2Proof.Machine.execVslide d a b m ty sp s
  | .vcompr d a m ty sp => Sys2Proof.Machine.execVcompr d a m ty sp s
  | .vexpnd d a m ty sp => Sys2Proof.Machine.execVexpnd d a m ty sp s
  | .vsel d a b m ty sp => Sys2Proof.Machine.execVsel d a b m ty sp s
  | .vredAdd d a m ty sp => Sys2Proof.Machine.execVredAdd d a m ty sp s
  | .vredMin d a m ty sp => Sys2Proof.Machine.execVredMin d a m ty sp s
  | .vredMax d a m ty sp => Sys2Proof.Machine.execVredMax d a m ty sp s
  | .vredAddSat d a m ty sp => Sys2Proof.Machine.execVredAddSat d a m ty sp s
  | .vscanAdd d a m ty sp => Sys2Proof.Machine.execVscanAdd d a m ty sp s
  | .vscanMin d a m ty sp => Sys2Proof.Machine.execVscanMin d a m ty sp s
  | .vscanMax d a m ty sp => Sys2Proof.Machine.execVscanMax d a m ty sp s
  | .vpkl6 d a sp => Sys2Proof.Machine.execVpkl6 d a sp s
  | .vupl6 d a sp => Sys2Proof.Machine.execVupl6 d a sp s
  | .vdot4I8 d a b m sp => Sys2Proof.Machine.execVdot4I8 d a b m sp s
  | .vdot4N8 d a b m sp => Sys2Proof.Machine.execVdot4N8 d a b m sp s
  | .vdot4I8Sat d a b m sp => Sys2Proof.Machine.execVdot4I8Sat d a b m sp s
  | .vdot4N8Sat d a b m sp => Sys2Proof.Machine.execVdot4N8Sat d a b m sp s
  | .vdot2I16 d a b m sp => Sys2Proof.Machine.execVdot2I16 d a b m sp s
  | .vdot2N16 d a b m sp => Sys2Proof.Machine.execVdot2N16 d a b m sp s
  | .vdot2I16Sat d a b m sp => Sys2Proof.Machine.execVdot2I16Sat d a b m sp s
  | .vdot2N16Sat d a b m sp => Sys2Proof.Machine.execVdot2N16Sat d a b m sp s
  | .vffmaF32 d a b c m n sp => Sys2Proof.Machine.execVffmaF32 d a b c m n sp s
  | .vffmaF16 d a b c m n sp => Sys2Proof.Machine.execVffmaF16 d a b c m n sp s
  | .vffmaBf16 d a b c m n sp => Sys2Proof.Machine.execVffmaBf16 d a b c m n sp s
  | .mand d a b sp => Sys2Proof.Machine.execMand d a b sp s
  | .mor d a b sp => Sys2Proof.Machine.execMor d a b sp s
  | .mxor d a b sp => Sys2Proof.Machine.execMxor d a b sp s
  | .mnot d a sp => Sys2Proof.Machine.execMnot d a sp s
  | .mpopc d a sp => Sys2Proof.Machine.execMpopc d a sp s
  | .mfirst d a sp => Sys2Proof.Machine.execMfirst d a sp s
  | .mset d a sp => Sys2Proof.Machine.execMset d a sp s
  | .vdopAdd d a b m sp => Sys2Proof.Machine.execVdopAdd d a b m sp s
  | .vdopSub d a b m sp => Sys2Proof.Machine.execVdopSub d a b m sp s
  | .vdopMul d a b m sp => Sys2Proof.Machine.execVdopMul d a b m sp s
  | .vdopMin d a b m sp => Sys2Proof.Machine.execVdopMin d a b m sp s
  | .vdopMax d a b m sp => Sys2Proof.Machine.execVdopMax d a b m sp s
  | .vdopDiv d a b m sp => Sys2Proof.Machine.execVdopDiv d a b m sp s
  | .vdopSqrt d a m sp => Sys2Proof.Machine.execVdopSqrt d a m sp s
  | .ld d a n la w o sp => Sys2Proof.Machine.execLd d a n la w o sp s
  | .ldOffset d a n la w o im sp => Sys2Proof.Machine.execLdOffset d a n la w o im sp s
  | .st d a n w o sp => Sys2Proof.Machine.execSt d a n w o sp s
  | .stOffset d a n w o im sp => Sys2Proof.Machine.execStOffset d a n w o im sp s
  | .ldv d a n la o sp => Sys2Proof.Machine.execLdv d a n la o sp s
  | .ldvOffset d a n la o im sp => Sys2Proof.Machine.execLdvOffset d a n la o im sp s
  | .ldvL6 d a n la o sp => Sys2Proof.Machine.execLdvL6 d a n la o sp s
  | .ldvL6Offset d a n la o im sp => Sys2Proof.Machine.execLdvL6Offset d a n la o im sp s
  | .pref a n sp => Sys2Proof.Machine.execPref a n sp s
  | .prefOffset a n im sp => Sys2Proof.Machine.execPrefOffset a n im sp s
  | .evict a n sp => Sys2Proof.Machine.execEvict a n sp s
  | .evictOffset a n im sp => Sys2Proof.Machine.execEvictOffset a n im sp s
  | .stv d a n o sp => Sys2Proof.Machine.execStv d a n o sp s
  | .stvOffset d a n o im sp => Sys2Proof.Machine.execStvOffset d a n o im sp s
  | .stvL6 d a n o sp => Sys2Proof.Machine.execStvL6 d a n o sp s
  | .stvL6Offset d a n o im sp => Sys2Proof.Machine.execStvL6Offset d a n o im sp s
  | .gath d a b la w n m od sc sp => Sys2Proof.Machine.execGath d a b la w n m od sc sp s
  | .ldvs d a b la w n m od sc sp => Sys2Proof.Machine.execLdvs d a b la w n m od sc sp s
  | .scat d a b w n m od sc sp => Sys2Proof.Machine.execScat d a b w n m od sc sp s
  | .stvs d a b w n m od sc sp => Sys2Proof.Machine.execStvs d a b w n m od sc sp s
  | .ldm d a n la c o sp => Sys2Proof.Machine.execLdm d a n la c o sp s
  | .ldmOffset d a n la c o im sp => Sys2Proof.Machine.execLdmOffset d a n la c o im sp s
  | .stm d a n c o sp => Sys2Proof.Machine.execStm d a n c o sp s
  | .stmOffset d a n c o im sp => Sys2Proof.Machine.execStmOffset d a n c o im sp s
  | .amoAdd d a b la w n od sc sp => Sys2Proof.Machine.execAmoAdd d a b la w n od sc sp s
  | .amoAnd d a b la w n od sc sp => Sys2Proof.Machine.execAmoAnd d a b la w n od sc sp s
  | .amoOr d a b la w n od sc sp => Sys2Proof.Machine.execAmoOr d a b la w n od sc sp s
  | .amoXor d a b la w n od sc sp => Sys2Proof.Machine.execAmoXor d a b la w n od sc sp s
  | .amoMinI d a b la w n od sc sp => Sys2Proof.Machine.execAmoMinI d a b la w n od sc sp s
  | .amoMinN d a b la w n od sc sp => Sys2Proof.Machine.execAmoMinN d a b la w n od sc sp s
  | .amoMaxI d a b la w n od sc sp => Sys2Proof.Machine.execAmoMaxI d a b la w n od sc sp s
  | .amoMaxN d a b la w n od sc sp => Sys2Proof.Machine.execAmoMaxN d a b la w n od sc sp s
  | .amoSwap d a b la w n od sc sp => Sys2Proof.Machine.execAmoSwap d a b la w n od sc sp s
  | .amoCas d a b la w n od sc sp => Sys2Proof.Machine.execAmoCas d a b la w n od sc sp s
  | .amov d a t n m od sc sp => Sys2Proof.Machine.execAmov d a t n m od sc sp s
  | .amowAdd d a b la n od sc sp => Sys2Proof.Machine.execAmowAdd d a b la n od sc sp s
  | .amowSwap d a b la n od sc sp => Sys2Proof.Machine.execAmowSwap d a b la n od sc sp s
  | .amowCas d a b la n od sc sp => Sys2Proof.Machine.execAmowCas d a b la n od sc sp s
  | .fenceAcq sc sp => Sys2Proof.Machine.execFenceAcq sc sp s
  | .fenceRel sc sp => Sys2Proof.Machine.execFenceRel sc sp s
  | .fenceFull sc sp => Sys2Proof.Machine.execFenceFull sc sp s
  | .cadd d a b la sc sp => Sys2Proof.Machine.execCadd d a b la sc sp s
  | .cwait d a b la sc sp => Sys2Proof.Machine.execCwait d a b la sc sp s
  | .cpoll d a la sc sp => Sys2Proof.Machine.execCpoll d a la sc sp s
  | .tick a sp => Sys2Proof.Machine.execTick a sp s
  | .sbind d k b sp => Sys2Proof.Machine.execSbind d k b sp s
  | .sunbd k sp => Sys2Proof.Machine.execSunbd k sp s
  | .sarr d k b la sp => Sys2Proof.Machine.execSarr d k b la sp s
  | .sarrb k b sp => Sys2Proof.Machine.execSarrb k b sp s
  | .swait d k b la sp => Sys2Proof.Machine.execSwait d k b la sp s
  | .stest d k b la sp => Sys2Proof.Machine.execStest d k b la sp s
  | .sleave k sp => Sys2Proof.Machine.execSleave k sp s
  | .trigx d a la sp => Sys2Proof.Machine.execTrigx d a la sp s
  | .tcfg d sc la sp => Sys2Proof.Machine.execTcfg d sc la sp s
  | .tfmt sc la sp => Sys2Proof.Machine.execTfmt sc la sp s
  | .tscale h sc la n od sp => Sys2Proof.Machine.execTscale h sc la n od sp s
  | .tzero d la sp => Sys2Proof.Machine.execTzero d la sp s
  | .tldr d sc la n od im sp => Sys2Proof.Machine.execTldr d sc la n od im sp s
  | .tstr a sc la n od im sp => Sys2Proof.Machine.execTstr a sc la n od im sp s
  | .tmovr x sc la h v sp => Sys2Proof.Machine.execTmovr x sc la h v sp s
  | .tmovc x sc la h v sp => Sys2Proof.Machine.execTmovc x sc la h v sp s
  | .mma d a b la sp => Sys2Proof.Machine.execMma d a b la sp s
  | .mmas d a sc la sp => Sys2Proof.Machine.execMmas d a sc la sp s
  | .mmaSat d a b la sp => Sys2Proof.Machine.execMmaSat d a b la sp s
  | .mmasSat d a sc la sp => Sys2Proof.Machine.execMmasSat d a sc la sp s
  | .gload sc la n od im sp => Sys2Proof.Machine.execGload sc la n od im sp s
  | .gdrop sc la sp => Sys2Proof.Machine.execGdrop sc la sp s
  | .tdrain d la sp => Sys2Proof.Machine.execTdrain d la sp s
  | .tfill d la sp => Sys2Proof.Machine.execTfill d la sp s
  | .tstat a sc la sp => Sys2Proof.Machine.execTstat a sc la sp s
  | .tfree d la sp => Sys2Proof.Machine.execTfree d la sp s
  | .topen d a sp => Sys2Proof.Machine.execTopen d a sp s
  | .tclose a sp => Sys2Proof.Machine.execTclose a sp s
  | .tacqS a b sp => Sys2Proof.Machine.execTacqS a b sp s
  | .tacqW a b sp => Sys2Proof.Machine.execTacqW a b sp s
  | .tacqA a b sp => Sys2Proof.Machine.execTacqA a b sp s
  | .trel a b sp => Sys2Proof.Machine.execTrel a b sp s
  | .tsplit d a b sp => Sys2Proof.Machine.execTsplit d a b sp s
  | .tqry d a b sp => Sys2Proof.Machine.execTqry d a b sp s
  | .tdesc d a b sp => Sys2Proof.Machine.execTdesc d a b sp s
  | .yskew d a b sp => Sys2Proof.Machine.execYskew d a b sp s
  | .yunsk d a sp => Sys2Proof.Machine.execYunsk d a sp s
  | .dadd d a b la sp => Sys2Proof.Machine.execDadd d a b la sp s
  | .dsub d a b la sp => Sys2Proof.Machine.execDsub d a b la sp s
  | .dmul d a b la sp => Sys2Proof.Machine.execDmul d a b la sp s
  | .ddiv d a b la sp => Sys2Proof.Machine.execDdiv d a b la sp s
  | .dsqrt d a la sp => Sys2Proof.Machine.execDsqrt d a la sp s
  | .dmin d a b la sp => Sys2Proof.Machine.execDmin d a b la sp s
  | .dmax d a b la sp => Sys2Proof.Machine.execDmax d a b la sp s
  | .dcmp d a b la c sp => Sys2Proof.Machine.execDcmp d a b la c sp s
  | .dcvtToF64 d a r la t sp => Sys2Proof.Machine.execDcvtToF64 d a r la t sp s
  | .dcvtFromF64 d a r la t sp => Sys2Proof.Machine.execDcvtFromF64 d a r la t sp s
  | .dfma d a b c la sp => Sys2Proof.Machine.execDfma d a b c la sp s
  | .vdfma d a b c m n sp => Sys2Proof.Machine.execVdfma d a b c m n sp s
  | .fdiv d a b la sp => Sys2Proof.Machine.execFdiv d a b la sp s
  | .fsqrt d a la sp => Sys2Proof.Machine.execFsqrt d a la sp s
  | .fexp2 d a la sp => Sys2Proof.Machine.execFexp2 d a la sp s
  | .flog2 d a la sp => Sys2Proof.Machine.execFlog2 d a la sp s
  | .fsin d a la sp => Sys2Proof.Machine.execFsin d a la sp s
  | .fcos d a la sp => Sys2Proof.Machine.execFcos d a la sp s
  | .frcp d a la sp => Sys2Proof.Machine.execFrcp d a la sp s
  | .frsq d a la sp => Sys2Proof.Machine.execFrsq d a la sp s
  | .shipw sp => Sys2Proof.Machine.execShipw sp s
  | .migrate sp => Sys2Proof.Machine.execMigrate sp s
  | .msend d a b sp => Sys2Proof.Machine.execMsend d a b sp s
  | .msendT d a b sp => Sys2Proof.Machine.execMsendT d a b sp s
  | .mmask d a b sp => Sys2Proof.Machine.execMmask d a b sp s
  | .mbox d a b sp => Sys2Proof.Machine.execMbox d a b sp s
  | .mdone d sp => Sys2Proof.Machine.execMdone d sp s
  | .rdsend d k b sp => Sys2Proof.Machine.execRdsend d k b sp s
  | .rdrecv d k b la sp => Sys2Proof.Machine.execRdrecv d k b la sp s
  | .cpy d a b sp => Sys2Proof.Machine.execCpy d a b sp s
  | .cpyt d a b sp => Sys2Proof.Machine.execCpyt d a b sp s
  | .cpyq d a sp => Sys2Proof.Machine.execCpyq d a sp s
  | .krd d k sp => Sys2Proof.Machine.execKrd d k sp s
  | .kwr a k sp => Sys2Proof.Machine.execKwr a k sp s
  | .eret a b sp => Sys2Proof.Machine.execEret a b sp s
  | .waiti d a sp => Sys2Proof.Machine.execWaiti d a sp s
  | .tlbw d a b sp => Sys2Proof.Machine.execTlbw d a b sp s
  | .tlbinv a b sp => Sys2Proof.Machine.execTlbinv a b sp s
  | .aswch d a sp => Sys2Proof.Machine.execAswch d a sp s
  | .launch d a sp => Sys2Proof.Machine.execLaunch d a sp s
  | .launchT d a sp => Sys2Proof.Machine.execLaunchT d a sp s
  | .swout d a sp => Sys2Proof.Machine.execSwout d a sp s
  | .swin d a sp => Sys2Proof.Machine.execSwin d a sp s
  | .rdcfg d a b sp => Sys2Proof.Machine.execRdcfg d a b sp s
  | .longLatencyCompletion p n => Sys2Proof.Machine.execLongLatencyCompletion p n s
  | .settle p => Sys2Proof.Machine.execSettle p s
  | .fetchFill p => Sys2Proof.Machine.execFetchFill p s
  | .storeBufferDrain p => Sys2Proof.Machine.execStoreBufferDrain p s
  | .guestDispatch y => Sys2Proof.Machine.execGuestDispatch y s
  | .shippedCompletion p seq => Sys2Proof.Machine.execShippedCompletion p seq s
  | .shippedFault p seq => Sys2Proof.Machine.execShippedFault p seq s
  | .cancelPacket y => Sys2Proof.Machine.execCancelPacket y s
  | .migrateTransferDone p => Sys2Proof.Machine.execMigrateTransferDone p s
  | .forwardedReply p => Sys2Proof.Machine.execForwardedReply p s
  | .matrixPipeStart y => Sys2Proof.Machine.execMatrixPipeStart y s
  | .matrixCompletion y pipe => Sys2Proof.Machine.execMatrixCompletion y pipe s
  | .tileTransferCompletion y => Sys2Proof.Machine.execTileTransferCompletion y s
  | .skewRearrangeDone y => Sys2Proof.Machine.execSkewRearrangeDone y s
  | .penaltyUpdate tenant => Sys2Proof.Machine.execPenaltyUpdate tenant s
  | .mirrorUpdate => Sys2Proof.Machine.execMirrorUpdate s
  | .tenureGrant => Sys2Proof.Machine.execTenureGrant s
  | .recall => Sys2Proof.Machine.execRecall s
  | .drainRequest => Sys2Proof.Machine.execDrainRequest s
  | .watchWake p => Sys2Proof.Machine.execWatchWake p s
  | .watchPoll p => Sys2Proof.Machine.execWatchPoll p s
  | .waitDeadline p => Sys2Proof.Machine.execWaitDeadline p s
  | .activationStart y => Sys2Proof.Machine.execActivationStart y s
  | .statGather tid => Sys2Proof.Machine.execStatGather tid s
  | .messageArrival src => Sys2Proof.Machine.execMessageArrival src s
  | .heldMessagePlaced y cls => Sys2Proof.Machine.execHeldMessagePlaced y cls s
  | .mailboxWaitExpiry y cls => Sys2Proof.Machine.execMailboxWaitExpiry y cls s
  | .messageAnswer p n code => Sys2Proof.Machine.execMessageAnswer p n code s
  | .handlerActivation y cls => Sys2Proof.Machine.execHandlerActivation y cls s
  | .portArbitration stop port => Sys2Proof.Machine.execPortArbitration stop port s
  | .reductionRound k stop => Sys2Proof.Machine.execReductionRound k stop s
  | .routerPowerDown stop => Sys2Proof.Machine.execRouterPowerDown stop s
  | .routerWake stop sup => Sys2Proof.Machine.execRouterWake stop sup s
  | .routerReady stop => Sys2Proof.Machine.execRouterReady stop s
  | .pageWalk y n => Sys2Proof.Machine.execPageWalk y n s
  | .atsCompletion asid page r w hpa bits => Sys2Proof.Machine.execAtsCompletion asid page r w hpa bits s
  | .priSuccess asid page => Sys2Proof.Machine.execPriSuccess asid page s
  | .priInvalidRequest asid page => Sys2Proof.Machine.execPriInvalidRequest asid page s
  | .priResponseFailure tenant => Sys2Proof.Machine.execPriResponseFailure tenant s
  | .atsInvalidateRequest tenant pasid base len => Sys2Proof.Machine.execAtsInvalidateRequest tenant pasid base len s
  | .invalidateCompletion => Sys2Proof.Machine.execInvalidateCompletion s
  | .transferStart e => Sys2Proof.Machine.execTransferStart e s
  | .transferComplete e data => Sys2Proof.Machine.execTransferComplete e data s
  | .transferFailed e remote => Sys2Proof.Machine.execTransferFailed e remote s
  | .remotePathLoss dev => Sys2Proof.Machine.execRemotePathLoss dev s
  | .sertenPut dev tenant va bytes => Sys2Proof.Machine.execSertenPut dev tenant va bytes s
  | .hostMemoryWrite pa bytes bad => Sys2Proof.Machine.execHostMemoryWrite pa bytes bad s
  | .hostMemoryRead a n => Sys2Proof.Machine.execHostMemoryRead a n s
  | .hostCounterAdd f n v => Sys2Proof.Machine.execHostCounterAdd f n v s
  | .eqConfigWrite f size v => Sys2Proof.Machine.execEqConfigWrite f size v s
  | .registerWrite r v => Sys2Proof.Machine.execRegisterWrite r v s
  | .launchRecordTake f q bases => Sys2Proof.Machine.execLaunchRecordTake f q bases s
  | .deviceQueueAdmit y area bases => Sys2Proof.Machine.execDeviceQueueAdmit y area bases s
  | .teamPlacement y => Sys2Proof.Machine.execTeamPlacement y s
  | .priorityAging y tid => Sys2Proof.Machine.execPriorityAging y tid s
  | .quantumExpiry tid => Sys2Proof.Machine.execQuantumExpiry tid s
  | .parkExpiry p => Sys2Proof.Machine.execParkExpiry p s
  | .safewaitExpiry tid => Sys2Proof.Machine.execSafewaitExpiry tid s
  | .swapOut tid => Sys2Proof.Machine.execSwapOut tid s
  | .eventBacklogDrain f => Sys2Proof.Machine.execEventBacklogDrain f s
  | .requestTimeout f => Sys2Proof.Machine.execRequestTimeout f s
  | .functionLevelReset f => Sys2Proof.Machine.execFunctionLevelReset f s
  | .errorCorrected y unit addr => Sys2Proof.Machine.execErrorCorrected y unit addr s
  | .poisonConsumed p => Sys2Proof.Machine.execPoisonConsumed p s
  | .uncorrectableError e => Sys2Proof.Machine.execUncorrectableError e s
  | .pipeFailure y => Sys2Proof.Machine.execPipeFailure y s
  | .exchangeComplete p same => Sys2Proof.Machine.execExchangeComplete p same s
  | .deviceFault unit => Sys2Proof.Machine.execDeviceFault unit s
  | .deviceReset => Sys2Proof.Machine.execDeviceReset s
  | .go v => Sys2Proof.Machine.execGo v s
  | .imageVerifyDone readOk => Sys2Proof.Machine.execImageVerifyDone readOk s
  | .bringUpReady bad => Sys2Proof.Machine.execBringUpReady bad s
  | .recoveryReset => Sys2Proof.Machine.execRecoveryReset s
  | .spdmRequest r => Sys2Proof.Machine.execSpdmRequest r s
  | .clockStepDown thermal power => Sys2Proof.Machine.execClockStepDown thermal power s
  | .clockStepUp => Sys2Proof.Machine.execClockStepUp s
  | .thermalTrip => Sys2Proof.Machine.execThermalTrip s
  | .waitiTimeout p => Sys2Proof.Machine.execWaitiTimeout p s
  | .linkRetrained => Sys2Proof.Machine.execLinkRetrained s
  | .sertenGet dev tenant va n => Sys2Proof.Machine.execSertenGet dev tenant va n s
  | .sertenCounterAdd dev tenant va v => Sys2Proof.Machine.execSertenCounterAdd dev tenant va v s
  | .portLinkChange port dev => Sys2Proof.Machine.execPortLinkChange port dev s
  | .coalescingIntervalEnd y => Sys2Proof.Machine.execCoalescingIntervalEnd y s

end Sys2Proof.Machine
end

