-- ==== Sys2Proof/Machine/Step.lean ====
section
/-! DEFINITION. One step of the device: the environment's next choice, an event the device's state calls for, or the next
instruction of the strand whose turn it is. -/
namespace Sys2Proof.Machine

/-- The first event of a list that can come about and changes the state. -/
noncomputable def firstEvent (s : State) : List Instr → Option State
  | [] => none
  | i :: rest =>
    match exec i s with
    | .next t => if t = s then firstEvent s rest else some t
    | _ => firstEvent s rest

/-- The instruction that the bytes of a fetch hold, or the trap of bytes that hold none (R65). -/
noncomputable def execBytes (bs : List Byte) (s : State) : Host.Outcome State Fault Refusal :=
  match decodeBytes bs with
  | .ok (i, _) => exec i s
  | .error _ => illegal ((wordsOfBytes bs).headD 0) s

/-- The next instruction of the strand in the focus: its fetch, and its meaning. -/
noncomputable def runStrand (s : State) : Host.Outcome State Fault Refusal :=
  match fetchInstr ⟨s, []⟩ with
  | .ok (bs, r) => execBytes bs (applyAll s r.log.reverse)
  | .error e => runAct (BitVec.ofNat 2 s.me.fetchLength) (fun _ => .error e) s

/-! ### Which strands are Ready (R87) -/

/-- The state with the strand in the focus in another run state. -/
def State.withRun (s : State) (r : RunState) : State := { s with me := { s.me with run := r } }

/-- Ready or Stalled, as a trial of its next instruction shows: the fetch of that instruction begins, an instruction that R57 holds
back leaves the strand Stalled, and any other is not tried before its turn. -/
noncomputable def State.refreshAt (s : State) (p : Pos) : State :=
  let s' := s.focusOn p
  if s'.me.pos = p && s'.me.tryable then
    match runStrand s' with
    | .next t =>
      match t.strands.find? (fun x => x.pos == p) with
      | some z =>
        if z.run = .fetching then t
        else if z.run = .stalled && decide (t = s'.withRun .stalled) then t
        else s'.withRun .ready
      | none => s'.withRun .ready
    | _ => s'.withRun .ready
  else s

/-- Every strand Ready or Stalled as its next instruction has it (R87); the focus stays. -/
noncomputable def State.refresh (s : State) : State :=
  (((s.strands.filter Strand.tryable).map (fun x => x.pos)).foldl State.refreshAt s).focusOn s.me.pos

/-- A step's end, where memory was as given before the step: what follows it, the strands that are Ready, what DRAM has, one cycle more, and the next turn. A strand whose turn it is keeps it
while events come about. -/
noncomputable def State.finish (before : Memory) (issued : Option Issue) (patience : Nat) (s : State) : State :=
  let t := { ((s.afterwards issued).refresh.endHeavyCycles.trackDram before) with cycle := s.cycle + 1, patience := patience }
  if issued.isNone && t.inTurn then t
  else match t.nextTurn with
    | some p => t.focusOn p
    | none => t

/-- The end of a step whose work is done, if it has an outcome that goes on. -/
noncomputable def finishOutcome (before : Memory) (issued : State → Option Issue) (patience : Nat) :
    Host.Outcome State Fault Refusal → Host.Outcome State Fault Refusal
  | .next t => .next (t.finish before (issued t) patience)
  | o => o

/-- The issue of the strand at a position, which was tried in a state, as the state after shows it. -/
def issuedAt (s : State) (p : Pos) (t : State) : Option Issue :=
  match t.strands.find? (fun x => x.pos == p) with
  | some x => if x.hasIssued then some ⟨p, (s.yard p.yidx).regs.share⟩ else none
  | none => none

/-- How many events may come about between two instructions while a strand is runnable (log entry 1). -/
def patienceLimit : Nat := 8

/-- A step in which the environment makes no choice. -/
noncomputable def ownStep (s : State) : Host.Outcome State Fault Refusal :=
  let ready := s.nextTurn
  match (if s.patience < patienceLimit || ready.isNone then firstEvent s s.events else none) with
  | some t => .next (t.finish s.mem none (s.patience + 1))
  | none =>
    if s.inTurn then finishOutcome s.mem (issuedAt s s.me.pos) 0 (runStrand s)
    else .next (s.finish s.mem none 0)

/-- The step function. A device in phase RESET starts its bring-up, one in phase IDENTITY checks its record (R447); one in phase
FAILED does nothing more. -/
noncomputable def step (s : State) : Host.Outcome State Fault Refusal :=
  match s.agenda with
  | .event i :: rest =>
    let s' := { s with agenda := rest }
    if i.parts.isSome then .refused (.notEnabled "an instruction is no event")
    else finishOutcome s.mem (fun _ => none) s.patience (exec i s')
  | .strand p :: rest => .next ({ s with agenda := rest }.focusOn p)
  | [] =>
    if s.dev.boot.phase = 0 && !s.dev.boot.recovery then finishOutcome s.mem (fun _ => none) 0 (exec .deviceReset s)
    else if s.dev.boot.phase = 1 then finishOutcome s.mem (fun _ => none) 0 (execIdentityCheck s)
    else if s.dev.boot.phase = 15 then .fault .bringUpFailed
    else ownStep s

/-- Where an instruction placed by `withFetchWord` stands: the first address of the supervisor's code (R449). -/
def placeAddr : Nat := 0x7FE0000040

/-- The state with an instruction placed for the supervisor of yard 0 to run next: bring-up is over, the supervisor stands
at the start of its image's body with ASID 0, the words stand in memory, and its fetch buffer holds their block. The next position
of its heavy core is its own (R164), and no event comes first (log entry 1). -/
def State.withFetchWord (s : State) (nbits w : Nat) : State :=
  let bytes := leBytes 12 (w % 2 ^ nbits)
  let mem := s.mem.writeBytes placeAddr bytes
  let x := Strand.supervisor 0
  let sup : Strand :=
    { x with
      run := .ready
      arch := { x.arch with pcw := BitVec.ofNat 62 (placeAddr / 4) }
      fetchBuf := [(placeAddr / 128, mem.readBytes (placeAddr / 128 * 128) 128)] }
  let Y := s.yard 0
  { s with
    me := sup
    others := s.others.filter (fun t => t.pos != supPos 0)
    yards := assocSet s.yards 0 { Y with heavy := { Y.heavy with co := max 1 Y.heavy.co, slotNo := 0, lead := some 0 } }
    dev := { s.dev with boot := { s.dev.boot with phase := 5, recovery := false } }
    mem := mem
    agenda := []
    patience := patienceLimit }

end Sys2Proof.Machine
end

