-- ==== Sys2Proof/Safety.lean ====
section
/-! DEFINITION. The words that statements about the machine are written in: what it is for an instruction to complete, which
states are free of waits and refusals, where a result goes, and what an instruction may change. -/
namespace Sys2Proof.Machine

/-! ### Completion -/

/-- The state after an instruction of `len` words that is retired with these effects: it has issued, and the program counter
stands after it (R47). -/
def retired (s : State) (len : Nat) (effs : List Eff) : State :=
  applyAll s (.issued :: .pc (s.me.arch.pcw + BitVec.ofNat 62 len) :: effs)

/-- The instruction completes with exactly these effects. -/
def Completes (i : Instr) (s : State) (len : Nat) (effs : List Eff) : Prop := exec i s = .next (retired s len effs)

/-- No trap is enabled for any of these flags: NV under NVE, DZ under DZE, NP in mode 1 of K.NANMODE (R44, R46). -/
def State.Untrapped (s : State) (f : FpFlags) : Prop :=
  (s.me.modes.nve = true → f.nv = false) ∧ (s.me.modes.dze = true → f.dz = false) ∧ (s.me.modes.nanmode = true → f.np = false)

/-- What flags do that trap nothing: they accumulate, and outside mode 1 of K.NANMODE they are counted (R43, R45). -/
def State.flagEff (s : State) (f : FpFlags) : RegEff := .flags f.bits (!s.me.modes.nanmode)

/-- The effects of a scalar floating-point result: its flags, then its bits, zeros above (R43, R117). -/
def State.floatEffs (s : State) (d : BitVec 5) (r : FRes) : List Eff :=
  [.reg (s.flagEff r.2), .reg (.s d (BitVec.ofNat 64 r.1))]

/-- The effects of a vector floating-point result: the flags of its lanes, then the vector (R43, R141). -/
def State.floatVEffs (s : State) (d : BitVec 5) (r : Vec × FpFlags) : List Eff := [.reg (s.flagEff r.2), .reg (.v d r.1)]

/-- Nothing holds back the next instruction of the strand in the focus: no safe point stopped it (R60), nothing is outstanding
in its window (R57, R169), it is in no pair (R440), and none of its registers is poisoned (R431). -/
structure State.Idle (s : State) : Prop where
  resume : s.me.resumeMask = none
  stopped : s.me.stopped = false
  window : s.me.window = []
  pending : s.me.pending = []
  pair : s.me.pair = none
  poisoned : s.me.arch.poisoned = []
  safereq : s.me.st.safereq = false

/-- Besides, nothing is under way that a load or a store could meet: stores that have not reached memory, releases, acquires,
transfers, tiles and their partials, poison, copies in the L1 and in yard domains (R237, R263, R264, R297, R350). -/
structure State.Still (s : State) : Prop where
  idle : s.Idle
  storeBuf : s.me.storeBuf = []
  held : s.me.arch.held = []
  fenceRel : s.me.fenceRel = none
  act : s.me.act = none
  sent : s.me.sent = none
  wait : s.me.wait = none
  tiles : s.dev.tiles = []
  engines : s.dev.engines = []
  poison : s.dev.poison = []
  tenReqs : s.dev.tenReqs = []
  acquires : s.dev.acquires = []
  partials : s.dev.partials = []
  l1 : (s.core (coreKey s.me.pos)).l1 = []
  domain : ∀ y, (s.yard y).domain = []

/-- Besides, the strand is in supervisor mode in ASID 0, where addresses are not translated (R350). -/
structure State.Quiet (s : State) : Prop where
  still : s.Still
  sup : s.me.st.sup = true
  asid : s.me.modes.asid = 0

/-- `n` bytes of device memory (R12). -/
def InDram (va : Word) (n : Nat) : Prop := va.toNat + n ≤ dramEnd

/-- The strand's addresses are not translated: a supervisor strand in ASID 0 (R350). -/
def State.Free (s : State) : Prop := s.me.modes.asid = 0 ∧ s.me.st.sup = true

/-- An access to the `n` bytes at `va` is made at `key` (R225, R346, R349): in device memory, by the address itself where the strand's
addresses are not translated and else by the one translation that the TLBs have of it, which grants the access; or in the strand's window of yard
memory, outside a region that is being rearranged (R234). -/
def State.Maps (s : State) (k : Access) (va : Word) (n key : Nat) : Prop :=
  (s.Free ∧ va.toNat + n ≤ dramEnd ∧ key = va.toNat) ∨
  (va.toNat % 4096 + n ≤ 4096 ∧ va.toNat < 2 ^ 56 ∧
    ((¬s.Free ∧ inAperture va.toNat = false ∧ ∃ e, s.tlbLookup s.me.who va.toNat = some e ∧ e.refuses s.me.st.sup k = none ∧
        e.hostLeaf = false ∧ key = e.key va.toNat ∧ key + n ≤ dramEnd ∧
        ∀ f ∈ s.microTlb s.me.who ++ (s.yard s.me.pos.yidx).tlb, f.maps s.me.modes.asid va.toNat = true →
          { f with pinned := e.pinned } = e) ∨
      (inAperture va.toNat = true ∧ va.toNat - apertureBase + n ≤ s.allotment s.me.tid ∧
        key = s.windowKey s.me.tid (va.toNat - apertureBase) ∧ isYardMem key = true ∧ s.skewBusyKey key n = false)))

/-- The cause of an access whose address has no translation: 0x10 for a load, 0x11 for others (R346). -/
def missCause (k : Access) : BitVec 8 := if k = .load then 0x10 else 0x11

/-- An access to the `n` bytes at `va` faults with a cause (R346, R349, R352, R355, R356, R424): no translation where the address is
above 2^56, beyond device memory untranslated, beyond the window, or where its walk has failed; no permission, as the leaf's R, W and SU
have it; and of a host page, one that the host has refused, or whose function is frozen. -/
def State.FaultsAt (s : State) (k : Access) (va : Word) (n : Nat) (c : BitVec 8) : Prop :=
  let a := va.toNat
  let Y := s.yard s.me.pos.yidx
  let mapped := ¬s.Free ∧ a < 2 ^ 56 ∧ a % 4096 + n ≤ 4096 ∧ inAperture a = false
  let entry := fun (p : TlbEntry → Prop) => mapped ∧ ∃ e, s.tlbLookup s.me.who a = some e ∧ p e
  let su := fun (e : TlbEntry) => e.su = true ∧ s.me.st.sup = false
  let hostPage := fun (e : TlbEntry) => e.refuses s.me.st.sup k = none ∧ e.hostLeaf = true
  (c = missCause k ∧ (2 ^ 56 ≤ a ∨ (s.Free ∧ dramEnd ≤ a ∧ a < 2 ^ 56 ∧ inAperture a = false) ∨
    (inAperture a = true ∧ s.allotment s.me.tid < a - apertureBase + n) ∨
    (mapped ∧ s.tlbLookup s.me.who a = none ∧ (Y.ended s.me.who.asker s.me.modes.asid a).map (fun e => e.leaf) = some none))) ∨
  (k = .load ∧ c = 0x12 ∧ entry (fun e => su e ∨ e.r = false)) ∨
  (k = .store ∧ c = 0x13 ∧ entry (fun e => su e ∨ e.w = false)) ∨
  (k = .atomic ∧ c = 0x12 ∧ entry (fun e => su e ∨ e.r = false)) ∨
  (k = .atomic ∧ c = 0x13 ∧ entry (fun e => ¬su e ∧ e.r = true ∧ e.w = false)) ∨
  (c = 0x16 ∧ entry (fun e => hostPage e ∧
    ((¬(e.ats = true ∧ e.hostGrants k = true) ∧ s.dev.refusedPage s.me.modes.asid (a / 4096) s.me.who.asker = true) ∨
      (e.ats = true ∧ e.hostGrants k = true ∧
        (s.func ((s.space s.me.modes.asid).map (fun x => x.tenant.toNat) |>.getD 0)).frozen = true))))

/-- A result arrives at once where the instruction names no latency, and after `la` further instructions where it does (R57). -/
def Written (s t : State) (len : Nat) (la : BitVec 4) (effs : List RegEff) : Prop :=
  let a := { s.me.arch with pcw := s.me.arch.pcw + BitVec.ofNat 62 len }
  (la = 0#4 → t.me.arch = effs.foldl Arch.apply a ∧ t.me.pending = []) ∧
    (la ≠ 0#4 → t.me.arch = a ∧ t.me.pending.map (fun p => (p.effs, p.left)) = [(effs, la.toNat)])

/-- The trap registers, the mode registers and the supervisor bits of the status are as before. -/
def Kept (s t : State) : Prop :=
  t.me.trap = s.me.trap ∧ t.me.modes = s.me.modes ∧ t.me.st.sup = s.me.st.sup ∧ t.me.st.migt = s.me.st.migt

/-- Besides, every other strand is as before. -/
def Untouched (s t : State) : Prop := Kept s t ∧ t.others = s.others

/-- The results are all that the instruction writes to the strand's registers, which are of every kind: scalar, vector and mask
registers, flags, trap registers and modes; no other strand changes. -/
def Delivered (s t : State) (len : Nat) (la : BitVec 4) (effs : List RegEff) : Prop :=
  Written s t len la effs ∧ Untouched s t

/-- The results are all that the instruction writes to the strand's registers; other strands may change, as its statement says. -/
def Returned (s t : State) (len : Nat) (la : BitVec 4) (effs : List RegEff) : Prop :=
  Written s t len la effs ∧ Kept s t

/-- The instruction completes, leaves memory alone, and its registers receive these results. -/
def Received (i : Instr) (s : State) (len : Nat) (la : BitVec 4) (effs : List RegEff) : Prop :=
  ∃ t, exec i s = .next t ∧ t.mem = s.mem ∧ Delivered s t len la effs

/-- The instruction begins to wait: with no lookahead the strand stays at it, and otherwise it is outstanding, with the registers it
will write, and the strand goes on after it (R322, R484). -/
def Waits (i : Instr) (s : State) (len : Nat) (la : BitVec 4) (kind : WaitKind) (dests : List RegId) (deadline : Option Nat) : Prop :=
  ∃ t, exec i s = .next t ∧ t.mem = s.mem ∧ Untouched s t ∧ t.me.wait.map (fun w => (w.kind, w.deadline)) = some (kind, deadline) ∧
    (la = 0#4 → t.me.run = .waiting kind ∧ t.me.arch = s.me.arch ∧ t.me.window = []) ∧
    (la ≠ 0#4 → t.me.run = .ready ∧ t.me.arch = { s.me.arch with pcw := s.me.arch.pcw + BitVec.ofNat 62 len } ∧
      t.me.window.head?.map (fun e => (e.dests, e.left, e.done, e.base, e.unsettled.map (fun u => u.why))) =
        some (dests, la.toNat, false, s.me.arch, some (.waiting kind)))

/-! ### Stores -/

/-- The instruction completes as a store: its bytes stand in the store buffer (R237), each at its address, and no register but the
program counter changes. -/
def Stores (i : Instr) (s : State) (len : Nat) (at_ : Nat → Option Byte) : Prop :=
  ∃ t, exec i s = .next t ∧ t.mem = s.mem ∧ Untouched s t ∧
    t.me.arch = { s.me.arch with pcw := s.me.arch.pcw + BitVec.ofNat 62 len } ∧ ∀ k, heldByte t.me.storeBuf k = at_ k

/-- The bytes of a list by address from `va` on. -/
def bytesAt (va : Nat) (bytes : List Byte) (k : Nat) : Option Byte := if va ≤ k then bytes[k - va]? else none

/-- Memory is in its canonical form. -/
def State.MemOk (s : State) : Prop := s.mem.wf = true

/-- No two strands share a position, and no empty slot is kept beside the focus. -/
def State.Apart (s : State) : Prop := (s.strands.map (fun y => y.pos)).Nodup

/-! ### Tiles -/

/-- The bits of tile register `j` of the strand whose home is that of `s` (R193). -/
def tileBits (s t : State) (j : BitVec 3) : Option TileData :=
  ((t.yard s.me.home.yidx).heavy.tileOf s.me.home j.toNat).map (fun p => p.data)

/-- A strand at an own slot of its heavy core where tiles may be used (R22, R187, R204), with no operation of its own under way
there (R202), and the tile transfer unit idle (R200). -/
structure AtTiles (s : State) : Prop where
  still : s.Still
  heavy : s.me.pos.heavy = true
  home : s.me.home.yidx = s.me.pos.yidx
  matrix : s.nomatrix s.me.tid = false
  sound : (s.yard s.me.pos.yidx).heavy.failed = false
  clean : s.me.poisonTiles = []
  free : ∀ k ∈ (s.yard s.me.pos.yidx).heavy.matrixPackets ++ (s.yard s.me.pos.yidx).heavy.running, k.pos ≠ s.me.pos
  unit : ∀ k ∈ (s.yard s.me.pos.yidx).heavy.running, k.op.isTransfer = false

/-- Tile register `j` has one of the configurations that TCFG sets (R190, R192). -/
def Configured (s : State) (j : BitVec 3) (c : TileCfg) : Prop :=
  (s.me.tile j).cfg = some c ∧ ∃ w, TileCfg.ofWord w = some c

/-- Tile register `j` holds a physical tile with these bits (R193). -/
def Resident (s : State) (j : BitVec 3) (D : TileData) : Prop :=
  (s.me.tile j).phys.isSome = true ∧ tileBits s s j = some D

/-- Tile register `j` holds no physical tile (R193). -/
def Absent (s : State) (j : BitVec 3) : Prop := (s.me.tile j).phys = none ∧ tileBits s s j = none

/-- A physical tile of the strand's heavy core is free (R194). -/
def TileRoom (s : State) : Prop := (s.yard s.me.home.yidx).heavy.freeTile.isSome = true

/-- What an operation that reads tile register `j` finds in it (R193): the bits of its physical tile, zeros where it is EMPTY, and
those of its save slot where it is SPILLED and can be refilled. -/
def Finds (s : State) (j : BitVec 3) (D : TileData) : Prop :=
  Resident s j D ∨ (Absent s j ∧ (((s.me.tile j).st = .empty ∧ D = 0) ∨
    ((s.me.tile j).st = .spilled ∧ TileRoom s ∧ s.savedTile s.me j = some D)))

/-- Tile register `j` has a physical tile, or one is free for it (R193, R194). -/
def Placeable (s : State) (j : BitVec 3) : Prop := (∃ D, Resident s j D) ∨ (Absent s j ∧ TileRoom s)

/-- The save slot of tile register `j` is mapped to the 3,072 bytes from `k` on, whatever they hold (R195). -/
def SaveSlot (s : State) (T : Team) (j : BitVec 3) (k : Nat) : Prop :=
  ∀ m : Memory, (∀ a, a < k ∨ k + 3072 ≤ a → m.read a = s.mem.read a) → ∀ i, i < 3072 →
    ({ s with mem := m } : State).saveKey T (saveOffset s.me.index.toNat j.toNat + i) true = some (k + i)

/-! ### Tenure (R263, R264) -/

/-- A supervisor strand before the one open tile `T` of ASID 0, which `h` names, which nobody else asks for and no request
holds. -/
structure AtTenure (s : State) (h : Word) (T : TileObj) : Prop where
  idle : s.Idle
  sup : s.me.st.sup = true
  asid : s.me.modes.asid = 0
  act : s.me.act = none
  tenReqs : s.dev.tenReqs = []
  partials : s.dev.partials = []
  intents : s.dev.intents = []
  domains : ∀ e ∈ s.yards, e.2.domain = []
  tiles : s.dev.tiles = [T]
  tasid : T.asid = 0
  held : ∀ p ∈ T.pieces, p.held = []
  index : h.toNat % 2 ^ 20 = T.index
  inTable : 0 < T.index ∧ (s.spaceOf 0).log2n ≤ 20 ∧ T.index < 2 ^ (s.spaceOf 0).log2n
  entry : InDram ((s.spaceOf 0).entryVa T.index) 128
  tail : InDram ((s.spaceOf 0).entryVa (s.spaceOf 0).tail) 128
  gen : h.toNat / 2 ^ 20 % 4096 = s.entryGen ((s.spaceOf 0).entryVa T.index).toNat

/-- Entry `i` of the handle table of the strand's address space is read at `key`, as a supervisor access (R263). -/
def State.EntryAt (s : State) (i key : Nat) : Prop :=
  ({ s with me := { s.me with st := { s.me.st with sup := true } } } : State).Maps .load ((s.spaceOf s.me.modes.asid).entryVa i) 128 key

/-! ### Other strands -/

/-- Strand `x` is the one at position `p`, and no two strands share a position. -/
structure State.Seats (s : State) (p : Pos) (x : Strand) : Prop where
  here : s.at? p = some x
  alone : s.Apart

/-- The instruction or event completes; afterwards a strand is at `p` of which `q` holds. -/
def Becomes (i : Instr) (s : State) (p : Pos) (q : Strand → State → Prop) : Prop :=
  ∃ t u, exec i s = .next t ∧ t.at? p = some u ∧ t.mem = s.mem ∧ q u t

/-- The instruction or event completes in a state of which `q` holds. -/
def Reaches (i : Instr) (s : State) (q : State → Prop) : Prop := ∃ t, exec i s = .next t ∧ q t

/-- The machine steps from one state to the next. -/
def Steps (s t : State) : Prop := step s = .next t

/-! ### Traps (R93-R97) -/

/-- An instruction's outcome in user mode is a trap: the trap registers say why, where and after how many words, no register of the program
has changed, and the strand parks with a notification or, where K.TRAPMIG migrates the cause, goes on in its handler in supervisor
mode, at a free own slot of its heavy core if it was at a lean core (R94-R96). Memory, other strands, the cores, the other yards, teams
and tiles stay. -/
def TrapsTo (o : Host.Outcome State Fault Refusal) (s : State) (cause : BitVec 8) (faddr : Word) (n : Nat) : Prop :=
  let Y := s.yard s.me.pos.yidx
  let migrates := Y.regs.trapmig.getLsbD (if cause = 0x48#8 then 60 else cause.toNat)
  ∃ t, o = .next t ∧ t.mem = s.mem ∧ t.others = s.others ∧ t.cores = s.cores ∧ (∀ y, y ≠ s.me.pos.yidx → t.yard y = s.yard y) ∧
    t.dev.teams = s.dev.teams ∧ t.dev.tiles = s.dev.tiles ∧ t.me.tiles = s.me.tiles ∧ t.me.fmt = s.me.fmt ∧
    t.me.storeBuf = s.me.storeBuf ∧ t.me.home = s.me.home ∧ t.me.tid = s.me.tid ∧ t.me.modes = s.me.modes ∧
    t.me.trap = ⟨cause, s.me.arch.pcw.extractLsb' 0 54, faddr, BitVec.ofNat 2 n, 0, 0, 0⟩ ∧
    (migrates = false → t.me.run = .parkedTrap false ∧ t.me.arch = s.me.arch ∧ t.me.st = s.me.st ∧
      (t.yard s.me.pos.yidx).notes = Y.notes ++ [s.me.pos]) ∧
    (migrates = true → t.me.st = { s.me.st with sup := true, migt := true } ∧
      t.me.arch = { s.me.arch with pcw := pcwOf Y.regs.evbase } ∧
      t.me.run = if s.me.pos.heavy then .ready
        else match s.ownFor s.me.pos.yidx with
          | some p => .moving (s.cycle + 48) p
          | none => .trapWait)

/-- The instruction traps. -/
def Traps (i : Instr) (s : State) (cause : BitVec 8) (faddr : Word) (n : Nat) : Prop := TrapsTo (exec i s) s cause faddr n

/-- In supervisor mode a trap is a device fault (R97, R438): its record says where, every other strand ends, memory is what DRAM has,
without the bytes that stood in caches alone (R426), and the supervisor begins again after recovery. What is cleared is log entry 24
(DEDUCED), and the record's unit log entry 86 (DESIGN CHOICE). -/
def EscalatesTo (o : Host.Outcome State Fault Refusal) (s : State) : Prop :=
  ∃ t, o = .next t ∧ t.mem = s.dev.dram.foldl (fun m e => m.writeBytes (e.1 * 128) e.2) s.mem ∧ t.dev.boot.phase = 0 ∧ t.dev.boot.recovery = true ∧ t.dev.teams = [] ∧
    t.others = [] ∧ t.me = Strand.emptyAt (supPos 0) ∧ (∀ y, t.yard y = Yard.reset) ∧
    t.dev.faultRec = some (McRecord.of 7 0 6 s.me.pos s.me.tid s.cycle)

/-- The instruction traps in supervisor mode. -/
def Escalates (i : Instr) (s : State) : Prop := EscalatesTo (exec i s) s

/-- The instruction traps, in either mode. -/
def TrapsAs (i : Instr) (s : State) (cause : BitVec 8) (faddr : Word) (n : Nat) : Prop :=
  (s.me.st.sup = false → Traps i s cause faddr n) ∧ (s.me.st.sup = true → Escalates i s)

/-- Flags of a floating-point result under the trap enables (R43, R44, R46): NV under NVE and NP in mode 1 of K.NANMODE trap with cause
0x28, else DZ under DZE with 0x29, and otherwise the instruction does what it is said to do. -/
def FlagsGovern (i : Instr) (s : State) (n : Nat) (f : FpFlags) (completes : Prop) : Prop :=
  let invalid := (s.me.modes.nve = true ∧ f.nv = true) ∨ (s.me.modes.nanmode = true ∧ f.np = true)
  (invalid → TrapsAs i s 0x28 0 n) ∧ (¬invalid → s.me.modes.dze = true → f.dz = true → TrapsAs i s 0x29 0 n) ∧
    (s.Untrapped f → completes)

/-! ### What an instruction leaves alone -/

/-- The one register that an instruction of the scalar and vector families may write (s0, which discards writes, where it writes
none), and whether it may raise floating-point flags; the divisions and the jumps to a register, which may trap, are not among
them. -/
def localDest : Instr → Option (RegId × Bool)
  | .add d _ _ _ => some (.s d, false)
  | .sub d _ _ _ => some (.s d, false)
  | .and d _ _ _ => some (.s d, false)
  | .or d _ _ _ => some (.s d, false)
  | .xor d _ _ _ => some (.s d, false)
  | .andn d _ _ _ => some (.s d, false)
  | .shl d _ _ _ => some (.s d, false)
  | .shrN d _ _ _ => some (.s d, false)
  | .shrI d _ _ _ => some (.s d, false)
  | .rot d _ _ _ => some (.s d, false)
  | .minI d _ _ _ => some (.s d, false)
  | .minN d _ _ _ => some (.s d, false)
  | .maxI d _ _ _ => some (.s d, false)
  | .maxN d _ _ _ => some (.s d, false)
  | .clz d _ _ => some (.s d, false)
  | .ctz d _ _ => some (.s d, false)
  | .popc d _ _ => some (.s d, false)
  | .shadd1 d _ _ _ => some (.s d, false)
  | .shadd2 d _ _ _ => some (.s d, false)
  | .shadd3 d _ _ _ => some (.s d, false)
  | .shadd4 d _ _ _ => some (.s d, false)
  | .scmp d _ _ _ _ => some (.s d, false)
  | .mul d _ _ _ => some (.s d, false)
  | .mulhI d _ _ _ => some (.s d, false)
  | .mulhN d _ _ _ => some (.s d, false)
  | .addi d _ _ _ => some (.s d, false)
  | .addiImm32 d _ _ _ => some (.s d, false)
  | .andi d _ _ _ => some (.s d, false)
  | .andiImm32 d _ _ _ => some (.s d, false)
  | .ori d _ _ _ => some (.s d, false)
  | .oriImm32 d _ _ _ => some (.s d, false)
  | .xori d _ _ _ => some (.s d, false)
  | .xoriImm32 d _ _ _ => some (.s d, false)
  | .shli d _ _ _ => some (.s d, false)
  | .shriN d _ _ _ => some (.s d, false)
  | .shriI d _ _ _ => some (.s d, false)
  | .movi d _ _ => some (.s d, false)
  | .moviImm32 d _ _ => some (.s d, false)
  | .movhi d _ _ _ => some (.s d, false)
  | .movhiImm32 d _ _ _ => some (.s d, false)
  | .sel d _ _ _ _ => some (.s d, false)
  | .extb d _ _ _ _ => some (.s d, false)
  | .insb d _ _ _ _ => some (.s d, false)
  | .ffmaF32 d _ _ _ _ => some (.s d, true)
  | .ffmaF16 d _ _ _ _ => some (.s d, true)
  | .ffmaBf16 d _ _ _ _ => some (.s d, true)
  | .fadd d _ _ _ _ => some (.s d, true)
  | .fsub d _ _ _ _ => some (.s d, true)
  | .fmul d _ _ _ _ => some (.s d, true)
  | .fmin d _ _ _ _ => some (.s d, true)
  | .fmax d _ _ _ _ => some (.s d, true)
  | .fsgnJ d _ _ _ _ => some (.s d, false)
  | .fsgnJn d _ _ _ _ => some (.s d, false)
  | .fsgnJx d _ _ _ _ => some (.s d, false)
  | .fcmp d _ _ _ _ _ => some (.s d, true)
  | .fclass d _ _ _ => some (.s d, false)
  | .fcvtFromFloat d _ _ _ _ _ => some (.s d, true)
  | .fcvtToFloat d _ _ _ _ _ => some (.s d, true)
  | .vadd d _ _ _ _ _ => some (.v d, false)
  | .vsub d _ _ _ _ _ => some (.v d, false)
  | .vmul d _ _ _ _ _ => some (.v d, false)
  | .vminI d _ _ _ _ _ => some (.v d, false)
  | .vminN d _ _ _ _ _ => some (.v d, false)
  | .vmaxI d _ _ _ _ _ => some (.v d, false)
  | .vmaxN d _ _ _ _ _ => some (.v d, false)
  | .vand d _ _ _ _ _ => some (.v d, false)
  | .vor d _ _ _ _ _ => some (.v d, false)
  | .vxor d _ _ _ _ _ => some (.v d, false)
  | .vshl d _ _ _ _ _ => some (.v d, false)
  | .vshrN d _ _ _ _ _ => some (.v d, false)
  | .vshrI d _ _ _ _ _ => some (.v d, false)
  | .vabs d _ _ _ _ => some (.v d, false)
  | .vaddSatI d _ _ _ _ _ => some (.v d, false)
  | .vaddSatN d _ _ _ _ _ => some (.v d, false)
  | .vsubSatI d _ _ _ _ _ => some (.v d, false)
  | .vsubSatN d _ _ _ _ _ => some (.v d, false)
  | .vmulhI d _ _ _ _ _ => some (.v d, false)
  | .vmulhN d _ _ _ _ _ => some (.v d, false)
  | .vcmp d _ _ _ _ _ _ => some (.m d, false)
  | .vfcmp d _ _ _ _ _ _ => some (.m d, true)
  | .vfadd d _ _ _ _ _ => some (.v d, true)
  | .vfsub d _ _ _ _ _ => some (.v d, true)
  | .vfmul d _ _ _ _ _ => some (.v d, true)
  | .vfmin d _ _ _ _ _ => some (.v d, true)
  | .vfmax d _ _ _ _ _ => some (.v d, true)
  | .vrcpe d _ _ _ _ => some (.v d, true)
  | .vrsqe d _ _ _ _ => some (.v d, true)
  | .vfcvt d _ _ _ _ _ _ _ => some (.v d, true)
  | .vffmaF32 d _ _ _ _ _ _ => some (.v d, true)
  | .vffmaF16 d _ _ _ _ _ _ => some (.v d, true)
  | .vffmaBf16 d _ _ _ _ _ _ => some (.v d, true)
  | .vdot4I8 d _ _ _ _ => some (.v d, false)
  | .vdot4N8 d _ _ _ _ => some (.v d, false)
  | .vdot4I8Sat d _ _ _ _ => some (.v d, false)
  | .vdot4N8Sat d _ _ _ _ => some (.v d, false)
  | .vdot2I16 d _ _ _ _ => some (.v d, false)
  | .vdot2N16 d _ _ _ _ => some (.v d, false)
  | .vdot2I16Sat d _ _ _ _ => some (.v d, false)
  | .vdot2N16Sat d _ _ _ _ => some (.v d, false)
  | .vsplat d _ _ _ _ => some (.v d, false)
  | .vextr d _ _ _ _ => some (.s d, false)
  | .vins d _ _ _ _ => some (.v d, false)
  | .vperm d _ _ _ _ _ => some (.v d, false)
  | .vslide d _ _ _ _ _ => some (.v d, false)
  | .vcompr d _ _ _ _ => some (.v d, false)
  | .vexpnd d _ _ _ _ => some (.v d, false)
  | .vsel d _ _ _ _ _ => some (.v d, false)
  | .vredAdd d _ _ _ _ => some (.s d, true)
  | .vredMin d _ _ _ _ => some (.s d, true)
  | .vredMax d _ _ _ _ => some (.s d, true)
  | .vredAddSat d _ _ _ _ => some (.s d, false)
  | .vscanAdd d _ _ _ _ => some (.v d, true)
  | .vscanMin d _ _ _ _ => some (.v d, true)
  | .vscanMax d _ _ _ _ => some (.v d, true)
  | .vpkl6 d _ _ => some (.v d, false)
  | .vupl6 d _ _ => some (.v d, false)
  | .mand d _ _ _ => some (.m d, false)
  | .mor d _ _ _ => some (.m d, false)
  | .mxor d _ _ _ => some (.m d, false)
  | .mnot d _ _ => some (.m d, false)
  | .mpopc d _ _ => some (.s d, false)
  | .mfirst d _ _ => some (.s d, false)
  | .mset d _ _ => some (.m d, false)
  | .br _ _ => some (.s 0#5, false)
  | .brm _ _ _ _ => some (.s 0#5, false)
  | .bcmp _ _ _ _ _ => some (.s 0#5, false)
  | .bcmpImm32 _ _ _ _ _ => some (.s 0#5, false)
  | .nop => some (.s 0#5, false)
  | .yield _ => some (.s 0#5, false)
  | .call _ _ => some (.s 30#5, false)
  | .loop c _ _ => some (.s c, false)
  | _ => none

/-- The instruction writes no register but `r`, raises flags only where `fp` says so and clears none, and leaves everything else of
the strand's context, memory, other strands, caches and devices alone. -/
def Frames (i : Instr) (s : State) (r : RegId) (fp : Bool) : Prop :=
  ∀ t, exec i s = .next t →
    t.mem = s.mem ∧ t.dev = s.dev ∧ t.yards = s.yards ∧ t.cores = s.cores ∧ t.others = s.others ∧ t.touches = s.touches ∧
    t.me.st = s.me.st ∧ t.me.trap = s.me.trap ∧ t.me.modes = s.me.modes ∧ t.me.tiles = s.me.tiles ∧ t.me.fmt = s.me.fmt ∧
    t.me.storeBuf = s.me.storeBuf ∧ t.me.binds = s.me.binds ∧ t.me.act = s.me.act ∧ t.me.fenceRel = s.me.fenceRel ∧
    t.me.pos = s.me.pos ∧ t.me.home = s.me.home ∧ t.me.tid = s.me.tid ∧ t.me.index = s.me.index ∧
    t.me.nextSeq = s.me.nextSeq ∧ t.me.arch.held = s.me.arch.held ∧
    (∀ k, r ≠ .s k → t.me.arch.sreg k = s.me.arch.sreg k) ∧ (∀ k, r ≠ .v k → t.me.arch.vreg k = s.me.arch.vreg k) ∧
    (∀ k, r ≠ .m k → t.me.arch.mreg k = s.me.arch.mreg k) ∧
    (fp = false → t.me.arch.fpflags = s.me.arch.fpflags ∧ t.me.arch.ev = s.me.arch.ev) ∧
    s.me.arch.fpflags ||| t.me.arch.fpflags = t.me.arch.fpflags

/-- A store changes nothing but the strand's store buffer and program counter and, where its addresses are translated, the order and the
copies of entries in the TLBs that translated it; a byte outside the stored ones loads as before. -/
def StoreFrames (i : Instr) (s : State) (len : Nat) (at_ : Nat → Option Byte) : Prop :=
  ∀ t, exec i s = .next t →
    t.mem = s.mem ∧ t.dev = s.dev ∧ (s.Free → t.yards = s.yards ∧ t.cores = s.cores) ∧ t.others = s.others ∧
    (∀ y, { t.yard y with tlb := (s.yard y).tlb } = s.yard y) ∧ (∀ k, { t.core k with utlb := (s.core k).utlb } = s.core k) ∧
    t.me = { s.me with
      run := .ready, arch := { s.me.arch with pcw := s.me.arch.pcw + BitVec.ofNat 62 len }, storeBuf := t.me.storeBuf } ∧
    ∀ asid k va way, at_ k = none → t.loadBytes asid false ⟨k, va, 1, way⟩ = s.loadBytes asid false ⟨k, va, 1, way⟩

end Sys2Proof.Machine
end

