-- ==== Sys2Proof/Certificates/Slice0/Obligations.lean ====
section
/-! DEFINITION. The statements for the provers: what each instruction and each device event does, where it traps, what it
leaves alone, and what every step keeps. -/
namespace Sys2Proof

open Machine

end Sys2Proof

open Sys2Proof Sys2Proof.Machine

/-- The integer instructions of major 0x08 complete for every operand, and give sd these values (R120); the amounts of
SHL, SHR.N and SHR.I are the whole of sb. A write to s0 is discarded by the one register write that `retired` applies. CLZ, CTZ
and POPC count the zero bits above the highest one bit, those below the lowest one bit (64 where there is none), and the one bits. -/
def Obligations.IntegerAluResults : Prop :=
  (∀ (s : State) (d a b : BitVec 5) (c : BitVec 3) (sp : SafePoint), s.Idle →
    let x := s.me.arch.sreg a
    let y := s.me.arch.sreg b
    let ret := fun (i : Instr) (v : Word) => Completes i s (words false sp) [.reg (.s d v)]
    ret (.add d a b sp) (x + y) ∧ ret (.sub d a b sp) (x - y) ∧ ret (.and d a b sp) (x &&& y) ∧
    ret (.or d a b sp) (x ||| y) ∧ ret (.xor d a b sp) (x ^^^ y) ∧ ret (.andn d a b sp) (x &&& ~~~y) ∧
    ret (.shl d a b sp) (if y.toNat < 64 then x <<< y.toNat else 0) ∧
    ret (.shrN d a b sp) (if y.toNat < 64 then x >>> y.toNat else 0) ∧
    ret (.shrI d a b sp) (x.sshiftRight (min y.toNat 63)) ∧
    ret (.rot d a b sp) (x.rotateLeft (y.toNat % 64)) ∧
    ret (.minI d a b sp) (if x.toInt < y.toInt then x else y) ∧ ret (.minN d a b sp) (if x.toNat < y.toNat then x else y) ∧
    ret (.maxI d a b sp) (if y.toInt < x.toInt then x else y) ∧ ret (.maxN d a b sp) (if y.toNat < x.toNat then x else y) ∧
    ret (.clz d a sp) (clz64 x) ∧ ret (.ctz d a sp) (ctz64 x) ∧ ret (.popc d a sp) (popc64 x) ∧
    ret (.shadd1 d a b sp) (x * 2 + y) ∧ ret (.shadd2 d a b sp) (x * 4 + y) ∧
    ret (.shadd3 d a b sp) (x * 8 + y) ∧ ret (.shadd4 d a b sp) (x * 16 + y) ∧
    ret (.scmp d a b c sp) (if condHolds c.toNat x y then 1 else 0)) ∧
  ∀ x : Word,
    ((clz64 x).toNat ≤ 64 ∧ (∀ i, i < (clz64 x).toNat → x.getMsbD i = false) ∧
      ((clz64 x).toNat < 64 → x.getMsbD (clz64 x).toNat = true)) ∧
    ((ctz64 x).toNat ≤ 64 ∧ (∀ i, i < (ctz64 x).toNat → x.getLsbD i = false) ∧
      ((ctz64 x).toNat < 64 → x.getLsbD (ctz64 x).toNat = true)) ∧
    (popc64 x).toNat = (List.range 64).countP (fun i => x.getLsbD i)

/-- The multiplications and the divisions (R121): the quotient is truncated toward zero and the remainder has the sign of sa. A
divisor of zero traps with cause 0x2A in user mode, whatever d and K.FPEN are, and is a device fault in supervisor mode (R97, R438).
What a device fault clears beside the strands is the model's reading (log entry 24, DEDUCED). -/
def Obligations.MultiplyDivideResults : Prop :=
  ∀ (s : State) (d a b : BitVec 5) (sp : SafePoint), s.Idle →
    let x := s.me.arch.sreg a
    let y := s.me.arch.sreg b
    let ret := fun (i : Instr) (v : Word) => Completes i s (words false sp) [.reg (.s d v)]
    ret (.mul d a b sp) (BitVec.ofNat 64 (x.toNat * y.toNat)) ∧
    ret (.mulhI d a b sp) (BitVec.ofInt 64 ((x.toInt * y.toInt) / 2 ^ 64)) ∧
    ret (.mulhN d a b sp) (BitVec.ofNat 64 (x.toNat * y.toNat / 2 ^ 64)) ∧
    (y ≠ 0 →
      ret (.divI d a b sp) (BitVec.ofInt 64 (x.toInt.tdiv y.toInt)) ∧ ret (.divN d a b sp) (BitVec.ofNat 64 (x.toNat / y.toNat)) ∧
      ret (.remI d a b sp) (BitVec.ofInt 64 (x.toInt.tmod y.toInt)) ∧ ret (.remN d a b sp) (BitVec.ofNat 64 (x.toNat % y.toNat))) ∧
    (y = 0 → ∀ i ∈ [Instr.divI d a b sp, .divN d a b sp, .remI d a b sp, .remN d a b sp],
      (s.me.st.sup = false → Traps i s 0x2A 0 (words false sp)) ∧ (s.me.st.sup = true → Escalates i s))

/-- The immediate forms of majors 0x0A and 0x0B (R122, R123), with the field of the base word and with IMM32, both signed; and
SEL, EXTB and INSB (R124-R126). -/
def Obligations.ImmediateAndFieldResults : Prop :=
  ∀ (s : State) (d a b c : BitVec 5) (i : BitVec 11) (j : BitVec 32) (n : BitVec 6) (sp : SafePoint), s.Idle →
    let x := s.me.arch.sreg a
    let y := s.me.arch.sreg b
    let z := s.me.arch.sreg c
    let ret := fun (i : Instr) (v : Word) => Completes i s (words false sp) [.reg (.s d v)]
    let retX := fun (i : Instr) (v : Word) => Completes i s (words true sp) [.reg (.s d v)]
    ret (.addi d a i sp) (x + i.signExtend 64) ∧ retX (.addiImm32 d a j sp) (x + j.signExtend 64) ∧
    ret (.andi d a i sp) (x &&& i.signExtend 64) ∧ retX (.andiImm32 d a j sp) (x &&& j.signExtend 64) ∧
    ret (.ori d a i sp) (x ||| i.signExtend 64) ∧ retX (.oriImm32 d a j sp) (x ||| j.signExtend 64) ∧
    ret (.xori d a i sp) (x ^^^ i.signExtend 64) ∧ retX (.xoriImm32 d a j sp) (x ^^^ j.signExtend 64) ∧
    ret (.shli d a n sp) (x <<< n.toNat) ∧ ret (.shriN d a n sp) (x >>> n.toNat) ∧ ret (.shriI d a n sp) (x.sshiftRight n.toNat) ∧
    ret (.movi d i sp) (i.signExtend 64) ∧ retX (.moviImm32 d j sp) (j.signExtend 64) ∧
    ret (.movhi d a i sp) ((i.signExtend 32 : BitVec 32) ++ x.extractLsb' 0 32) ∧
    retX (.movhiImm32 d a j sp) (j ++ x.extractLsb' 0 32) ∧
    ret (.sel d a b c sp) (if z ≠ 0 then x else y) ∧
    (∀ k, k < 64 → ∃ v, Completes (.extb d a b c sp) s (words false sp) [.reg (.s d v)] ∧
      let w := min (z.extractLsb' 8 7).toNat 64
      v.getLsbD k = if k < w then (y ++ x).getLsbD ((z.extractLsb' 0 7).toNat + k)
        else z.getLsbD 16 && decide (0 < w) && (y ++ x).getLsbD ((z.extractLsb' 0 7).toNat + w - 1)) ∧
    (∀ k, k < 64 → ∃ v, Completes (.insb d a b c sp) s (words false sp) [.reg (.s d v)] ∧
      let p := (z.extractLsb' 0 7).toNat
      v.getLsbD k = if p ≤ k ∧ k < p + min (z.extractLsb' 8 7).toNat 64 then y.getLsbD (k - p) else x.getLsbD k)

/-- Rounding and what is rounded (R25, R26, R28, R29, R129). Finite magnitudes are counted in units of the format's lowest subnormal bit. A
nonzero exact value rounds to infinity or the largest finite magnitude, with OF and NX, where the rounded value with unbounded exponent
exceeds the largest finite one; else to the nearest magnitude, to the even pattern of two, or in the directed modes to the nearest one
that is not nearer to or farther from zero; NX says that it differs, UF that besides the value, so rounded with unbounded exponent, is
below the smallest normal. Finite sums, products and fused products are the exact value, rounded once. -/
def Obligations.RoundingResults : Prop :=
  (∀ (f : FFmt) (mode : RMode) (neg : Bool) (n : Nat) (e : Int), 0 < n →
    let half := 2 ^ (f.prec - 1)
    let sign := if neg then 2 ^ (f.width - 1) else 0
    let mag := fun k => if k / half = 0 then k else (half + k % half) * 2 ^ (k / half - 1)
    let x := n * 2 ^ (e - f.qmin).toNat
    let unit := 2 ^ (f.qmin - e).toNat
    let top := mag (f.infBits - 1)
    let ulp := top - mag (f.infBits - 2)
    let away := (mode = .rup ∧ neg = false) ∨ (mode = .rdn ∧ neg = true)
    let beyond := if mode = .rne then (2 * top + ulp) * unit ≤ 2 * x else if away then top * unit < x else (top + ulp) * unit ≤ x
    let tiny := if mode = .rne then 4 * x < (4 * half - 1) * unit else if away then 2 * x ≤ (2 * half - 1) * unit else x < half * unit
    ∃ k fl, f.round mode neg n e = (sign + k, fl) ∧ fl.nv = false ∧ fl.dz = false ∧ fl.np = false ∧
      (beyond → k = (if mode = .rne ∨ away then f.infBits else f.infBits - 1) ∧ fl.ofl = true ∧ fl.nx = true ∧ fl.uf = false) ∧
      (¬beyond → k < f.infBits ∧ fl.ofl = false ∧ (fl.nx = true ↔ mag k * unit ≠ x) ∧ (fl.uf = true ↔ fl.nx = true ∧ tiny) ∧
        ∀ i, i < f.infBits →
          (mode = .rne → ((mag k * unit : Int) - x).natAbs ≤ ((mag i * unit : Int) - x).natAbs ∧
            (i ≠ k → ((mag k * unit : Int) - x).natAbs = ((mag i * unit : Int) - x).natAbs → k % 2 = 0)) ∧
          (mode ≠ .rne → away → x ≤ mag k * unit ∧ (x ≤ mag i * unit → mag k ≤ mag i)) ∧
          (mode ≠ .rne → ¬away → mag k * unit ≤ x ∧ (mag i * unit ≤ x → mag i ≤ mag k)))) ∧
  (∀ (f : FFmt) (neg : Bool) (k : Nat), k < f.infBits →
    let half := 2 ^ (f.prec - 1)
    ∃ n q, f.value ((if neg then 2 ^ (f.width - 1) else 0) + k) = .num neg n q ∧ f.qmin ≤ q ∧
      n * 2 ^ (q - f.qmin).toNat = if k / half = 0 then k else (half + k % half) * 2 ^ (k / half - 1)) ∧
  ∀ (f : FFmt) (mode : RMode) (p q r : Bool) (k l n : Nat) (e g h : Int),
    let signed := fun (neg : Bool) (k : Nat) => if neg then -(k : Int) else k
    let exact := fun (v : Int) (e : Int) => f.round mode (decide (v < 0)) v.natAbs e
    (let v := signed p k * 2 ^ (e - min e g).toNat + signed q l * 2 ^ (g - min e g).toNat
     v ≠ 0 → f.dest.add mode (.num p k e) (.num q l g) = exact v (min e g)) ∧
    (0 < k * l → f.dest.mul mode (.num p k e) (.num q l g) = f.round mode (p != q) (k * l) (e + g)) ∧
    (let v := signed (p != q) (k * l) * 2 ^ (e + g - min (e + g) h).toNat + signed r n * 2 ^ (h - min (e + g) h).toNat
     v ≠ 0 → f.dest.fma mode (.num p k e) (.num q l g) (.num r n h) = exact v (min (e + g) h))

/-- The scalar floating-point instructions complete wherever none of the result's own flags traps, give sd the rounded result in the
destination's low bits, zeros above (R117, R127-R132, R134, R135), and raise its flags; where one traps, they trap with cause 0x28 or
0x29 (R43, R44, R46). -/
def Obligations.ScalarFloatResults : Prop :=
  ∀ (s : State) (d a b c : BitVec 5) (t : BitVec 2) (k r p : BitVec 3) (q : BitVec 2) (sp : SafePoint), s.Idle →
    let x := (s.me.arch.sreg a).toNat
    let y := (s.me.arch.sreg b).toNat
    let z := (s.me.arch.sreg c).toNat
    let mode := RMode.ofCode s.me.modes.rmode.toNat
    let f := codeFmt t.toNat
    let ret := fun (i : Instr) (v : FRes) =>
      FlagsGovern i s (words false sp) v.2 (Completes i s (words false sp) (s.floatEffs d v))
    let bits := fun (i : Instr) (v : Nat) => Completes i s (words false sp) [.reg (.s d (BitVec.ofNat 64 v))]
    let fma := fun (f : FFmt) => f.dest.fma mode (f.value x) (f.value y) (f.value z)
    let conv := fun (i : Instr) (src dst : Nat) =>
      let m := if r = 4#3 then mode else RMode.ofCode r.toNat
      let v := convertCode dst m (codeValue src (s.me.arch.sreg a))
      FlagsGovern i s (words false sp) v.2 (Completes i s (words false sp) [.reg (s.flagEff v.2), .reg (.s d v.1)])
    ret (.ffmaF32 d a b c sp) (fma .f32) ∧ ret (.ffmaF16 d a b c sp) (fma .f16) ∧ ret (.ffmaBf16 d a b c sp) (fma .bf16) ∧
    ret (.fadd d a b t sp) (f.dest.add mode (f.value x) (f.value y)) ∧
    ret (.fsub d a b t sp) (f.dest.add mode (f.value x) (f.value y).negate) ∧
    ret (.fmul d a b t sp) (f.dest.mul mode (f.value x) (f.value y)) ∧
    ret (.fmin d a b t sp)
      (f.dest.minMax false (x % 2 ^ f.width) (y % 2 ^ f.width) (f.value (x % 2 ^ f.width)) (f.value (y % 2 ^ f.width))) ∧
    ret (.fmax d a b t sp)
      (f.dest.minMax true (x % 2 ^ f.width) (y % 2 ^ f.width) (f.value (x % 2 ^ f.width)) (f.value (y % 2 ^ f.width))) ∧
    bits (.fsgnJ d a b t sp) (f.fsgn 0 x y) ∧ bits (.fsgnJn d a b t sp) (f.fsgn 1 x y) ∧ bits (.fsgnJx d a b t sp) (f.fsgn 2 x y) ∧
    ret (.fcmp d a b t k sp) (if (fcmp k.toNat (f.value x) (f.value y)).1 then 1 else 0, (fcmp k.toNat (f.value x) (f.value y)).2) ∧
    bits (.fclass d a t sp) (f.classify x) ∧
    conv (.fcvtFromFloat d a r q p sp) q.toNat p.toNat ∧ conv (.fcvtToFloat d a r q p sp) p.toNat q.toNat

/-- The integer lane instructions of majors 0x18 to 0x1A (R138, R144): active lanes of vd take the operation on the lanes of va
and vb, and inactive lanes keep what they held. -/
def Obligations.IntegerLaneResults : Prop :=
  ∀ (s : State) (d a b : BitVec 5) (m ty : BitVec 3) (sp : SafePoint), s.Idle →
    let w := tyWidth ty
    let x := lane w (s.me.arch.vreg a)
    let y := lane w (s.me.arch.vreg b)
    let ret := fun (i : Instr) (f : Nat → Nat) =>
      Completes i s (words false sp) [.reg (.v d (mergeLanes w (s.me.arch.mreg m) (s.me.arch.vreg d) f))]
    ret (.vadd d a b m ty sp) (fun i => x i + y i) ∧ ret (.vsub d a b m ty sp) (fun i => x i + 2 ^ w - y i) ∧
    ret (.vmul d a b m ty sp) (fun i => x i * y i) ∧
    ret (.vminI d a b m ty sp) (fun i => if sLane w (x i) < sLane w (y i) then x i else y i) ∧
    ret (.vminN d a b m ty sp) (fun i => if x i < y i then x i else y i) ∧
    ret (.vmaxI d a b m ty sp) (fun i => if sLane w (y i) < sLane w (x i) then x i else y i) ∧
    ret (.vmaxN d a b m ty sp) (fun i => if y i < x i then x i else y i) ∧
    ret (.vand d a b m ty sp) (fun i => laneBits ty (x i &&& y i)) ∧
    ret (.vor d a b m ty sp) (fun i => laneBits ty (x i ||| y i)) ∧
    ret (.vxor d a b m ty sp) (fun i => laneBits ty (x i ^^^ y i)) ∧
    ret (.vshl d a b m ty sp) (fun i => if y i < w then x i * 2 ^ y i else 0) ∧
    ret (.vshrN d a b m ty sp) (fun i => if y i < w then x i / 2 ^ y i else 0) ∧
    ret (.vshrI d a b m ty sp) (fun i => wrapInt w (sLane w (x i) / (2 ^ min (y i) (w - 1) : Nat))) ∧
    ret (.vabs d a m ty sp) (fun i => if ty.toNat ≤ 3 then wrapInt w (sLane w (x i)).natAbs else x i % 2 ^ (w - 1)) ∧
    ret (.vaddSatI d a b m ty sp) (fun i => wrapInt w (clampInt true w (sLane w (x i) + sLane w (y i)))) ∧
    ret (.vaddSatN d a b m ty sp) (fun i => wrapInt w (clampInt false w ((x i : Int) + y i))) ∧
    ret (.vsubSatI d a b m ty sp) (fun i => wrapInt w (clampInt true w (sLane w (x i) - sLane w (y i)))) ∧
    ret (.vsubSatN d a b m ty sp) (fun i => wrapInt w (clampInt false w ((x i : Int) - y i))) ∧
    ret (.vmulhI d a b m ty sp) (fun i => wrapInt w (sLane w (x i) * sLane w (y i) / (2 ^ w : Nat))) ∧
    ret (.vmulhN d a b m ty sp) (fun i => wrapInt w ((x i : Int) * y i / (2 ^ w : Nat)))

/-- The dot products (R152): lane i of vd gains the products of the parts of lane i, saturated at the end where the name says so. -/
def Obligations.DotProductResults : Prop :=
  ∀ (s : State) (d a b : BitVec 5) (m : BitVec 3) (sp : SafePoint), s.Idle →
    let old := s.me.arch.vreg d
    let dot := fun (signed : Bool) (n i : Nat) =>
      readLane signed 32 (lane 32 old i) + ((List.range n).map (fun j =>
        readLane signed (32 / n) (lane (32 / n) (s.me.arch.vreg a) (n * i + j))
          * readLane signed (32 / n) (lane (32 / n) (s.me.arch.vreg b) (n * i + j)))).sum
    let ret := fun (i : Instr) (signed sat : Bool) (n : Nat) =>
      Completes i s (words false sp) [.reg (.v d (mergeLanes 32 (s.me.arch.mreg m) old (fun i =>
        wrapInt 32 (if sat then clampInt signed 32 (dot signed n i) else dot signed n i))))]
    ret (.vdot4I8 d a b m sp) true false 4 ∧ ret (.vdot4N8 d a b m sp) false false 4 ∧
    ret (.vdot4I8Sat d a b m sp) true true 4 ∧ ret (.vdot4N8Sat d a b m sp) false true 4 ∧
    ret (.vdot2I16 d a b m sp) true false 2 ∧ ret (.vdot2N16 d a b m sp) false false 2 ∧
    ret (.vdot2I16Sat d a b m sp) true true 2 ∧ ret (.vdot2N16Sat d a b m sp) false true 2

/-- The floating-point lane instructions complete wherever none of the active lanes' own flags traps (R138, R141, R146-R149, R151):
active lanes take the rounded results, and the flags are those of the active lanes; where one traps, they trap with cause 0x28 or 0x29
(R44, R46). The compares of lanes (R139, R145, R150) give md the test's bit at each active lane and zero elsewhere. How a result is rounded to L6 and in the lanes of TY 7
is the model's choice (log entry 20, DEDUCED), and so are the flags OF and UF of VRCPE and VRSQE (log entry 70, DESIGN CHOICE). -/
def Obligations.FloatLaneResults : Prop :=
  ∀ (s : State) (d a b c : BitVec 5) (e m ty q r cc : BitVec 3) (u n : BitVec 1) (sp : SafePoint), s.Idle →
    let w := tyWidth ty
    let x := lane w (s.me.arch.vreg a)
    let y := lane w (s.me.arch.vreg b)
    let mode := RMode.ofCode s.me.modes.rmode.toNat
    let k := s.me.arch.mreg m
    let old := s.me.arch.vreg d
    let ret := fun (i : Instr) (v : Vec × FpFlags) =>
      FlagsGovern i s (words false sp) v.2 (Completes i s (words false sp) (s.floatVEffs d v))
    let cmp := fun i => fcmp cc.toNat ((tyFmt ty).value (x i)) ((tyFmt ty).value (y i))
    let flags := ((List.range (512 / w)).filter (fun i => k.getLsbD i)).foldl (fun f i => f.or (cmp i).2) FpFlags.none
    let lanes := fun (i : Instr) (f : Nat → FRes) => ret i (mergeLanesF w k old f)
    let fma := fun (i : Instr) (f : FFmt) => ret i (mergeLanesF f.width k old (fun j =>
      let p := f.value (lane f.width (s.me.arch.vreg a) j)
      f.dest.fma mode (if n = 1#1 then p.negate else p) (f.value (lane f.width (s.me.arch.vreg b) j))
        (f.value (lane f.width (s.me.arch.vreg c) j))))
    lanes (.vfadd d a b m ty sp) (fun i => (laneDest ty).add mode (laneValue ty (x i)) (laneValue ty (y i))) ∧
    lanes (.vfsub d a b m ty sp) (fun i => (laneDest ty).add mode (laneValue ty (x i)) (laneValue ty (y i)).negate) ∧
    lanes (.vfmul d a b m ty sp) (fun i => (laneDest ty).mul mode (laneValue ty (x i)) (laneValue ty (y i))) ∧
    lanes (.vfmin d a b m ty sp) (fun i => laneFMinMax ty false (x i) (y i)) ∧
    lanes (.vfmax d a b m ty sp) (fun i => laneFMinMax ty true (x i) (y i)) ∧
    lanes (.vrcpe d a m ty sp) (fun i => (tyFmt ty).estimate false mode (laneValue ty (x i))) ∧
    lanes (.vrsqe d a m ty sp) (fun i => (tyFmt ty).estimate true mode (laneValue ty (x i))) ∧
    ret (.vfcvt d a u q m ty r sp)
      (convertLanes q ty (u == 1#1) (if r = 4#3 then mode else RMode.ofCode r.toNat) k (s.me.arch.vreg a) old) ∧
    fma (.vffmaF32 d a b c m n sp) .f32 ∧ fma (.vffmaF16 d a b c m n sp) .f16 ∧ fma (.vffmaBf16 d a b c m n sp) .bf16 ∧
    Completes (.vcmp e a b m ty cc sp) s (words false sp) [.reg (.m e (maskOf w k (fun i => laneCond cc.toNat w (x i) (y i))))] ∧
    FlagsGovern (.vfcmp e a b m ty cc sp) s (words false sp) flags
      (Completes (.vfcmp e a b m ty cc sp) s (words false sp) [.reg (s.flagEff flags), .reg (.m e (maskOf w k (fun i => (cmp i).1)))])

/-- Lane movement (R153, R154), VRED.ADD.SAT, which adds the active lanes exactly and clamps once (R155), L6 packing (R157), and the mask
instructions (R158, R159). -/
def Obligations.LaneMovementResults : Prop :=
  ∀ (s : State) (d a b : BitVec 5) (m ty : BitVec 3) (e f g : BitVec 3) (sp : SafePoint), s.Idle →
    let w := tyWidth ty
    let n := 512 / w
    let va := s.me.arch.vreg a
    let vb := s.me.arch.vreg b
    let x := lane w va
    let k := s.me.arch.mreg m
    let old := s.me.arch.vreg d
    let sa := s.me.arch.sreg a
    let sb := s.me.arch.sreg b
    let vec := fun (i : Instr) (v : Vec) => Completes i s (words false sp) [.reg (.v d v)]
    let sca := fun (i : Instr) (v : Word) => Completes i s (words false sp) [.reg (.s d v)]
    let msk := fun (i : Instr) (v : Word) => Completes i s (words false sp) [.reg (.m e v)]
    vec (.vsplat d a m ty sp) (mergeLanes w k old (fun _ => laneBits ty sa.toNat)) ∧
    sca (.vextr d a b ty sp) (BitVec.ofNat 64 (laneBits ty (x (sb.toNat % n)))) ∧
    vec (.vins d a b ty sp) (ofLanes w (fun j => if j = sb.toNat % n then laneBits ty sa.toNat else lane w old j)) ∧
    vec (.vperm d a b m ty sp) (mergeLanes w k old (fun i => laneBits ty (x (lane w vb i % n)))) ∧
    vec (.vslide d a b m ty sp) (mergeLanes w k old (fun i =>
      let j := (i : Int) + sb.toInt
      if 0 ≤ j ∧ j < (n : Int) then laneBits ty (x j.toNat) else 0)) ∧
    vec (.vcompr d a m ty sp)
      (ofLanes w (fun i => (((List.range n).filter (fun j => k.getLsbD j)).map (fun j => laneBits ty (x j))).getD i 0)) ∧
    vec (.vexpnd d a m ty sp) (ofLanes w (fun i => if k.getLsbD i then laneBits ty (x (popCount i k.toNat)) else 0)) ∧
    vec (.vsel d a b m ty sp) (ofLanes w (fun i => laneBits ty (if k.getLsbD i then x i else lane w vb i))) ∧
    sca (.vredAddSat d a m ty sp)
      (BitVec.ofInt 64 (clampInt true w (((List.range n).filter (fun j => k.getLsbD j)).map (fun j => sLane w (x j))).sum)) ∧
    vec (.vpkl6 d a sp) (packL6 va) ∧ vec (.vupl6 d a sp) (unpackL6 va) ∧
    msk (.mand e f g sp) (s.me.arch.mreg f &&& s.me.arch.mreg g) ∧ msk (.mor e f g sp) (s.me.arch.mreg f ||| s.me.arch.mreg g) ∧
    msk (.mxor e f g sp) (s.me.arch.mreg f ^^^ s.me.arch.mreg g) ∧ msk (.mnot e f sp) (~~~s.me.arch.mreg f) ∧
    sca (.mpopc d f sp) (popc64 (s.me.arch.mreg f)) ∧ sca (.mfirst d f sp) (ctz64 (s.me.arch.mreg f)) ∧
    msk (.mset e a sp) sa

/-- VRED and VSCAN complete wherever none of their flags traps, and trap where one does (R42, R44, R46, R155, R156). With 2^h lanes, level 0 of the tree has a lane's value,
or the operation's identity at an inactive lane; place i of each level above combines places 2i and 2i+1 of the level below; and VRED
gives sd the one place of level h: an integer sign-extended, a float with zeros above. VSCAN starts with the identity and combines what
it has with each active lane in ascending order, which receives the outcome; an inactive lane keeps vd. A combine wraps integers modulo
2^w, compares them as signed, rounds a float sum once in the mode of K.RMODE, and adds its own flags to those of what it combines: that
a place of two NaNs raises NP though a later one delivers a number is the model's choice (log entry 71, DESIGN CHOICE). -/
def Obligations.ReductionResults : Prop :=
  ∀ (s : State) (d a : BitVec 5) (m ty : BitVec 3) (sp : SafePoint), s.Idle →
    let mode := RMode.ofCode s.me.modes.rmode.toNat
    let k := s.me.arch.mreg m
    let x := lane (tyWidth ty) (s.me.arch.vreg a)
    let old := lane (tyWidth ty) (s.me.arch.vreg d)
    let w := tyWidth ty
    let f := tyFmt ty
    let integer := ty.toNat ≤ 3
    let identity := fun (op : Nat) => match op with
      | 0 => if integer then 0 else f.zero true
      | 1 => if integer then 2 ^ (w - 1) - 1 else f.inf false
      | _ => if integer then 2 ^ (w - 1) else f.inf true
    let less := fun (p q : Nat) => sLane w p < sLane w q
    let combine := fun (op : Nat) (p q : FRes) =>
      let r : FRes := match op with
        | 0 => if integer then ((p.1 + q.1) % 2 ^ w, FpFlags.none) else f.dest.add mode (f.value p.1) (f.value q.1)
        | 1 => if integer then (if less p.1 q.1 then p.1 else q.1, FpFlags.none)
          else f.dest.minMax false p.1 q.1 (f.value p.1) (f.value q.1)
        | _ => if integer then (if less q.1 p.1 then p.1 else q.1, FpFlags.none)
          else f.dest.minMax true p.1 q.1 (f.value p.1) (f.value q.1)
      ((r.1, (p.2.or q.2).or r.2) : FRes)
    let red := fun (i : Instr) (op : Nat) => ∀ (h : Nat) (tree : Nat → Nat → FRes), 2 ^ h * w = 512 →
      (∀ j, j < 2 ^ h → tree 0 j = (if k.getLsbD j then x j else identity op, FpFlags.none)) →
      (∀ l j, tree (l + 1) j = combine op (tree l (2 * j)) (tree l (2 * j + 1))) →
      let r := tree h 0
      FlagsGovern i s (words false sp) r.2 (Completes i s (words false sp)
        [.reg (s.flagEff r.2), .reg (.s d (if integer then BitVec.ofInt 64 (sLane w r.1) else BitVec.ofNat 64 r.1))])
    let scan := fun (i : Instr) (op : Nat) => ∀ run : Nat → FRes, run 0 = (identity op, FpFlags.none) →
      (∀ j, run (j + 1) = if k.getLsbD j then combine op (run j) (x j, FpFlags.none) else run j) →
      FlagsGovern i s (words false sp) (run (512 / w)).2 (∃ v,
        Completes i s (words false sp) (s.floatVEffs d (v, (run (512 / w)).2)) ∧
        ∀ j, j < 512 / w → lane w v j = if k.getLsbD j then (run (j + 1)).1 % 2 ^ w else old j)
    red (.vredAdd d a m ty sp) 0 ∧ red (.vredMin d a m ty sp) 1 ∧ red (.vredMax d a m ty sp) 2 ∧
    scan (.vscanAdd d a m ty sp) 0 ∧ scan (.vscanMin d a m ty sp) 1 ∧ scan (.vscanMax d a m ty sp) 2

/-- A register holds what was last written to it, s0 reads zero and m0 all ones whatever is written to them (R116, R139); a vector
register built lane by lane holds in each lane what was given, modulo the lane's width (R137), so a merge under a mask gives active
lanes the new value and keeps the others (R138), and a mask result has a bit exactly at the active lanes whose test holds (R139). -/
def Obligations.RegistersHoldWhatTheyAreGiven : Prop :=
  (∀ (a : Arch) (r k : BitVec 5) (q j : BitVec 3) (x : Word) (y : Vec),
    (a.apply (.s r x)).sreg k = (if k = 0#5 then 0 else if k = r then x else a.sreg k) ∧
    (a.apply (.v r y)).vreg k = (if k = r then y else a.vreg k) ∧
    (a.apply (.m q x)).mreg j = (if j = 0#3 then BitVec.allOnes 64 else if j = q then x else a.mreg j)) ∧
  ∀ (ty : BitVec 3) (f : Nat → Nat) (p : Nat → Bool) (m : Word) (old : Vec) (i : Nat),
    let w := tyWidth ty
    (i < 512 / w → lane w (ofLanes w f) i = f i % 2 ^ w) ∧
    (i < 512 / w → lane w (mergeLanes w m old f) i = if m.getLsbD i then f i % 2 ^ w else lane w old i) ∧
    (i < 64 → (maskOf w m p).getLsbD i = (decide (i < 512 / w) && m.getLsbD i && p i))

/-- Branches and jumps complete (R47, R101-R104, R106, R107): offsets count words from the base word of the branch, CALL and
CALLR write the address of the next instruction to s30, LOOP counts down, and a jump's address must be a word's. YIELD goes on
where no other strand of its core is Ready, and otherwise waits until each of those has issued once (R107); ISYNC empties the
strand's fetch buffer and its core's instruction cache (R64, R111). Neither writes a register or memory. -/
def Obligations.ControlFlowResults : Prop :=
  ∀ (s : State) (a b d : BitVec 5) (m c : BitVec 3) (k : BitVec 2) (o : BitVec 24) (l : BitVec 19) (h : BitVec 11) (j : BitVec 32)
    (sp : SafePoint), s.Idle →
    let n := words false sp
    let pc := s.me.arch.pcw
    let x := s.me.arch.sreg a
    let y := s.me.arch.sreg b
    let linked : Eff := .reg (.s 30 (pcOf (pc + BitVec.ofNat 62 n)))
    let ret := fun (i : Instr) (e : List Eff) => Completes i s n e
    ret (.br o sp) [.pc (pc + o.signExtend 62)] ∧
    ret (.call o sp) [linked, .pc (pc + o.signExtend 62)] ∧
    ret (.brm m k l sp) (if maskHolds k (s.me.arch.mreg m) then [.pc (pc + l.signExtend 62)] else []) ∧
    ret (.bcmp a b c h sp) (if condHolds c.toNat x y then [.pc (pc + h.signExtend 62)] else []) ∧
    Completes (.bcmpImm32 a b c j sp) s (words true sp) (if condHolds c.toNat x y then [.pc (pc + j.signExtend 62)] else []) ∧
    ret (.loop d l sp) (.reg (.s d (s.me.arch.sreg d - 1)) ::
      (if s.me.arch.sreg d - 1 ≠ 0 then [.pc (pc + l.signExtend 62)] else [])) ∧
    (x.extractLsb' 0 2 = 0#2 → ret (.callr a sp) [linked, .pc (pcwOf x)] ∧ ret (.jmp a sp) [.pc (pcwOf x)]) ∧
    Completes .nop s 1 [] ∧
    (∃ t, exec (.yield sp) s = .next t ∧ t.mem = s.mem ∧ t.me.arch.s = s.me.arch.s ∧ t.me.arch.v = s.me.arch.v ∧
      t.me.arch.m = s.me.arch.m ∧ t.me.arch.pcw = s.me.arch.pcw + BitVec.ofNat 62 (words false sp) ∧
      t.me.run = if s.readyPeers s.me = [] then .ready else .waiting (.yieldFor (s.readyPeers s.me))) ∧
    (∃ t, exec (.isync sp) s = .next t ∧ t.mem = s.mem ∧ t.me.arch.s = s.me.arch.s ∧ t.me.arch.v = s.me.arch.v ∧
      t.me.arch.m = s.me.arch.m ∧ t.me.arch.pcw = s.me.arch.pcw + BitVec.ofNat 62 (words false sp) ∧
      t.me.fetchBuf = [] ∧ (t.core (coreKey s.me.pos)).icache = [])

/-- The loads of majors 0x28, 0x2A, 0x2C and 0x2E complete on the device's own memory and on the window of yard memory, in user and in
supervisor mode (R52, R253-R256): the value is the bytes where the effective address is mapped, lowest first, extended as the width code
says, for every ordering and lookahead. In GATH and LDVS each active lane takes the element at its address, base plus its signed index
times the element size or its number times the stride, and inactive lanes keep vd. -/
def Obligations.LoadResults : Prop :=
  ∀ (s : State) (d a b n : BitVec 5) (la : BitVec 4) (w c m : BitVec 3) (o od sc : BitVec 2) (j : BitVec 32) (sp : SafePoint), s.Still →
    let bits := 8 * 2 ^ w.toNat
    let k := s.me.arch.mreg m
    let lanes := fun (i : Instr) (addr : Nat → Word) => w.toNat < 4 → ∀ key : Nat → Nat,
      (∀ l, l < 512 / bits → k.getLsbD l = true → (addr l).toNat % (bits / 8) = 0 ∧ s.Maps .load (addr l) (bits / 8) (key l)) →
      Received i s (words true sp) la [.v d (ofLanes bits (fun l =>
        if k.getLsbD l then leValue (s.mem.readBytes (key l) (bits / 8)) else lane bits (s.me.arch.vreg d) l))]
    let go := fun (x : Bool) (i : Instr) (va : Word) (align n : Nat) (effs : Nat → List RegEff) =>
      va.toNat % align = 0 → ∀ key, s.Maps .load va n key → Received i s (words x sp) la (effs key)
    let base := s.me.arch.sreg a
    let off := base + j.signExtend 64
    let bytes := fun (key : Nat) (n : Nat) => leValue (s.mem.readBytes key n)
    let size := if w = 6#3 then 8 else 2 ^ (w.toNat / 2)
    let one := fun (key : Nat) =>
      [RegEff.s d (if w.toNat % 2 = 0 then BitVec.ofInt 64 (sLane (8 * size) (bytes key size)) else BitVec.ofNat 64 (bytes key size))]
    let vec := fun (key : Nat) => [RegEff.v d (BitVec.ofNat 512 (bytes key 64))]
    let l6 := fun (key : Nat) => [RegEff.v d (unpackL6 (BitVec.ofNat 512 (bytes key 48)))]
    let many := fun (key : Nat) => (List.range (c.toNat + 1)).map (fun k =>
      RegEff.s (d + BitVec.ofNat 5 k) (BitVec.ofNat 64 (bytes (key + 8 * k) 8)))
    go false (.ld d a n la w o sp) base size size one ∧ go true (.ldOffset d a n la w o j sp) off size size one ∧
    go false (.ldv d a n la o sp) base 8 64 vec ∧ go true (.ldvOffset d a n la o j sp) off 8 64 vec ∧
    go false (.ldvL6 d a n la o sp) base 8 48 l6 ∧ go true (.ldvL6Offset d a n la o j sp) off 8 48 l6 ∧
    go false (.ldm d a n la c o sp) base 8 (8 * (c.toNat + 1)) many ∧ go true (.ldmOffset d a n la c o j sp) off 8 (8 * (c.toNat + 1)) many ∧
    lanes (.gath d a b la w n m od sc sp)
      (fun l => base + BitVec.ofInt 64 (sLane bits (lane bits (s.me.arch.vreg b) l) * (bits / 8 : Nat))) ∧
    lanes (.ldvs d a b la w n m od sc sp) (fun l => base + BitVec.ofNat 64 l * s.me.arch.sreg b)

/-- The stores of majors 0x29, 0x2B, 0x2D and 0x2F complete (R52, R237, R253-R256): the store buffer holds the stored bytes at the
place to which the effective address is mapped, and at no other; no register and no byte of memory changes. SCAT and STVS store the
active lanes' elements at their addresses, the highest lane's where they meet. -/
def Obligations.StoreResults : Prop :=
  ∀ (s : State) (d a b n : BitVec 5) (w c m : BitVec 3) (o od sc : BitVec 2) (j : BitVec 32) (sp : SafePoint), s.Still →
    let bits := 8 * 2 ^ w.toNat
    let k := s.me.arch.mreg m
    let lanes := fun (i : Instr) (addr : Nat → Word) => w.toNat < 4 → ∀ key : Nat → Nat,
      (∀ l, l < 512 / bits → k.getLsbD l = true → (addr l).toNat % (bits / 8) = 0 ∧ s.Maps .store (addr l) (bits / 8) (key l)) →
      Stores i s (words true sp) (fun q =>
        (((List.range (512 / bits)).filter (fun l => k.getLsbD l)).filterMap (fun l =>
          bytesAt (key l) (leBytes (bits / 8) (lane bits (s.me.arch.vreg d) l)) q)).getLast?)
    let go := fun (x : Bool) (i : Instr) (va : Word) (align : Nat) (bytes : List Byte) =>
      va.toNat % align = 0 → ∀ key, s.Maps .store va bytes.length key → Stores i s (words x sp) (bytesAt key bytes)
    let base := s.me.arch.sreg a
    let off := base + j.signExtend 64
    let size := if w = 6#3 then 8 else 2 ^ (w.toNat / 2)
    let one := leBytes size (s.me.arch.sreg d).toNat
    let vec := leBytes 64 (s.me.arch.vreg d).toNat
    let l6 := leBytes 48 (packL6 (s.me.arch.vreg d)).toNat
    let many := (List.range (c.toNat + 1)).flatMap (fun k => leBytes 8 (s.me.arch.sreg (d + BitVec.ofNat 5 k)).toNat)
    go false (.st d a n w o sp) base size one ∧ go true (.stOffset d a n w o j sp) off size one ∧
    go false (.stv d a n o sp) base 8 vec ∧ go true (.stvOffset d a n o j sp) off 8 vec ∧
    go false (.stvL6 d a n o sp) base 8 l6 ∧ go true (.stvL6Offset d a n o j sp) off 8 l6 ∧
    go false (.stm d a n c o sp) base 8 many ∧ go true (.stmOffset d a n c o j sp) off 8 many ∧
    lanes (.scat d a b w n m od sc sp)
      (fun l => base + BitVec.ofInt 64 (sLane bits (lane bits (s.me.arch.vreg b) l) * (bits / 8 : Nat))) ∧
    lanes (.stvs d a b w n m od sc sp) (fun l => base + BitVec.ofNat 64 l * s.me.arch.sreg b)

/-- PREF and EVICT complete and write no register (R257, R258). PREF does so at every address and in every mode. Of a line of device
memory it leaves the touch that brings it, in the class of the access, into the L2 slice, and for a class other than 0 into the yard
cache and the core's L1 too. EVICT takes the line of its address out of the core's L1, and of the tenant's lines it makes the hold
line or KIND 2 line of that address KIND 1 in the yard cache and in the L2 slice. An address that translation refuses makes both no-ops. -/
def Obligations.CacheHintResults : Prop :=
  ∀ (s : State) (a n : BitVec 5) (j : BitVec 32) (sp : SafePoint), s.Idle →
    let x := s.me
    let y := x.pos.yidx
    let ck := coreKey x.pos
    let w := x.toucher n
    let free := x.modes.asid = 0 ∧ x.st.sup = true
    let hint := fun (ext : Bool) (va : Word) (pref evict : Instr) =>
      let len := words ext sp
      let done := fun (i : Instr) (p : State → Prop) =>
        ∃ t, exec i s = .next t ∧ Delivered s t len 0 [] ∧ t.me.storeBuf = x.storeBuf ∧ t.others = s.others ∧ p t
      let line := va.toNat / 128
      let off := va.toNat - apertureBase
      let clear := fun (k : Nat) (l : List CLine) => l.map (fun c =>
        if c.line = k / 128 ∧ c.tenant = x.modes.tenant ∧ (c.kind = 2#2 ∨ c.kind = 3#2) then { c with kind := 1 } else c)
      let cleared := fun (k : Nat) => done evict (fun t => t.mem = s.mem ∧ t.touches = s.touches ∧
        (t.core ck).l1 = (s.core ck).l1.filter (fun l => l.1 != k / 128) ∧ (t.yard y).lines = clear k (s.yard y).lines ∧
        ∀ sl, assocGet [] t.dev.l2 sl = if sl = sliceOf k then clear k (assocGet [] s.dev.l2 sl) else assocGet [] s.dev.l2 sl)
      done pref (fun t => x.pos.heavy = false ∨ (s.dev.partials = [] ∧ (s.yard y).domain = []) → t.mem = s.mem) ∧
      (s.Quiet → s.dev.partials = [] → va.toNat < dramEnd → done pref (fun t =>
        let T := Touch.read w (line * 128) 128 false (w.cls == 0) none
        t.touches = s.touches ++ [T] ∧ ∃ r, runTouch T ⟨t, []⟩ = .ok ((), r) ∧ r.s.mem = s.mem ∧
          (assocGet [] r.s.dev.l2 (sliceOf va.toNat)).any (fun l => l.line == line) = true ∧
          (w.cls ≠ 0 → (r.s.yard y).lines.any (fun l => l.line == line) = true ∧
            (if x.pos.heavy then (r.s.yard y).heavy.privCache.any (fun l => l.line == line)
              else (r.s.core ck).l1.any (fun l => l.1 == line)) = true))) ∧
      (free → va.toNat < dramEnd → cleared va.toNat) ∧
      (∀ e, ¬free → va.toNat < 2 ^ 56 → inAperture va.toNat = false → s.tlbLookup x.who va.toNat = some e →
        (e.refuses x.st.sup .load = none → e.hostLeaf = false → e.key va.toNat < dramEnd → cleared (e.key va.toNat)) ∧
        (e.refuses x.st.sup .load ≠ none → Completes pref s len [] ∧ Completes evict s len [])) ∧
      (2 ^ 56 ≤ va.toNat ∨ (free ∧ dramEnd ≤ va.toNat ∧ inAperture va.toNat = false) ∨ (inAperture va.toNat = true ∧
          (s.allotment x.tid ≤ off ∨ isYardMem (s.windowKey x.tid off) = true)) →
        Completes pref s len [] ∧ Completes evict s len [])
    hint false (x.arch.sreg a) (.pref a n sp) (.evict a n sp) ∧
    hint true (x.arch.sreg a + j.signExtend 64) (.prefOffset a n j sp) (.evictOffset a n j sp)

/-- AMO completes at an aligned operand of 4 or 8 bytes (R307, R311, R312), in every ordering and lookahead: sd receives the old value,
zero-extended, where it is not s0, and the operand, where its address is mapped, becomes what the operation gives, and no other byte; CAS
writes only where the old value is sd's. At a scope wider than the yard the new bytes stand in memory itself; that at scope .Y a load of
the yard finds them in the same step is the model's choice (log entry 15, DEDUCED). -/
def Obligations.AtomicResults : Prop :=
  ∀ (s : State) (d a b n : BitVec 5) (la : BitVec 4) (w : BitVec 1) (od sc : BitVec 2) (sp : SafePoint), s.Still → s.MemOk →
    let z := if w = 1#1 then 8 else 4
    let va := s.me.arch.sreg a
    let x := (s.me.arch.sreg b).toNat % 2 ^ (8 * z)
    let e := (s.me.arch.sreg d).toNat % 2 ^ (8 * z)
    let go := fun (i : Instr) (new : Nat → Nat) => va.toNat % z = 0 → ∀ key, s.Maps .atomic va z key →
      let old := leValue (s.mem.readBytes key z)
      ∃ t, exec i s = .next t ∧
        (if d = 0#5 then Delivered s t (words true sp) 0 [] else Delivered s t (words true sp) la [.s d (BitVec.ofNat 64 old)]) ∧
        (sc ≠ 0#2 → t.mem = s.mem.writeBytes key (leBytes z (new old))) ∧
        (sc = 0#2 → ∀ k, t.cachedByte s.me.pos.yidx s.me.pos.heavy k = (s.mem.writeBytes key (leBytes z (new old))).read k)
    go (.amoAdd d a b la w n od sc sp) (fun old => old + x) ∧ go (.amoAnd d a b la w n od sc sp) (fun old => old &&& x) ∧
    go (.amoOr d a b la w n od sc sp) (fun old => old ||| x) ∧ go (.amoXor d a b la w n od sc sp) (fun old => old ^^^ x) ∧
    go (.amoMinI d a b la w n od sc sp) (fun old => if sLane (8 * z) old < sLane (8 * z) x then old else x) ∧
    go (.amoMinN d a b la w n od sc sp) (fun old => min old x) ∧
    go (.amoMaxI d a b la w n od sc sp) (fun old => if sLane (8 * z) x < sLane (8 * z) old then old else x) ∧
    go (.amoMaxN d a b la w n od sc sp) (fun old => max old x) ∧
    go (.amoSwap d a b la w n od sc sp) (fun _ => x) ∧ go (.amoCas d a b la w n od sc sp) (fun old => if old = e then x else old)

/-- AMOV completes at a 64-byte operand (R313, R314), in every ordering: each active element takes its sum with vd's, rounded to nearest
even for the float types, and inactive elements and all other bytes stay. At a scope wider than the yard the sums stand in memory itself;
that at scope .Y a load of the yard finds them in the same step is the model's choice (log entry 15, DEDUCED). -/
def Obligations.VectorAtomicResults : Prop :=
  ∀ (s : State) (d a n : BitVec 5) (ty m : BitVec 3) (od sc : BitVec 2) (sp : SafePoint) (key : Nat), s.Still → s.MemOk → ty.toNat < 5 →
    let va := s.me.arch.sreg a
    let w := 8 * atomWidth ty.toNat
    let old : Vec := BitVec.ofNat 512 (leValue (s.mem.readBytes key 64))
    let sum := fun i => match ty.toNat with
      | 2 => (FFmt.f32.dest.add .rne (FFmt.f32.value (lane w old i)) (FFmt.f32.value (lane w (s.me.arch.vreg d) i))).1
      | 3 => (FFmt.f16.dest.add .rne (FFmt.f16.value (lane w old i)) (FFmt.f16.value (lane w (s.me.arch.vreg d) i))).1
      | 4 => (FFmt.bf16.dest.add .rne (FFmt.bf16.value (lane w old i)) (FFmt.bf16.value (lane w (s.me.arch.vreg d) i))).1
      | _ => lane w old i + lane w (s.me.arch.vreg d) i
    let new := leBytes 64 (mergeLanes w (s.me.arch.mreg m) old sum).toNat
    va.toNat % 64 = 0 → s.Maps .atomic va 64 key →
    ∃ t, exec (.amov d a ty n m od sc sp) s = .next t ∧ Delivered s t (words true sp) 0 [] ∧
      (sc ≠ 0#2 → t.mem = s.mem.writeBytes key new) ∧
      (sc = 0#2 → ∀ k, t.cachedByte s.me.pos.yidx s.me.pos.heavy k = (s.mem.writeBytes key new).read k)

/-- The fences complete (R298, R300-R302, R310): an acquire is left for the caches at its scope, and a release beyond the yard closes
the yard's epoch and opens the span whose stores leave records of it. FENCE.REL waits for nothing: behind older stores it leaves its
mark in the store buffer. -/
def Obligations.FenceResults : Prop :=
  ∀ (s : State) (sc : BitVec 2) (sp : SafePoint),
    let y := s.me.pos.yidx
    let n := words false sp
    let acq := [Touch.acquire (s.me.toucher 30) sc]
    let rel := fun (t : State) =>
      t.me.fenceRel = (if sc = 0#2 then none else some (sc, (s.yard y).epoch)) ∧
        (t.yard y).epoch = (s.yard y).epoch + (if sc = 0#2 then 0 else 1)
    let go := fun (i : Instr) (p : State → Prop) =>
      ∃ t, exec i s = .next t ∧ t.mem = s.mem ∧ Delivered s t n 0 [] ∧ p t
    (s.Still →
      go (.fenceAcq sc sp) (fun t => t.touches = s.touches ++ acq ∧ t.me.fenceRel = none) ∧
      go (.fenceRel sc sp) rel ∧
      go (.fenceFull sc sp) (fun t => t.touches = s.touches ++ acq ∧ rel t)) ∧
    (s.Idle → s.me.storeBuf ≠ [] → go (.fenceRel sc sp) (fun t => ∃ e : HeldStore, t.me.storeBuf = s.me.storeBuf ++ [e] ∧
      e.bytes = [] ∧ e.mark = some (.starts sc) ∧ t.me.fenceRel = s.me.fenceRel ∧ t.yards = s.yards))

/-- CADD, CPOLL and CWAIT on a counter of 8 aligned bytes where its address is mapped (R317, R318, R333-R335): CADD adds, saturating at
2^64 - 1 with REASON 1, returns the old value, and leaves every other byte alone; CWAIT returns 1 once the counter has reached its target, 0 where its time is over, and otherwise
waits, at its own address or, with a lookahead, with younger instructions issuing under it (R484). -/
def Obligations.CounterResults : Prop :=
  ∀ (s : State) (d a b : BitVec 5) (la : BitVec 4) (sc : BitVec 2) (sp : SafePoint) (key : Nat), s.Still →
    let va := s.me.arch.sreg a
    let n := words false sp
    let old := leValue (s.mem.readBytes key 8)
    let v := (s.me.arch.sreg b).toNat
    let timeout := s.me.arch.sreg (b + 1)
    va.toNat % 8 = 0 →
    (s.Maps .atomic va 8 key → ∃ t, exec (.cadd d a b la sc sp) s = .next t ∧ Delivered s t n la [.s d (BitVec.ofNat 64 old)] ∧
      t.mem = s.mem.writeBytes key (leBytes 8 (min (old + v) (2 ^ 64 - 1))) ∧
      t.me.st.reason = (if old + v < 2 ^ 64 then 0 else 1)) ∧
    (s.Maps .load va 8 key → Received (.cpoll d a la sc sp) s n la [.s d (BitVec.ofNat 64 old)]) ∧
    (s.Maps .load va 8 key → v ≤ old → Received (.cwait d a b la sc sp) s n la [.s d 1]) ∧
    (s.Maps .load va 8 key → old < v → timeout = 0 → Received (.cwait d a b la sc sp) s n la [.s d 0]) ∧
    (s.Maps .load va 8 key → old < v → timeout ≠ 0 → Waits (.cwait d a b la sc sp) s n la .cwait [.s d]
      (if timeout = BitVec.allOnes 64 then none else some (s.cycle + timeout.toNat)))

/-- TICK adds the low of sa and 255 to its team's clock (R239, R240, R259), TRIG enters a trigger on a counter and returns its number,
not zero and no other trigger's of the team, fired at once if the counter has reached the target (R323, R336), and TRIGX takes an armed
trigger of the team away (R337). -/
def Obligations.TickTriggerResults : Prop :=
  ∀ (s : State) (d a b c : BitVec 5) (la : BitVec 4) (sp : SafePoint) (key : Nat), s.Still →
    let y := s.me.pos.yidx
    let n := words false sp
    let va := s.me.arch.sreg a
    let entry := s.me.arch.sreg c
    let arg := s.me.arch.sreg (c + 1)
    let target := s.me.arch.sreg b
    let tid := s.me.tid
    (∀ T, s.team tid = some T → ∃ t T', exec (.tick a sp) s = .next t ∧ t.mem = s.mem ∧ Delivered s t n 0 [] ∧ t.team tid = some T' ∧
      T'.clk = T.clk + BitVec.ofNat 32 (min va.toNat 255)) ∧
    (va.toNat % 8 = 0 → s.Maps .load va 8 key → entry.toNat % 4 = 0 → (s.yard y).triggers.length < 256 →
      ∃ (t : State) (tok : BitVec 24), exec (.trig d a b c la sp) s = .next t ∧ t.mem = s.mem ∧
        Delivered s t n la [.s d (tok.zeroExtend 64)] ∧ t.me.st.reason = 0 ∧
        tok ≠ 0 ∧ (∀ r ∈ (s.yard y).triggers, r.tid = tid → r.token ≠ tok) ∧
        (t.yard y).triggers = (s.yard y).triggers ++
          [⟨tid, tok, key, va, target, entry, arg, target.toNat ≤ leValue (s.mem.readBytes key 8)⟩]) ∧
    (let hit := fun (r : Trigger) => r.tid == tid && !r.fired && r.token.zeroExtend 64 == va
     ∃ t, exec (.trigx d a la sp) s = .next t ∧ t.mem = s.mem ∧
      Delivered s t n la [.s d (if (s.yard y).triggers.any hit then 1 else 0)] ∧
      (t.yard y).triggers = (s.yard y).triggers.filter (fun r => !hit r))

/-- The sheaf instructions on a slot that the strand has bound (R326-R330, R338-R342): SARR and SARRB add arrivals and bytes and
apply the rule of the phase where they change the sheaf, SWAIT and STEST look whether a phase has passed, SLEAVE arrives for good,
SBIND binds and SUNBD unbinds. -/
def Obligations.SheafResults : Prop :=
  ∀ (s : State) (d k b : BitVec 5) (la : BitVec 4) (sp : SafePoint), s.Still →
    let n := words false sp
    let v := s.me.arch.sreg b
    let timeout := s.me.arch.sreg (b + 1)
    let still := fun (a : Word) => s.skewBusyKey (s.windowKey s.me.tid (a.toNat - apertureBase)) 64 = false
    (∀ B, s.me.binding k = some B → still B.addr →
      let key := s.windowKey s.me.tid (B.addr.toNat - apertureBase)
      let h := s.sheaf key
      let seen := (h.phase + 2 ^ 32 - (match s.team s.me.tid with
        | some T => T.statWaits.count (B.addr.toNat - apertureBase)
        | none => 0)) % 2 ^ 32
      let passed := 0 < (BitVec.ofNat 32 seen - v.extractLsb' 0 32).toInt
      let rule := fun (g : Sheaf) => if g.arrMark ≤ g.arrived ∧ g.bytesMark ≤ g.bytes then
        { g with phase := (g.phase + 1) % 2 ^ 32, arrMark := min (g.arrMark + g.expArr) (2 ^ 64 - 1),
                 bytesMark := min (g.bytesMark + g.expBytes) (2 ^ 64 - 1) } else g
      let after := fun (g : Sheaf) => if g.arrived = h.arrived ∧ g.bytes = h.bytes ∧ g.expArr = h.expArr then g else rule g
      let more := fun (arr byt : Nat) =>
        { h with arrived := min (h.arrived + arr) (2 ^ 64 - 1), bytes := min (h.bytes + byt) (2 ^ 64 - 1) }
      let left := { (if B.last = some (BitVec.ofNat 32 h.phase) then h else more 1 0) with expArr := h.expArr - 1 }
      (∃ t, exec (.sarr d k b la sp) s = .next t ∧ Delivered s t n la [.s d (BitVec.ofNat 64 h.phase)] ∧
        t.mem = s.mem.writeBytes key (after (more 1 v.toNat)).store ∧
        t.me.binding k = some { B with last := some (BitVec.ofNat 32 h.phase) }) ∧
      (∃ t, exec (.sarrb k b sp) s = .next t ∧ Delivered s t n 0 [] ∧ t.mem = s.mem.writeBytes key (after (more 0 v.toNat)).store) ∧
      (passed ∨ timeout = 0 → Received (.swait d k b la sp) s n la [.s d (if passed then 1 else 0)]) ∧
      (¬passed → timeout ≠ 0 → Waits (.swait d k b la sp) s n la .swait [.s d]
        (if timeout = BitVec.allOnes 64 then none else some (s.cycle + timeout.toNat))) ∧
      Received (.stest d k b la sp) s n la [.s d (if passed then 1 else 0)] ∧
      (∃ t, exec (.sleave k sp) s = .next t ∧ Delivered s t n 0 [] ∧ t.mem = s.mem.writeBytes key (after left).store ∧
        t.me.binding k = some { B with last := some (BitVec.ofNat 32 (after left).phase) })) ∧
    (v.toNat % 64 = 0 → apertureBase ≤ v.toNat → v.toNat < apertureBase + apertureSize →
      v.toNat - apertureBase < s.allotment s.me.tid → still v →
      (s.sheaf (s.windowKey s.me.tid (v.toNat - apertureBase))).flags < 8 →
      (∀ a, s.slotAddr (coreKey s.me.home) k = some a → a = v) →
      ∃ t, exec (.sbind d k b sp) s = .next t ∧ t.mem = s.mem ∧ Delivered s t n 0 [.s d 1] ∧ t.me.st.reason = 0 ∧
        t.me.binding k = some ⟨k, v, none⟩) ∧
    (∃ t, exec (.sunbd k sp) s = .next t ∧ t.mem = s.mem ∧ Delivered s t n 0 [] ∧ t.me.binding k = none)

/-- YSKEW makes a region of its team's window skewed, whose words stand in the banks of R230, and YUNSK ends one (R230-R234): accesses
to it wait while it is rearranged. -/
def Obligations.SkewResults : Prop :=
  ∀ (s : State) (d a b : BitVec 5) (sp : SafePoint), s.Still →
    let y := s.me.pos.yidx
    let tid := s.me.tid
    let o := (s.me.arch.sreg a).toNat - apertureBase
    let v := s.me.arch.sreg b
    let rows := (v.extractLsb' 0 12).toNat + 1
    let pitch := 128 * (v.extractLsb' 16 8).toNat
    let mine := (s.yard y).skews.filter (fun k => k.tid == tid && !k.leaving)
    (apertureBase ≤ (s.me.arch.sreg a).toNat ∧ (s.me.arch.sreg a).toNat < apertureBase + apertureSize) →
    (v.extractLsb' 12 4 = 0#4 → v.extractLsb' 24 40 = 0#40 → pitch ≠ 0 → o % 128 = 0 → o + rows * pitch ≤ s.allotment tid →
      (∀ k ∈ mine, o + rows * pitch ≤ k.base ∨ k.base + k.rows * k.pitch ≤ o) → mine.length < 8 →
      ((s.yard y).skews.filter (fun k => !k.leaving)).length < 64 →
      ∃ t u, exec (.yskew d a b sp) s = .next t ∧ t.mem = s.mem ∧ Delivered s t (words false sp) 0 [.s d 1] ∧ t.me.st.reason = 0 ∧
        s.cycle < u ∧ (t.yard y).skews = (s.yard y).skews ++ [⟨tid, o, rows, pitch, u, false⟩] ∧
        ∀ i w, i < rows → 8 * w < pitch → t.bankOf y tid (o + i * pitch + 8 * w) = (w % 16 + i) % 16) ∧
    (∀ k ∈ mine, k.base = o →
      ∃ t, exec (.yunsk d a sp) s = .next t ∧ t.mem = s.mem ∧ Delivered s t (words false sp) 0 [.s d 1] ∧ t.me.st.reason = 0 ∧
        (t.yard y).skews.filter (fun j => j.tid == tid && !j.leaving) = mine.filter (fun j => j.base != o))

/-- The class-H floating-point forms complete at the heavy core, where they are local (R160, R178-R185), wherever none of the result's own
flags traps, and trap where one does (R44, R46): the result, rounded under K.RMODE or the RM field, with its flags; vectors under their
mask. That FEXP2, FLOG2, FSIN and
FCOS give the series fexp2, flog2 and fsincos, rounded correctly, is the model's choice (log entry 14, DEDUCED). -/
def Obligations.HeavyFloatResults : Prop :=
  ∀ (s : State) (d a b c : BitVec 5) (m cc r ty : BitVec 3) (n : BitVec 1) (la : BitVec 4) (sp : SafePoint), s.Idle →
    s.me.pos.heavy = true →
    let f := FFmt.f64
    let g := FFmt.f32
    let x := (s.me.arch.sreg a).toNat
    let y := (s.me.arch.sreg b).toNat
    let z := (s.me.arch.sreg c).toNat
    let mode := RMode.ofCode s.me.modes.rmode.toNat
    let rm := if r = 4#3 then mode else RMode.ofCode r.toNat
    let k := s.me.arch.mreg m
    let old := s.me.arch.vreg d
    let ln := fun (q : BitVec 5) (i : Nat) => lane 64 (s.me.arch.vreg q) i
    let raw := fun (i : Instr) (v : Word) (fl : FpFlags) =>
      FlagsGovern i s (words false sp) fl (Received i s (words false sp) la [.s d v, s.flagEff fl])
    let sca := fun (i : Instr) (v : FRes) => raw i (BitVec.ofNat 64 v.1) v.2
    let vec := fun (i : Instr) (h : Nat → FRes) =>
      let fl := ((List.range 8).filter (fun j => k.getLsbD j)).foldl (fun f j => f.or (h j).2) FpFlags.none
      FlagsGovern i s (words false sp) fl (Received i s (words false sp) 0 [.v d (mergeLanes 64 k old (fun j => (h j).1)), s.flagEff fl])
    sca (.dadd d a b la sp) (f.dest.add mode (f.value x) (f.value y)) ∧
    sca (.dsub d a b la sp) (f.dest.add mode (f.value x) (f.value y).negate) ∧
    sca (.dmul d a b la sp) (f.dest.mul mode (f.value x) (f.value y)) ∧
    sca (.ddiv d a b la sp) (f.div mode (f.value x) (f.value y)) ∧ sca (.dsqrt d a la sp) (f.sqrt mode (f.value x)) ∧
    sca (.dmin d a b la sp) (f.dest.minMax false x y (f.value x) (f.value y)) ∧
    sca (.dmax d a b la sp) (f.dest.minMax true x y (f.value x) (f.value y)) ∧
    sca (.dcmp d a b la cc sp) (if (fcmp cc.toNat (f.value x) (f.value y)).1 then 1 else 0, (fcmp cc.toNat (f.value x) (f.value y)).2) ∧
    sca (.dcvtToF64 d a r la ty sp) (f.dest.convert rm (codeValue ty.toNat (s.me.arch.sreg a))) ∧
    raw (.dcvtFromF64 d a r la ty sp) (convertCode ty.toNat rm (f.value x)).1 (convertCode ty.toNat rm (f.value x)).2 ∧
    sca (.dfma d a b c la sp) (f.dest.fma mode (f.value x) (f.value y) (f.value z)) ∧
    sca (.fdiv d a b la sp) (g.div mode (g.value (x % 2 ^ 32)) (g.value (y % 2 ^ 32))) ∧
    sca (.fsqrt d a la sp) (g.sqrt mode (g.value (x % 2 ^ 32))) ∧
    sca (.fexp2 d a la sp) (fexp2 (g.value (x % 2 ^ 32))) ∧ sca (.flog2 d a la sp) (flog2 (g.value (x % 2 ^ 32))) ∧
    sca (.fsin d a la sp) (fsincos false (g.value (x % 2 ^ 32))) ∧ sca (.fcos d a la sp) (fsincos true (g.value (x % 2 ^ 32))) ∧
    sca (.frcp d a la sp) (g.div mode (.num false 1 0) (g.value (x % 2 ^ 32))) ∧ sca (.frsq d a la sp) (frsq (g.value (x % 2 ^ 32))) ∧
    vec (.vdopAdd d a b m sp) (fun i => f.dest.add mode (f.value (ln a i)) (f.value (ln b i))) ∧
    vec (.vdopSub d a b m sp) (fun i => f.dest.add mode (f.value (ln a i)) (f.value (ln b i)).negate) ∧
    vec (.vdopMul d a b m sp) (fun i => f.dest.mul mode (f.value (ln a i)) (f.value (ln b i))) ∧
    vec (.vdopDiv d a b m sp) (fun i => f.div mode (f.value (ln a i)) (f.value (ln b i))) ∧
    vec (.vdopSqrt d a m sp) (fun i => f.sqrt mode (f.value (ln a i))) ∧
    vec (.vdopMin d a b m sp) (fun i => f.dest.minMax false (ln a i) (ln b i) (f.value (ln a i)) (f.value (ln b i))) ∧
    vec (.vdopMax d a b m sp) (fun i => f.dest.minMax true (ln a i) (ln b i) (f.value (ln a i)) (f.value (ln b i))) ∧
    vec (.vdfma d a b c m n sp) (fun i =>
      f.dest.fma mode (if n = 1#1 then (f.value (ln a i)).negate else f.value (ln a i)) (f.value (ln b i)) (f.value (ln c i)))

/-- From a lean core every class-H form is shipped (R160-R162): with room in its queue a packet with the operands, modes and
sequence number goes to the heavy core of the yard, an entry of the window holds what a squash restores, and no register is
written yet. A queue of eight packets holds the instruction back, and so do sixteen outstanding ones in the window. -/
def Obligations.ShippingResults : Prop :=
  ∀ (s : State) (d a b c : BitVec 5) (m cc r ty : BitVec 3) (n : BitVec 1) (la : BitVec 4) (od sc : BitVec 2) (st : BitVec 24)
    (sp : SafePoint), s.Still → s.me.pos.heavy = false → s.nomatrix s.me.tid = false →
    (s.yard s.me.pos.yidx).heavy.failed = false →
    let x := fun (q : BitVec 5) => scalarSlot (s.me.arch.sreg q)
    let v := fun (q : BitVec 5) => s.me.arch.vreg q
    let one := BitVec.allOnes 64
    let go := fun (ext : Bool) (i : Instr) (op : HOp) (dests : List RegId) (mask : Word) (o : List Vec) (la : BitVec 4) =>
      if ((s.yard s.me.pos.yidx).heavy.queueOf s.me.pos.core).length < 8 then
        ∃ t, exec i s = .next t ∧ t.mem = s.mem ∧ Delivered s t (words ext sp) 0 [] ∧ t.me.nextSeq = nextSeqNo s.me.nextSeq ∧
          t.me.window.head?.map (fun e => (e.seq, e.dests, e.mask, e.left, e.done, e.base)) =
            some (s.me.nextSeq, dests, mask, la.toNat, false, s.me.arch) ∧
          (t.yard s.me.pos.yidx).heavy.queue = (s.yard s.me.pos.yidx).heavy.queue ++
            [{ pos := s.me.pos, seq := s.me.nextSeq, asid := s.me.modes.asid, tenant := s.me.modes.tenant, dests := dests,
               began := none, rmode := s.me.modes.rmode, nve := s.me.modes.nve, dze := s.me.modes.dze, nanmode := s.me.modes.nanmode,
               nudef := s.me.modes.nudef, op := op, mask := mask, opnd := o, since := s.cycle }]
      else ∃ t, exec i s = .next t ∧ t.me.run = .stalled ∧ t.me.arch = s.me.arch ∧ t.mem = s.mem ∧ t.yards = s.yards
    let go := fun (ext : Bool) (i : Instr) (op : HOp) (dests : List RegId) (mask : Word) (o : List Vec) (la : BitVec 4) =>
      go ext i op dests mask o la ∧
        ∀ W : List WEntry, W.countP (fun e => e.seq != 0#8 && !e.done) = 16 → (∀ e ∈ W, e.dests = [] ∧ e.index = []) →
          ∃ t, exec i { s with me := { s.me with window := W } } = .next t ∧ t.me.run = .stalled ∧ t.me.arch = s.me.arch ∧
            t.mem = s.mem ∧ t.yards = s.yards
    let sca := fun (i : Instr) (op : HOp) (o : List Vec) => go false i op [.s d] one o la
    let vec := fun (i : Instr) (op : HOp) (o : List Vec) => go false i op [.v d] (s.me.arch.mreg m) o 0
    let tile := fun (ext : Bool) (i : Instr) (op : HOp) (dests : List RegId) (o : List Vec) => go ext i op dests one o la
    let amow := fun (i : Instr) (k : BitVec 2) =>
      go true i (.amow k d c od sc) (if d = 0#5 then [] else [.s d, .s (d + 1)]) one [x a, v b] la
    sca (.dadd d a b la sp) (.dfp 0) [x a, x b] ∧ sca (.dsub d a b la sp) (.dfp 1) [x a, x b] ∧
    sca (.dmul d a b la sp) (.dfp 2) [x a, x b] ∧ sca (.ddiv d a b la sp) (.dfp 3) [x a, x b] ∧
    sca (.dsqrt d a la sp) (.dfp 4) [x a] ∧ sca (.dmin d a b la sp) (.dfp 5) [x a, x b] ∧
    sca (.dmax d a b la sp) (.dfp 6) [x a, x b] ∧ sca (.dcmp d a b la cc sp) (.dcmp cc) [x a, x b] ∧
    sca (.dcvtToF64 d a r la ty sp) (.dcvtTo ty r) [x a] ∧ sca (.dcvtFromF64 d a r la ty sp) (.dcvtFrom ty r) [x a] ∧
    sca (.dfma d a b c la sp) .dfma [x a, x b, x c] ∧ sca (.fdiv d a b la sp) (.f32 0) [x a, x b] ∧
    sca (.fsqrt d a la sp) (.f32 1) [x a] ∧ sca (.fexp2 d a la sp) (.f32 2) [x a] ∧ sca (.flog2 d a la sp) (.f32 3) [x a] ∧
    sca (.fsin d a la sp) (.f32 4) [x a] ∧ sca (.fcos d a la sp) (.f32 5) [x a] ∧ sca (.frcp d a la sp) (.f32 6) [x a] ∧
    sca (.frsq d a la sp) (.f32 7) [x a] ∧
    vec (.vdopAdd d a b m sp) (.vdop 0) [v a, v b] ∧ vec (.vdopSub d a b m sp) (.vdop 1) [v a, v b] ∧
    vec (.vdopMul d a b m sp) (.vdop 2) [v a, v b] ∧ vec (.vdopDiv d a b m sp) (.vdop 3) [v a, v b] ∧
    vec (.vdopSqrt d a m sp) (.vdop 4) [v a] ∧ vec (.vdopMin d a b m sp) (.vdop 5) [v a, v b] ∧
    vec (.vdopMax d a b m sp) (.vdop 6) [v a, v b] ∧ vec (.vdfma d a b c m n sp) (.vdfma n) [v a, v b, v c] ∧
    amow (.amowAdd d a b la c od sc sp) 0 ∧ amow (.amowSwap d a b la c od sc sp) 1 ∧ amow (.amowCas d a b la c od sc sp) 2 ∧
    tile false (.tcfg m a la sp) (.tcfg m) [] [x a] ∧ tile false (.tfmt a la sp) .tfmt [] [x a] ∧
    tile true (.tscale n a la b od sp) (.tscale n b od) [] [x a] ∧ tile false (.tzero m la sp) (.tzero m) [] [] ∧
    tile true (.tldr m a la b od st sp) (.tldr m b od st) [] [x a] ∧ tile true (.tstr m a la b od st sp) (.tstr m b od st) [] [x a] ∧
    tile true (.tmovr m a la 0 b sp) (.tmovr m 0) [] [x a, v b] ∧ tile true (.tmovr m a la 1 b sp) (.tmovr m 1) [.v b] [x a] ∧
    tile true (.tmovc m a la 0 b sp) (.tmovc m 0) [] [x a, v b] ∧ tile true (.tmovc m a la 1 b sp) (.tmovc m 1) [.v b] [x a] ∧
    tile false (.mma m cc r la sp) (.mma m cc r false) [] [] ∧ tile false (.mmaSat m cc r la sp) (.mma m cc r true) [] [] ∧
    tile false (.mmas m cc a la sp) (.mmas m cc false) [] [x a] ∧ tile false (.mmasSat m cc a la sp) (.mmas m cc true) [] [x a] ∧
    tile true (.gload a la b od st sp) (.gload b od st) [] [x a, x (a + 1)] ∧ tile false (.gdrop a la sp) .gdrop [] [x a] ∧
    tile false (.tdrain m la sp) (.tdrain m) [] [] ∧ tile false (.tfill m la sp) (.tfill m) [] [] ∧
    tile false (.tstat m a la sp) (.tstat m) [.s a] [] ∧ tile false (.tfree m la sp) (.tfree m) [] []

/-- AMOW completes at the heavy core on 16 aligned bytes (R315, R316), in every ordering and lookahead: with sd not s0 the old value
goes to sd and sd+1; the operand becomes the sum, va's low half, or, where the old value is va's low half, its high half, and no other byte
changes. At a scope wider than the yard the new bytes stand in memory itself. That at scope .Y a load of the yard finds them in the same
step (log entry 15, DEDUCED), and that an own strand's operation ends in its step (log entry 34), are the model's choices. -/
def Obligations.WideAtomicResults : Prop :=
  ∀ (s : State) (d a b n : BitVec 5) (la : BitVec 4) (od sc : BitVec 2) (sp : SafePoint) (key : Nat), s.Still → s.MemOk → s.me.pos.heavy = true →
    let va := s.me.arch.sreg a
    let v := (s.me.arch.vreg b).toNat
    let old := leValue (s.mem.readBytes key 16)
    let effs := if d = 0#5 then [] else [RegEff.s d (BitVec.ofNat 64 old), .s (d + 1) (BitVec.ofNat 64 (old / 2 ^ 64))]
    let go := fun (i : Instr) (new : Nat) => va.toNat % 16 = 0 → s.Maps .atomic va 16 key →
      ∃ t, exec i s = .next t ∧ Delivered s t (words true sp) la effs ∧
        (sc ≠ 0#2 → t.mem = s.mem.writeBytes key (leBytes 16 new)) ∧
        (sc = 0#2 → ∀ k, t.cachedByte s.me.pos.yidx true k = (s.mem.writeBytes key (leBytes 16 new)).read k)
    go (.amowAdd d a b la n od sc sp) (old + v % 2 ^ 128) ∧ go (.amowSwap d a b la n od sc sp) (v % 2 ^ 128) ∧
    go (.amowCas d a b la n od sc sp) (if old = v % 2 ^ 128 then v / 2 ^ 128 else old)

/-- The tile forms that configure, clear, load, store, save, refill, report and free tiles complete at the heavy core (R190-R199,
R211-R215, R221), in whatever state of R193 the tile is that the form meets, and leave the strand's other tiles alone. TSTR stores the rows
of a tile at their addresses: a load of the yard finds their bytes, the later row's where two meet, and every other byte as before. TDRAIN
saves a dirty tile's rows in its save slot. -/
def Obligations.TileResults : Prop :=
  ∀ (s : State) (d : BitVec 3) (a n : BitVec 5) (h : BitVec 1) (od : BitVec 2) (st : BitVec 24) (la : BitVec 4) (sp : SafePoint),
    AtTiles s →
    let w := s.me.arch.sreg a
    let f := s.me.fmt
    let tile := s.me.tile d
    let addr := fun (i : Nat) => w + BitVec.ofNat 64 i * st.signExtend 64
    let rowsOk := fun (c : TileCfg) => s.Quiet ∧ (∀ i, i ≤ c.rows → (addr i).toNat % c.et.size = 0) ∧
      ∀ i, i < c.rows → InDram (addr i) c.memRow
    let done := fun (ext : Bool) (i : Instr) (p : State → Prop) =>
      ∃ t, exec i s = .next t ∧ Delivered s t (words ext sp) la [] ∧
        (∀ k, k ≠ d → t.me.tile k = s.me.tile k ∧ tileBits s t k = tileBits s s k) ∧ p t
    let go := fun (ext : Bool) (i : Instr) (p : State → Prop) => done ext i (fun t => t.mem = s.mem ∧ p t)
    let asIs := fun (t : State) => t.me.tile d = tile ∧ tileBits s t d = tileBits s s d
    (∀ c, TileCfg.ofWord w = some c →
      go false (.tcfg d a la sp) (fun t => t.me.tile d = ⟨some c, .empty, none⟩ ∧ tileBits s t d = none)) ∧
    (formatValid w = true → go false (.tfmt a la sp) (fun t =>
      t.me.fmt = ⟨w.extractLsb' 0 16, true, if f.valid then f.sca else 0, if f.valid then f.scb else 0⟩)) ∧
    (s.Quiet → f.valid = true → w.toNat % 8 = 0 → InDram w 64 →
      let v : Vec := BitVec.ofNat 512 (leValue (s.mem.readBytes w.toNat 64))
      go true (.tscale h a la n od sp) (fun t => t.me.fmt = if h = 0#1 then { f with sca := v } else { f with scb := v })) ∧
    (∀ c, Configured s d c → Placeable s d →
      go false (.tzero d la sp) (fun t => (t.me.tile d).cfg = some c ∧ (t.me.tile d).st = .dirty ∧ tileBits s t d = some 0) ∧
      (rowsOk c → go true (.tldr d a la n od st sp) (fun t => (t.me.tile d).cfg = some c ∧ (t.me.tile d).st = .dirty ∧
        ∃ E, tileBits s t d = some E ∧
          ∀ i, i < c.rows → TileData.row E c i = c.et.fromMem c.cols (s.mem.readBytes (addr i).toNat c.memRow)))) ∧
    (∀ c D, Configured s d c → Finds s d D → rowsOk c → s.MemOk → done true (.tstr d a la n od st sp) (fun t =>
      ∀ k, t.cachedByte s.me.pos.yidx true k =
        (((List.range c.rows).filterMap (fun i => bytesAt (addr i).toNat (c.et.toMem (TileData.row D c i)) k)).getLast?).getD
          (s.mem.read k))) ∧
    (tileBits s s d = none → go false (.tdrain d la sp) asIs) ∧
    (∀ c D, Configured s d c → Resident s d D →
      (tile.st ≠ .dirty → go false (.tdrain d la sp) (fun t => t.me.tile d = { tile with st := .spilled, phys := none })) ∧
      (∀ T k, tile.st = .dirty → s.MemOk → s.team s.me.tid = some T → SaveSlot s T d k → done false (.tdrain d la sp) (fun t =>
        t.me.tile d = { tile with st := .spilled, phys := none } ∧
        (∀ i j, i < c.rows → j < c.rb → t.mem.read (k + 192 * i + j) = D.extractLsb' (8 * (192 * i + j)) 8) ∧
        ∀ q, q < k ∨ k + 3072 ≤ q → t.mem.read q = s.mem.read q))) ∧
    (∀ c D, Configured s d c → Absent s d → tile.st = .spilled → TileRoom s → s.savedTile s.me d = some D →
      go false (.tfill d la sp) (fun t => t.me.tile d = { tile with st := .clean, phys := (s.yard s.me.home.yidx).heavy.freeTile } ∧
        tileBits s t d = some D)) ∧
    (tile.cfg = none ∨ tile.phys.isSome = true ∨ tile.st = .empty → go false (.tfill d la sp) asIs) ∧
    (tile.cfg = none → go false (.tfree d la sp) asIs) ∧
    (tile.cfg ≠ none → go false (.tfree d la sp) (fun t => t.me.tile d = TileReg.unconfigured ∧ tileBits s t d = none)) ∧
    Received (.tstat d a la sp) s (words false sp) la [.s a (match tile.cfg with
      | none => 0
      | some c => BitVec.ofNat 64 (c.rows - 1 + c.rb / 8 * 2 ^ 8 + c.et.code * 2 ^ 16 + 2 ^ 20 + 2 ^ 21 * (match tile.st with
        | .empty => 0
        | .clean => 1
        | .dirty => 2
        | .spilled => 3)))]

/-- TMOVR and TMOVC move elements between a tile's row or column and a vector register (R216), whatever state of R193 the tile is in. A
move out fills the positions of the vector that the move covers, and zeros the others; a move in writes the elements it covers, L6
codes with six bits, and keeps the others. -/
def Obligations.TileMoveResults : Prop :=
  ∀ (s : State) (x : BitVec 3) (a v : BitVec 5) (c : TileCfg) (D : TileData) (la : BitVec 4) (sp : SafePoint),
    AtTiles s → Configured s x c → Finds s x D →
    let w := s.me.arch.sreg a
    let e := c.et.size
    let row := (w.extractLsb' 0 4).toNat
    let part := (w.extractLsb' 4 2).toNat
    let column := (w.extractLsb' 0 8).toNat
    let first := (w.extractLsb' 8 4).toNat
    let at_ := fun (col : Bool) (q : Nat) => if col then (first + q, column) else (row, 64 / e * part + q)
    let inside := fun (p : Nat × Nat) => p.1 < c.rows ∧ p.2 < c.cols
    let out := fun (i : Instr) (col : Bool) => ∃ V, Received i s (words true sp) la [.v v V] ∧
      ∀ q, q < 64 / e → (inside (at_ col q) → lane (8 * e) V q = TileData.elem D e (at_ col q).1 (at_ col q).2) ∧
        (¬inside (at_ col q) → lane (8 * e) V q = 0)
    let into := fun (i : Instr) (col : Bool) => (Absent s x → TileRoom s) →
      ∃ t E, exec i s = .next t ∧ t.mem = s.mem ∧ Delivered s t (words true sp) la [] ∧
        tileBits s t x = some E ∧ (t.me.tile x).cfg = some c ∧ (t.me.tile x).st = .dirty ∧
        ∀ i k, i < c.rows → k < c.cols →
          (∀ q, q < 64 / e → at_ col q = (i, k) → TileData.elem E e i k =
            (if c.et = .l6 then lane (8 * e) (s.me.arch.vreg v) q % 64 else lane (8 * e) (s.me.arch.vreg v) q)) ∧
          ((∀ q, q < 64 / e → at_ col q ≠ (i, k)) → TileData.elem E e i k = TileData.elem D e i k)
    (row < c.rows ∧ part ≠ 3 ∧ 64 * part < c.rb → out (.tmovr x a la 1 v sp) false ∧ into (.tmovr x a la 0 v sp) false) ∧
    (column < c.cols ∧ first < c.rows → out (.tmovc x a la 1 v sp) true ∧ into (.tmovc x a la 0 v sp) true)

/-- The matrix operations (R36-R40, R200, R201, R206, R217-R220). MMA and MMAS of a strand at the heavy core, with their operands in
place, join the matrix queue and stay outstanding in the strand's window (R200); when its pipe ends, td holds td plus A times B
transposed under the format context, B from a tile or from the team's granary, and the flags go to the strand (R201, R217). The product,
in the order of sums of R36-R40, is only named here (FmtCtx.product); that MMAS multiplies the absent positions of B too is the model's
choice (log entry 63, DESIGN CHOICE). GLOAD and GDROP fill and empty a granary slot (R206, R220). -/
def Obligations.MatrixResults : Prop :=
  (∀ (s : State) (d a b : BitVec 3) (x n : BitVec 5) (od : BitVec 2) (st : BitVec 24) (la : BitVec 4) (sp : SafePoint), AtTiles s →
    let f := s.me.fmt
    let y := s.me.pos.yidx
    let tid := s.me.tid
    let H := (s.yard y).heavy
    let w := s.me.arch.sreg x
    let reads := fun (j : BitVec 3) => (∃ D, Resident s j D) ∨ (Absent s j ∧ (s.me.tile j).st = .empty)
    let same := fun (t : State) (j : BitVec 3) => (tileBits s t j).getD 0 = (tileBits s s j).getD 0
    let queued := fun (i : Instr) (op : HOp) (slot : Option GranSlot) =>
      ∃ t k, exec i s = .next t ∧ t.mem = s.mem ∧ Delivered s t (words false sp) 0 [] ∧ t.me.nextSeq = nextSeqNo s.me.nextSeq ∧
        t.me.window.head?.map (fun e => (e.seq, e.dests, e.left, e.done, e.base)) =
          some (s.me.nextSeq, [], la.toNat, false, s.me.arch) ∧
        (t.yard y).heavy.matq = H.matq ++ [⟨k, slot⟩] ∧ k.pos = s.me.pos ∧ k.seq = s.me.nextSeq ∧ k.op = op ∧
        (k.nve, k.dze, k.nanmode) = (s.me.modes.nve, s.me.modes.dze, s.me.modes.nanmode) ∧ ∀ j ∈ op.tiles, same t j
    (∀ cd ca, H.matq.length < 8 → Configured s d cd → Configured s a ca → reads d → (Absent s d → TileRoom s) → reads a →
      some ca.et = f.aty → some cd.et = f.cty → cd.rows = ca.rows → f.valid = true →
      (∀ cb, Configured s b cb → reads b → f.spn = 0#3 → some cb.et = f.bty → ca.cols = cb.cols → cd.cols = cb.rows →
        queued (.mma d a b la sp) (.mma d a b false) none ∧
          (f.aty = some .i8 → queued (.mmaSat d a b la sp) (.mma d a b true) none)) ∧
      (∀ g, let slot := (w.extractLsb' 0 9).toNat
        s.granarySlot y tid slot = some g → slot < s.granarySize tid → g.poisoned = false → g.expand.isSome = true → f.spn ≠ 0#3 →
        g.spn = f.spn → some g.et = f.bty → ca.cols = 48 * g.ng → cd.cols = g.nr →
        queued (.mmas d a x la sp) (.mmas d a false) (some g) ∧
          (f.aty = some .i8 → queued (.mmasSat d a x la sp) (.mmas d a true) (some g)))) ∧
    (∀ slot nr ng ty spn, s.Quiet → gloadControl (s.me.arch.sreg (x + 1)) = some (slot, nr, ng, ty, spn) → slot < s.granarySize tid →
      let addr := fun (i : Nat) => w + BitVec.ofNat 64 i * st.signExtend 64
      w.toNat % 8 = 0 → (∀ i, i ≤ nr → (addr i).toNat % ty.size = 0) → (∀ i, i < nr → InDram (addr i) (ng * groupBytes ty spn)) →
      ∃ t, exec (.gload x la n od st sp) s = .next t ∧ t.mem = s.mem ∧ Delivered s t (words true sp) la [] ∧
        t.granarySlot y tid slot = some ⟨tid, slot, nr, ng, ty, spn,
          (List.range nr).map (fun i => s.mem.readBytes (addr i).toNat (ng * groupBytes ty spn)), false⟩) ∧
    ((w.extractLsb' 0 9).toNat < s.granarySize tid →
      ∃ t, exec (.gdrop x la sp) s = .next t ∧ t.mem = s.mem ∧ Delivered s t (words false sp) la [] ∧
        t.granarySlot y tid (w.extractLsb' 0 9).toNat = none)) ∧
  ∀ (s : State) (y j : Nat) (k : Packet) (slot : Option GranSlot) (x : Strand) (d a b : BitVec 3) (sat : Bool) (cd ca cb : TileCfg)
    (g : GranSlot) (B : List (List Nat)),
    let H := (s.yard y).heavy
    let bits := fun (r : BitVec 3) => ((H.tileOf x.home r.toNat).map (fun p => p.data)).getD 0
    let rows := fun (c : TileCfg) (r : BitVec 3) => (List.range c.rows).map (TileData.row (bits r) c)
    H.pipes.find? (fun e => e.1 == j) = some (j, ⟨k, slot⟩) → s.Seats k.pos x → x.home.yidx = y →
    k.nve = false → k.dze = false → k.nanmode = false → (x.tile d).cfg = some cd → (x.tile a).cfg = some ca →
    (k.op = .mma d a b sat ∧ (x.tile b).cfg = some cb ∧ B = rows cb b ∨ k.op = .mmas d a sat ∧ slot = some g ∧ g.expand = some B) →
    (H.tileOf x.home d.toNat).isSome = true →
    let m := x.fmt.product sat (rows ca a) B (rows cd d)
    let ended := fun (t : State) => t.mem = s.mem ∧ (t.yard y).heavy.pipes = H.pipes.filter (fun e => e.1 != j) ∧
      ((t.yard y).heavy.tileOf x.home d.toNat).map (fun p => p.data) = some (TileData.ofRows cd.et.size m.rows)
    (k.pos.heavy = false → Reaches (.matrixCompletion y j) s (fun t => ended t ∧
      (t.yard y).heavy.replies = H.replies ++ [⟨k.pos, k.seq, y, .done [.flags m.fl.bits true]⟩])) ∧
    (∀ e, k.pos.heavy = true → x.window = [e] → e.seq = k.seq → e.done = false → x.st.safereq = false → x.arch.held = [] →
      Reaches (.matrixCompletion y j) s (fun t => ended t ∧ ∃ u, t.at? k.pos = some u ∧ u.window = [] ∧
        u.arch.fpflags = x.arch.fpflags ||| m.fl.bits ∧ u.arch.s = x.arch.s ∧ u.arch.v = x.arch.v ∧ u.arch.pcw = x.arch.pcw))

/-- SHIPW goes on once nothing shipped is outstanding (R186). MIGRATE of a strand with no older work begins a move to a free own slot of
the heavy core, or back to the home slot (R187); where no own slot is free, or others wait for one, it waits in their queue (R189). In a
handler, and for a supervisor's slot, it does nothing. -/
def Obligations.ShipwMigrateResults : Prop :=
  ∀ (s : State) (sp : SafePoint), s.Still →
    let y := s.me.pos.yidx
    let n := words false sp
    Completes (.shipw sp) s n [] ∧
    (s.me.st.migt = true ∨ (s.me.pos.heavy = true ∧ s.me.pos.slot = 0) → Completes (.migrate sp) s n []) ∧
    (s.me.st.migt = false → (s.me.pos.heavy = true → s.me.pos.slot ≠ 0) →
      (∀ f ∈ s.dev.forwards, f.2 ≠ s.me.pos) → s.me.run = .ready →
      let a := { s.me.arch with pcw := s.me.arch.pcw + BitVec.ofNat 62 n }
      let go := fun (p : State → Prop) => ∃ t, exec (.migrate sp) s = .next t ∧ t.me.arch = a ∧ t.mem = s.mem ∧ p t
      (s.me.st.mig = true → go (fun t => t.me.run = .moving (s.cycle + 48) s.me.home ∧ t.me.st.mig = false ∧ t.me.nextSeq = 1)) ∧
      (s.me.st.mig = false →
        (∀ p, (s.yard y).heavy.ownWait = [] → s.freeOwn y = some p →
          go (fun t => t.me.run = .moving (s.cycle + 48) p ∧ t.me.st.mig = true)) ∧
        ((s.yard y).heavy.ownWait ≠ [] ∨ s.freeOwn y = none →
          go (fun t => t.me.run = .slotWait ∧ t.me.st.mig = false ∧
            (t.yard y).heavy.ownWait = (s.yard y).heavy.ownWait ++ [s.me.pos]))))

/-- TOPEN registers the tile of a descriptor in the handle table's first free entry and returns its handle (R261-R266, R282). The
other tenure forms are stated on the one open tile, which no agent holds and which its handle names (R263, R268-R271, R283-R288): TCLOSE
frees its entry, TACQ grants and TREL of what a TACQ has granted takes it back, TSPLIT cuts it into equal pieces, TQRY and TDESC read it.
No byte of memory changes but those of the table's entries. -/
def Obligations.TenureResults : Prop :=
  (∀ (s : State) (d a : BitVec 5) (ds : Desc) (sp : SafePoint), s.Quiet →
    let va := s.me.arch.sreg a
    let x := s.spaceOf 0
    let key := (x.entryVa x.head).toNat
    let bytes := s.mem.readBytes va.toNat 64
    let gen := s.entryGen key
    va.toNat % 64 = 0 → InDram va 64 → Desc.ofBytes bytes = some ds → ds.meets apertureBase (apertureBase + apertureSize) = false →
    (ds.regions 0 ds.outerExt).length ≤ 64 → x.log2n ≤ 20 → x.count ≠ 0 → InDram (x.entryVa x.head) 128 →
    ∃ t T, exec (.topen d a sp) s = .next t ∧ Delivered s t (words false sp) 0 [.s d (BitVec.ofNat 64 (gen * 2 ^ 20 + x.head))] ∧
      t.me.st.reason = 0 ∧ t.mem = s.mem.writeBytes key bytes ∧ t.dev.tiles = [T] ∧ T.asid = 0 ∧ T.index = x.head ∧
      T.gen = BitVec.ofNat 12 gen ∧ T.desc = ds ∧ T.pieces = [⟨0, ds.outerExt, []⟩]) ∧
  ∀ (s : State) (d a b : BitVec 5) (T : TileObj) (sp : SafePoint), AtTenure s (s.me.arch.sreg a) T → s.MemOk →
    let y := s.me.pos.yidx
    let v := s.me.arch.sreg b
    let first := (v.extractLsb' 32 16).toNat
    let count := (v.extractLsb' 48 16).toNat
    let e := T.desc.outerExt
    let hi := if count = 0 then e else first + count
    let agent := if v.getLsbD 0 then 64 + y else agentOf s.me.pos
    let n := words false sp
    let granted := fun (k : Tenure) => (s.dev.setIntent T s.me.tid agent (some k)).putTile (T.grant agent k [(first, hi)])
    let acq := fun (i : Instr) (k : Tenure) =>
      ∃ t, exec i s = .next t ∧ t.mem = s.mem ∧ Delivered s t n 0 [] ∧ t.dev = granted k
    let pieces := T.pieces.mergeSort (fun p q => p.lo ≤ q.lo)
    (∃ t, exec (.tclose a sp) s = .next t ∧ Delivered s t n 0 [] ∧ t.dev.tiles = [] ∧
      (let key := ((s.spaceOf 0).entryVa T.index).toNat
       let tail := ((s.spaceOf 0).entryVa (s.spaceOf 0).tail).toNat
       t.entryGen key = (s.entryGen key + 1) % 4096 ∧
         ∀ k, (k < key ∨ key + 128 ≤ k) → (k < tail ∨ tail + 128 ≤ k) → t.mem.read k = s.mem.read k)) ∧
    (first < e → (count = 0 ∨ first + count ≤ e) →
      acq (.tacqS a b sp) .s ∧ acq (.tacqW a b sp) .w ∧ acq (.tacqA a b sp) .a ∧
      (∀ k, ∃ t U, exec (.trel a b sp) { s with dev := granted k } = .next t ∧ t.mem = s.mem ∧ Delivered s t n 0 [] ∧
        t.dev.intents = [] ∧ t.dev.tiles = [U] ∧ U.desc = T.desc ∧
        (∀ p ∈ U.pieces, p.meets [(first, hi)] = true → p.kindOf agent = none))) ∧
    (T.desc.split = true → 1 ≤ v.toNat → v.toNat ≤ 16 → v.toNat ≤ e →
      ∃ t U, exec (.tsplit d a b sp) s = .next t ∧ t.mem = s.mem ∧ Delivered s t n 0 [.s d 1] ∧ t.me.st.reason = 0 ∧ t.dev.tiles = [U] ∧
        U.pieces = (List.range v.toNat).map (fun j =>
          ⟨j * (e / v.toNat), if j + 1 = v.toNat then e else (j + 1) * (e / v.toNat), []⟩)) ∧
    (∀ p, pieces[(v.extractLsb' 0 4).toNat]? = some p →
      Received (.tqry d a b sp) s n 0 [.s d (BitVec.ofNat 64 (pieces.length % 32 + (if T.forced then 2 ^ 5 else 0) +
        p.lo % 2 ^ 32 * 2 ^ 16))]) ∧
    (pieces[(v.extractLsb' 0 4).toNat]? = none → Received (.tqry d a b sp) s n 0 [.s d (BitVec.ofNat 64 (pieces.length % 32))]) ∧
    Received (.tdesc d a b sp) s n 0
      [.s d (BitVec.ofNat 64 (leValue ((T.desc.bytes.drop (8 * (v.extractLsb' 0 3).toNat)).take 8)))]

/-- MSEND and MSEND.T of a strand that holds nothing back send a message and wait for its answer, and complete with it (R386): 1 for an acceptance;
MSEND.T returns 0 with the REASON of a refusal, for which MSEND traps. Class 15 is the supervisor's: a user strand traps with cause 0x04. -/
def Obligations.MessageResults : Prop :=
  ∀ (s : State) (d a b : BitVec 5) (sp : SafePoint), s.Idle → s.me.act = none →
    let w := s.me.arch.sreg a
    let pa := s.me.arch.sreg b
    let c := s.me.answerOf 0
    (destClass w = 15#4 → s.me.st.sup = false → ∀ i ∈ [Instr.msend d a b sp, .msendT d a b sp], Traps i s 0x04 0 (words false sp)) ∧
    ((destClass w = 15#4 → s.me.st.sup = true) → s.destOk w = true → pa.toNat % 8 = 0 →
    (∀ key, s.Still → s.maySend s.me (destClass w) = true → s.Maps .load pa (destLen w) key →
      ∀ i ∈ [Instr.msend d a b sp, .msendT d a b sp], ∃ t k, exec i s = .next t ∧ t.mem = s.mem ∧ t.me.run = .answerWait ∧
        t.me.sent = some 1 ∧ t.me.answers = [] ∧ t.me.arch = s.me.arch ∧ t.dev.net = s.dev.net ++ [k] ∧
        k.body = .message (s.message w (s.mem.readBytes key (destLen w)) 0)) ∧
    (s.me.sent = some 1 → s.me.answers ≠ [] →
      (c = 0 → ∀ i ∈ [Instr.msend d a b sp, .msendT d a b sp], ∃ t, exec i s = .next t ∧ t.mem = s.mem ∧
        Delivered s t (words false sp) 0 [.s d 1] ∧ t.me.st.reason = 0 ∧ t.me.sent = none) ∧
      (c ≠ 0 →
        (∃ t, exec (.msendT d a b sp) s = .next t ∧ t.mem = s.mem ∧ Delivered s t (words false sp) 0 [.s d 0] ∧
          t.me.st.reason = BitVec.ofNat 8 c ∧ t.me.sent = none) ∧
        (s.me.st.sup = false → TrapsTo (exec (.msend d a b sp) s)
          { s with me := { s.me with st := { s.me.st with reason := BitVec.ofNat 8 c }, sent := none, answers := [] } } 0x38 w
          (words false sp)))))

/-- MMASK changes chosen bits of the team's mask and returns the old one (R387), and MBOX makes and removes a mailbox (R376, R388).
MDONE of a strand that holds nothing returns 0; in an activation it lets what is held take effect, stores to yard memory and messages, whose
answers it waits for, takes the activation's record out of its mailbox, and returns the number of refused messages (R389). -/
def Obligations.MailboxResults : Prop :=
  ∀ (s : State) (d a b : BitVec 5) (T : Team) (G : Grid) (sp : SafePoint), s.Still → s.team s.me.tid = some T →
    s.grid T.grid = some G →
    let y := s.me.pos.yidx
    let w := s.me.arch.sreg a
    let va := s.me.arch.sreg b
    let entry := s.me.arch.sreg (b + 1)
    let cls := w.extractLsb' 0 4
    let size := 64 * (w.extractLsb' 8 11).toNat
    let n := words false sp
    (∃ t U, exec (.mmask d a b sp) s = .next t ∧ t.mem = s.mem ∧ Delivered s t n 0 [.s d (T.mmask.zeroExtend 64)] ∧
      t.team s.me.tid = some U ∧
      ∀ i, i < 15 → U.mmask.getLsbD i = if w.getLsbD i then va.getLsbD i else T.mmask.getLsbD i) ∧
    (w.extractLsb' 5 3 = 0#3 → w.extractLsb' 19 45 = 0#45 → (cls = 15#4 → s.me.st.sup = true) →
      (w.getLsbD 4 = true → T.resident = true → 512 ≤ size → size ≤ 65536 → va.toNat % 64 = 0 → entry.toNat % 4 = 0 → apertureBase ≤ va.toNat →
        va.toNat < apertureBase + apertureSize → va.toNat - apertureBase + size ≤ T.allotment → (s.yard y).mailbox cls = none →
        s.windowHeld s.me.tid (va.toNat - apertureBase) size = false →
        ∃ t, exec (.mbox d a b sp) s = .next t ∧ Delivered s t n 0 [.s d 1] ∧ t.me.st.reason = 0 ∧
          t.mem = s.mem.writeBytes (s.windowKey s.me.tid (va.toNat - apertureBase))
            (leBytes 4 64 ++ leBytes 4 64 ++ List.replicate 56 0) ∧
          (t.yard y).mailboxes = (s.yard y).mailboxes ++ [⟨cls, s.me.tid, va.toNat - apertureBase, size, entry, [], false⟩]) ∧
      (∀ M, w.getLsbD 4 = false → (s.yard y).mailbox cls = some M → M.tid = s.me.tid → M.running = false → M.unstarted = [] →
        s.windowHeld M.tid M.mb M.size = false →
        ∃ t, exec (.mbox d a b sp) s = .next t ∧ t.mem = s.mem ∧ Delivered s t n 0 [.s d 1] ∧ t.me.st.reason = 0 ∧
          (t.yard y).mailboxes = (s.yard y).mailboxes.filter (fun m => m.cls != cls))) ∧
    (∃ t, exec (.mdone d sp) s = .next t ∧ t.mem = s.mem ∧ Delivered s t n 0 [.s d 0] ∧ t.me.st.reason = 0) ∧
    ∀ a : Activation, a.mdone = false → a.releasing = false →
      let u : State := { s with me := { s.me with act := some a } }
      let done := fun (v : State) (refused : Nat) (p : State → Prop) => ∃ t, exec (.mdone d sp) v = .next t ∧
        Delivered v t n 0 [.s d (BitVec.ofNat 64 refused)] ∧ t.me.st.reason = (if a.saturated then 1 else 0) ∧
        t.me.act.map (fun e => (e.src, e.hold, e.mdone)) = some (a.src, [], true) ∧ t.me.sent = none ∧ p t
      (∀ sts : List HeldStore, u.ownMailbox = none → a.hold = sts.map (fun st => .store [st] false) →
        (∀ st ∈ sts, st.mark = none ∧ st.rel = none ∧ isYardMem st.key = true ∧ s.skewBusyKey st.key st.bytes.length = false) →
        done u a.refusedT (fun t => t.mem = sts.foldl (fun m st => m.writeBytes st.key st.bytes) s.mem)) ∧
      (∀ m off, u.ownMailbox = some m → a.src = .message m.cls off → a.hold = [] → (s.team m.tid).any Team.resident = true → m.mb % 64 = 0 →
        s.windowHeld m.tid m.mb m.size = false →
        let c := s.mbCtl m
        let r := 8 + leValue (s.readTeam m.tid (m.mb + off) 2) % 512
        r = c.used ∨ (r < c.used ∧ off + r < m.size ∧ leValue (s.readTeam m.tid (m.mb + (off + r)) 2) / 2 ^ 15 % 2 = 0) →
        done u a.refusedT (fun t => (t.yard s.me.home.yidx).mailbox m.cls = some { m with unstarted := m.unstarted.filter (fun o => o != off) } ∧
          t.mem = s.mem.writeBytes (s.windowKey m.tid m.mb) (if r = c.used then
            leBytes 4 64 ++ leBytes 4 64 ++ leBytes 4 0 ++ leBytes 4 0 ++ leBytes 8 c.received ++ leBytes 8 c.refused
            else leBytes 4 c.wr ++ leBytes 4 (off + r) ++ leBytes 4 (c.used - r) ++ leBytes 4 0 ++ leBytes 8 c.received ++
              leBytes 8 c.refused))) ∧
      (∀ dst p traps, u.ownMailbox = none →
        (a.hold = [.msg dst p traps] → s.maySend s.me (destClass dst) = true → ∃ t k, exec (.mdone d sp) u = .next t ∧ t.mem = s.mem ∧
          t.me.run = .answerWait ∧ t.me.sent = some 1 ∧ t.me.answers = [] ∧ t.me.arch = s.me.arch ∧ t.dev.net = s.dev.net ++ [k] ∧
          k.body = .message (s.message dst p 0)) ∧
        (∀ code, a.hold = [] → a.sentMsgs = [(dst, traps)] → (code = 0 ∨ traps = false) →
          done { u with me := { u.me with sent := some 1, answers := [(0, code)] } } (a.refusedT + if code = 0 then 0 else 1)
            (fun t => t.mem = s.mem)))

/-- RDSEND gives a vector to a reduction tree, and RDRECV takes the total of a round at the root, returns with REASON 3 once its time
is over, or waits for it (R383, R384, R390). -/
def Obligations.ReductionTreeResults : Prop :=
  ∀ (s : State) (d b : BitVec 5) (k : BitVec 3) (la : BitVec 4) (T : Tree) (sp : SafePoint), s.Still → s.dev.tree k = some T →
    T.tenant = s.me.modes.tenant →
    let stop := s.yardStop s.me.pos.yidx
    let n := words false sp
    let timeout := s.me.arch.sreg b
    (s.me.pos.yidx ∈ T.members → T.bufs.countP (fun e => e.1 == stop && e.2.1 == 0) < 2 →
      ∃ t, exec (.rdsend d k b sp) s = .next t ∧ t.mem = s.mem ∧ Delivered s t n 0 [.s d 1] ∧ t.me.st.reason = 0 ∧
        t.dev.tree k = some { T with bufs := T.bufs ++ [(stop, 0, s.me.arch.vreg b)] }) ∧
    (T.root = s.me.pos.yidx →
      (∀ v, T.total = some v → ∃ t, exec (.rdrecv d k b la sp) s = .next t ∧ t.mem = s.mem ∧ Delivered s t n la [.v d v] ∧
        t.me.st.reason = 0 ∧ t.dev.tree k = some { T with total := none }) ∧
      (T.total = none → timeout = 0 → ∃ t, exec (.rdrecv d k b la sp) s = .next t ∧ t.mem = s.mem ∧ Delivered s t n 0 [] ∧
        t.me.st.reason = 3) ∧
      (T.total = none → timeout ≠ 0 → Waits (.rdrecv d k b la sp) s n la .rdrecv [.v d]
        (if timeout = BitVec.allOnes 64 then none else some (s.cycle + timeout.toNat))))

/-- CPY and CPYT queue a transfer at an engine of the yard's paddock and return its ticket, and CPYQ reports a transfer (R410, R414,
R416-R419). -/
def Obligations.CopyResults : Prop :=
  ∀ (s : State) (d a b : BitVec 5) (e : Nat) (sp : SafePoint), s.Quiet → s.pickEngine s.me.pos.yidx = some e →
    let dst := s.me.arch.sreg a
    let src := s.me.arch.sreg (a + 1)
    let w := s.me.arch.sreg b
    let c := s.me.arch.sreg (b + 1)
    let n := words false sp
    let queued := fun (i : Instr) (len : Nat) (dd sd : Option Desc) =>
      ∃ t q, exec i s = .next t ∧ t.mem = s.mem ∧ Delivered s t n 0 [.s d (BitVec.ofNat 64 (e + 2 ^ 8))] ∧ t.me.st.reason = 0 ∧
        (t.engine e).queue = [q] ∧ q.serial = 1 ∧ q.tid = s.me.tid ∧ q.asid = s.me.modes.asid ∧ q.dst = dst ∧ q.src = src ∧
        q.ctl = w ∧ q.comp = c ∧ q.len = len ∧ q.left = len ∧ q.dstDesc = dd ∧ q.srcDesc = sd ∧ q.state = 1 ∧ q.cursor = 0 ∧ q.line = none
    (ctlOk w = true → compOk w c = true → ctlDir w = 0 →
      queued (.cpy d a b sp) (w.toNat % 2 ^ 32) none none ∧
      (∀ D S, w.toNat % 2 ^ 32 = 0 → dst.toNat % 64 = 0 → src.toNat % 64 = 0 → InDram dst 64 → InDram src 64 →
        Desc.ofBytes (s.mem.readBytes dst.toNat 64) = some D → Desc.ofBytes (s.mem.readBytes src.toNat 64) = some S →
        D.eszl2 = S.eszl2 → D.rank = S.rank → D.ext = S.ext → queued (.cpyt d a b sp) D.size (some D) (some S))) ∧
    Received (.cpyq d a sp) s n 0 [.s d (2 ^ 34)] ∧
    (∀ (u : State) (q : Transfer), u = { s with dev := { s.dev with engines := [(e, { Engine.reset with queue := [q] })] } } →
      dst = BitVec.ofNat 64 (e + q.serial * 2 ^ 8) → e < 32 → q.serial < 2 ^ 40 → q.asid = s.me.modes.asid →
      Received (.cpyq d a sp) u n 0
        [.s d (BitVec.ofNat 64 (q.left % 2 ^ 32 + q.state * 2 ^ 32 + q.cause % 256 * 2 ^ 40))])

/-- KRD gives the register it names (R19, R44-R46, R72, R73, R91, R95, R112, R113, R197, R239, R344, R400): in supervisor mode
any assigned one, and in user mode all but K.NUFLOOR, K.PTBASE and K.EVBASE. -/
def Obligations.ControlReadResults : Prop :=
  ∀ (s : State) (d : BitVec 5) (sp : SafePoint), s.Idle →
    let go := fun (k : BitVec 12) (v : Word) => (s.me.st.sup = true ∨ (k ≠ 0x032#12 ∧ k ≠ 0x091#12 ∧ k ≠ 0x092#12)) →
      Completes (.krd d k sp) s (words false sp) [.reg (.s d v)]
    let st := s.me.st
    let tr := s.me.trap
    let md := s.me.modes
    let nr := md.nanrep
    let p := s.me.pos
    let Y := (s.yard p.yidx).regs
    let F := s.func md.tenant.toNat
    let X := s.spaceOf md.asid
    let num := fun (n : Nat) => (BitVec.ofNat 64 n : Word)
    go 0x000 (num (st.sup.toNat + 2 * st.migt.toNat + 4 * st.mig.toNat + 8 * st.act.toNat + 16 * st.paired.toNat +
      32 * st.safereq.toNat + 2 ^ 8 * st.reason.toNat)) ∧
    go 0x001 (num tr.code.toNat) ∧ go 0x002 (num (4 * tr.pc.toNat)) ∧ go 0x003 tr.addr ∧
    go 0x004 (num (tr.ilen.toNat + 4 * tr.squash.toNat + 2 ^ 8 * tr.hyidx.toNat + 2 ^ 14 * tr.seq.toNat)) ∧
    go 0x010 (num (md.nve.toNat + 2 * md.dze.toNat)) ∧ go 0x011 (num s.me.arch.fpflags.toNat) ∧ go 0x012 (num md.rmode.toNat) ∧
    go 0x013 (num (md.nanmode.toNat + 2 ^ 8 * nr.rvalid.toNat + 2 ^ 9 * nr.pipe.toNat + 2 ^ 10 * nr.row.toNat + 2 ^ 14 * nr.col.toNat +
      2 ^ 18 * nr.kstep.toNat + 2 ^ 26 * nr.yidx.toNat)) ∧
    go 0x020 (num (s.me.fmt.word.toNat + 2 ^ 31 * s.me.fmt.valid.toNat)) ∧ go 0x030 (num md.nudef.toNat) ∧
    go 0x032 s.dev.nufloor ∧ go 0x033 (num F.nupen.toNat) ∧
    (F.nuHonLast < 2 ^ 32 → go 0x034 (num (F.nuHonLast + 2 ^ 32 * F.nuWin.toNat))) ∧
    go 0x041 (num s.me.index.toNat) ∧ go 0x042 (num (p.core + 2 ^ 7 * p.heavy.toNat + 2 ^ 8 * p.slot)) ∧
    go 0x043 (num (p.yidx + 2 ^ 8 * s.yardStop p.yidx + 2 ^ 14 * (s.yardStop p.yidx / 16))) ∧
    go 0x050 Y.share ∧ go 0x051 Y.gage ∧ (∀ i : Fin 16, go (BitVec.ofNat 12 (0x060 + i.val)) Y.mwgt[i]) ∧
    go 0x070 Y.quantum ∧ go 0x071 Y.safewait ∧ go 0x072 Y.park ∧ go 0x073 Y.trapmig ∧
    go 0x080 X.htbase ∧ go 0x081 X.htfree ∧ go 0x090 (num (md.asid.toNat + 2 ^ 16 * md.pasid.toNat + 2 ^ 36 * md.tenant.toNat)) ∧
    go 0x091 X.ptbase ∧ go 0x092 Y.evbase ∧ go 0x0A0 s.dev.nocw ∧ go 0x0A1 s.dev.nocage ∧
    (∀ T G, s.team s.me.tid = some T → s.grid T.grid = some G →
      go 0x031 (num (T.clk.toNat + 2 ^ 32 * T.period)) ∧
      go 0x040 (num (T.tid % 2 ^ 32 + 2 ^ 32 * (T.prio % 8) + 2 ^ 35 * G.nomatrix.toNat + 2 ^ 36 * G.paired.toNat)) ∧
      go 0x093 (num (T.savebase.toNat % 2 ^ 56 / 64 * 64)) ∧ go 0x0B0 T.mbwait)

/-- KWR writes the fields of the register it names (R6, R43-R46, R113): in supervisor mode any that is writable, and in user mode
K.FPEN, K.FPFLAGS, K.RMODE, K.NANMODE and K.NUDEF. No other register, other strand, core, yard or part of the device changes, and a
write that the mode does not allow leaves everything as it was. -/
def Obligations.ControlWriteResults : Prop :=
  ∀ (s : State) (a : BitVec 5) (sp : SafePoint), s.Idle →
    let v := s.me.arch.sreg a
    let n := words false sp
    let y := s.me.pos.yidx
    let go := fun (k : BitVec 12) (p : State → Prop) =>
      ∃ t, exec (.kwr a k sp) s = .next t ∧ t.mem = s.mem ∧ t.others = s.others ∧ t.cores = s.cores ∧ Written s t n 0 [] ∧ p t
    let low := fun (i : Nat) => BitVec.ofNat 64 (v.toNat % 2 ^ i)
    let mode := fun (k : BitVec 12) (m : Modes) => go k (fun t => t.me.modes = m ∧ t.me.trap = s.me.trap ∧ t.dev = s.dev ∧ t.yards = s.yards)
    let trap := fun (k : BitVec 12) (r : TrapRegs) => go k (fun t =>
      t.me.trap = r ∧ t.me.modes = s.me.modes ∧ t.dev = s.dev ∧ t.yards = s.yards)
    let dev := fun (k : BitVec 12) (p : State → Prop) => go k (fun t => Kept s t ∧ t.yards = s.yards ∧ p t)
    let regs := fun (k : BitVec 12) (f : YardRegs → YardRegs) => go k (fun t => Kept s t ∧ t.dev = s.dev ∧
      t.yard y = { s.yard y with regs := f (s.yard y).regs } ∧ ∀ z, z ≠ y → t.yard z = s.yard z)
    let space := fun (k : BitVec 12) (f : Space → Space) => dev k (fun t => { t.dev with spaces := s.dev.spaces } = s.dev ∧
      t.spaceOf s.me.modes.asid = f (s.spaceOf s.me.modes.asid) ∧ ∀ i, i ≠ s.me.modes.asid → t.space i = s.space i)
    mode 0x010 { s.me.modes with nve := v.getLsbD 0, dze := v.getLsbD 1 } ∧
    (∃ t, exec (.kwr a 0x011#12 sp) s = .next t ∧ t.mem = s.mem ∧ t.others = s.others ∧ t.cores = s.cores ∧ t.yards = s.yards ∧
      t.dev = s.dev ∧ Kept s t ∧ t.me.arch = { s.me.arch with
        pcw := s.me.arch.pcw + BitVec.ofNat 62 n, fpflags := s.me.arch.fpflags &&& ~~~(BitVec.ofNat 6 v.toNat) }) ∧
    mode 0x012 { s.me.modes with rmode := BitVec.ofNat 2 v.toNat } ∧
    mode 0x013 { s.me.modes with nanmode := v.getLsbD 0, nanrep := ⟨false, 0, 0, 0, 0, 0⟩ } ∧
    mode 0x030 { s.me.modes with nudef := BitVec.ofNat 5 v.toNat } ∧
    (s.me.st.sup = true →
      trap 0x001 { s.me.trap with code := BitVec.ofNat 8 v.toNat } ∧
      trap 0x002 { s.me.trap with pc := BitVec.ofNat 54 (v.toNat / 4) } ∧
      trap 0x003 { s.me.trap with addr := v } ∧
      dev 0x032 (fun t => t.dev = { s.dev with nufloor := low 17 }) ∧
      regs 0x050 (fun r => { r with share := low 8 }) ∧ regs 0x051 (fun r => { r with gage := low 16 }) ∧
      (∀ i : Fin 16, regs (BitVec.ofNat 12 (0x060 + i.val)) (fun r => { r with mwgt := r.mwgt.set i (v &&& 0x0F0F0F0F0F0F0F0F) })) ∧
      regs 0x070 (fun r => { r with quantum := low 32 }) ∧ regs 0x071 (fun r => { r with safewait := low 32 }) ∧
      regs 0x072 (fun r => { r with park := low 32 }) ∧ regs 0x073 (fun r => { r with trapmig := v &&& 0x11030707075F071E }) ∧
      regs 0x092 (fun r => { r with evbase := v &&& 0x00FFFFFFFFFFFFC0 }) ∧
      (s.isLive s.me.modes.asid = true →
        space 0x080 (fun x => { x with htbase := v &&& 0x00FFFFFFFFFFF01F }) ∧ space 0x081 (fun x => { x with htfree := low 61 }) ∧
        space 0x091 (fun x => { x with ptbase := v &&& 0x000FFFFFFFFF0001 })) ∧
      dev 0x0A0 (fun t => t.dev = { s.dev with nocw := low 48 }) ∧ dev 0x0A1 (fun t => t.dev = { s.dev with nocage := low 8 }) ∧
      (∀ T, s.team s.me.tid = some T → dev 0x0B0 (fun t => { t.dev with teams := s.dev.teams } = s.dev ∧
        t.team s.me.tid = some { T with mbwait := low 32 } ∧ ∀ i, i ≠ s.me.tid → t.team i = s.team i)) ∧
      (∀ k ∈ [0x000#12, 0x004, 0x020, 0x031, 0x033, 0x034, 0x040, 0x041, 0x042, 0x043, 0x090, 0x093],
        Completes (.kwr a k sp) s n [])) ∧
    (s.me.st.sup = false → ∀ k ∈ [0x000#12, 0x001, 0x002, 0x003, 0x004, 0x020, 0x031, 0x033, 0x034, 0x040, 0x041, 0x042, 0x043, 0x050,
        0x051, 0x060, 0x061, 0x062, 0x063, 0x064, 0x065, 0x066, 0x067, 0x068, 0x069, 0x06A, 0x06B, 0x06C, 0x06D, 0x06E, 0x06F, 0x070, 0x071, 0x072, 0x073, 0x080, 0x081, 0x090, 0x093, 0x0A0, 0x0A1, 0x0B0],
      Completes (.kwr a k sp) s n [])

/-- TRAP takes the trap 0x48 with sa in K.FADDR (R94-R96, R110), ERET returns from a trap, of the strand itself or of a parked one
(R114), a migrated one that stands at a lean core by way of the queue for own slots (R189), and WAITI takes the next notification, or
waits (R115). That ERET completes without effect where V is 0 or the reference names no parked strand, whatever its target (log entry 19,
DEDUCED), and which strand a reference names that has moved to an own slot (log entry 90, DEDUCED), are the model's choices. -/
def Obligations.TrapAndReturnResults : Prop :=
  ∀ (s : State) (a b d : BitVec 5) (sp : SafePoint), s.Idle →
    let y := s.me.pos.yidx
    let n := words false sp
    let after := { s.me.arch with pcw := s.me.arch.pcw + BitVec.ofNat 62 n }
    let sa := s.me.arch.sreg a
    let sb := s.me.arch.sreg b
    let rec_ : TrapRegs := ⟨0x48, s.me.arch.pcw.extractLsb' 0 54, sa, BitVec.ofNat 2 n, 0, 0, 0⟩
    let migrates := (s.yard y).regs.trapmig.getLsbD 60
    (s.me.st.sup = false →
      (migrates = false → ∃ t, exec (.trap a sp) s = .next t ∧ t.mem = s.mem ∧ t.me.trap = rec_ ∧ t.me.run = .parkedTrap false ∧
        t.me.arch = s.me.arch ∧ t.me.st = s.me.st ∧ (t.yard y).notes = (s.yard y).notes ++ [s.me.pos]) ∧
      (migrates = true → ∃ t, exec (.trap a sp) s = .next t ∧ t.mem = s.mem ∧ t.me.trap = rec_ ∧
        t.me.st = { s.me.st with sup := true, migt := true } ∧
        t.me.arch = { s.me.arch with pcw := pcwOf (s.yard y).regs.evbase } ∧
        t.me.run = (if s.me.pos.heavy then .ready else match s.ownFor y with
          | some p => .moving (s.cycle + 48) p
          | none => .trapWait))) ∧
    (s.me.st.sup = true → s.me.pos.heavy = true →
      (s.me.st.migt = false → Completes (.eret a 0 sp) s n []) ∧
      (let target := if a = 0#5 then s.me.trap.fpc else sa
       s.me.st.migt = true → target.toNat % 4 = 0 → ∃ t, exec (.eret a 0 sp) s = .next t ∧ t.mem = s.mem ∧
        t.me.st = { s.me.st with sup := false, migt := false } ∧ t.me.arch = { after with pcw := pcwOf target } ∧
        (t.me.modes.asid, t.me.modes.pasid, t.me.modes.tenant) = s.me.trapAsid ∧
        t.me.run = if s.me.st.mig then .ready else .moving (s.cycle + 48) s.me.home) ∧
      (∀ x, b ≠ 0 → sb.getLsbD 15 = true → s.parkedAt (refPos y sb) = some x → x.pos ≠ s.me.pos →
        (∀ u ∈ s.others, u.pos = x.pos → u = x) →
        let target := if a = 0#5 then x.trap.fpc else sa
        let away := x.st.mig = true ∧ x.pos.heavy = false
        let Q := (s.yard x.pos.yidx).heavy.ownWait
        target.toNat % 4 = 0 → ∃ t u, exec (.eret a b sp) s = .next t ∧ t.mem = s.mem ∧ t.me.arch = after ∧
          t.at? x.pos = some u ∧ u.run = (if away then .slotWait else .ready) ∧ u.arch = { x.arch with pcw := pcwOf target } ∧ u.st = x.st ∧
          (t.yard x.pos.yidx).heavy.ownWait = (if away ∧ x.pos ∉ Q then Q ++ [x.pos] else Q)) ∧
      (b ≠ 0 → (sb.getLsbD 15 = false ∨ s.parkedAt (refPos y sb) = none) → Completes (.eret a b sp) s n []) ∧
      (d.toNat ≠ 0 → d.toNat ≤ 29 →
        (∀ x, (s.yard y).notes.head?.bind s.at? = some x → x.pos ≠ s.me.pos → s.me.wait = none →
          (∀ u ∈ s.others, u.pos = x.pos → u = x) →
          ∃ t u, exec (.waiti d a sp) s = .next t ∧ t.mem = s.mem ∧
            Returned s t n 0 [.s d x.refWord, .s (d + 1) x.trap.addr, .s (d + 2) x.trap.fpc] ∧
            t.others = s.others.map (fun u => if u.pos = x.pos then { u with run := .parkedTrap true } else u) ∧
            (t.yard y).notes = (s.yard y).notes.drop 1 ∧ t.at? x.pos = some u ∧ u.run = .parkedTrap true ∧ u.arch = x.arch) ∧
        ((s.yard y).notes = [] → s.me.wait = none →
          (sa = 0 → ∃ t, exec (.waiti d a sp) s = .next t ∧ t.mem = s.mem ∧ Delivered s t n 0 [.s d 0, .s (d + 1) 0, .s (d + 2) 0]) ∧
          (sa ≠ 0 → ∃ t, exec (.waiti d a sp) s = .next t ∧ t.mem = s.mem ∧ t.me.run = .waiting .waiti ∧ t.me.arch = s.me.arch))))

/-- TLBW enters a pinned or unpinned translation in the yard's TLB in place of those of its page, TLBINV takes translations out of every TLB and waits while an
access that took one of them is still to be made, and ASWCH makes, enters and ends address spaces (R343, R358-R361). -/
def Obligations.TranslationControlResults : Prop :=
  ∀ (s : State) (d a b : BitVec 5) (sp : SafePoint), s.Still → s.me.st.sup = true → s.me.pos.heavy = true →
    let y := s.me.pos.yidx
    let n := words false sp
    let sa := s.me.arch.sreg a
    let sb := s.me.arch.sreg b
    let level := sa.toNat % 4
    let va := sa.toNat % 2 ^ 56 / 2 ^ 19 * 2 ^ 19
    let e := leafEntry s.me.modes.asid va level sb.toNat (sa.getLsbD 2)
    let asid := sa.extractLsb' 0 16
    let pasid := sa.extractLsb' 16 20
    let tenant := sa.extractLsb' 36 4
    let done := fun (i : Instr) (p : State → Prop) =>
      ∃ t, exec i s = .next t ∧ t.mem = s.mem ∧ t.others = s.others ∧ Written s t n 0 [.s d 1] ∧ t.me.st.reason = 0 ∧ p t
    (level ≠ 0 → sa.toNat / 2 ^ 3 % 2 ^ 16 = 0 → sa.toNat < 2 ^ 56 → sb.getLsbD 0 = true → sb.getLsbD 1 = true →
      malformed level sb.toNat = false → (e.pinned = true → (s.yard y).tlb.countP (fun f => f.set == e.set && f.pinned) < 2) →
      done (.tlbw d a b sp) (fun t => (t.yard y).tlb.head? = some e ∧ t.me.modes = s.me.modes ∧ t.dev = s.dev ∧ t.cores = s.cores ∧
        (∀ z, z ≠ y → t.yard z = s.yard z) ∧
        ∀ f ∈ (t.yard y).tlb, f ≠ e → f ∈ (s.yard y).tlb ∧ ¬(f.asid = e.asid ∧
          (f.bits = e.bits ∧ f.vpage = e.vpage ∨ f.ats = true ∧ e.maps e.asid (f.vpage * 2 ^ f.bits) = true)))) ∧
    (let kind := (sb.extractLsb' 16 2).toNat
     let named := fun (f : TlbEntry) => (sb.getLsbD 18 || !f.pinned) &&
      (if kind = 0 then f.maps (sb.extractLsb' 0 16) sa.toNat else if kind = 1 then f.asid == sb.extractLsb' 0 16 else true)
     let removed := fun (t : State) => (∀ z, (t.yard z).tlb = (s.yard z).tlb.filter (fun f => !named f)) ∧
       ∀ k, (t.core k).utlb = (s.core k).utlb.filter (fun f => !named f)
     sb.toNat < 2 ^ 19 → kind ≠ 3 → s.tlbWait s.me.pos = none →
      (s.usesOf (s.tlbEntries named) = false →
        ∃ t, exec (.tlbinv a b sp) s = .next t ∧ t.mem = s.mem ∧ Delivered s t n 0 [] ∧ removed t) ∧
      (s.usesOf (s.tlbEntries named) = true →
        ∃ t, exec (.tlbinv a b sp) s = .next t ∧ t.mem = s.mem ∧ t.me.run = .stalled ∧ t.me.arch = s.me.arch ∧ removed t ∧
          t.tlbWait s.me.pos = some (s.tlbEntries named))) ∧
    (sa.toNat < 2 ^ 40 → s.isLive asid = true →
      done (.aswch d a sp) (fun t => t.me.modes = { s.me.modes with
        asid := asid, pasid := (s.spaceOf asid).pasid, tenant := (s.spaceOf asid).tenant })) ∧
    (sa.toNat / 2 ^ 40 = 1 → s.isLive asid = false →
      (∀ x ∈ s.dev.spaces, x.tenant = tenant → x.pasid = pasid → x.asid = 0) →
      done (.aswch d a sp) (fun t => t.me.modes = { s.me.modes with asid := asid, pasid := pasid, tenant := tenant } ∧
        t.space asid = some ⟨asid, pasid, tenant, 0, 0, 0⟩)) ∧
    (sa.toNat / 2 ^ 40 = 2 → asid ≠ 0 → s.isLive asid = true → asid ≠ s.me.modes.asid → s.asidInUse asid = false →
      s.tlbWait s.me.pos = none → s.usesOf (s.tlbEntries (fun f => f.asid == asid)) = false →
      done (.aswch d a sp) (fun t => t.space asid = none))

/-- LAUNCH and LAUNCH.T queue a valid record (R394, R407), SWOUT asks a resident team to swap out and SWIN brings a saved team back
(R402, R404, R408), and RDCFG sets a route class or a reduction tree (R383, R391). -/
def Obligations.LaunchSwapResults : Prop :=
  ∀ (s : State) (d a b : BitVec 5) (sp : SafePoint), s.Still →
    let y := s.me.pos.yidx
    let n := words false sp
    let sa := s.me.arch.sreg a
    let sb := s.me.arch.sreg b
    let done := fun (i : Instr) (p : State → Prop) =>
      ∃ t, exec i s = .next t ∧ Returned s t n 0 [.s d 1] ∧ t.me.st.reason = 0 ∧ p t
    (let bytes := s.mem.readBytes sa.toNat 64
     let grid := (s.team s.me.tid).bind (fun T => s.grid T.grid)
     s.Quiet → sa.toNat % 64 = 0 → InDram sa 64 → (Record.of bytes).valid s.me.modes.tenant = true →
      (∀ G, grid = some G → G.ovf = 0) → (s.yard y).dlq.length < 64 →
      ∀ i ∈ [Instr.launch d a sp, .launchT d a sp],
        done i (fun t => t.mem = s.mem ∧ t.others = s.others ∧ (t.yard y).dlq = (s.yard y).dlq ++ [⟨bytes, s.me.modes.asid, (grid.map (fun G => G.gid)).getD 0⟩])) ∧
    (s.me.st.sup = true → s.me.pos.heavy = true → sa.toNat < 2 ^ 32 →
      (∀ T, (s.residents y).find? (fun u => u.tid == sa.toNat) = some T → s.delivered T.tid = false → T.where_ = .placed →
        done (.swout d a sp) (fun t => t.mem = s.mem ∧ t.others = s.others.map (fun x =>
            if x.tid = T.tid ∧ x.run ≠ .empty then { x with st := { x.st with safereq := true } } else x) ∧
          t.team T.tid = (s.team T.tid).map (fun u =>
            { u with where_ := .leaving (s.cycle + (s.yard u.yidx).regs.safewait.toNat % 2 ^ 32) }))) ∧
      (∀ T G V, s.pendingTeams.find? (fun e => e.1.tid == sa.toNat && e.1.where_ == .saved) = some (T, G) →
        s.fits y T G = true → s.savedTeam T.tid = some V →
        done (.swin d a sp) (fun t => ∃ U, t.team T.tid = some U ∧ U.where_ = .placed ∧ U.yidx = y ∧
          s.pickCores y G = some U.cores))) ∧
    (s.me.st.sup = true →
      (sa.getLsbD 9 = true → sa.toNat / 2 ^ 5 % 2 ^ 4 = 0 → sa.toNat / 2 ^ 10 % 2 ^ 6 = 0 → sa.toNat < 2 ^ 32 → sb = 0 →
        s.classBusy (sa.toNat % 16) = false →
        done (.rdcfg d a b sp) (fun t => t.mem = s.mem ∧ t.others = s.others ∧
          assocGet RouteClass.reset t.dev.routes (sa.toNat % 16) = ⟨sa.getLsbD 4, BitVec.ofNat 16 (sa.toNat / 2 ^ 16)⟩)) ∧
      (let members := (List.range 56).filter (fun i => sb.getLsbD i)
       let root := sa.toNat / 2 ^ 10 % 2 ^ 6
       let k : BitVec 3 := sa.extractLsb' 0 3
       sa.getLsbD 9 = false → sa.toNat / 2 ^ 16 % 2 ^ 16 = 0 → sa.toNat < 2 ^ 36 → sb.toNat < 2 ^ 56 → sa.toNat / 2 ^ 4 % 8 < 5 →
        sa.toNat / 2 ^ 7 % 4 ≠ 3 → s.isYard root = true → (∀ i ∈ members, s.isYard i = true) → members ≠ [] → s.treeBusy k.toNat = false →
        done (.rdcfg d a b sp) (fun t => t.mem = s.mem ∧ t.others = s.others ∧ t.dev.tree k = if sa.getLsbD 3 then
          some ⟨sa.toNat / 2 ^ 4 % 8, sa.toNat / 2 ^ 7 % 4, root, sa.extractLsb' 32 4, members, [],
            (s.dev.tree k).bind (fun T => if T.root = root then T.total else none), []⟩ else none)))

/-- EXIT empties the strand's slot, and the team ends with its last strand (R108, R405); SPAWN starts a strand in the entry state of
R86 in the team's lowest empty slot, or answers all ones with REASON 1 (R109). Where the stacks of a paired grid's save area begin is the model's choice (log entry 59,
DESIGN CHOICE). -/
def Obligations.ExitSpawnResults : Prop :=
  ∀ (s : State) (d a b : BitVec 5) (sp : SafePoint), s.Still →
    let n := words false sp
    let entry := s.me.arch.sreg a
    let arg := s.me.arch.sreg b
    let tid := s.me.tid
    (s.me.binds = [] → (∀ x ∈ s.others, x.pos ≠ s.me.pos) →
      ∃ t, exec (.exit sp) s = .next t ∧ t.at? s.me.pos = none ∧
        (tid ≠ 0 → (∃ x ∈ s.others, x.tid = tid ∧ x.run ≠ .empty) → t.mem = s.mem ∧ t.dev.teams = s.dev.teams) ∧
        (∀ T, tid ≠ 0 → s.team tid = some T → T.resident = true → T.statWaits = [] → s.rearranging tid = false → s.others.all (fun x => x.tid != tid) = true →
          (∀ e ∈ s.yards, (∀ q ∈ e.2.actq, q.tid ≠ tid) ∧ (∀ m ∈ e.2.mailboxes, m.tid ≠ tid)) → t.team tid = none)) ∧
    (∀ T G, s.me.run = .ready → s.team tid = some T → s.grid T.grid = some G → entry.toNat % 4 = 0 →
      (s.freeIndices T G = [] → ∃ t, exec (.spawn d a b sp) s = .next t ∧ t.mem = s.mem ∧
        Delivered s t n 0 [.s d (BitVec.allOnes 64)] ∧ t.me.st.reason = 1) ∧
      (∀ i rest, s.freeIndices T G = i :: rest → i < 1024 → s.me.pos ≠ T.slotOf G.paired i →
        ∃ t x, exec (.spawn d a b sp) s = .next t ∧ t.mem = s.mem ∧ Returned s t n 0 [.s d (BitVec.ofNat 64 i)] ∧
          t.me.st.reason = 0 ∧ t.others = s.others.filter (fun u => u.pos != T.slotOf G.paired i) ++ [x] ∧ x.pos = T.slotOf G.paired i ∧ x.run = .ready ∧ x.tid = tid ∧ x.index.toNat = i ∧
          x.st = { Status.zero with paired := G.paired } ∧ x.arch.pcw = pcwOf entry ∧
          (∀ r : BitVec 5, x.arch.sreg r = if r = 1#5 then arg else if r = 2#5 then BitVec.ofNat 64 T.lin
            else if r = 3#5 then BitVec.ofNat 64 i else if r = 28#5 then 0x00FFFF0000000000 else if r = 30#5 then T.savebase + 0x2400
            else if r = 31#5 then T.savebase + BitVec.ofNat 64 (G.stackOff + 0x4000 * (i + 1)) else 0) ∧
          (∀ r, x.arch.vreg r = 0) ∧ x.arch.fpflags = 0))

/-- Device events at one strand (R57, R187, R188, R237, R484, R485): a long-latency result is written, an access whose translation is
there is made again by its strand or, where others have issued under it, completes in its window, a missing code block arrives, a
store leaves the store buffer, a result follows a moved strand, and a move ends. How younger instructions stand in the window of an access that is not settled, and
that a store has room there for 15 of them, is the model's choice (log entry 44, DESIGN CHOICE). -/
def Obligations.ArrivalEvents : Prop :=
  ∀ (s : State) (p : Pos) (x : Strand), s.Seats p x →
    let written := fun (u : Strand) (n : Nat) (r : Pending) =>
      u.arch = r.effs.foldl Arch.apply x.arch ∧ u.pending = x.pending.eraseIdx n ∧
        u.window = x.window.map (fun e => { e with base := r.effs.foldl Arch.apply e.base })
    (∀ n r, x.pending[n]? = some r → r.forwarded = false →
      Becomes (.longLatencyCompletion p n) s p (fun u _ => written u n r)) ∧
    (x.run = .walking ∨ x.run = .pageWait → s.awaits p.yidx x.who.asker = false →
      Becomes (.settle p) s p (fun u _ => u = { x with run := .ready })) ∧
    (∀ e d a n w o sp id, x.run = .ready → x.window = [e] → ({ s with me := x.standAt e 0 id } : State).Quiet → e.dests = [.s d] →
      e.safePoint = none → e.unsettled = some ⟨.ld d a n 0 w o sp, .walking, id⟩ →
      let va := e.base.sreg a
      let size := if w = 6#3 then 8 else 2 ^ (w.toNat / 2)
      let v := leValue (s.mem.readBytes va.toNat size)
      va.toNat % size = 0 → InDram va size → Becomes (.settle p) s p (fun u _ =>
        u.window = [] ∧ u.arch.pcw = x.arch.pcw ∧ u.arch.v = x.arch.v ∧ u.arch.m = x.arch.m ∧
        ∀ k, u.arch.sreg k = if k ≠ 0#5 ∧ k = d then (if w.toNat % 2 = 0 then BitVec.ofInt 64 (sLane (8 * size) v) else BitVec.ofNat 64 v)
          else x.arch.sreg k)) ∧
    (∀ va base, x.run = .fetching → x.missing = some (va, base) → x.st.sup = true → x.modes.asid = 0 → va < dramEnd →
      x.storeBuf = [] → x.arch.held = [] → x.act = none → x.pair = none → s.dev.engines = [] → s.dev.tiles = [] →
      s.dev.partials = [] → (∀ y, (s.yard y).domain = []) → Becomes (.fetchFill p) s p (fun u _ =>
        u.run = .ready ∧ u.arch = x.arch ∧
          u.fetchBuf.find? (fun b => b.1 == va / 128) = some (va / 128, s.mem.readBytes (va / 128 * 128) 128))) ∧
    (∀ st rest, x.storeBuf = st :: rest → st.mark = none → s.keyHeld st.key st.bytes.length = false → s.dev.tenReqs = [] →
      s.dev.tiles = [] →
      (isYardMem st.key = true → Reaches (.storeBufferDrain p) s (fun t => t.mem = s.mem.writeBytes st.key st.bytes ∧
        ∃ u, t.at? p = some u ∧ u.storeBuf = rest ∧ u.arch = x.arch)) ∧
      (isYardMem st.key = false → st.rel = none → x.fenceRel = none → (s.yard p.yidx).domain = [] → s.dev.partials = [] →
        st.bytes.length ≤ 128 → Reaches (.storeBufferDrain p) s (fun t =>
          (∃ u, t.at? p = some u ∧ u.storeBuf = rest ∧ u.arch = x.arch) ∧
          ∀ i, i < st.bytes.length → t.cachedByte p.yidx p.heavy (st.key + i) = st.bytes.getD i 0))) ∧
    (∀ n r, x.pending.findIdx? (fun q => q.forwarded) = some n → x.pending[n]? = some r →
      Becomes (.forwardedReply p) s p (fun u t => written u n r ∧
        (u.pending.any (fun q => q.forwarded) = false → ∀ f ∈ t.dev.forwards, f.2 ≠ p))) ∧
    (∀ e dst, x.run = .moving e dst → e ≤ s.cycle → (∀ z ∈ s.strands, z.pos ≠ dst) →
      Becomes (.migrateTransferDone p) s dst (fun u t =>
        u = { x with pos := dst, run := .ready, pending := x.pending.map (fun q => { q with forwarded := true }) } ∧
        t.at? p = none ∧ t.dev = { s.dev.follow p dst with
          forwards := s.dev.forwards ++ (if x.pending = [] then [] else [(p, dst)]) }))

/-- Device events at the heavy core (R164-R168, R171, R173-R175, R200, R201, R217, R222): the position of a cycle that goes to the
guest class dispatches and executes a packet, of which the scalar floating-point operations are stated, its result or fault reaches
the sender, a cancel packet removes work, and matrix and tile operations start and end. -/
def Obligations.HeavyCoreEvents : Prop :=
  ∀ (s : State) (y : Nat),
    let H := (s.yard y).heavy
    let done := fun (k : Packet) (e : List RegEff) => (⟨k.pos, k.seq, y, .done e⟩ : Reply)
    (∀ q k x d r, s.ownsPosition y = some false → s.resumable y = none →
      H.heads.filter (fun h => s.dispatchable y h.2 && !H.sent.contains h.1) = [(q, k)] → s.Seats k.pos x →
      k.pos.core < 128 → k.dests = [.s d] →
      let mode := RMode.ofCode k.rmode.toNat
      let a := slotNat k.opnd
      let f := FFmt.f64.value
      ((∃ n, k.op = .dfp n ∧ r = f64Op n.toNat mode (a 0) (a 1)) ∨
        (∃ n, k.op = .f32 n ∧ r = f32Op n.toNat mode (a 0 % 2 ^ 32) (a 1 % 2 ^ 32)) ∨
        (k.op = .dfma ∧ r = FFmt.f64.dest.fma mode (f (a 0)) (f (a 1)) (f (a 2)))) →
      Reaches (.guestDispatch y) s (fun t => t.mem = s.mem ∧
        (t.yard y).heavy.replies = H.replies ++ [match fpCause k.nve k.dze k.nanmode r.2 with
          | some c => ⟨k.pos, k.seq, y, .fault c 0 none⟩
          | none => done k [.s d (BitVec.ofNat 64 r.1), .flags r.2.bits (!k.nanmode)]] ∧
        (∀ j ∈ (t.yard y).heavy.queue, j.pos = k.pos → j.seq ≠ k.seq) ∧ (t.yard y).heavy.sent = H.sent ++ [k.pos.core] ∧
        (t.yard y).heavy.slotNo = H.slotNo + 1 ∧
        (t.yard y).heavy.cg = (if H.co = 0 ∧ H.cg = 0 then max 1 ((s.yard y).regs.share.toNat / 16 % 16) else H.cg) - 1)) ∧
    (∀ p x e r, s.Seats p x → s.reply? p r.seq = some r → x.pair = none →
      (∀ effs, r.body = .done effs → x.window = [e] → e.seq = r.seq → e.done = false → x.st.safereq = false → x.arch.held = [] →
        let a := (effs.map (x.arch.merge e.mask)).foldl Arch.apply x.arch
        Becomes (.shippedCompletion p r.seq) s p (fun u _ =>
          u.window = [] ∧ u.arch.s = a.s ∧ u.arch.v = a.v ∧ u.arch.m = a.m ∧ u.arch.pcw = a.pcw ∧ u.arch.fpflags = a.fpflags)) ∧
      (∀ cause faddr rest, r.body = .fault cause faddr none → x.window = e :: rest → e.seq = r.seq → e.done = false →
        x.pending = [] → cause ≠ 0x50 → p.heavy = false →
        let migrates := trapMigrates (s.yard p.yidx).regs.trapmig (0x80 ||| cause)
        Becomes (.shippedFault p r.seq) s p (fun u t =>
          u.window = [] ∧ u.trap = ⟨0x80 ||| cause, e.base.pcw.extractLsb' 0 54, faddr, e.ilen, BitVec.ofNat 4 (e.la - e.left),
            BitVec.ofNat 6 r.hyidx, r.seq⟩ ∧
          (migrates = false → u.run = .parkedTrap false ∧ u.arch = e.base ∧ u.st = x.st ∧
            (t.yard p.yidx).notes = (s.yard p.yidx).notes ++ [p]) ∧
          (migrates = true → u.arch = { e.base with pcw := pcwOf (s.yard p.yidx).regs.evbase } ∧
            u.st = { x.st with sup := true, migt := true } ∧
            u.run = match s.ownFor p.yidx with
              | some o => .moving (s.cycle + 48) o
              | none => .trapWait)))) ∧
    (∀ c rest, H.cancels = c :: rest →
      let hit := fun (k : Packet) => k.pos == c.pos && c.seqs.contains k.seq
      ((∀ x, s.at? c.pos = some x → x.stopped = false) → Reaches (.cancelPacket y) s (fun t => t.mem = s.mem ∧ t.me = s.me ∧
        t.others = s.others ∧ (t.yard y).heavy = { H with
          queue := newHeads H.queue (H.queue.filter (fun k => !hit k)) s.cycle
          running := H.running.filter (fun k => !(hit k && s.packetParked k)), cancels := rest })) ∧
      (∀ x e more, s.Seats c.pos x → x.stopped = true → x.window = e :: more → (∃ k ∈ H.queue, hit k = true ∧ k.seq = e.seq) →
        Becomes (.cancelPacket y) s c.pos (fun u _ => u.window = [] ∧ u.arch.s = e.base.s ∧ u.arch.v = e.base.v ∧
          u.arch.m = e.base.m ∧ u.arch.pcw = e.base.pcw))) ∧
    (∀ m rest j, H.matq = m :: rest → H.freePipe = some j → Reaches (.matrixPipeStart y) s (fun t => t.mem = s.mem ∧
      (t.yard y).heavy = { H with matq := rest, pipes := H.pipes ++ [(j, m)] })) ∧
    (∀ j k slot x d a b sat cd ca cb D A B, H.pipes.find? (fun e => e.1 == j) = some (j, ⟨k, slot⟩) → s.Seats k.pos x →
      k.pos.heavy = false → x.home.yidx = y → k.op = .mma d a b sat → k.nve = false → k.dze = false → k.nanmode = false →
      (x.tile d).cfg = some cd → (x.tile a).cfg = some ca → (x.tile b).cfg = some cb →
      (H.tileOf x.home d.toNat).map (fun p => p.data) = some D → (H.tileOf x.home a.toNat).map (fun p => p.data) = some A →
      (H.tileOf x.home b.toNat).map (fun p => p.data) = some B →
      let rows := fun (c : TileCfg) (T : TileData) => (List.range c.rows).map (TileData.row T c)
      let m := x.fmt.product sat (rows ca A) (rows cb B) (rows cd D)
      Reaches (.matrixCompletion y j) s (fun t => t.mem = s.mem ∧
        (t.yard y).heavy.replies = H.replies ++ [done k [.flags m.fl.bits true]] ∧
        ((t.yard y).heavy.tileOf x.home d.toNat).map (fun p => p.data) = some (TileData.ofRows cd.et.size m.rows) ∧
        (t.yard y).heavy.pipes = H.pipes.filter (fun f => f.1 != j))) ∧
    (∀ o rest, H.transfers = o :: rest → Reaches (.tileTransferCompletion y) s (fun t => t.mem = s.mem ∧
      (t.yard y).heavy = { H with transfers := rest, replies := H.replies ++ [o.reply] }))

/-- Device events of waits, activations and clocks (R45, R115, R234, R241, R249, R320-R324, R381): a waiting strand looks again, an
activation starts in a slot of its team, the statistics are gathered, and mirrors and penalties follow. Which cores' counters a gather takes is the model's choice (log entry 72, DEDUCED). -/
def Obligations.WaitEvents : Prop :=
  ∀ (s : State) (p : Pos) (x : Strand) (y : Nat), s.Seats p x →
    let woken := fun (u : Strand) (_ : State) => u = { x with run := .ready }
    let begun := fun (i : Instr) (t : Team) (g : Grid) (n : Nat) (entry arg : Word) (src : ActSource) (q : State → Prop) =>
      Becomes i s (t.slotOf g.paired n) (fun u v => u.run = .ready ∧ u.tid = t.tid ∧ u.st.act = true ∧ u.arch.pcw = pcwOf entry ∧
        u.arch.sreg 1 = arg ∧ u.act.map (fun a => (a.src, a.hold, a.mdone)) = some (src, [], false) ∧ q v)
    (x.run.isTimed = true →
      ((s.yard p.yidx).watches.any (fun w => w.pos == p && w.woken) = true → Becomes (.watchWake p) s p woken) ∧
      (∀ w, x.wait = some w →
        ((s.yard p.yidx).watches.any (fun w => w.pos == p) = false → w.pollAt ≤ s.cycle → Becomes (.watchPoll p) s p woken) ∧
        (w.over s.cycle = true → Becomes (.waitDeadline p) s p woken))) ∧
    (∀ w, x.run = .waiting .waiti → x.wait = some w → w.over s.cycle = true → Becomes (.waitiTimeout p) s p woken) ∧
    (∀ a t g n entry arg sc, s.nextActivation y = some (a, t, g, n) → s.activationEntry y a.src = some (entry, arg, sc) →
      begun (.activationStart y) t g n entry arg a.src (fun v => (v.yard y).actq = (s.yard y).actq.erase a)) ∧
    (∀ cls m t g off rest n, (s.yard y).mailbox cls = some m → s.team m.tid = some t → s.grid t.grid = some g →
      m.unstarted = off :: rest → m.running = false → t.mmask.getLsbD cls.toNat = false → t.where_ = .placed → t.killed = false → t.yidx = y →
      (s.freeIndices t g).head? = some n →
      begun (.handlerActivation y cls) t g n m.entry (BitVec.ofNat 64 (0x00FFFF0000000000 + m.mb + off)) (.message cls off)
        (fun v => (v.yard y).mailbox cls = some { m with unstarted := rest, running := true })) ∧
    (∀ tid t off rest k, s.MemOk → s.team tid = some t → t.resident = true → t.statWaits = off :: rest →
      s.teamStrands tid ≠ [] → s.keyHeld (s.windowKey tid off) 64 = false → s.areaKey t 0x40 = some k →
      let cores := (t.cores.map (fun c => (t.yidx, false, c)) ++ (s.teamStrands tid).map (fun x => coreKey x.pos)).eraseDups
      let sum := fun (f : EvCounts → Nat) => (cores.map (fun c => f (s.core c).ev)).sum
      let at_ := fun (u : State) (i : Nat) => leValue (u.mem.readBytes (k + 8 * i) 8)
      Reaches (.statGather tid) s (fun u => (∀ c ∈ cores, (u.core c).ev = EvCounts.zero) ∧
        (u.team tid).map (fun t => t.statWaits) = some rest ∧
        at_ u 5 = (s.visiblePhase tid off (s.windowKey tid off) + 1) % 2 ^ 32 ∧
        ∀ e ∈ [(0, fun (e : EvCounts) => e.nv), (1, fun e => e.dz), (2, fun e => e.ofl), (3, fun e => e.uf), (4, fun e => e.np)],
          at_ u e.1 = min (at_ s e.1 + sum e.2) (2 ^ 64 - 1))) ∧
    (∀ k, (s.yard y).skews.find? (fun k => k.busyUntil != 0 && k.busyUntil ≤ s.cycle) = some k → s.teamOver k.tid = false →
      Reaches (.skewRearrangeDone y) s (fun t => t.mem = s.mem ∧ (t.yard y).skews =
        if k.leaving then (s.yard y).skews.erase k else (s.yard y).skews.map (fun j => if j = k then { j with busyUntil := 0 } else j))) ∧
    (∀ m, s.dev.mirrorMsgs.find? (fun m => m.due ≤ s.cycle) = some m → Reaches .mirrorUpdate s (fun t => t.mem = s.mem ∧
      t.dev.mirrorMsgs = s.dev.mirrorMsgs.erase m ∧ (assocGet [] t.dev.mirrors m.stop).getLast? = some m.entry)) ∧
    (∀ tenant due count floor rest, (s.func tenant).closing = (due, count, floor) :: rest → due ≤ s.cycle →
      let F := s.func tenant
      let hon := min count 65536
      Reaches (.penaltyUpdate tenant) s (fun t => t.mem = s.mem ∧ (t.func tenant).closing = rest ∧
        (t.func tenant).nuHonLast = hon ∧ (t.func tenant).nuWin = F.nuWin + 1 ∧ (t.func tenant).nupen =
          if hon < floor ∧ F.nupen.toNat < 7 then F.nupen + 1 else if floor < hon ∧ 0 < F.nupen.toNat then F.nupen - 1 else F.nupen))

/-- Device events of tenure and translation (R271-R274, R300, R352, R355-R357): the one request at the homes is granted or what stands
against it recalled, downgraded or combined, a yard answers a drain request, walks end with an entry or a failure, the host answers
Translation Requests and page requests, and invalidations come and complete. That a registered tile's bytes stand in memory at all times, so that a recall or a downgrade moves
none, is the model's choice (log entry 22, DEDUCED). -/
def Obligations.TenureTranslationEvents : Prop :=
  ∀ (s : State) (asid : BitVec 16) (page : Nat),
    (∀ r T, s.dev.tenReqs = [r] → r.done = false → s.tile r.asid r.index = some T →
      (T.conflict r.agent r.kind r.grant r.spans = none →
        exec .tenureGrant s = .next { s with dev := { s.dev with
          tiles := if r.grant then s.dev.tiles.map (fun t =>
            if t.asid = r.asid && t.index = r.index then t.grant r.agent r.kind r.spans else t) else s.dev.tiles
          tenReqs := [{ r with done := true }] } }) ∧
      (∀ q h act, T.conflict r.agent r.kind r.grant r.spans = some (q, h, act) → q.lo < q.hi → T.pieces = [q] →
        T.desc.split = false → s.dev.partials = [] → Reaches .recall s (fun t => t.mem = s.mem ∧
          (t.tile r.asid r.index).map (fun U => U.pieces) = some [match act with
            | .recall => q.setKind h none
            | .downgrade => q.setKind h (some .s)
            | .combine => { q with held := q.held.filter (fun g => g.2 != .a) }]))) ∧
    (∀ q e more rest, s.dev.acquires = q :: rest → q ∉ rest → q.asks = e :: more → (∀ z, (s.yard z).domain = []) →
      Reaches .drainRequest s (fun t => t.mem = s.mem ∧
        t.dev.acquires = (if more = [] then rest else { q with asks := more } :: rest) ∧
        (more = [] → (t.core (coreKey q.w.pos)).l1 = []) ∧
        (t.yard e.1).drained = (let Y := s.yard e.1; if serialBefore Y.drained Y.epoch then Y.epoch else Y.drained))) ∧
    (∀ y n w, (s.yard y).walks[n]? = some w → n < 8 → (s.yard y).walkWait = [] →
      (s.yard y).tlb.find? (fun e => e.maps w.asid w.va.toNat && !e.ats) = none →
      (∀ v ∈ (s.yard y).walks, v.askers ≠ [] ∧ ∀ a ∈ v.askers, ∃ p h id, a = .strand p h id ∧ p.yidx = y) →
      (∀ e, s.walk w.asid w.va.toNat = some e → e.maps w.asid w.va.toNat = true →
        (e.hostLeaf = false → Reaches (.pageWalk y n) s (fun t => t.mem = s.mem ∧ (t.yard y).tlb.head? = some e ∧
          (t.yard y).walks = (s.yard y).walks.filter (fun v => !e.maps v.asid v.va.toNat) ∧
          (t.yard y).endedWalks = (s.yard y).endedWalks ∧
          ∀ p id, .strand p false id ∈ w.askers → (t.core (coreKey p)).utlb.head? = some { e with pinned := false })) ∧
        (e.hostLeaf = true → Reaches (.pageWalk y n) s (fun t => t.mem = s.mem ∧ (t.yard y).tlb = (s.yard y).tlb ∧ t.cores = s.cores ∧
          (t.yard y).walks = (s.yard y).walks.filter (fun v => !e.maps v.asid v.va.toNat) ∧
          (t.yard y).endedWalks = (s.yard y).endedWalks ++
            ((s.yard y).walks.filter (fun v => e.maps v.asid v.va.toNat)).map (fun v => ⟨v, some e⟩)))) ∧
      (s.walk w.asid w.va.toNat = none → Reaches (.pageWalk y n) s (fun t => t.mem = s.mem ∧
        (t.yard y).tlb = (s.yard y).tlb ∧
        (t.yard y).walks = (s.yard y).walks.filter (fun v => !v.covers w.asid w.va.toNat) ∧
        (t.yard y).endedWalks = (s.yard y).endedWalks ++
          ((s.yard y).walks.filter (fun v => v.covers w.asid w.va.toNat)).map (fun v => ⟨v, none⟩)))) ∧
    (∀ q v r w hpa bits, s.dev.pageReqs.find? (fun q => q.asid == asid && q.page == page && q.waiters.any PageWaiter.translating) = some q →
      q.waiters = [v] → (∀ z ∈ s.dev.pageReqs, z.waiters ≠ []) → 12 ≤ bits → bits ≤ 31 →
      (∀ p h id, v.who = .strand p h id → (v.read = true → r = true) → (v.write = true → w = true) → (r || w) = true →
        let b := min bits v.leaf.bits
        let e' := { v.leaf with vpage := page * 4096 / 2 ^ b, bits := b, ppage := hpa / 2 ^ b, hostR := r, hostW := w, ats := true, pinned := false }
        Reaches (.atsCompletion asid page r w hpa bits) s (fun t => t.mem = s.mem ∧
          t.dev.pageReqs = s.dev.pageReqs.filter (fun z => z != q) ∧ (t.yard p.yidx).tlb.head? = some e')) ∧
      (v.who.isPrefetch = false → v.read = true ∨ v.write = true →
        Reaches (.atsCompletion asid page false false hpa bits) s (fun t => t.mem = s.mem ∧
          t.dev.pageReqs = s.dev.pageReqs.map (fun z => if z = q then
            { q with waiters := [if v.tries < 2 then { v with asked := false, pri := true }
              else { v with asked := false, failed := true }] } else z) ∧
          (v.tries < 2 → (asid, page) ∈ t.dev.pageFaults)))) ∧
    ((asid, page) ∈ s.dev.outstanding →
      let answered := fun (f : PageWaiter → PageWaiter) => { s with dev := { s.dev.mapReq asid page (fun v => some (if v.pri then f v else v)) with
          pageFaults := s.dev.pageFaults.filter (fun q => q != (asid, page)) } }
      Reaches (.priSuccess asid page) s (fun t => t.mem = s.mem ∧
        t.dev = (answered (fun v => { v with
          pri := false, tries := v.tries + 1, asked := s.standingLeaf v.who v.leaf, since := s.cycle })).dev ∧
        (page < 2 ^ 44 → ∀ z ∈ s.dev.pageReqs, z.asid = asid → z.page = page → ∀ v ∈ z.waiters, v.pri = true →
          s.standingLeaf v.who v.leaf = false → askedFor ((t.yard (s.askerYard v.who)).walks ++ (t.yard (s.askerYard v.who)).walkWait)
            v.who asid (page * 4096) = true)) ∧
      exec (.priInvalidRequest asid page) s = .next (answered (fun v => { v with pri := false, failed := true })) ∧
      (let ours := fun (a : BitVec 16) => s.tenantOf a = s.tenantOf asid
       Reaches (.priResponseFailure (s.tenantOf asid)) s (fun t => t.mem = s.mem ∧ (∀ f ∈ t.dev.pageFaults, ¬ours f.1) ∧
        (∀ z ∈ t.dev.pageReqs, ours z.asid → ∀ v ∈ z.waiters, v.pri = false) ∧
        ∀ z ∈ s.dev.pageReqs, ours z.asid → ∀ v ∈ z.waiters, v.pri = true → v.who.isPrefetch = false →
          ∃ z' ∈ t.dev.pageReqs, z'.asid = z.asid ∧ z'.page = z.page ∧ { v with pri := false, failed := true } ∈ z'.waiters))) ∧
    (∀ tenant pasid base len, s.dev.invals.length < 32 →
      let hit := fun (e : TlbEntry) => e.ats && (s.spaceOf e.asid).tenant == tenant && (s.spaceOf e.asid).pasid == pasid &&
        decide (e.vpage * 2 ^ e.bits < base + len) && decide (base < (e.vpage + 1) * 2 ^ e.bits)
      Reaches (.atsInvalidateRequest tenant pasid base len) s (fun t => t.mem = s.mem ∧
        t.dev.invals = s.dev.invals ++ [⟨tenant, pasid, base, len, s.tlbEntries hit⟩] ∧
        (∀ z, (t.yard z).tlb = (s.yard z).tlb.filter (fun e => !hit e)) ∧
        ∀ k, (t.core k).utlb = (s.core k).utlb.filter (fun e => !hit e))) ∧
    (∀ v rest, s.dev.invals = v :: rest → s.usesOf v.gone = false →
      exec .invalidateCompletion s = .next { s with dev := { s.dev with invals := rest } })

/-- Device events of the mesh, of messages and of reduction trees (R365, R368, R371, R372, R378, R379, R383, R386): the one candidate
of a port moves on or arrives, messages are placed, refused or held, answers reach their strands, rounds combine, and routers power
down and up. -/
def Obligations.MeshEvents : Prop :=
  ∀ (s : State) (stop : Nat),
    let r := s.router stop
    (∀ port k, r.power = .up → (assocGet Port.reset r.ports port).freeAt ≤ s.cycle → s.candidates stop port = [k] → k.vc < 12 → Reaches (.portArbitration stop port) s (fun t =>
      t.mem = s.mem ∧ t.me = s.me ∧
        match nextHop stop k.dst, k.body with
        | some _, _ => t.dev.net.getLast? = some k.moved ∧ t.dev.msgs = s.dev.msgs ∧ t.dev.answers = s.dev.answers
        | none, .message m => t.dev.msgs = s.dev.msgs ++ [m] ∧ t.dev.answers = s.dev.answers
        | none, .answer a => t.dev.answers = s.dev.answers ++ [a] ∧ t.dev.msgs = s.dev.msgs
        | none, .vector n v => t.dev.trees = s.dev.trees.map (fun e => if e.1 = n then (n, e.2.arrive stop k.input v) else e)
        | none, .traffic b => t.dev.msgs = s.dev.msgs ∧ t.dev.answers = s.dev.answers ∧
          ∀ dst vc flits, b = some (dst, vc, flits) →
            t.dev.net.getLast?.map (fun q => (q.stop, q.dst, q.vc, q.flits, q.body)) = some (stop, dst, vc, flits, .traffic none))) ∧
    (∀ (k : BitVec 3) T vs, s.dev.tree k = some T → r.power = .up →
      let ports := (List.range 5).filter (fun i => (s.treePorts T).contains (stop, i))
      ports ≠ [] → T.roundAt ports stop = some vs →
      let rest := dropRound stop ports T.bufs
      let acc := redAll T.typ T.op vs
      (∀ n p die, nextHop stop (s.yardStop T.root) = some (n, p, die) → s.dev.localRoom stop 10 2 = true →
        Reaches (.reductionRound k.toNat stop) s (fun t => t.mem = s.mem ∧ t.dev.tree k = some { T with bufs := rest } ∧
          t.dev.net.getLast?.map (fun q => (q.stop, q.dst, q.vc, q.flits, q.body)) = some (stop, n, 10, 2, .vector k.toNat acc))) ∧
      (nextHop stop (s.yardStop T.root) = none → T.total = none → T.devices = [] → Reaches (.reductionRound k.toNat stop) s (fun t =>
        t.mem = s.mem.writeBytes (rootSlot T.root k.toNat) (leBytes 64 acc.toNat) ∧
          t.dev.tree k = some { T with bufs := rest, total := some acc }))) ∧
    (stop < 64 →
      (r.power = .up → r.idleSince + 2048 ≤ s.cycle → r.upUntil ≤ s.cycle → s.wanted stop = false →
        s.treeOpenAt stop = false → exec (.routerPowerDown stop) s = .next { s with dev := s.dev.putRouter stop { r with power := .down } }) ∧
      (∀ sup, r.power = .down → sup = true ∨ s.wanted stop = true → exec (.routerWake stop sup) s =
        .next { s with dev := s.dev.putRouter stop { r with power := .waking (s.cycle + 40), upUntil := s.cycle + 256 } })) ∧
    (∀ e, r.power = .waking e → e ≤ s.cycle →
      exec (.routerReady stop) s = .next { s with dev := s.dev.putRouter stop { r with power := .up } }) ∧
    (∀ (i : Instr) (m : Msg),
      let Y := s.yard m.dst
      let answered := fun (c : Nat) (t : State) => ∀ q, m.src = some q → t.dev.net.getLast?.map (fun k => k.body) = some (.answer ⟨q, c, m.cls⟩)
      let placed := fun (mb : Mailbox) (t : State) => answered 0 t ∧
        (t.yard m.dst).mailbox m.cls = some { mb with unstarted := mb.unstarted ++ [(s.mbCtl mb).wr] }
      let room := fun (mb : Mailbox) => let c := s.mbCtl mb
        c.wr + 8 + m.payload.length ≤ mb.size ∧ c.used + 8 + m.payload.length ≤ mb.size - 64 ∧
          s.windowHeld mb.tid mb.mb mb.size = false
      (i = .messageArrival .mesh ∧ s.dev.msgs.find? (fun m => !m.remote && (m.dst != 63 || s.dev.hostLinkUp)) = some m ∨
        ∃ dev tenant, i = .messageArrival (.peer m.cls m.srcy m.dst dev tenant m.payload) ∧ s.dev.boot.phase = 5 ∧
          (∃ l ∈ s.dev.links, l.2 = dev) ∧ (if m.dst = 63 then s.dev.hostLinkUp = true else s.isYard m.dst = true) ∧ m.payload.length % 8 = 0 ∧ 8 ≤ m.payload.length ∧
          m.payload.length ≤ 256 ∧ m.src = none ∧ m.remote = true) →
        (m.dst ≠ 63 → Y.mailbox m.cls = none → Reaches i s (fun t => t.mem = s.mem ∧ answered 2 t)) ∧
        (m.dst = 63 → (s.func m.tenant.toNat).eqsize = 0 → i = .messageArrival .mesh → Reaches i s (fun t => t.mem = s.mem ∧ answered 2 t)) ∧
        (∀ mb, m.dst ≠ 63 → Y.mailbox m.cls = some mb → (∀ h ∈ Y.heldMsgs, h.cls ≠ m.cls) → room mb → Reaches i s (placed mb))) ∧
    (∀ (y : Nat) (cls : BitVec 4) (m : Msg), (s.yard y).heldOf cls = some m →
      let answered := fun (c : Nat) (t : State) => (∀ q, m.src = some q →
        t.dev.net.getLast?.map (fun k => k.body) = some (.answer ⟨q, c, m.cls⟩)) ∧ (t.yard y).heldMsgs = (s.yard y).heldMsgs.erase m
      (∀ mb, (s.yard y).mailbox cls = some mb →
        let c := s.mbCtl mb
        (c.wr + 8 + m.payload.length ≤ mb.size → c.used + 8 + m.payload.length ≤ mb.size - 64 →
          s.windowHeld mb.tid mb.mb mb.size = false → Reaches (.heldMessagePlaced y cls) s (fun t => answered 0 t ∧
            (t.yard y).mailbox cls = some { mb with unstarted := mb.unstarted ++ [c.wr] })) ∧
        (m.since + s.mbWait mb ≤ s.cycle → s.windowHeld mb.tid mb.mb mb.size = false → s.placeable y mb m = false → Reaches (.mailboxWaitExpiry y cls) s (answered 1))) ∧
      ((s.yard y).mailbox cls = none → Reaches (.mailboxWaitExpiry y cls) s (fun t => answered 2 t ∧ t.mem = s.mem))) ∧
    (∀ p x n code a, s.Seats p x → s.dev.answers.find? (fun a => a.src == (p, n) && a.code == code) = some a →
      Becomes (.messageAnswer p n code) s p (fun u t => u.answers = x.answers ++ [(n, code)] ∧ u.arch = x.arch ∧
        u.run = (if x.run = .answerWait then .ready else x.run) ∧ t.dev.answers = s.dev.answers.erase a))

/-- Device events of copy engines, of other devices and of the host (R6, R304, R305, R331, R409, R412-R415, R421-R423, R428, R429): a
transfer starts, moves a destination line, completes or fails, and what other devices and the host write arrives. That EQBASE drops
bits below a 64-byte boundary and that EQSIZE keeps its value for a size that R421 does not list are the model's choices (log entry
68), and so are host memory as a part of memory (17, DESIGN CHOICE), physical addresses of host accesses (18, DEDUCED), the line-by-line
order of a transfer (28, DEDUCED), and that a device's number is zero until it is set (73, DESIGN CHOICE). -/
def Obligations.TransferHostEvents : Prop :=
  ∀ s : State,
    let plain := s.dev.tiles = [] ∧ s.dev.poison = [] ∧ s.dev.partials = []
    let open_ := s.dev.engines = [] ∧ (∀ z ∈ s.yards, z.2.skews = [])
    (∀ e T rest, (s.engine e).queue = T :: rest → s.transferHeld e T = false → s.tenureReady e T = true →
      let copies := fun (t : State) (dst src n : Nat) =>
        ∀ k, t.mem.read k = if dst ≤ k ∧ k < dst + n then s.mem.read (src + (k - dst)) else s.mem.read k
      (∀ data, T.state = 1 → exec (.transferStart ⟨e, data⟩) s =
        .next { s with dev := s.dev.putEngine e { s.engine e with queue := { T with state := 2 } :: rest } }) ∧
      (T.state = 2 → s.team T.tid = none → s.isFrozen T.tenant.toNat = false →
        (s.MemOk → plain → (∀ z, (s.yard z).domain = []) → ctlDir T.ctl = 0 → T.asid = 0 → T.dstDesc = none →
          T.dst.toNat + T.len ≤ dramEnd → T.src.toNat + T.len ≤ dramEnd → T.line = none →
          (∀ p, (T.units.drop T.cursor).head? = some [p] → Reaches (.transferStart ⟨e, []⟩) s (fun t => copies t p.dst p.src p.n ∧
            (t.engine e).queue.map (fun u => (u.serial, u.cursor, u.left)) =
              (T.serial, T.cursor + 1, T.left - p.n) :: rest.map (fun u => (u.serial, u.cursor, u.left)))) ∧
          (T.cursor = 0 → T.comp = 0 → Reaches (.transferComplete e []) s (fun t => copies t T.dst.toNat T.src.toNat T.len ∧
            (t.engine e).queue = rest.filter (fun u => u.serial != T.serial) ∧
            (t.engine e).history.getLast? = some { T with state := 0, left := 0 }))) ∧
        (∀ c, s.transferCause e T = some c → Reaches (.transferFailed e none) s (fun t => ∃ n,
          (t.engine e).history.getLast? = some { T with state := 3, cause := c, left := n, cursor := 0, line := none } ∧
          (t.engine e).queue = rest.filter (fun u => u.serial != T.serial)))) ∧
      (T.state = 1 → s.team T.tid = none → s.isFrozen T.tenant.toNat = true → Reaches (.transferFailed e none) s (fun t =>
        (t.engine e).history.getLast? = some { T with state := 3, cause := 0x16, cursor := 0, line := none } ∧
        (t.engine e).queue = rest.filter (fun u => u.serial != T.serial)))) ∧
    (∀ dev : BitVec 16, (s.dev.engines.map (fun e => e.1)).Nodup → s.linked dev.toNat = false →
      (∃ u ∈ s.queuedTransfers, ctlDir u.2.ctl ≠ 0 ∧ ctlDev u.2.ctl = dev.toNat) → Reaches (.remotePathLoss dev) s (fun t =>
        ∀ u ∈ t.queuedTransfers, ctlDir u.2.ctl = 0 ∨ ctlDev u.2.ctl ≠ dev.toNat)) ∧
    (∀ (dev asid : BitVec 16) (tenant : BitVec 4) (va v : Word) (bytes : List Byte) (k : Nat), s.dev.boot.phase = 5 →
      s.linked dev.toNat = true → plain → open_ →
      (s.dev.exportedTo tenant = some asid →
        (s.exported asid va.toNat bytes.length .store = some [(k, bytes.length)] →
          exec (.sertenPut dev tenant va bytes) s = .next { s with mem := s.mem.writeBytes k bytes }) ∧
        (s.addTarget asid 0 va.toNat = .ok k → Reaches (.sertenCounterAdd dev tenant va v) s (fun t =>
          t.mem = s.mem.writeBytes k (leBytes 8 (min (s.counter k + v.toNat) (2 ^ 64 - 1)))))) ∧
      (∀ n, exec (.sertenGet dev tenant va n) s = .next s) ∧
      (s.dev.exportedTo tenant = none →
        exec (.sertenPut dev tenant va bytes) s = .next s ∧ exec (.sertenCounterAdd dev tenant va v) s = .next s)) ∧
    (∀ port dev, port < 8 → exec (.portLinkChange port dev) s = .next { s with dev := { s.dev with
      links := s.dev.links.filter (fun l => l.1 != port) ++ dev.toList.map (fun n => (port, n.toNat)) } }) ∧
    (∀ pa bytes n, s.dev.boot.phase = 5 → plain → open_ →
      (bytes ≠ [] → pa + bytes.length ≤ dramEnd →
        exec (.hostMemoryWrite pa bytes false) s = .next { s with mem := s.mem.writeBytes pa bytes } ∧
        ((∀ y, (s.yard y).mailbox 15 = none) → Reaches (.hostMemoryWrite pa bytes true) s (fun t => t.mem = s.mem.writeBytes pa bytes ∧
          ∀ i, i < bytes.length → (pa + i) / 64 ∈ t.dev.poison))) ∧
      (pa + n ≤ dramEnd → exec (.hostMemoryRead (.memory pa) n) s = .next s) ∧
      (∀ f, f < 16 → pa + n ≤ 0x10000 → exec (.hostMemoryRead (.bar f pa) n) s = .next s)) ∧
    (∀ f n v, f < 16 → n < 512 →
      (∀ a k, s.dev.boot.phase = 5 → plain → open_ → (s.func f).aliases.find? (fun a => a.n == n) = some a →
        s.addTarget a.asid a.tid a.va.toNat = .ok k → Reaches (.hostCounterAdd f n v) s (fun t =>
          t.mem = s.mem.writeBytes k (leBytes 8 (min (s.counter k + v.toNat) (2 ^ 64 - 1))))) ∧
      (s.dev.boot.phase ≠ 5 ∨ (s.func f).aliases.find? (fun a => a.n == n) = none → exec (.hostCounterAdd f n v) s = .next s)) ∧
    (∀ f size v, f < 16 →
      (s.dev.boot.phase = 5 → Reaches (.eqConfigWrite f size v) s (fun t => t.mem = s.mem ∧ t.func f =
        { s.func f with
          eqwr := 0, eqrd := 0, eqlost := 0, eqbase := if size then (s.func f).eqbase else BitVec.ofNat 64 (v.toNat / 64 * 64),
          eqsize := if size ∧ (v = 0 ∨ ∃ i, i ≤ 12 ∧ v.toNat = 16 * 2 ^ i) then v else (s.func f).eqsize })) ∧
      (s.dev.boot.phase ≠ 5 → exec (.eqConfigWrite f size v) s = .next s)) ∧
    (∀ f ev rest, (s.func f).backlog = ev :: rest → (s.func f).eqsize ≠ 0 → (s.func f).ringFull = false → s.dev.hostLinkUp = true →
      let F := s.func f
      Reaches (.eventBacklogDrain f) s (fun t => (t.func f).backlog = rest ∧ (t.func f).eqwr = F.eqwr + 1 ∧
        t.mem = s.mem.writeBytes (hostKey (F.eqbase.toNat + 320 * (F.eqwr.toNat % F.eqsize.toNat))) ev.bytes)) ∧
    (∀ f v off n,
      (s.dev.boot.phase = 5 → f < 16 →
        Reaches (.registerWrite (.bar f 0x2018 8) v) s (fun t => t.mem = s.mem ∧ t.func f = { s.func f with eqrd := v }) ∧
        (n ≠ 8 ∨ off % 8 ≠ 0 → exec (.registerWrite (.bar f off n) v) s = .next s)) ∧
      (s.dev.boot.phase = 5 →
        exec (.registerWrite .plim v) s = .next (if v.toNat < s.dev.boot.plim then
          { s with dev := { s.dev with boot := { s.dev.boot with plim := max 1500 v.toNat } } } else s) ∧
        exec (.registerWrite .deviceId v) s = .next { s with dev := { s.dev with devId := v.toNat % 2 ^ 16 } } ∧
        (∀ (k : BitVec 3) T devices, s.dev.tree k = some T → s.treeBusy k.toNat = false →
          Reaches (.registerWrite (.tree k.toNat devices) v) s (fun t => t.mem = s.mem ∧
            t.dev.tree k = some { T with devices := devices }))) ∧
      (s.dev.boot.phase = 2 →
        exec (.registerWrite .imgbase v) s = .next { s with dev := { s.dev with boot := { s.dev.boot with imgbase := v } } } ∧
        exec (.registerWrite .imglen v) s = .next { s with dev := { s.dev with boot := { s.dev.boot with imglen := v } } }))

/-- Device events of the launch path and of the yard schedulers: records of host queues and of a yard's queue are admitted, with a
save area for each team that no other has, and an empty entry is filled from an overflow area, which counts as passed for the others
(R394-R396, R401); a placement gives the first team in the scheduler's order its cores and its strands their entry state (R86, R397);
a waiting team ages (R398); a quantum and a park expire (R399, R322), and a team leaves: what has not stopped when K.SAFEWAIT is over is
stopped, and the save keeps every strand (R402). The supervisor's save areas (log entry 11, DESIGN CHOICE) and the overflow area that
fills a queue (41, DEDUCED) are arguments of their events, and the layout of a paired grid's area is the model's (59, DESIGN CHOICE). -/
def Obligations.SchedulerEvents : Prop :=
  ∀ s : State,
    let admitted := fun (r : Record) (asid : BitVec 16) (queue : Option (Nat × Nat × Nat)) (bases : List Word) (t : State) =>
      let g := r.grid s.dev.nextGrid asid queue
      let tids := s.newTids bases.length
      t.dev.grids = s.dev.grids ++ [g] ∧
        t.dev.teams = s.dev.teams ++ (bases.zip tids).zipIdx.map (fun e => Team.admitted e.1.2 g e.2 e.1.1 s.cycle)
    let order := fun (r : Record) (asid : BitVec 16) (bases : List Word) (u : State) =>
      let n := (r.grid 0 asid none).areaSize
      r.valid (s.spaceOf asid).tenant = true ∧ bases ≠ [] ∧ bases.length = r.teams ∧
        (∀ b ∈ bases, u.areaMapped asid b.toNat n = true) ∧
        bases.Pairwise (fun a b => runsApart (u.runsOf asid a.toNat n) (u.runsOf asid b.toNat n) = true)
    (∀ f q Q hdr k bases, (s.func f).queues.find? (fun e => e.1 == q) = some (q, Q) → s.queueKey Q 0 = some hdr →
      s.dev.boot.phase = 5 → (s.func f).frozen = false → Q.taken < s.counter hdr →
      s.queueKey Q (64 + 64 * (Q.taken % Q.n)) = some k →
      let r := Record.of (s.mem.readBytes k 64)
      let u : State := { s with mem := s.mem.writeBytes (hdr + 8) (leBytes 8 (Q.taken + 1)) }
      (order r Q.asid bases u → Reaches (.launchRecordTake f q bases) s (fun t => admitted r Q.asid (some (f, q, Q.taken)) bases t ∧
        (t.func f).queues.find? (fun e => e.1 == q) = some (q, { Q with taken := Q.taken + 1, lastseq := r.seq }))) ∧
      (r.valid (s.spaceOf Q.asid).tenant = false → Reaches (.launchRecordTake f q []) s (fun t =>
        t.dev.grids = s.dev.grids ∧ t.dev.teams = s.dev.teams))) ∧
    (∀ n, s.dev.teams.length + n < 2 ^ 31 → (s.newTids n).length = n ∧ (s.newTids n).Nodup ∧
      ∀ k ∈ s.newTids n, 0 < k ∧ k < 2 ^ 32 ∧ ∀ T ∈ s.dev.teams, T.tid ≠ k) ∧
    (∀ y r bases, (s.yard y).dlq.find? (fun r => !s.isFrozen (s.spaceOf r.asid).tenant.toNat) = some r →
      (∀ g ∈ s.dev.grids, g.ovf = 0) → (Record.of r.bytes).ovf = 0 → order (Record.of r.bytes) r.asid bases s →
      Reaches (.deviceQueueAdmit y none bases) s (fun t => admitted (Record.of r.bytes) r.asid none bases t ∧
        (t.yard y).dlq = (s.yard y).dlq.erase r)) ∧
    (∀ y g G w d hdr k, (s.yard y).dlq = [] → s.grid g = some G → s.overflow G = some (w, d, hdr) → d < w → s.maySupply y g = true →
      s.ovfKey G (64 + 64 * (d % G.ovfRecords)) = some k → Reaches (.deviceQueueAdmit y (some g) []) s (fun t =>
        (t.yard y).dlq = [⟨s.mem.readBytes k 64, G.asid, g⟩] ∧ t.mem = s.mem.writeBytes (hdr + 8) (leBytes 8 (d + 1)) ∧
        ∀ z ∈ t.waitingAreas, z ≠ g → (t.yard y).passedOf z = (s.yard y).passedOf z + 1)) ∧
    (∀ y T G, s.nextPlacement y = some (T, G) → (∀ z, z < y → s.nextPlacement z = none) →
      s.savedTeam T.tid = none ∨ s.dev.poison = [] → Reaches (.teamPlacement y) s (fun t =>
      ∃ U, t.team T.tid = some U ∧ U.where_ = .placed ∧ U.yidx = y ∧ s.pickCores y G = some U.cores ∧
        (s.savedTeam T.tid = none → ∀ i, i < G.strands →
          t.at? (U.slotOf G.paired i) = some (s.entryStrand U G i G.entry G.params)))) ∧
    (∀ tid T, s.team tid = some T →
      let q := (s.yard T.yidx).regs.quantum.toNat % 2 ^ 32
      let leaves := fun (t : State) => (t.team tid).map (fun U => U.where_) =
        some (.leaving (s.cycle + (s.yard T.yidx).regs.safewait.toNat % 2 ^ 32))
      (∀ y, T.isPending = true → s.isYard y = true → T.gain y < T.gainBy ((s.yard y).regs.quantum.toNat % 2 ^ 32) s.cycle →
        Reaches (.priorityAging y tid) s (fun t => t.mem = s.mem ∧ (t.team tid).map (fun U => U.gain y) =
          some (T.gainBy ((s.yard y).regs.quantum.toNat % 2 ^ 32) s.cycle))) ∧
      (T.where_ = .placed → s.delivered tid = false →
        (∀ due, T.quantumAt = some due → due ≤ s.cycle →
          (s.yieldsTo T = true → Reaches (.quantumExpiry tid) s (fun t => t.mem = s.mem ∧ leaves t)) ∧
          (s.yieldsTo T = false → Reaches (.quantumExpiry tid) s (fun t => t.mem = s.mem ∧
            (t.team tid).map (fun U => (U.where_, U.quantumAt)) = some (.placed, if q = 0 then none else some (s.cycle + q))))) ∧
        (∀ p x w due, s.at? p = some x → x.tid = tid → x.wait = some w → w.kind = .cwait ∨ w.kind = .swait →
          w.parkAt = some due → due < s.cycle → (∃ e ∈ s.pendingTeams, (s.without tid).fits T.yidx e.1 e.2 = true) →
          Reaches (.parkExpiry p) s (fun t => t.mem = s.mem ∧ leaves t))) ∧
      (∀ d, T.where_ = .leaving d →
        (∀ x, d ≤ s.cycle → (s.teamStrands tid).filter (fun x => !x.stoppedForSwap && (!x.stopped || x.holdsOn)) = [x] →
          s.Seats x.pos x → x.window = [] → x.pair = none →
          (x.act = none → Becomes (.safewaitExpiry tid) s x.pos (fun u _ => u = { x with stopped := true })) ∧
          (∀ (a : Activation) (sts : List HeldStore), x.act = some a → a.mdone = false → x.sent = none →
            a.hold = sts.map (fun st => .store [st] false) →
            (∀ st ∈ sts, st.mark = none ∧ st.rel = none ∧ isYardMem st.key = true ∧ s.keyHeld st.key st.bytes.length = false) →
            Reaches (.safewaitExpiry tid) s (fun t => t.mem = sts.foldl (fun m st => m.writeBytes st.key st.bytes) s.mem ∧
              ∃ u, t.at? x.pos = some u ∧ u.stopped = true ∧ u.arch = x.arch ∧
                u.act.map (fun b => (b.src, b.hold, b.released)) = some (a.src, [], true)))) ∧
        (∀ G (f : Nat → Nat), s.grid T.grid = some G → T.granules = [] → s.transferOf tid = false → s.rearranging tid = false →
          T.killed = false → T.statWaits = [] →
          (s.yard T.yidx).domain = [] → (s.strands.map (fun x => x.pos)).Nodup →
          (∀ r ∈ (s.yard T.yidx).heavy.granary, r.tid = tid → r.idx < G.granary) →
          (∀ m : Memory, (∀ a, (∀ i, i < G.areaSize → f i ≠ a) → m.read a = s.mem.read a) → ∀ i, i < G.areaSize →
            ({ s with mem := m } : State).saveKey T i true = some (f i)) →
          (∀ x ∈ s.teamStrands tid, x.stoppedForSwap = true ∧ x.run ≠ .parkedTrap true ∧ x.resumeMask = none ∧ x.poisonTiles = [] ∧
            x.index.toNat < 8 * G.cores ∧ ∀ j, (x.tile j).cfg = none) →
          Reaches (.swapOut tid) s (fun t => (t.team tid).map (fun U => U.where_) = some .saved ∧ t.teamStrands tid = [] ∧
            (t.savedTeam tid).map (fun V => (V.strands, V.triggers, V.granary)) =
              some ((s.teamStrands tid).map (fun x => { x with fetchBuf := [], stopped := false }),
                (s.yard T.yidx).triggers.filter (fun r => r.tid == tid),
                (s.yard T.yidx).heavy.granary.filter (fun r => r.tid == tid))))))

/-- Device events of errors, of pairs and of the host link's failures: corrected errors are counted and reported by interval (R430,
R442); poison consumed rolls an activation back, kills a team or is a device fault (R433, R434, R436, R438); an uncorrectable error
leaves poison and nothing else (R431); a pair's exchange commits or rolls back, and kills the second time (R441); failed matrix pipes
send the teams that use them away (R437); a request's timeout takes the link down, fails every request and freezes its function, which
an FLR clears (R356, R424). What a device fault ends and empties (log entry 24, DEDUCED) and that a function's reset leaves ASID 0 alone
(43, DEDUCED) are the model's choices. -/
def Obligations.ErrorEvents : Prop :=
  ∀ s : State,
    let leaves := fun (t : State) (T : Team) => ∃ U ∈ t.dev.teams, U.tid = T.tid ∧ ∃ d, U.where_ = .leaving d
    let dram := s.dev.dram.foldl (fun m e => m.writeBytes (e.1 * 128) e.2) s.mem
    (∀ y unit addr, s.isYard y = true → 1 ≤ unit → unit ≤ 15 → (s.yard y).corrected = [] →
      Reaches (.errorCorrected y unit addr) s (fun t => t.mem = s.mem ∧
        (t.yard y).corrected = [{ McRecord.of 1 0 unit ⟨0, false, 0, 0⟩ 0 s.cycle with addr := addr }])) ∧
    (∀ y r, (s.yard y).corrected.find? (fun r => r.cycle / 2 ^ 20 < s.cycle / 2 ^ 20) = some r → (s.yard y).mailbox 15 = none →
      (s.yard y).mcHeld.length < 16 → (s.yard y).mcOverflow = false → Reaches (.coalescingIntervalEnd y) s (fun t =>
        t.mem = s.mem ∧ (t.yard y).corrected = (s.yard y).corrected.erase r ∧ (t.yard y).mcHeld = (s.yard y).mcHeld ++ [r])) ∧
    (∀ p x, s.Seats p x →
      (∀ unit, x.run = .consumed unit →
        (x.st.sup = true → Reaches (.poisonConsumed p) s (fun t => t.mem = dram ∧ t.dev.boot.phase = 0 ∧
          t.dev.boot.recovery = true ∧ t.dev.teams = [] ∧ t.others = [] ∧ t.me = Strand.emptyAt (supPos 0) ∧
          t.dev.faultRec = some (McRecord.of 7 0x50 unit p x.tid s.cycle))) ∧
        (x.st.sup = false → x.tid ≠ 0 →
          (∀ a, x.act = some a → x.canRollBack = true → Reaches (.poisonConsumed p) s (fun t => t.at? p = none ∧
            (t.yard x.home.yidx).actq.head? = some ⟨x.tid, a.src, a.rollbacks + 1⟩)) ∧
          (x.canRollBack = false → (s.team x.tid).isSome = true → s.transferOf x.tid = false → s.rearranging x.tid = false →
            Reaches (.poisonConsumed p) s (fun t => t.team x.tid = none ∧ t.at? p = none)))) ∧
      (∀ (d : BitVec 5) (m j : BitVec 3),
        (∀ e r, (e, r) ∈ [(ErrSite.sreg p d, RegId.s d), (.vreg p d, .v d), (.mreg p m, .m m)] → r ≠ .s 0 → r ≠ .m 0 → x.pair = none →
          (s.yard p.yidx).mailbox 15 = none → Becomes (.uncorrectableError e) s p (fun u t => r ∈ u.arch.poisoned ∧
            u = { x with arch := { x.arch with poisoned := u.arch.poisoned } } ∧
            (r ∉ x.arch.poisoned → (s.yard p.yidx).mcHeld.length < 16 →
              (t.yard p.yidx).mcHeld = (s.yard p.yidx).mcHeld ++ [McRecord.of 6 0 6 p x.tid s.cycle]))) ∧
        ((s.yard x.home.yidx).heavy.tileInFlight = false → (s.yard x.home.yidx).mailbox 15 = none →
          Becomes (.uncorrectableError (.tile p j)) s p (fun u _ => j.toNat ∈ u.poisonTiles ∧
            u = { x with poisonTiles := u.poisonTiles }))) ∧
      (∀ q, x.pair = some q → q.exchanging = true → ∀ same,
        (same = true → q.bad = false → x.act = none → Becomes (.exchangeComplete p same) s p (fun u _ => u.storeBuf = x.storeBuf ++ q.buf ∧
          u.arch = x.arch ∧ u.pair.map (fun z => (z.agreed, z.count, z.buf)) = some (x.arch, 0, []))) ∧
        (same = false ∨ q.bad = true →
          (q.failed = false → Reaches (.exchangeComplete p same) s (fun t => ∃ u, t.at? p = some u ∧ u.arch = q.agreed ∧
            u.run = .ready ∧ u.pending = x.pending.filter (fun r => r.agreed) ∧ u.storeBuf = x.storeBuf ∧
            u.pair.map (fun z => (z.failed, z.count, z.buf)) = some (true, 0, []))) ∧
          (q.failed = true → (s.team x.tid).isSome = true → s.transferOf x.tid = false → s.rearranging x.tid = false →
            Reaches (.exchangeComplete p same) s (fun t => t.team x.tid = none))))) ∧
    (∀ k, k < dramEnd → let y := s.blockYard (k / 64 * 64)
      (s.yard y).mailbox 15 = none → Reaches (.uncorrectableError (.block k)) s (fun t => t.mem = s.mem ∧ k / 64 ∈ t.dev.poison ∧
        (k / 64 ∉ s.dev.poison → (s.yard y).mcHeld.length < 16 → (t.yard y).mcHeld = (s.yard y).mcHeld ++
          [{ McRecord.of 6 0 (s.blockUnit k) ⟨0, false, 0, 0⟩ 0 s.cycle with addr := k / 64 * 64 }]))) ∧
    (∀ y, s.isYard y = true → (s.yard y).heavy.failed = false → (s.yard y).heavy.pipes = [] → (s.yard y).heavy.matq = [] →
      Reaches (.pipeFailure y) s (fun t => (t.yard y).heavy.failed = true ∧
        ∀ T ∈ s.residents y, T.where_ = .placed → s.nomatrix T.tid = false →
          ∃ U ∈ t.dev.teams, U.tid = T.tid ∧ U.where_ = .leaving (s.cycle + (s.yard y).regs.safewait.toNat % 2 ^ 32))) ∧
    (∀ unit, s.dev.boot.phase ≠ 15 → 1 ≤ unit → unit ≤ 15 → Reaches (.deviceFault unit) s (fun t => t.mem = dram ∧ t.dev.boot.phase = 0 ∧
      t.dev.boot.recovery = true ∧ t.dev.teams = [] ∧ t.dev.engines = [] ∧ t.others = [] ∧ t.me = Strand.emptyAt (supPos 0) ∧
      (∀ y, t.yard y = Yard.reset) ∧ t.dev.faultRec = some (McRecord.of 7 0 unit (supPos 0) 0 s.cycle))) ∧
    (∀ f : BitVec 4, (∃ r ∈ s.dev.pageReqs, s.tenantOf r.asid = f.toNat ∧
        ∃ v ∈ r.waiters, v.asked = true ∧ v.pri = false ∧ v.failed = false ∧ v.since + 20000000 ≤ s.cycle) →
      (∀ x ∈ s.strands, ∀ q ∈ x.pending, q.fromHost = false) → s.hostTransfers = [] → Reaches (.requestTimeout f) s (fun t => t.mem = s.mem ∧ t.dev.hostLinkUp = false ∧ (t.func f.toNat).frozen = true ∧
        t.dev.pageFaults = [] ∧ (∀ r ∈ t.dev.pageReqs, ∀ v ∈ r.waiters, v.failed = true ∧ v.who.isPrefetch = false) ∧
        ∀ T ∈ s.dev.teams, ∀ G, T.where_ = .placed → s.grid T.grid = some G → G.tenant = f → leaves t T)) ∧
    (s.dev.hostLinkUp = false → s.dev.linkWaits = [] → exec .linkRetrained s = .next { s with dev := { s.dev with hostLinkUp := true } }) ∧
    (∀ f : BitVec 4, (s.func f.toNat).frozen = true → (∀ u ∈ s.queuedTransfers, u.2.tenant ≠ f) → s.dev.tiles = [] →
      (∀ T ∈ s.dev.teams, s.rearranging T.tid = false) → Reaches (.functionLevelReset f) s (fun t => (t.func f.toNat).frozen = false ∧ (∀ g ∈ t.dev.grids, g.tenant ≠ f) ∧
        (∀ z ∈ t.dev.spaces, z.tenant = f → z.asid = 0) ∧
        ∀ T ∈ t.dev.teams, ∀ G, s.grid T.grid = some G → G.tenant ≠ f))

/-- Device events of bring-up, recovery, attestation and the clock: a reset derives the identity key and checks the identity record
against it (R444, R445); the image is copied, verified and run (R446-R449), after a recovery with every function told (R426, R451);
attestation answers (R450); the clock steps (R453). The signature, hash and key functions are opaque constants (log entry 7, DESIGN
CHOICE); what a device fault ends (24, DEDUCED) and that a reset leaves device memory alone (40, DEDUCED) are the model's choices. -/
def Obligations.BringUpEvents : Prop :=
  ∀ s : State,
    let b := s.dev.boot
    let booted := fun (x : BringUp) => ({ s with dev := { s.dev with boot := x } } : State)
    let dram := s.dev.dram.foldl (fun m e => m.writeBytes (e.1 * 128) e.2) s.mem
    Reaches .deviceReset s (fun t => t.mem = dram ∧ t.me = Strand.emptyAt (supPos 0) ∧ t.others = [] ∧ t.touches = [] ∧
      (∀ y, t.yard y = Yard.reset) ∧ (∀ k, t.core k = Core.reset) ∧
      t.dev = { Dev.reset with
        ident := s.dev.ident, freeCtr := s.dev.freeCtr, routers := routersAt s.cycle, idKey := some identityKey,
        boot := { BringUp.reset with phase := 1 } }) ∧
    (let d := s.dev.ident
     let holds := d.format = 1 ∧ d.length = 5325 ∧ d.padding = 0 ∧ d.enabled.length = 4 ∧
      (∀ w ∈ d.enabled, (List.range 16).countP (fun i => w.getLsbD i) = 14) ∧ leBytes 1952 d.idpub.toNat = identityKey.1
     let leads := fun (phase err : Nat) => execIdentityCheck s = .next (booted { b with phase := phase, err := err })
     b.phase = 1 → if Config.mldsaVerify Config.productKey d.signed (leBytes 3309 d.sig.toNat) = false then leads 15 1
      else if holds then leads (if b.recovery then 3 else 2) 0 else leads 15 2) ∧
    (b.recovery = true → b.phase = 0 → exec .recoveryReset s =
      .next { s with dev := { s.dev with idKey := some identityKey, boot := { b with phase := 1 } } }) ∧
    (∀ v, (b.phase ≠ 2 ∨ v ≠ 1 → exec (.go v) s = .next s) ∧
      (b.phase = 2 → v = 1 →
        (b.imgbase.toNat % 4096 = 0 → 3373 ≤ b.imglen.toNat → b.imglen.toNat ≤ 67108864 → s.MemOk → Reaches (.go v) s (fun t =>
          t.dev = { s.dev with boot := { b with phase := 3, go := true } } ∧
          t.mem.readBytes 0x7FE0000000 b.imglen.toNat = s.mem.readBytes (hostKey b.imgbase.toNat) b.imglen.toNat)) ∧
        (b.imgbase.toNat % 4096 ≠ 0 ∨ b.imglen.toNat < 3373 ∨ 67108864 < b.imglen.toNat →
          exec (.go v) s = .next (booted { b with phase := 15, err := 3 })))) ∧
    (∀ ok, b.phase = 3 →
      let n := if b.recovery then min (64 + leValue (s.mem.readBytes 0x7FE0000008 8) + 3309) 67108864 else b.imglen.toNat
      let img := s.mem.readBytes 0x7FE0000000 n
      let e := imageErr img n s.dev.ident.minsvn (ok || b.recovery)
      exec (.imageVerifyDone ok) s = .next (booted (if e = 0 then
        { b with phase := 4, digest := Config.shake256 (img.take (img.length - 3309)) 512, svn := leValue ((img.drop 4).take 4), entry := BitVec.ofNat 64 (leValue ((img.drop 16).take 8)) }
        else { b with phase := 15, err := e }))) ∧
    (∀ bad, b.phase = 4 → Reaches (.bringUpReady bad) s (fun t => t.dev.boot.phase = 5 ∧ t.dev.boot.recovery = false ∧
      (∀ y, s.isYard y = true → t.at? (supPos y) = some (Strand.atEntry y b.entry) ∧
        (y ∈ bad → (t.yard y).heavy.failed = true)) ∧
      (b.recovery = false → t.mem = s.mem) ∧ (b.recovery = true → ∀ f, f < 16 → (t.func f).recovered = true))) ∧
    (∀ r, exec (.spdmRequest r) s = .next (booted { b with doe := match r with
      | .measurement n => (match s.measurement n with
        | some bs => .measurement bs
        | none => .unexpected)
      | .other bs => .other (Config.spdmAnswer (s.dev.idKey.map (fun k => k.2)) s.dev.ident.bytes bs) })) ∧
    (∀ th pw, (th || pw) = true →
      exec (.clockStepDown th pw) s = .next (booted { b with clk := max 1000 (b.clk - 100), thermal := th, power := pw })) ∧
    (b.clk < 2000 → exec .clockStepUp s = .next (booted { b with clk := min 2000 (b.clk + 100), thermal := false, power := false })) ∧
    (b.phase ≠ 15 → Reaches .thermalTrip s (fun t => t.mem = dram ∧ t.dev.boot.phase = 0 ∧ t.dev.boot.recovery = true ∧ t.dev.teams = [] ∧
      t.others = [] ∧ t.me = Strand.emptyAt (supPos 0) ∧ t.dev.faultRec = some (McRecord.of 7 0 15 (supPos 0) 0 s.cycle)))

/-- Where instructions trap beside what they do (R21, R22, R44, R94, R106, R109, R113, R114, R190, R210-R220, R252, R263, R281, R286, R317,
R328, R336, R338, R376, R386, R407), with what causes and K.FADDR, and that in supervisor mode the trap is a device fault (R97): addresses
of words, lanes and entry points that are not aligned; privilege, in KRD and KWR too; X-class forms at a lean core; matrix forms without
their pipes; sheaf slots that are not bound and counters that are not aligned; tiles without configuration or of the wrong shape, and
formats that are not valid; and handles that are stale, not open, or name indices outside their tile. What a device fault ends is log entry 24 (DEDUCED). -/
def Obligations.TrapEntry : Prop :=
  ∀ (s : State) (d a b e n : BitVec 5) (la : BitVec 4) (w c x : BitVec 3) (o od sc : BitVec 2) (v h : BitVec 1) (st : BitVec 24)
    (j : BitVec 32) (k : BitVec 12) (sp : SafePoint), s.Idle →
    let goes := fun (i : Instr) (cause : BitVec 8) (faddr : Word) (n : Nat) => TrapsAs i s cause faddr n
    let n1 := words false sp
    let n2 := words true sp
    let base := s.me.arch.sreg a
    let other := s.me.arch.sreg b
    let off := base + j.signExtend 64
    let size := if w = 6#3 then 8 else 2 ^ (w.toNat / 2)
    (base.toNat % size ≠ 0 → goes (.ld d a n la w o sp) 0x14 base n1 ∧ goes (.st d a n w o sp) 0x14 base n1) ∧
    (off.toNat % size ≠ 0 → goes (.ldOffset d a n la w o j sp) 0x14 off n2 ∧ goes (.stOffset d a n w o j sp) 0x14 off n2) ∧
    (base.toNat % 8 ≠ 0 →
      ∀ i ∈ [Instr.ldv d a n la o sp, .ldvL6 d a n la o sp, .stv d a n o sp, .stvL6 d a n o sp, .ldm d a n la c o sp, .stm d a n c o sp],
        goes i 0x14 base n1) ∧
    (off.toNat % 8 ≠ 0 →
      ∀ i ∈ [Instr.ldvOffset d a n la o j sp, .ldvL6Offset d a n la o j sp, .stvOffset d a n o j sp, .stvL6Offset d a n o j sp,
          .ldmOffset d a n la c o j sp, .stmOffset d a n c o j sp], goes i 0x14 off n2) ∧
    (base.extractLsb' 0 2 ≠ 0#2 → goes (.jmp a sp) 0x14 base n1 ∧ goes (.callr a sp) 0x14 base n1 ∧ goes (.spawn d a b sp) 0x14 base n1) ∧
    (base.toNat % 64 ≠ 0 → goes (.topen d a sp) 0x14 base n1 ∧ goes (.launch d a sp) 0x14 base n1 ∧ goes (.launchT d a sp) 0x14 base n1) ∧
    (s.me.act = none → other.toNat % 8 ≠ 0 → s.destOk base = true → (destClass base = 15#4 → s.me.st.sup = true) →
      goes (.msend d a b sp) 0x14 other n1 ∧ goes (.msendT d a b sp) 0x14 other n1) ∧
    (s.me.st.sup = false →
      (∀ i ∈ [Instr.eret a b sp, .waiti d a sp, .tlbw d a b sp, .tlbinv a b sp, .aswch d a sp, .swout d a sp, .swin d a sp,
          .rdcfg d a b sp], Traps i s 0x04 0 n1) ∧
      (∀ r ∈ [0x032#12, 0x091#12, 0x092#12], Traps (.krd d r sp) s 0x04 0 n1 ∧ Traps (.kwr a r sp) s 0x04 0 n1)) ∧
    (ctlAssigned k = false → goes (.krd d k sp) 0x01 0 n1 ∧ goes (.kwr a k sp) 0x01 0 n1) ∧
    (s.me.st.sup = true → s.me.pos.heavy = false →
      ∀ i ∈ [Instr.eret a b sp, .waiti d a sp, .tlbw d a b sp, .tlbinv a b sp, .aswch d a sp, .swout d a sp, .swin d a sp],
        Escalates i s) ∧
    (s.nomatrix s.me.tid = true ∨ (s.yard s.me.pos.yidx).heavy.failed = true →
      (∀ i ∈ [Instr.tcfg x a la sp, .tfmt a la sp, .tzero x la sp, .mma x c w la sp, .mmaSat x c w la sp, .mmas x c a la sp, .mmasSat x c a la sp,
          .gdrop a la sp, .tdrain x la sp, .tfill x la sp, .tfree x la sp, .tstat x a la sp], goes i 0x03 0 n1) ∧
      ∀ i ∈ [Instr.tscale h a la n od sp, .tldr x a la n od st sp, .tstr x a la n od st sp, .tmovr x a la v b sp, .tmovc x a la v b sp,
          .gload a la n od st sp], goes i 0x03 0 n2) ∧
    (s.Still → s.me.binding e = none → ∀ i ∈ [Instr.sarr d e b la sp, .sarrb e b sp, .swait d e b la sp, .stest d e b la sp, .sleave e sp],
      goes i 0x30 0 n1) ∧
    (s.Still → base.toNat % 8 ≠ 0 → ∀ i ∈ [Instr.cadd d a b la sc sp, .cwait d a b la sc sp, .cpoll d a la sc sp, .trig d a b e la sp],
      goes i 0x31 base n1) ∧
    (s.Still → other.toNat % 64 ≠ 0 → s.skewBusyKey (s.windowKey s.me.tid (other.toNat - apertureBase)) 64 = false →
      goes (.sbind d e b sp) 0x31 other n1) ∧
    (AtTiles s →
      let bare := fun (r : BitVec 3) => (s.me.tile r).cfg = none
      let f := s.me.fmt
      let slot := (base.extractLsb' 0 9).toNat
      (bare x → goes (.tzero x la sp) 0x20 0 n1 ∧ ∀ i ∈ [Instr.tldr x a la n od st sp, .tstr x a la n od st sp, .tmovr x a la v b sp,
        .tmovc x a la v b sp], goes i 0x20 0 n2) ∧
      (bare x ∨ bare c ∨ bare w → goes (.mma x c w la sp) 0x20 0 n1 ∧ goes (.mmaSat x c w la sp) 0x20 0 n1) ∧
      (bare x ∨ bare c → goes (.mmas x c a la sp) 0x20 0 n1 ∧ goes (.mmasSat x c a la sp) 0x20 0 n1) ∧
      (TileCfg.ofWord base = none → goes (.tcfg x a la sp) 0x21 0 n1) ∧
      (∀ g, (s.me.tile x).cfg = some g →
        ((base.extractLsb' 0 4).toNat ≥ g.rows ∨ base.extractLsb' 4 2 = 3#2 ∨ 64 * (base.extractLsb' 4 2).toNat ≥ g.rb →
          goes (.tmovr x a la v b sp) 0x21 0 n2) ∧
        ((base.extractLsb' 0 8).toNat ≥ g.cols ∨ (base.extractLsb' 8 4).toNat ≥ g.rows → goes (.tmovc x a la v b sp) 0x21 0 n2)) ∧
      (s.granarySize s.me.tid ≤ slot → goes (.gdrop a la sp) 0x21 0 n1) ∧
      (gloadControl (s.me.arch.sreg (a + 1)) = none → goes (.gload a la n od st sp) 0x21 0 n2) ∧
      (formatValid base = false → goes (.tfmt a la sp) 0x22 0 n1) ∧
      (f.valid = false → goes (.tscale h a la n od sp) 0x22 0 n2) ∧
      (∀ cd ca cb, (s.me.tile x).cfg = some cd → (s.me.tile c).cfg = some ca → (s.me.tile w).cfg = some cb →
        (f.valid = false ∨ f.spn ≠ 0#3 → goes (.mma x c w la sp) 0x22 0 n1) ∧
        (f.valid = true → f.spn = 0#3 → (some ca.et ≠ f.aty ∨ some cb.et ≠ f.bty ∨ some cd.et ≠ f.cty ∨ ca.cols ≠ cb.cols ∨
          cd.rows ≠ ca.rows ∨ cd.cols ≠ cb.rows) → goes (.mma x c w la sp) 0x21 0 n1))) ∧
    (let space := s.spaceOf s.me.modes.asid
     let i := base.toNat % 2 ^ 20
     let gen := base.toNat / 2 ^ 20 % 4096
     let handles := [Instr.tclose a sp, .tacqS a b sp, .tacqW a b sp, .tacqA a b sp, .trel a b sp, .tsplit d a b sp, .tqry d a b sp,
       .tdesc d a b sp]
     (i = 0 ∨ 20 < space.log2n ∨ 2 ^ space.log2n ≤ i → ∀ f ∈ handles, goes f 0x19 0 n1) ∧
     (∀ key, 0 < i → space.log2n ≤ 20 → i < 2 ^ space.log2n → s.EntryAt i key →
       (gen ≠ s.entryGen key → ∀ f ∈ handles, goes f 0x18 0 n1) ∧
       (gen = s.entryGen key → s.tile s.me.modes.asid i = none → ∀ f ∈ handles, goes f 0x19 0 n1) ∧
       (∀ T, gen = s.entryGen key → s.tile s.me.modes.asid i = some T →
         let first := (other.extractLsb' 32 16).toNat
         let count := (other.extractLsb' 48 16).toNat
         T.desc.outerExt ≤ first ∨ (count ≠ 0 ∧ T.desc.outerExt < first + count) →
         ∀ f ∈ [Instr.tacqS a b sp, .tacqW a b sp, .tacqA a b sp, .trel a b sp],
           goes f 0x1A (BitVec.ofNat 64 (T.desc.base + first * T.desc.stride (T.desc.rank - 1))) n1)))

/-- Where the accesses of loads, stores, atomics, counters, TOPEN and LAUNCH trap (R252-R256, R312-R317, R333-R336, R346, R349, R352, R355,
R356): an address without a translation, one whose leaf does not let the strand have it, and a page that the host has refused, with the
effective address in K.FADDR; and atomics that are not aligned. Of a gather or scatter the lowest active lane that may not be accessed
traps, where the lanes below it may. A CADD of a leaf that is not readable has cause 0x12 (log entry 84, DEDUCED). -/
def Obligations.MemoryTraps : Prop :=
  ∀ (s : State) (d a b e n : BitVec 5) (la : BitVec 4) (w c m ty : BitVec 3) (v : BitVec 1) (o od sc : BitVec 2) (j : BitVec 32)
    (sp : SafePoint), s.Still →
    let base := s.me.arch.sreg a
    let off := base + j.signExtend 64
    let size := if w = 6#3 then 8 else 2 ^ (w.toNat / 2)
    let z := if v = 1#1 then 8 else 4
    let goes := fun (x : Bool) (l : List Instr) (k : Access) (va : Word) (align size : Nat) =>
      va.toNat % align = 0 → ∀ cause, s.FaultsAt k va size cause → ∀ i ∈ l, TrapsAs i s cause va (words x sp)
    let amos := [Instr.amoAdd d a b la v n od sc sp, .amoAnd d a b la v n od sc sp, .amoOr d a b la v n od sc sp, .amoXor d a b la v n od sc sp,
      .amoMinI d a b la v n od sc sp, .amoMinN d a b la v n od sc sp, .amoMaxI d a b la v n od sc sp, .amoMaxN d a b la v n od sc sp,
      .amoSwap d a b la v n od sc sp, .amoCas d a b la v n od sc sp]
    let wide := [Instr.amowAdd d a b la n od sc sp, .amowSwap d a b la n od sc sp, .amowCas d a b la n od sc sp]
    let misaligned := fun (l : List Instr) (align : Nat) => base.toNat % align ≠ 0 → ∀ i ∈ l, TrapsAs i s 0x14 base (words true sp)
    let bytes := 2 ^ w.toNat
    let lanes := fun (l : List Instr) (k : Access) (addr : Nat → Word) => w.toNat < 4 → ∀ q, q < 64 / bytes →
      let active := fun (p : Nat) => (s.me.arch.mreg m).getLsbD p
      active q = true → (∀ p, p < q → active p = true → (addr p).toNat % bytes = 0 ∧ ∃ key, s.Maps k (addr p) bytes key) →
      ((addr q).toNat % bytes ≠ 0 → ∀ i ∈ l, TrapsAs i s 0x14 (addr q) (words true sp)) ∧
      ((addr q).toNat % bytes = 0 → ∀ cause, s.FaultsAt k (addr q) bytes cause → ∀ i ∈ l, TrapsAs i s cause (addr q) (words true sp))
    let indexed := fun p => base + BitVec.ofInt 64 (sLane (8 * bytes) (lane (8 * bytes) (s.me.arch.vreg b) p) * (bytes : Nat))
    let strided := fun p => base + BitVec.ofNat 64 p * s.me.arch.sreg b
    goes false [.ld d a n la w o sp] .load base size size ∧ goes true [.ldOffset d a n la w o j sp] .load off size size ∧
    goes false [.ldv d a n la o sp] .load base 8 64 ∧ goes true [.ldvOffset d a n la o j sp] .load off 8 64 ∧
    goes false [.ldvL6 d a n la o sp] .load base 8 48 ∧ goes true [.ldvL6Offset d a n la o j sp] .load off 8 48 ∧
    goes false [.ldm d a n la c o sp] .load base 8 8 ∧ goes true [.ldmOffset d a n la c o j sp] .load off 8 8 ∧
    goes false [.st d a n w o sp] .store base size size ∧ goes true [.stOffset d a n w o j sp] .store off size size ∧
    goes false [.stv d a n o sp] .store base 8 64 ∧ goes true [.stvOffset d a n o j sp] .store off 8 64 ∧
    goes false [.stvL6 d a n o sp] .store base 8 48 ∧ goes true [.stvL6Offset d a n o j sp] .store off 8 48 ∧
    goes false [.stm d a n c o sp] .store base 8 8 ∧ goes true [.stmOffset d a n c o j sp] .store off 8 8 ∧
    goes true amos .atomic base z z ∧ misaligned amos z ∧
    (ty.toNat < 5 → goes true [.amov d a ty n m od sc sp] .atomic base 64 64 ∧ misaligned [.amov d a ty n m od sc sp] 64) ∧
    (s.me.pos.heavy = true → goes true wide .atomic base 16 16 ∧ misaligned wide 16) ∧
    goes false [.cadd d a b la sc sp] .atomic base 8 8 ∧
    goes false [.cpoll d a la sc sp, .cwait d a b la sc sp] .load base 8 8 ∧
    ((s.me.arch.sreg e).toNat % 4 = 0 → goes false [.trig d a b e la sp] .load base 8 8) ∧
    goes false [.topen d a sp, .launch d a sp, .launchT d a sp] .load base 64 64 ∧
    lanes [.gath d a b la w n m od sc sp] .load indexed ∧ lanes [.ldvs d a b la w n m od sc sp] .load strided ∧
    lanes [.scat d a b w n m od sc sp] .store indexed ∧ lanes [.stvs d a b w n m od sc sp] .store strided

/-- What the scalar, vector and branch instructions leave alone (R40, R100, R116, R137): every register but the one named, the flags
where none are raised, the status, trap and control registers, memory, other strands, caches and devices. It holds in every state
whose registers are not poisoned, whether the instruction issues or is held back. -/
def Obligations.RegisterFrames : Prop :=
  ∀ s : State, s.me.arch.poisoned = [] →
    (∀ i r fp, localDest i = some (r, fp) →
      (fp = true → (s.me.modes.nve = false ∧ s.me.modes.dze = false ∧ s.me.modes.nanmode = false) ∨
        ∃ (n : Nat) (es : List RegEff), Completes i s n (es.map Eff.reg)) → Frames i s r fp) ∧
    (∀ (d a b : BitVec 5) (sp : SafePoint), s.me.arch.sreg b ≠ 0 →
      ∀ i ∈ [Instr.divI d a b sp, .divN d a b sp, .remI d a b sp, .remN d a b sp], Frames i s (.s d) false) ∧
    (∀ (a : BitVec 5) (sp : SafePoint), (s.me.arch.sreg a).extractLsb' 0 2 = 0#2 →
      Frames (.jmp a sp) s (.s 0) false ∧ Frames (.callr a sp) s (.s 30) false)

/-- What the stores of majors 0x29, 0x2B, 0x2D and 0x2F leave alone (R237, R253-R256): every register, flag and control register, and
every byte outside those stored, which loads as before. -/
def Obligations.MemoryFrames : Prop :=
  ∀ (s : State) (d a b n : BitVec 5) (w c m : BitVec 3) (o od sc : BitVec 2) (j : BitVec 32) (sp : SafePoint), s.Still →
    let go := fun (x : Bool) (i : Instr) (va : Word) (align : Nat) (bytes : List Byte) =>
      va.toNat % align = 0 → ∀ key, s.Maps .store va bytes.length key → StoreFrames i s (words x sp) (bytesAt key bytes)
    let base := s.me.arch.sreg a
    let off := base + j.signExtend 64
    let size := if w = 6#3 then 8 else 2 ^ (w.toNat / 2)
    let one := leBytes size (s.me.arch.sreg d).toNat
    let vec := leBytes 64 (s.me.arch.vreg d).toNat
    let l6 := leBytes 48 (packL6 (s.me.arch.vreg d)).toNat
    let many := (List.range (c.toNat + 1)).flatMap (fun k => leBytes 8 (s.me.arch.sreg (d + BitVec.ofNat 5 k)).toNat)
    let bits := 8 * 2 ^ w.toNat
    let k := s.me.arch.mreg m
    let lanes := fun (i : Instr) (addr : Nat → Word) => w.toNat < 4 → ∀ key : Nat → Nat,
      (∀ l, l < 512 / bits → k.getLsbD l = true → (addr l).toNat % (bits / 8) = 0 ∧ s.Maps .store (addr l) (bits / 8) (key l)) →
      StoreFrames i s (words true sp) (fun q =>
        (((List.range (512 / bits)).filter (fun l => k.getLsbD l)).filterMap (fun l =>
          bytesAt (key l) (leBytes (bits / 8) (lane bits (s.me.arch.vreg d) l)) q)).getLast?)
    go false (.st d a n w o sp) base size one ∧ go true (.stOffset d a n w o j sp) off size one ∧
    go false (.stv d a n o sp) base 8 vec ∧ go true (.stvOffset d a n o j sp) off 8 vec ∧
    go false (.stvL6 d a n o sp) base 8 l6 ∧ go true (.stvL6Offset d a n o j sp) off 8 l6 ∧
    go false (.stm d a n c o sp) base 8 many ∧ go true (.stmOffset d a n c o j sp) off 8 many ∧
    lanes (.scat d a b w n m od sc sp) (fun l => base + BitVec.ofInt 64 (sLane bits (lane bits (s.me.arch.vreg b) l) * (bits / 8 : Nat))) ∧
    lanes (.stvs d a b w n m od sc sp) (fun l => base + BitVec.ofNat 64 l * s.me.arch.sreg b)

/-- A step runs the decoded instruction (R47, R61, R65, R485): with bring-up over, no event that comes about before it and the strand in
the focus the one from which its core issues next (R89, R90), the step is the meaning of the instruction that its fetched bytes hold
(straight from the fetch buffer where that holds them all), cause 0x01 where they hold none, and the fault or the wait of the fetch where
it brings no bytes. A choice of the environment is its event or its strand, and a step's end counts one cycle and leaves the agenda. Phase RESET begins the
bring-up, phase IDENTITY checks the identity record, and in phase FAILED the device has stopped (R447). That a step is one event or one
instruction, and which comes first, is the model's choice (log entry 1, DESIGN CHOICE), and so is the ILEN of a fetch that faults (26,
DESIGN CHOICE). -/
def Obligations.StepRunsDecoded : Prop :=
  (∀ (s : State) (i : Instr) (rest : List (BitVec 32)), s.agenda = [] → s.dev.boot.phase = 5 →
    (firstEvent s s.events = none ∨ (patienceLimit ≤ s.patience ∧ s.nextTurn.isSome = true)) → s.inTurn = true →
    let ends := finishOutcome s.mem (issuedAt s s.me.pos) 0
    (∀ bs r, fetchInstr ⟨s, []⟩ = .ok (bs, r) →
      (decodeBytes bs = .ok (i, rest) → step s = ends (exec i (applyAll s r.log.reverse))) ∧
      (∀ e, decodeBytes bs = .error e → step s = ends (illegal ((wordsOfBytes bs).headD 0) (applyAll s r.log.reverse)))) ∧
    (∀ e, fetchInstr ⟨s, []⟩ = .error e → step s = ends (runAct (BitVec.ofNat 2 s.me.fetchLength) (fun _ => .error e) s)) ∧
    (let pc := (pcOf s.me.arch.pcw).toNat
     ∀ base bs, s.me.pruned.fetchBuf = s.me.fetchBuf → s.me.fetchedWord pc = some base → s.me.fetched pc (4 * lengthOf base) = some bs →
      decodeBytes bs = .ok (i, rest) → step s = ends (exec i s))) ∧
  (∀ (s : State) (i : Instr) (p : Pos) rest,
    (s.agenda = .event i :: rest → i.parts = none →
      step s = finishOutcome s.mem (fun _ => none) s.patience (exec i { s with agenda := rest })) ∧
    (s.agenda = .strand p :: rest → step s = .next (({ s with agenda := rest } : State).focusOn p))) ∧
  (∀ s : State, s.agenda = [] →
    let ends := finishOutcome s.mem (fun _ => none) 0
    (s.dev.boot.phase = 0 → s.dev.boot.recovery = false → step s = ends (exec .deviceReset s)) ∧
    (s.dev.boot.phase = 1 → step s = ends (execIdentityCheck s)) ∧ (s.dev.boot.phase = 15 → step s = .fault .bringUpFailed)) ∧
  (∀ (s : State) (before : Memory) (p : Option Issue) (n : Nat),
    (s.finish before p n).cycle = s.cycle + 1 ∧ (s.finish before p n).patience = n ∧ (s.finish before p n).agenda = s.agenda)

/-- Words that the specification writes out, each read as the instruction it stands for (R47-R56). -/
def Obligations.DecodeExamples : Prop :=
  let is := fun (ws : List (BitVec 32)) (i : Instr) => decode ws = .ok (i, [])
  is [0x08398800] (.add 7 6 4 none) ∧ is [0x094A9604] (.divI 9 10 11 none) ∧ is [0x0A29B003] (.shriI 5 6 3 none) ∧
  is [0x4A280000, 0x00001388] (.addiImm32 5 0 5000 none) ∧ is [0x042157FD] (.bcmp 4 5 2 (-3) none) ∧
  is [0x06014000] (.callr 5 none) ∧ is [0x3E200080] (.krd 4 0x001 none) ∧ is [0x3E280901] (.kwr 5 0x012 none) ∧
  is [0x14214C08] (.fadd 4 5 6 1 none) ∧ is [0x11214C70] (.ffmaF32 4 5 6 7 none) ∧
  is [0x16424203] (.fcvtFromFloat 8 9 1 0 3 none) ∧ is [0x18214C50] (.vadd 4 5 6 1 2 none) ∧
  is [0x234254B5] (.vffmaF32 8 9 10 11 2 1 none) ∧ is [0x1D10CC20] (.vfcvt 2 3 0 6 0 4 0 none) ∧
  is [0x26184400] (.mand 3 1 2 none) ∧ is [0x3842421D] (.dcvtFromF64 8 9 1 0 5 none) ∧
  is [0x39214C72] (.dfma 4 5 6 7 2 none) ∧ is [0x28308E50] (.ld 6 2 7 2 4 0 none) ∧
  is [0xE8208E11, 0x00000040, 0x00010307] (.ldOffset 4 2 7 0 4 1 64 (some 0x00010307)) ∧
  is [0xF4002806, 0x00000001, 0x02030305] (.tmovr 0 10 0 0 1 (some 0x02030305)) ∧
  is [0x74140006, 0x00000029] (.tmovr 5 0 0 1 9 none) ∧ is [0x35C54000] (.topen 24 21 none) ∧
  is [0x3C4A0201] (.msendT 9 8 1 none) ∧ is [0x323A9612] (.cwait 7 10 11 0 2 none) ∧
  (∀ rest, decode (0x00000000 :: rest) = .error .unassignedMajor) ∧ decode [0xFFFFFFFF] = .error .truncated

/-- Decoding what the encoder gives for a well-formed instruction gives it back, every operand at every value, whatever follows it,
from words and from bytes (R47-R56); the encoder gives no word for an event. -/
def Obligations.DecodeEncode : Prop :=
  (∀ i p, i.parts = some p → i.WF → ∀ rest, decode (encode i ++ rest) = .ok (i, rest)) ∧
  (∀ i p, i.parts = some p → i.WF → decodeBytes ((encode i).flatMap bytesOfWord) = .ok (i, [])) ∧
  (∀ i, i.parts = none → encode i = [])

/-- A word list that decodes is the encoding of the well-formed instruction it decodes to, and what follows (R47-R56), so words that encode
none are refused; and refused are, by name, the unassigned majors, function fields of which majors 0x06, 0x08, 0x09 and 0x35 assign no
instruction, an extension word and an LA field where the form has none, and reserved fields that are not zero (R59, R65, R67, R68). -/
def Obligations.DecodeRefuses : Prop :=
  (∀ ws i rest, decode ws = .ok (i, rest) → i.WF ∧ i.parts.isSome = true ∧ ws = encode i ++ rest) ∧
  (∀ ws, (∀ i rest, i.WF → i.parts.isSome = true → ws ≠ encode i ++ rest) → ∃ r, decode ws = .error r) ∧
  ∀ (w m : BitVec 32) (rest : List (BitVec 32)),
    let op := w.extractLsb' 24 6
    let fn := (w.extractLsb' 0 5).toNat
    let plain := w.extractLsb' 30 2 = 0#2
    let refused := fun (r : Reject) => decode (w :: rest) = .error r
    (plain → op ∈ [0x00#6, 0x0F#6, 0x10#6, 0x37#6, 0x3F#6] → refused .unassignedMajor) ∧
    (plain → (op = 0x06#6 ∧ 8 ≤ fn) ∨ (op = 0x08#6 ∧ 21 ≤ fn ∧ fn < 24) ∨ (op = 0x09#6 ∧ (fn = 3 ∨ 8 ≤ fn)) ∨ (op = 0x35#6 ∧ 9 ≤ fn) →
      refused .unassignedFunction) ∧
    (op = 0x08#6 → fn < 14 →
      (plain → w.extractLsb' 5 4 ≠ 0#4 → refused .laField) ∧
      (w.extractLsb' 30 2 = 1#2 → decode (w :: m :: rest) = .error .xBit)) ∧
    (op = 0x35#6 → fn = 0 → plain → w.extractLsb' 9 5 ≠ 0#5 → refused .reservedField) ∧
    (w.extractLsb' 30 2 = 2#2 → m.extractLsb' 27 5 ≠ 0#5 → decode (w :: m :: rest) = .error .reservedField)

/-- Every step keeps memory in its canonical form: strictly rising keys and no zero byte listed, so that equal memories are equal data
(the model's own form, log entry 3). -/
def Obligations.StepKeepsMemOk : Prop :=
  ∀ s t : State, s.MemOk → Steps s t → t.MemOk

/-- In every step no two strands come to share a slot (R87), where none did (the model's own form of its strands, on which the
statements about strands in other slots rest). -/
def Obligations.StepKeepsApart : Prop :=
  ∀ s t : State, s.Apart → Steps s t → t.Apart

/-- The machine right after a device reset (R91, R116, R139, R446, R447): phase RESET, no team, nothing in memory listed, every strand
slot but the focus empty, and every access of a register answers its reset value. That memory then reads zero (log entry 3, DESIGN
CHOICE) and the zeros of registers that the rules give no value (6, DESIGN CHOICE) are the model's choices. -/
def Obligations.ResetFacts : Prop :=
  let s := State.reset
  s.MemOk ∧ s.mem = [] ∧ s.others = [] ∧ s.dev.boot.phase = 0 ∧ s.dev.boot.recovery = false ∧ s.dev.teams = [] ∧
    s.dev.grids = [] ∧ s.dev.tiles = [] ∧ s.dev.faultRec = none ∧ s.me.run = .empty ∧ s.me.arch.fpflags = 0 ∧
    s.me.storeBuf = [] ∧ s.me.window = [] ∧ s.me.st = Status.zero ∧
    (∀ r, s.me.arch.sreg r = 0) ∧ (∀ r, s.me.arch.vreg r = 0) ∧
    (∀ r, s.me.arch.mreg r = if r = 0#3 then BitVec.allOnes 64 else 0) ∧ (∀ y, s.yard y = Yard.reset) ∧
    (∃ t, Steps s t ∧ exec .deviceReset s = .next { t with cycle := s.cycle } ∧ t.mem = [] ∧ t.cycle = 1)
end

