-- ==== Sys2Proof/Laws/State.lean ====
section
/-! SUPPORT. One equation for each field after each effect and each update of a strand, true by unfolding, so that no later proof
unfolds a record update. -/
namespace Sys2Proof.Machine

/-! ### Effects -/

@[simp] theorem me_after_reg (s : State) (e : RegEff) : (applyEff s (.reg e)).me = s.me.applyReg e := rfl
@[simp] theorem others_after_reg (s : State) (e : RegEff) : (applyEff s (.reg e)).others = s.others := rfl
@[simp] theorem cores_after_reg (s : State) (e : RegEff) : (applyEff s (.reg e)).cores = s.cores := rfl
@[simp] theorem yards_after_reg (s : State) (e : RegEff) : (applyEff s (.reg e)).yards = s.yards := rfl
@[simp] theorem dev_after_reg (s : State) (e : RegEff) : (applyEff s (.reg e)).dev = s.dev := rfl
@[simp] theorem mem_after_reg (s : State) (e : RegEff) : (applyEff s (.reg e)).mem = s.mem := rfl
@[simp] theorem touches_after_reg (s : State) (e : RegEff) : (applyEff s (.reg e)).touches = s.touches := rfl
@[simp] theorem agenda_after_reg (s : State) (e : RegEff) : (applyEff s (.reg e)).agenda = s.agenda := rfl
@[simp] theorem cycle_after_reg (s : State) (e : RegEff) : (applyEff s (.reg e)).cycle = s.cycle := rfl
@[simp] theorem patience_after_reg (s : State) (e : RegEff) : (applyEff s (.reg e)).patience = s.patience := rfl
@[simp] theorem me_after_pc (s : State) (w : BitVec 62) : (applyEff s (.pc w)).me = { s.me with arch := { s.me.arch with pcw := w } } := rfl
@[simp] theorem others_after_pc (s : State) (w : BitVec 62) : (applyEff s (.pc w)).others = s.others := rfl
@[simp] theorem cores_after_pc (s : State) (w : BitVec 62) : (applyEff s (.pc w)).cores = s.cores := rfl
@[simp] theorem yards_after_pc (s : State) (w : BitVec 62) : (applyEff s (.pc w)).yards = s.yards := rfl
@[simp] theorem dev_after_pc (s : State) (w : BitVec 62) : (applyEff s (.pc w)).dev = s.dev := rfl
@[simp] theorem mem_after_pc (s : State) (w : BitVec 62) : (applyEff s (.pc w)).mem = s.mem := rfl
@[simp] theorem touches_after_pc (s : State) (w : BitVec 62) : (applyEff s (.pc w)).touches = s.touches := rfl
@[simp] theorem agenda_after_pc (s : State) (w : BitVec 62) : (applyEff s (.pc w)).agenda = s.agenda := rfl
@[simp] theorem cycle_after_pc (s : State) (w : BitVec 62) : (applyEff s (.pc w)).cycle = s.cycle := rfl
@[simp] theorem patience_after_pc (s : State) (w : BitVec 62) : (applyEff s (.pc w)).patience = s.patience := rfl
@[simp] theorem me_after_issued (s : State) : (applyEff s (.issued)).me = s.me.countIssue := rfl
@[simp] theorem others_after_issued (s : State) : (applyEff s (.issued)).others = s.others := rfl
@[simp] theorem cores_after_issued (s : State) : (applyEff s (.issued)).cores = s.cores := rfl
@[simp] theorem yards_after_issued (s : State) : (applyEff s (.issued)).yards = s.yards := rfl
@[simp] theorem dev_after_issued (s : State) : (applyEff s (.issued)).dev = s.dev := rfl
@[simp] theorem mem_after_issued (s : State) : (applyEff s (.issued)).mem = s.mem := rfl
@[simp] theorem touches_after_issued (s : State) : (applyEff s (.issued)).touches = s.touches := rfl
@[simp] theorem agenda_after_issued (s : State) : (applyEff s (.issued)).agenda = s.agenda := rfl
@[simp] theorem cycle_after_issued (s : State) : (applyEff s (.issued)).cycle = s.cycle := rfl
@[simp] theorem patience_after_issued (s : State) : (applyEff s (.issued)).patience = s.patience := rfl
@[simp] theorem me_after_store (s : State) (l : List HeldStore) : (applyEff s (.store l)).me = s.me.putStore l := rfl
@[simp] theorem others_after_store (s : State) (l : List HeldStore) : (applyEff s (.store l)).others = s.others := rfl
@[simp] theorem cores_after_store (s : State) (l : List HeldStore) : (applyEff s (.store l)).cores = s.cores := rfl
@[simp] theorem yards_after_store (s : State) (l : List HeldStore) : (applyEff s (.store l)).yards = s.yards := rfl
@[simp] theorem dev_after_store (s : State) (l : List HeldStore) : (applyEff s (.store l)).dev = s.dev := rfl
@[simp] theorem mem_after_store (s : State) (l : List HeldStore) : (applyEff s (.store l)).mem = s.mem := rfl
@[simp] theorem touches_after_store (s : State) (l : List HeldStore) : (applyEff s (.store l)).touches = s.touches := rfl
@[simp] theorem agenda_after_store (s : State) (l : List HeldStore) : (applyEff s (.store l)).agenda = s.agenda := rfl
@[simp] theorem cycle_after_store (s : State) (l : List HeldStore) : (applyEff s (.store l)).cycle = s.cycle := rfl
@[simp] theorem patience_after_store (s : State) (l : List HeldStore) : (applyEff s (.store l)).patience = s.patience := rfl
@[simp] theorem me_after_strand (s : State) (x : Strand) : (applyEff s (.strand x)).me = x := rfl
@[simp] theorem others_after_strand (s : State) (x : Strand) : (applyEff s (.strand x)).others = s.others := rfl
@[simp] theorem cores_after_strand (s : State) (x : Strand) : (applyEff s (.strand x)).cores = s.cores := rfl
@[simp] theorem yards_after_strand (s : State) (x : Strand) : (applyEff s (.strand x)).yards = s.yards := rfl
@[simp] theorem dev_after_strand (s : State) (x : Strand) : (applyEff s (.strand x)).dev = s.dev := rfl
@[simp] theorem mem_after_strand (s : State) (x : Strand) : (applyEff s (.strand x)).mem = s.mem := rfl
@[simp] theorem touches_after_strand (s : State) (x : Strand) : (applyEff s (.strand x)).touches = s.touches := rfl
@[simp] theorem agenda_after_strand (s : State) (x : Strand) : (applyEff s (.strand x)).agenda = s.agenda := rfl
@[simp] theorem cycle_after_strand (s : State) (x : Strand) : (applyEff s (.strand x)).cycle = s.cycle := rfl
@[simp] theorem patience_after_strand (s : State) (x : Strand) : (applyEff s (.strand x)).patience = s.patience := rfl
@[simp] theorem me_after_mem (s : State) (k : Nat) (b : List Byte) : (applyEff s (.mem k b)).me = s.me := rfl
@[simp] theorem others_after_mem (s : State) (k : Nat) (b : List Byte) : (applyEff s (.mem k b)).others = s.others := rfl
@[simp] theorem cores_after_mem (s : State) (k : Nat) (b : List Byte) : (applyEff s (.mem k b)).cores = s.cores := rfl
@[simp] theorem yards_after_mem (s : State) (k : Nat) (b : List Byte) : (applyEff s (.mem k b)).yards = s.yards := rfl
@[simp] theorem dev_after_mem (s : State) (k : Nat) (b : List Byte) : (applyEff s (.mem k b)).dev = s.dev := rfl
@[simp] theorem mem_after_mem (s : State) (k : Nat) (b : List Byte) : (applyEff s (.mem k b)).mem = s.mem.writeBytes k b := rfl
@[simp] theorem touches_after_mem (s : State) (k : Nat) (b : List Byte) : (applyEff s (.mem k b)).touches = s.touches := rfl
@[simp] theorem agenda_after_mem (s : State) (k : Nat) (b : List Byte) : (applyEff s (.mem k b)).agenda = s.agenda := rfl
@[simp] theorem cycle_after_mem (s : State) (k : Nat) (b : List Byte) : (applyEff s (.mem k b)).cycle = s.cycle := rfl
@[simp] theorem patience_after_mem (s : State) (k : Nat) (b : List Byte) : (applyEff s (.mem k b)).patience = s.patience := rfl
@[simp] theorem me_after_touches (s : State) (l : List Touch) : (applyEff s (.touches l)).me = s.me := rfl
@[simp] theorem others_after_touches (s : State) (l : List Touch) : (applyEff s (.touches l)).others = s.others := rfl
@[simp] theorem cores_after_touches (s : State) (l : List Touch) : (applyEff s (.touches l)).cores = s.cores := rfl
@[simp] theorem yards_after_touches (s : State) (l : List Touch) : (applyEff s (.touches l)).yards = s.yards := rfl
@[simp] theorem dev_after_touches (s : State) (l : List Touch) : (applyEff s (.touches l)).dev = s.dev := rfl
@[simp] theorem mem_after_touches (s : State) (l : List Touch) : (applyEff s (.touches l)).mem = s.mem := rfl
@[simp] theorem touches_after_touches (s : State) (l : List Touch) : (applyEff s (.touches l)).touches = l := rfl
@[simp] theorem agenda_after_touches (s : State) (l : List Touch) : (applyEff s (.touches l)).agenda = s.agenda := rfl
@[simp] theorem cycle_after_touches (s : State) (l : List Touch) : (applyEff s (.touches l)).cycle = s.cycle := rfl
@[simp] theorem patience_after_touches (s : State) (l : List Touch) : (applyEff s (.touches l)).patience = s.patience := rfl
@[simp] theorem me_after_others (s : State) (l : List Strand) : (applyEff s (.others l)).me = s.me := rfl
@[simp] theorem others_after_others (s : State) (l : List Strand) : (applyEff s (.others l)).others = l := rfl
@[simp] theorem cores_after_others (s : State) (l : List Strand) : (applyEff s (.others l)).cores = s.cores := rfl
@[simp] theorem yards_after_others (s : State) (l : List Strand) : (applyEff s (.others l)).yards = s.yards := rfl
@[simp] theorem dev_after_others (s : State) (l : List Strand) : (applyEff s (.others l)).dev = s.dev := rfl
@[simp] theorem mem_after_others (s : State) (l : List Strand) : (applyEff s (.others l)).mem = s.mem := rfl
@[simp] theorem touches_after_others (s : State) (l : List Strand) : (applyEff s (.others l)).touches = s.touches := rfl
@[simp] theorem agenda_after_others (s : State) (l : List Strand) : (applyEff s (.others l)).agenda = s.agenda := rfl
@[simp] theorem cycle_after_others (s : State) (l : List Strand) : (applyEff s (.others l)).cycle = s.cycle := rfl
@[simp] theorem patience_after_others (s : State) (l : List Strand) : (applyEff s (.others l)).patience = s.patience := rfl
@[simp] theorem me_after_core (s : State) (k : Nat × Bool × Nat) (c : Core) : (applyEff s (.core k c)).me = s.me := rfl
@[simp] theorem others_after_core (s : State) (k : Nat × Bool × Nat) (c : Core) : (applyEff s (.core k c)).others = s.others := rfl
@[simp] theorem cores_after_core (s : State) (k : Nat × Bool × Nat) (c : Core) : (applyEff s (.core k c)).cores = assocSet s.cores k c := rfl
@[simp] theorem yards_after_core (s : State) (k : Nat × Bool × Nat) (c : Core) : (applyEff s (.core k c)).yards = s.yards := rfl
@[simp] theorem dev_after_core (s : State) (k : Nat × Bool × Nat) (c : Core) : (applyEff s (.core k c)).dev = s.dev := rfl
@[simp] theorem mem_after_core (s : State) (k : Nat × Bool × Nat) (c : Core) : (applyEff s (.core k c)).mem = s.mem := rfl
@[simp] theorem touches_after_core (s : State) (k : Nat × Bool × Nat) (c : Core) : (applyEff s (.core k c)).touches = s.touches := rfl
@[simp] theorem agenda_after_core (s : State) (k : Nat × Bool × Nat) (c : Core) : (applyEff s (.core k c)).agenda = s.agenda := rfl
@[simp] theorem cycle_after_core (s : State) (k : Nat × Bool × Nat) (c : Core) : (applyEff s (.core k c)).cycle = s.cycle := rfl
@[simp] theorem patience_after_core (s : State) (k : Nat × Bool × Nat) (c : Core) : (applyEff s (.core k c)).patience = s.patience := rfl
@[simp] theorem me_after_yard (s : State) (y : Nat) (Y : Yard) : (applyEff s (.yard y Y)).me = s.me := rfl
@[simp] theorem others_after_yard (s : State) (y : Nat) (Y : Yard) : (applyEff s (.yard y Y)).others = s.others := rfl
@[simp] theorem cores_after_yard (s : State) (y : Nat) (Y : Yard) : (applyEff s (.yard y Y)).cores = s.cores := rfl
@[simp] theorem yards_after_yard (s : State) (y : Nat) (Y : Yard) : (applyEff s (.yard y Y)).yards = assocSet s.yards y Y := rfl
@[simp] theorem dev_after_yard (s : State) (y : Nat) (Y : Yard) : (applyEff s (.yard y Y)).dev = s.dev := rfl
@[simp] theorem mem_after_yard (s : State) (y : Nat) (Y : Yard) : (applyEff s (.yard y Y)).mem = s.mem := rfl
@[simp] theorem touches_after_yard (s : State) (y : Nat) (Y : Yard) : (applyEff s (.yard y Y)).touches = s.touches := rfl
@[simp] theorem agenda_after_yard (s : State) (y : Nat) (Y : Yard) : (applyEff s (.yard y Y)).agenda = s.agenda := rfl
@[simp] theorem cycle_after_yard (s : State) (y : Nat) (Y : Yard) : (applyEff s (.yard y Y)).cycle = s.cycle := rfl
@[simp] theorem patience_after_yard (s : State) (y : Nat) (Y : Yard) : (applyEff s (.yard y Y)).patience = s.patience := rfl
@[simp] theorem me_after_dev (s : State) (d : Dev) : (applyEff s (.dev d)).me = s.me := rfl
@[simp] theorem others_after_dev (s : State) (d : Dev) : (applyEff s (.dev d)).others = s.others := rfl
@[simp] theorem cores_after_dev (s : State) (d : Dev) : (applyEff s (.dev d)).cores = s.cores := rfl
@[simp] theorem yards_after_dev (s : State) (d : Dev) : (applyEff s (.dev d)).yards = s.yards := rfl
@[simp] theorem dev_after_dev (s : State) (d : Dev) : (applyEff s (.dev d)).dev = d := rfl
@[simp] theorem mem_after_dev (s : State) (d : Dev) : (applyEff s (.dev d)).mem = s.mem := rfl
@[simp] theorem touches_after_dev (s : State) (d : Dev) : (applyEff s (.dev d)).touches = s.touches := rfl
@[simp] theorem agenda_after_dev (s : State) (d : Dev) : (applyEff s (.dev d)).agenda = s.agenda := rfl
@[simp] theorem cycle_after_dev (s : State) (d : Dev) : (applyEff s (.dev d)).cycle = s.cycle := rfl
@[simp] theorem patience_after_dev (s : State) (d : Dev) : (applyEff s (.dev d)).patience = s.patience := rfl

/-! ### The strand -/

@[simp] theorem pos_of_countIssue (x : Strand) : x.countIssue.pos = x.pos := rfl
@[simp] theorem run_of_countIssue (x : Strand) : x.countIssue.run = .ready := rfl
@[simp] theorem tid_of_countIssue (x : Strand) : x.countIssue.tid = x.tid := rfl
@[simp] theorem index_of_countIssue (x : Strand) : x.countIssue.index = x.index := rfl
@[simp] theorem arch_of_countIssue (x : Strand) : x.countIssue.arch = x.arch := rfl
@[simp] theorem st_of_countIssue (x : Strand) : x.countIssue.st = x.st := rfl
@[simp] theorem trap_of_countIssue (x : Strand) : x.countIssue.trap = x.trap := rfl
@[simp] theorem modes_of_countIssue (x : Strand) : x.countIssue.modes = x.modes := rfl
@[simp] theorem tiles_of_countIssue (x : Strand) : x.countIssue.tiles = x.tiles := rfl
@[simp] theorem fmt_of_countIssue (x : Strand) : x.countIssue.fmt = x.fmt := rfl
@[simp] theorem nextSeq_of_countIssue (x : Strand) : x.countIssue.nextSeq = x.nextSeq := rfl
@[simp] theorem window_of_countIssue (x : Strand) : x.countIssue.window = x.window.map (fun e => { e with left := e.left - 1 }) := rfl
@[simp] theorem pending_of_countIssue (x : Strand) : x.countIssue.pending = x.pending.map (fun p => { p with left := p.left - 1 }) := rfl
@[simp] theorem storeBuf_of_countIssue (x : Strand) : x.countIssue.storeBuf = x.storeBuf := rfl
@[simp] theorem binds_of_countIssue (x : Strand) : x.countIssue.binds = x.binds := rfl
@[simp] theorem seen_of_countIssue (x : Strand) : x.countIssue.seen = x.seen := rfl
@[simp] theorem fenceRel_of_countIssue (x : Strand) : x.countIssue.fenceRel = x.fenceRel := rfl
@[simp] theorem act_of_countIssue (x : Strand) : x.countIssue.act = x.act := rfl
@[simp] theorem pair_of_countIssue (x : Strand) : x.countIssue.pair = x.pair := rfl
@[simp] theorem home_of_countIssue (x : Strand) : x.countIssue.home = x.home := rfl
@[simp] theorem trapFrom_of_countIssue (x : Strand) : x.countIssue.trapFrom = x.trapFrom := rfl
@[simp] theorem trapAsid_of_countIssue (x : Strand) : x.countIssue.trapAsid = x.trapAsid := rfl
@[simp] theorem wait_of_countIssue (x : Strand) : x.countIssue.wait = x.wait := rfl
@[simp] theorem sent_of_countIssue (x : Strand) : x.countIssue.sent = x.sent := rfl
@[simp] theorem answers_of_countIssue (x : Strand) : x.countIssue.answers = x.answers := rfl
@[simp] theorem fetchBuf_of_countIssue (x : Strand) : x.countIssue.fetchBuf = x.fetchBuf := rfl
@[simp] theorem poisonTiles_of_countIssue (x : Strand) : x.countIssue.poisonTiles = x.poisonTiles := rfl
@[simp] theorem stopped_of_countIssue (x : Strand) : x.countIssue.stopped = x.stopped := rfl
@[simp] theorem resumeMask_of_countIssue (x : Strand) : x.countIssue.resumeMask = x.resumeMask := rfl
@[simp] theorem pos_of_applyReg (x : Strand) (e : RegEff) : (x.applyReg e).pos = x.pos := rfl
@[simp] theorem run_of_applyReg (x : Strand) (e : RegEff) : (x.applyReg e).run = x.run := rfl
@[simp] theorem tid_of_applyReg (x : Strand) (e : RegEff) : (x.applyReg e).tid = x.tid := rfl
@[simp] theorem index_of_applyReg (x : Strand) (e : RegEff) : (x.applyReg e).index = x.index := rfl
@[simp] theorem arch_of_applyReg (x : Strand) (e : RegEff) : (x.applyReg e).arch = x.arch.apply e := rfl
@[simp] theorem st_of_applyReg (x : Strand) (e : RegEff) : (x.applyReg e).st = x.st := rfl
@[simp] theorem trap_of_applyReg (x : Strand) (e : RegEff) : (x.applyReg e).trap = x.trap := rfl
@[simp] theorem modes_of_applyReg (x : Strand) (e : RegEff) : (x.applyReg e).modes = x.modes := rfl
@[simp] theorem tiles_of_applyReg (x : Strand) (e : RegEff) : (x.applyReg e).tiles = x.tiles := rfl
@[simp] theorem fmt_of_applyReg (x : Strand) (e : RegEff) : (x.applyReg e).fmt = x.fmt := rfl
@[simp] theorem nextSeq_of_applyReg (x : Strand) (e : RegEff) : (x.applyReg e).nextSeq = x.nextSeq := rfl
@[simp] theorem window_of_applyReg (x : Strand) (e : RegEff) : (x.applyReg e).window = x.window := rfl
@[simp] theorem pending_of_applyReg (x : Strand) (e : RegEff) : (x.applyReg e).pending = x.pending := rfl
@[simp] theorem storeBuf_of_applyReg (x : Strand) (e : RegEff) : (x.applyReg e).storeBuf = x.storeBuf := rfl
@[simp] theorem binds_of_applyReg (x : Strand) (e : RegEff) : (x.applyReg e).binds = x.binds := rfl
@[simp] theorem seen_of_applyReg (x : Strand) (e : RegEff) : (x.applyReg e).seen = x.seen := rfl
@[simp] theorem fenceRel_of_applyReg (x : Strand) (e : RegEff) : (x.applyReg e).fenceRel = x.fenceRel := rfl
@[simp] theorem act_of_applyReg (x : Strand) (e : RegEff) : (x.applyReg e).act = x.act := rfl
@[simp] theorem pair_of_applyReg (x : Strand) (e : RegEff) : (x.applyReg e).pair = x.pair := rfl
@[simp] theorem home_of_applyReg (x : Strand) (e : RegEff) : (x.applyReg e).home = x.home := rfl
@[simp] theorem trapFrom_of_applyReg (x : Strand) (e : RegEff) : (x.applyReg e).trapFrom = x.trapFrom := rfl
@[simp] theorem trapAsid_of_applyReg (x : Strand) (e : RegEff) : (x.applyReg e).trapAsid = x.trapAsid := rfl
@[simp] theorem wait_of_applyReg (x : Strand) (e : RegEff) : (x.applyReg e).wait = x.wait := rfl
@[simp] theorem sent_of_applyReg (x : Strand) (e : RegEff) : (x.applyReg e).sent = x.sent := rfl
@[simp] theorem answers_of_applyReg (x : Strand) (e : RegEff) : (x.applyReg e).answers = x.answers := rfl
@[simp] theorem fetchBuf_of_applyReg (x : Strand) (e : RegEff) : (x.applyReg e).fetchBuf = x.fetchBuf := rfl
@[simp] theorem poisonTiles_of_applyReg (x : Strand) (e : RegEff) : (x.applyReg e).poisonTiles = x.poisonTiles := rfl
@[simp] theorem stopped_of_applyReg (x : Strand) (e : RegEff) : (x.applyReg e).stopped = x.stopped := rfl
@[simp] theorem resumeMask_of_applyReg (x : Strand) (e : RegEff) : (x.applyReg e).resumeMask = x.resumeMask := rfl

/-! ### Registers -/

@[simp] theorem sreg_of_unpoison (a : Arch) (r : RegId) (k : BitVec 5) : (a.unpoison r).sreg k = a.sreg k := rfl
@[simp] theorem vreg_of_unpoison (a : Arch) (r : RegId) (k : BitVec 5) : (a.unpoison r).vreg k = a.vreg k := rfl
@[simp] theorem mreg_of_unpoison (a : Arch) (r : RegId) (k : BitVec 3) : (a.unpoison r).mreg k = a.mreg k := rfl
@[simp] theorem s_of_unpoison (a : Arch) (r : RegId) : (a.unpoison r).s = a.s := rfl
@[simp] theorem v_of_unpoison (a : Arch) (r : RegId) : (a.unpoison r).v = a.v := rfl
@[simp] theorem m_of_unpoison (a : Arch) (r : RegId) : (a.unpoison r).m = a.m := rfl
@[simp] theorem pcw_of_unpoison (a : Arch) (r : RegId) : (a.unpoison r).pcw = a.pcw := rfl
@[simp] theorem fpflags_of_unpoison (a : Arch) (r : RegId) : (a.unpoison r).fpflags = a.fpflags := rfl
@[simp] theorem held_of_unpoison (a : Arch) (r : RegId) : (a.unpoison r).held = a.held := rfl
@[simp] theorem ev_of_unpoison (a : Arch) (r : RegId) : (a.unpoison r).ev = a.ev := rfl
@[simp] theorem poisoned_of_unpoison (a : Arch) (r : RegId) : (a.unpoison r).poisoned = a.poisoned.filter (fun q => q != r) := rfl
@[simp] theorem pcw_of_apply (a : Arch) (e : RegEff) : (a.apply e).pcw = a.pcw := by
  cases e <;> simp only [Arch.apply] <;> (repeat' split) <;> rfl
@[simp] theorem held_of_apply (a : Arch) (e : RegEff) : (a.apply e).held = a.held := by
  cases e <;> simp only [Arch.apply] <;> (repeat' split) <;> rfl
/-- A write leaves no register poisoned that was not (R431). -/
theorem poisoned_of_apply (a : Arch) (e : RegEff) (h : a.poisoned = []) : (a.apply e).poisoned = [] := by
  cases e <;> simp only [Arch.apply] <;> (repeat' split) <;> simp [h]
@[simp] theorem vreg_of_apply_s (a : Arch) (r k : BitVec 5) (x : Word) : (a.apply (.s r x)).vreg k = a.vreg k := by
  simp only [Arch.apply]; split <;> rfl
@[simp] theorem mreg_of_apply_s (a : Arch) (r : BitVec 5) (k : BitVec 3) (x : Word) : (a.apply (.s r x)).mreg k = a.mreg k := by
  simp only [Arch.apply]; split <;> rfl
@[simp] theorem sreg_of_apply_v (a : Arch) (r k : BitVec 5) (x : Vec) : (a.apply (.v r x)).sreg k = a.sreg k := rfl
@[simp] theorem mreg_of_apply_v (a : Arch) (r : BitVec 5) (k : BitVec 3) (x : Vec) : (a.apply (.v r x)).mreg k = a.mreg k := rfl
@[simp] theorem sreg_of_apply_m (a : Arch) (r : BitVec 3) (k : BitVec 5) (x : Word) : (a.apply (.m r x)).sreg k = a.sreg k := by
  simp only [Arch.apply]; split <;> rfl
@[simp] theorem vreg_of_apply_m (a : Arch) (r : BitVec 3) (k : BitVec 5) (x : Word) : (a.apply (.m r x)).vreg k = a.vreg k := by
  simp only [Arch.apply]; split <;> rfl
@[simp] theorem sreg_of_apply_flags (a : Arch) (f : BitVec 6) (c : Bool) (k : BitVec 5) : (a.apply (.flags f c)).sreg k = a.sreg k := rfl
@[simp] theorem vreg_of_apply_flags (a : Arch) (f : BitVec 6) (c : Bool) (k : BitVec 5) : (a.apply (.flags f c)).vreg k = a.vreg k := rfl
@[simp] theorem mreg_of_apply_flags (a : Arch) (f : BitVec 6) (c : Bool) (k : BitVec 3) : (a.apply (.flags f c)).mreg k = a.mreg k := rfl
@[simp] theorem fpflags_of_apply_flags (a : Arch) (f : BitVec 6) (c : Bool) : (a.apply (.flags f c)).fpflags = a.fpflags ||| f := rfl

/-- A register reads what was last written to it; s0 reads zero (R116). -/
theorem sreg_of_apply_s (a : Arch) (r k : BitVec 5) (x : Word) :
    (a.apply (.s r x)).sreg k = if k = r ∧ r ≠ 0#5 then x else a.sreg k := by
  by_cases hr : r = 0#5
  · simp [Arch.apply, hr]
  · by_cases hk : k = r
    · subst hk; simp [Arch.apply, Arch.sreg, hr]
    · have : r.toNat ≠ k.toNat := fun h => hk (BitVec.eq_of_toNat_eq h.symm)
      simp [Arch.apply, Arch.sreg, hr, hk, this]

theorem vreg_of_apply_v (a : Arch) (r k : BitVec 5) (x : Vec) : (a.apply (.v r x)).vreg k = if k = r then x else a.vreg k := by
  by_cases hk : k = r
  · subst hk; simp [Arch.apply, Arch.vreg]
  · have : r.toNat ≠ k.toNat := fun h => hk (BitVec.eq_of_toNat_eq h.symm)
    simp [Arch.apply, Arch.vreg, hk, this]

/-- m0 reads all ones whatever is written (R139). -/
theorem mreg_of_apply_m (a : Arch) (r k : BitVec 3) (x : Word) :
    (a.apply (.m r x)).mreg k = if k = r ∧ r ≠ 0#3 then x else a.mreg k := by
  by_cases hr : r = 0#3
  · simp [Arch.apply, hr]
  · by_cases hk : k = r
    · subst hk; simp [Arch.apply, Arch.mreg, hr]
    · have : r.toNat ≠ k.toNat := fun h => hk (BitVec.eq_of_toNat_eq h.symm)
      simp [Arch.apply, Arch.mreg, hr, hk, this]

/-! ### Lists by key -/

theorem assocGet_assocSet {κ α : Type} [DecidableEq κ] (d : α) (l : List (κ × α)) (k j : κ) (a : α) :
    assocGet d (assocSet l k a) j = if k = j then a else assocGet d l j := by
  induction l with
  | nil => simp [assocSet, assocGet]
  | cons e rest ih =>
    obtain ⟨k', b⟩ := e
    by_cases h : k' = k
    · subst h; by_cases hj : k' = j <;> simp [assocSet, assocGet, hj]
    · by_cases hj : k' = j
      · subst hj; simp [assocSet, assocGet, h, Ne.symm h]
      · simp [assocSet, assocGet, h, hj, ih]

theorem yard_after_yard (s : State) (y z : Nat) (Y : Yard) : (applyEff s (.yard y Y)).yard z = if y = z then Y else s.yard z :=
  assocGet_assocSet _ _ _ _ _
theorem core_after_core (s : State) (k j : Nat × Bool × Nat) (c : Core) :
    (applyEff s (.core k c)).core j = if k = j then c else s.core j := assocGet_assocSet _ _ _ _ _

/-! ### Changing the focus -/

theorem focusOn_rest (s : State) (p : Pos) :
    (s.focusOn p).mem = s.mem ∧ (s.focusOn p).dev = s.dev ∧ (s.focusOn p).yards = s.yards ∧ (s.focusOn p).cores = s.cores ∧
      (s.focusOn p).touches = s.touches ∧ (s.focusOn p).agenda = s.agenda ∧ (s.focusOn p).cycle = s.cycle ∧
      (s.focusOn p).patience = s.patience := by
  unfold State.focusOn
  split
  · exact ⟨rfl, rfl, rfl, rfl, rfl, rfl, rfl, rfl⟩
  · split <;> exact ⟨rfl, rfl, rfl, rfl, rfl, rfl, rfl, rfl⟩

/-- No effect changes the agenda, the cycle or the patience. -/
theorem applyEff_clock (s : State) (e : Eff) :
    (applyEff s e).agenda = s.agenda ∧ (applyEff s e).cycle = s.cycle ∧ (applyEff s e).patience = s.patience := by
  cases e <;> first | exact ⟨rfl, rfl, rfl⟩ | exact (focusOn_rest s _).2.2.2.2.2

theorem applyAll_clock (s : State) (l : List Eff) :
    (applyAll s l).agenda = s.agenda ∧ (applyAll s l).cycle = s.cycle ∧ (applyAll s l).patience = s.patience := by
  induction l generalizing s with
  | nil => exact ⟨rfl, rfl, rfl⟩
  | cons e es ih =>
    obtain ⟨a, b, c⟩ := applyEff_clock s e
    obtain ⟨a', b', c'⟩ := ih (applyEff s e)
    exact ⟨a'.trans a, b'.trans b, c'.trans c⟩

end Sys2Proof.Machine
end

