-- ==== Sys2Proof/Laws/Issue.lean ====
section
/-! SUPPORT. What the shared operations of issue do: an instruction of an idle strand answers the state its body leaves (R47,
R57, R60), and the register reads and writes of such a strand. -/
namespace Sys2Proof.Machine

/-- The state in which the body of an instruction of `len` words runs. -/
def started (s : State) (len : Nat) : State := retired s len []

theorem retired_append (s : State) (len : Nat) (effs : List Eff) : retired s len effs = applyAll (started s len) effs := rfl

@[simp] theorem applyAll_nil (s : State) : applyAll s [] = s := rfl
@[simp] theorem applyAll_cons (s : State) (e : Eff) (es : List Eff) : applyAll s (e :: es) = applyAll (applyEff s e) es := rfl

theorem applyAll_append (s : State) (a b : List Eff) : applyAll s (a ++ b) = applyAll (applyAll s a) b := by
  induction a generalizing s with
  | nil => rfl
  | cons e es ih => exact ih (applyEff s e)

/-- An idle strand passes the checks of issue. -/
theorem checkIssue_idle (s : State) (h : s.Idle) (beyond side : Bool) (log : List Eff) :
    checkIssue beyond side ⟨s, log⟩ = .ok ((), ⟨s, log⟩) := by
  obtain ⟨h1, h2, h3, h4, h5, h6, h7⟩ := h
  simp [checkIssue, checkPair, getMe, getS, bind, StateT.bind, Except.bind, pure, StateT.pure, Except.pure, h1, h2, h3, h4, h5]

/-- A strand that is no half of a pair, with no window and no request for a safe point, retires without an effect. -/
theorem retire_quiet (s : State) (log : List Eff) (agreed : Bool) (sp : SafePoint) (hp : s.me.pair = none)
    (hw : s.me.window = []) (hq : s.me.st.safereq = false) : retire agreed sp ⟨s, log⟩ = .ok ((), ⟨s, log⟩) := by
  cases sp <;>
    simp [retire, getMe, getS, bind, StateT.bind, Except.bind, pure, StateT.pure, Except.pure, hp, hw, hq,
      Strand.stopsAtSafePoint]

/-- A body that completes, or raises a cause other than consumed poison, does so whatever stands in its registers (R57, R432). -/
theorem freeFirst_ok {p : Act Unit} {r r' : Run} (h : p r = .ok ((), r')) : freeFirst p r = .ok ((), r') := by simp only [freeFirst, h]

theorem freeFirst_trap {p : Act Unit} {r : Run} {c : BitVec 8} {f : Word} {keep : List Eff} (h : p r = .error (.trap c f keep))
    (hc : c ≠ 0x50#8) : freeFirst p r = .error (.trap c f keep) := by simp only [freeFirst, h, if_neg hc]

/-- An instruction whose body ends well answers the state its body leaves. -/
theorem instr_next (s t : State) (log : List Eff) (h : s.Idle) (ext beyond : Bool) (sp : SafePoint) (body : Act Unit)
    (hb : body ⟨started s (words ext sp), [.pc (s.me.arch.pcw + BitVec.ofNat 62 (words ext sp)), .issued]⟩ = .ok ((), ⟨t, log⟩))
    (hl : applyAll s log.reverse = t) (hp : t.me.pair = none) (hw : t.me.window = []) (hq : t.me.st.safereq = false) :
    instr ext beyond sp body s = .next t := by
  have hi : emit .issued ⟨s, []⟩ = .ok ((), ⟨applyEff s .issued, [.issued]⟩) := rfl
  have e : instrProg (words ext sp) beyond false sp body ⟨s, []⟩ = .ok ((), ⟨t, log⟩) := by
    simp only [instrProg, bind, StateT.bind, Except.bind, checkIssue_idle s h, getMe, getS, pure, StateT.pure, Except.pure]
    simp only [emit]
    have : applyEff (applyEff s .issued) (.pc (s.me.arch.pcw + BitVec.ofNat 62 (words ext sp))) = started s (words ext sp) := rfl
    rw [this, freeFirst_ok hb]
    exact retire_quiet t log _ sp hp hw hq
  simp only [instr, runAct, e, outcomeEffs, hl]

/-! ### Programs -/

/-- A program goes on with the value and the state that its first part leaves. -/
theorem act_bind {α β : Type} (p : Act α) (f : α → Act β) (r r' : Run) (a : α) (h : p r = .ok (a, r')) :
    (p >>= f) r = f a r' := by
  simp [bind, StateT.bind, Except.bind, h]

/-- A program whose first part ends early ends there. -/
theorem act_bind_error {α β : Type} (p : Act α) (f : α → Act β) (r : Run) (e : Stop) (h : p r = .error e) :
    (p >>= f) r = .error e := by
  simp [bind, StateT.bind, Except.bind, h]

@[simp] theorem act_pure {α : Type} (a : α) (r : Run) : (pure a : Act α) r = .ok (a, r) := rfl
@[simp] theorem getS_run (r : Run) : getS r = .ok (r.s, r) := rfl
@[simp] theorem getMe_run (r : Run) : getMe r = .ok (r.s.me, r) := rfl
@[simp] theorem emit_run (e : Eff) (r : Run) : emit e r = .ok ((), ⟨applyEff r.s e, e :: r.log⟩) := rfl
@[simp] theorem modifyMe_run (f : Strand → Strand) (r : Run) :
    modifyMe f r = .ok ((), ⟨{ r.s with me := f r.s.me }, .strand (f r.s.me) :: r.log⟩) := rfl
@[simp] theorem raise_run {α : Type} (c : BitVec 8) (f : Word) (r : Run) : (raise c f : Act α) r = .error (.trap c f []) := rfl

/-- Nothing outstanding will write a register of the strand in the focus, and none is poisoned (R57, R431). -/
structure State.Clear (s : State) : Prop where
  window : s.me.window = []
  pending : s.me.pending = []
  poisoned : s.me.arch.poisoned = []

theorem State.Idle.clear {s : State} (h : s.Idle) : s.Clear := ⟨h.window, h.pending, h.poisoned⟩

theorem State.Clear.started {s : State} (h : s.Clear) (len : Nat) : (started s len).Clear := by
  obtain ⟨h1, h2, h3⟩ := h
  exact ⟨by simp [Machine.started, retired, applyEff, Strand.countIssue, h1],
    by simp [Machine.started, retired, applyEff, Strand.countIssue, h2],
    by simp [Machine.started, retired, applyEff, Strand.countIssue, h3]⟩

theorem State.Clear.reg {s : State} (h : s.Clear) (e : RegEff) : (applyEff s (.reg e)).Clear :=
  ⟨h.window, h.pending, poisoned_of_apply _ _ h.poisoned⟩

theorem State.Clear.pc {s : State} (h : s.Clear) (w : BitVec 62) : (applyEff s (.pc w)).Clear := ⟨h.window, h.pending, h.poisoned⟩

theorem not_blocked {s : State} (h : s.Clear) (r : RegId) : s.me.blocked r = false := by
  simp [Strand.blocked, h.window, h.pending]

/-- Uses of registers by a strand that nothing holds back. -/
theorem useReg_clear {s : State} (h : s.Clear) (r : RegId) (log : List Eff) : useReg r ⟨s, log⟩ = .ok ((), ⟨s, log⟩) := by
  simp [useReg, bind, StateT.bind, Except.bind, not_blocked h, h.poisoned]

theorem claim_clear {s : State} (h : s.Clear) (r : RegId) (log : List Eff) : claim r ⟨s, log⟩ = .ok ((), ⟨s, log⟩) := by
  simp [claim, bind, StateT.bind, Except.bind, not_blocked h]

theorem rdS_clear {s : State} (h : s.Clear) (r : BitVec 5) (log : List Eff) :
    rdS r ⟨s, log⟩ = .ok (s.me.arch.sreg r, ⟨s, log⟩) := by
  simp [rdS, bind, StateT.bind, Except.bind, useReg_clear h]

theorem rdV_clear {s : State} (h : s.Clear) (r : BitVec 5) (log : List Eff) :
    rdV r ⟨s, log⟩ = .ok (s.me.arch.vreg r, ⟨s, log⟩) := by
  simp [rdV, bind, StateT.bind, Except.bind, useReg_clear h]

theorem rdM_clear {s : State} (h : s.Clear) (r : BitVec 3) (log : List Eff) :
    rdM r ⟨s, log⟩ = .ok (s.me.arch.mreg r, ⟨s, log⟩) := by
  simp [rdM, bind, StateT.bind, Except.bind, useReg_clear h]

theorem rdOld_clear {s : State} (h : s.Clear) (d : BitVec 5) (m : BitVec 3) (log : List Eff) :
    rdOld d m ⟨s, log⟩ = .ok (s.me.arch.vreg d, ⟨s, log⟩) := by
  by_cases hm : m = 0#3 <;> simp [rdOld, hm, bind, StateT.bind, Except.bind, rdV_clear h]

theorem wrS_clear {s : State} (h : s.Clear) (d : BitVec 5) (v : Word) (log : List Eff) :
    wrS d v ⟨s, log⟩ = .ok ((), ⟨applyEff s (.reg (.s d v)), .reg (.s d v) :: log⟩) := by
  simp [wrS, bind, StateT.bind, Except.bind, claim_clear h]

theorem wrV_clear {s : State} (h : s.Clear) (d : BitVec 5) (v : Vec) (log : List Eff) :
    wrV d v ⟨s, log⟩ = .ok ((), ⟨applyEff s (.reg (.v d v)), .reg (.v d v) :: log⟩) := by
  simp [wrV, bind, StateT.bind, Except.bind, claim_clear h]

theorem wrM_clear {s : State} (h : s.Clear) (d : BitVec 3) (v : Word) (log : List Eff) :
    wrM d v ⟨s, log⟩ = .ok ((), ⟨applyEff s (.reg (.m d v)), .reg (.m d v) :: log⟩) := by
  simp [wrM, bind, StateT.bind, Except.bind, claim_clear h]

/-! ### Forms that may be unsettled (R484) -/

/-- A program that completes, or that raises a cause, is not unsettled. -/
theorem openOr_ok {o : Opening} {len : Nat} {sp : SafePoint} {p : Act Unit} {r r' : Run} (h : p r = .ok ((), r')) :
    openOr o len sp p r = .ok ((), r') := by simp only [openOr, h]

theorem openOr_trap {o : Opening} {len : Nat} {sp : SafePoint} {p : Act Unit} {r : Run} {c : BitVec 8} {f : Word} {keep : List Eff}
    (h : p r = .error (.trap c f keep)) : openOr o len sp p r = .error (.trap c f keep) := by simp only [openOr, h]

/-- Where its instruction completes, such a form is an instruction like any other. -/
theorem instrA_ok {o : Opening} {ext beyond : Bool} {sp : SafePoint} {body : Act Unit} {s : State} {r : Run}
    (h : instrProg (words ext sp) beyond false sp body ⟨s, []⟩ = .ok ((), r)) :
    instrA o ext beyond sp body s = instr ext beyond sp body s := by
  simp only [instrA, instr, runAct, openOr_ok h, h]

theorem instrA_trap {o : Opening} {ext beyond : Bool} {sp : SafePoint} {body : Act Unit} {s : State} {c : BitVec 8} {f : Word}
    {keep : List Eff} (h : instrProg (words ext sp) beyond false sp body ⟨s, []⟩ = .error (.trap c f keep)) :
    instrA o ext beyond sp body s = instr ext beyond sp body s := by
  simp only [instrA, instr, runAct, openOr_trap h, h]

/-! ### What the start of an instruction leaves -/

@[simp] theorem started_sreg (s : State) (n : Nat) (r : BitVec 5) : (started s n).me.arch.sreg r = s.me.arch.sreg r := rfl
@[simp] theorem started_vreg (s : State) (n : Nat) (r : BitVec 5) : (started s n).me.arch.vreg r = s.me.arch.vreg r := rfl
@[simp] theorem started_mreg (s : State) (n : Nat) (r : BitVec 3) : (started s n).me.arch.mreg r = s.me.arch.mreg r := rfl
@[simp] theorem started_modes (s : State) (n : Nat) : (started s n).me.modes = s.me.modes := rfl
@[simp] theorem started_st (s : State) (n : Nat) : (started s n).me.st = s.me.st := rfl
@[simp] theorem started_pos (s : State) (n : Nat) : (started s n).me.pos = s.me.pos := rfl
@[simp] theorem started_pair (s : State) (n : Nat) : (started s n).me.pair = s.me.pair := rfl
@[simp] theorem started_pcw (s : State) (n : Nat) : (started s n).me.arch.pcw = s.me.arch.pcw + BitVec.ofNat 62 n := rfl
@[simp] theorem started_mem (s : State) (n : Nat) : (started s n).mem = s.mem := rfl
@[simp] theorem started_dev (s : State) (n : Nat) : (started s n).dev = s.dev := rfl
@[simp] theorem started_yards (s : State) (n : Nat) : (started s n).yards = s.yards := rfl
@[simp] theorem started_cores (s : State) (n : Nat) : (started s n).cores = s.cores := rfl

/-- An instruction whose body has these effects, none of which touches a pair, the window or SAFEREQ. -/
theorem instr_effs (s : State) (effs : List Eff) (h : s.Idle) (ext beyond : Bool) (sp : SafePoint) (body : Act Unit)
    (hb : ∀ log, body ⟨started s (words ext sp), log⟩ = .ok ((), ⟨applyAll (started s (words ext sp)) effs, effs.reverse ++ log⟩))
    (hp : (retired s (words ext sp) effs).me.pair = none) (hw : (retired s (words ext sp) effs).me.window = [])
    (hq : (retired s (words ext sp) effs).me.st.safereq = false) :
    instr ext beyond sp body s = .next (retired s (words ext sp) effs) := by
  refine instr_next s _ _ h ext beyond sp body (hb _) ?_ hp hw hq
  simp only [List.reverse_append, List.reverse_reverse, applyAll_append]; rfl

/-- One register written. -/
theorem instr_reg (s : State) (e : RegEff) (h : s.Idle) (ext beyond : Bool) (sp : SafePoint) (body : Act Unit)
    (hb : ∀ log, body ⟨started s (words ext sp), log⟩ =
      .ok ((), ⟨applyEff (started s (words ext sp)) (.reg e), .reg e :: log⟩)) :
    instr ext beyond sp body s = .next (retired s (words ext sp) [.reg e]) := by
  refine instr_effs s [.reg e] h ext beyond sp body (fun log => hb log) h.pair ?_ h.safereq
  simp [retired, applyEff, Strand.applyReg, Strand.countIssue, h.window]

end Sys2Proof.Machine
end

