-- ==== Sys2Proof/Laws/Memory.lean ====
section
/-! SUPPORT. Memory: every operation keeps the canonical form, a read after a write, and the bytes of values (R4). -/
namespace Sys2Proof.Machine

/-- The canonical form, said of the list: no zero byte, and every later key greater. -/
theorem wf_cons (k : Nat) (b : Byte) (m : Memory) :
    Memory.wf ((k, b) :: m) = true ↔ b ≠ 0 ∧ (∀ e ∈ m, k < e.1) ∧ m.wf = true := by
  induction m generalizing k b with
  | nil => simp [Memory.wf]
  | cons e rest ih =>
    obtain ⟨k', b'⟩ := e
    simp only [Memory.wf, Bool.and_eq_true, bne_iff_ne, ne_eq, decide_eq_true_eq, List.mem_cons, forall_eq_or_imp]
    rw [ih k' b']
    constructor
    · rintro ⟨⟨h1, h2⟩, h3, h4, h5⟩
      exact ⟨h1, ⟨h2, fun e he => Nat.lt_trans h2 (h4 e he)⟩, h3, h4, h5⟩
    · rintro ⟨h1, ⟨h2, -⟩, h3, h4, h5⟩
      exact ⟨⟨h1, h2⟩, h3, h4, h5⟩

/-- A write lists its key or a key that was listed. -/
theorem write_keys (m : Memory) (a : Nat) (b : Byte) : ∀ e ∈ m.write a b, e.1 = a ∨ e ∈ m := by
  induction m with
  | nil =>
    intro e he
    simp only [Memory.write] at he
    split at he <;> simp_all
  | cons c rest ih =>
    obtain ⟨k, x⟩ := c
    intro e he
    simp only [Memory.write] at he
    split at he
    · split at he
      · exact .inr he
      · rcases List.mem_cons.mp he with h | h
        · exact .inl (h ▸ rfl)
        · exact .inr h
    · split at he
      · split at he
        · exact .inr (List.mem_cons_of_mem _ he)
        · rcases List.mem_cons.mp he with h | h
          · exact .inl (h ▸ rfl)
          · exact .inr (List.mem_cons_of_mem _ h)
      · rcases List.mem_cons.mp he with h | h
        · exact .inr (h ▸ List.mem_cons_self)
        · rcases ih e h with h | h
          · exact .inl h
          · exact .inr (List.mem_cons_of_mem _ h)

/-- A write keeps the canonical form. -/
theorem write_wf (m : Memory) (a : Nat) (b : Byte) (h : m.wf = true) : (m.write a b).wf = true := by
  induction m with
  | nil =>
    unfold Memory.write
    split
    · rfl
    · simpa [Memory.wf] using ‹_›
  | cons c rest ih =>
    obtain ⟨k, x⟩ := c
    have hc := (wf_cons k x rest).mp h
    simp only [Memory.write]
    split
    · split
      · exact h
      · rename_i hb
        refine (wf_cons _ _ _).mpr ⟨hb, ?_, h⟩
        intro e he
        rcases List.mem_cons.mp he with rfl | he
        · assumption
        · exact Nat.lt_trans ‹_› (hc.2.1 e he)
    · split
      · split
        · exact hc.2.2
        · rename_i heq hb
          subst heq
          exact (wf_cons _ _ _).mpr ⟨hb, hc.2.1, hc.2.2⟩
      · refine (wf_cons _ _ _).mpr ⟨hc.1, ?_, ih hc.2.2⟩
        intro e he
        rcases write_keys rest a b e he with h | h
        · omega
        · exact hc.2.1 e h

theorem writeBytes_wf (m : Memory) (a : Nat) (bs : List Byte) (h : m.wf = true) : (m.writeBytes a bs).wf = true := by
  induction bs generalizing m a with
  | nil => exact h
  | cons b bs ih => exact ih _ _ (write_wf m a b h)

theorem writeHeld_wf (m : Memory) (l : List HeldStore) (h : m.wf = true) : (m.writeHeld l).wf = true := by
  unfold Memory.writeHeld
  induction l generalizing m with
  | nil => exact h
  | cons x l ih => exact ih _ (writeBytes_wf _ _ _ h)

/-- A key below every listed one reads as zero. -/
theorem read_below (m : Memory) (a : Nat) (h : ∀ e ∈ m, a < e.1) : m.read a = 0 := by
  induction m with
  | nil => rfl
  | cons c rest ih =>
    obtain ⟨k, x⟩ := c
    have : k ≠ a := by have := h (k, x) List.mem_cons_self; simp at this; omega
    simp only [Memory.read, this, if_false]
    exact ih (fun e he => h e (List.mem_cons_of_mem _ he))

/-- A read after a write: the byte written at its key, and everywhere else what stood there. -/
theorem read_write (m : Memory) (a k : Nat) (b : Byte) (h : m.wf = true) :
    (m.write a b).read k = if a = k then b else m.read k := by
  induction m with
  | nil =>
    unfold Memory.write
    split
    · simp_all [Memory.read]
    · by_cases hk : a = k <;> simp [Memory.read, hk]
  | cons c rest ih =>
    obtain ⟨j, x⟩ := c
    have hc := (wf_cons j x rest).mp h
    simp only [Memory.write]
    split
    · split
      · by_cases hk : a = k
        · subst hk
          rename_i hb
          rw [if_pos rfl, hb]
          refine read_below _ _ ?_
          intro e he
          rcases List.mem_cons.mp he with rfl | he
          · assumption
          · exact Nat.lt_trans ‹_› (hc.2.1 e he)
        · simp [hk]
      · by_cases hk : a = k <;> simp [Memory.read, hk]
    · split
      · rename_i heq
        subst heq
        split
        · rename_i hb
          by_cases hk : a = k
          · subst hk
            rw [if_pos rfl, hb]
            exact read_below _ _ hc.2.1
          · simp [Memory.read, hk]
        · by_cases hk : a = k <;> simp [Memory.read, hk]
      · rename_i h1 h2
        by_cases hj : j = k
        · have : a ≠ k := by omega
          simp [Memory.read, hj, this]
        · simp [Memory.read, hj, ih hc.2.2]

theorem read_writeBytes (m : Memory) (a k : Nat) (bs : List Byte) (h : m.wf = true) :
    (m.writeBytes a bs).read k = if a ≤ k ∧ k < a + bs.length then bs.getD (k - a) 0 else m.read k := by
  induction bs generalizing m a with
  | nil => simp [Memory.writeBytes]
  | cons b bs ih =>
    simp only [Memory.writeBytes, ih _ _ (write_wf m a b h), read_write m a k b h, List.length_cons]
    by_cases h1 : a = k
    · subst h1
      have : ¬ (a + 1 ≤ a) := by omega
      simp [this]
    · by_cases h2 : a + 1 ≤ k ∧ k < a + 1 + bs.length
      · have e : k - a = (k - (a + 1)) + 1 := by omega
        rw [if_pos h2, if_pos (by omega), e, List.getD_cons_succ]
      · rw [if_neg h2, if_neg h1, if_neg (by omega)]

/-! ### Bytes of values -/

@[simp] theorem length_leBytes (n x : Nat) : (leBytes n x).length = n := by
  induction n generalizing x with
  | zero => rfl
  | succ n ih => simp [leBytes, ih]

@[simp] theorem length_readBytes (m : Memory) (a n : Nat) : (m.readBytes a n).length = n := by
  induction n generalizing a with
  | zero => rfl
  | succ n ih => simp [Memory.readBytes, ih]

theorem leValue_leBytes (n x : Nat) : leValue (leBytes n x) = x % 256 ^ n := by
  induction n generalizing x with
  | zero => simp [leBytes, leValue, Nat.mod_one]
  | succ n ih =>
    have e : (BitVec.ofNat 8 x).toNat = x % 256 := BitVec.toNat_ofNat x 8
    rw [leBytes, leValue, ih, e, show 256 ^ (n + 1) = 256 * 256 ^ n from Nat.pow_succ', Nat.mod_mul]

/-! ### The state's memory -/

theorem memOk_eff {s : State} (h : s.MemOk) (e : Eff) : (applyEff s e).MemOk := by
  unfold State.MemOk at *
  cases e <;> first | exact h | exact writeBytes_wf _ _ _ h | (rw [show applyEff s (.focus _) = s.focusOn _ from rfl, (focusOn_rest s _).1]; exact h)

theorem memOk_all {s : State} (h : s.MemOk) (l : List Eff) : (applyAll s l).MemOk := by
  induction l generalizing s with
  | nil => exact h
  | cons e es ih => exact ih (memOk_eff h e)

end Sys2Proof.Machine
end

