-- ==== Sys2Proof/Laws/Access.lean ====
section
/-! SUPPORT. Translation, loads and stores of a quiet strand on the device's own memory (R252-R255, R346, R350). -/
namespace Sys2Proof.Machine

theorem State.Quiet.started {s : State} (h : s.Quiet) (n : Nat) : (Machine.started s n).Quiet := by
  obtain ⟨⟨⟨h1, h2, h3, h4, h5, h6, h7⟩, b, c, d, e, f, g, i, j, k, l, m, o, w, z⟩, p, q⟩ := h
  refine ⟨⟨⟨h1, h2, ?_, ?_, h5, h6, h7⟩, b, c, d, e, f, g, i, j, k, l, m, o, w, z⟩, p, q⟩ <;>
    simp [Machine.started, retired, applyEff, Strand.countIssue, h3, h4]

theorem not_aperture {a : Nat} (h : a < dramEnd) : inAperture a = false := by
  have : ¬ apertureBase ≤ a := by simp only [apertureBase, dramEnd] at *; omega
  simp [inAperture, this]

/-- A supervisor in ASID 0 uses DRAM addresses as they are (R350). -/
theorem translate_quiet {s : State} (h : s.Quiet) (va : Word) (k : Access) (log : List Eff) (hd : va.toNat < dramEnd) :
    translate s.me.who va k ⟨s, log⟩ = .ok (va.toNat, ⟨s, log⟩) := by
  have h1 : ¬ 72057594037927936 ≤ va.toNat := by simp only [dramEnd] at hd; omega
  simp [translate, bind, StateT.bind, Except.bind, h1, not_aperture hd, Strand.who, h.asid, h.sup, hd]

/-- The keys of a range of DRAM: one segment, or two where it crosses a page. -/
def dramSegs (a n : Nat) : List (Nat × Nat) :=
  if n ≤ 4096 - a % 4096 then [(a, n)] else [(a, 4096 - a % 4096), (a + (4096 - a % 4096), n - (4096 - a % 4096))]

theorem translateRange_quiet {s : State} (h : s.Quiet) (va : Word) (n : Nat) (k : Access) (log : List Eff)
    (hd : InDram va n) (hn : 0 < n) :
    translateRange s.me.who va n k ⟨s, log⟩ = .ok (dramSegs va.toNat n, ⟨s, log⟩) := by
  unfold InDram at hd
  have hlt : va.toNat < dramEnd := by omega
  have hout : s.outsideAllotment s.me.who.tid va.toNat n = false := by
    simp [State.outsideAllotment, not_aperture hlt, not_aperture (show va.toNat + n - 1 < dramEnd by omega)]
  by_cases hr : n ≤ 4096 - va.toNat % 4096
  · simp [translateRange, bind, StateT.bind, Except.bind, hout, translate_quiet h va k _ hlt, hr, dramSegs]
  · have hk : (va + BitVec.ofNat 64 (4096 - va.toNat % 4096)).toNat = va.toNat + (4096 - va.toNat % 4096) := by
      rw [BitVec.toNat_add, BitVec.toNat_ofNat]
      simp only [dramEnd] at hd
      omega
    have h2 := translate_quiet h (va + BitVec.ofNat 64 (4096 - va.toNat % 4096)) k log (by rw [hk]; omega)
    rw [hk] at h2
    simp [translateRange, bind, StateT.bind, Except.bind, hout, translate_quiet h va k _ hlt, hr, dramSegs, h2]

/-- Every key of a range of DRAM lies in DRAM. -/
theorem dramSegs_below {a n : Nat} (h : a + n ≤ dramEnd) (hn : 0 < n) : ∀ g ∈ dramSegs a n, g.1 < dramEnd := by
  intro g hg
  unfold dramSegs at hg
  split at hg
  · simp only [List.mem_singleton] at hg; subst hg; show a < dramEnd; omega
  · rename_i hr
    simp only [List.mem_cons, List.not_mem_nil, or_false] at hg
    rcases hg with rfl | rfl
    · show a < dramEnd; omega
    · show a + (4096 - a % 4096) < dramEnd; omega

theorem awaitKeys_quiet {s : State} (h : s.Quiet) (segs : List (Nat × Nat)) (log : List Eff) (hd : ∀ g ∈ segs, g.1 < dramEnd) :
    awaitKeys segs ⟨s, log⟩ = .ok ((), ⟨s, log⟩) := by
  have hk : segs.any (fun g => s.keyHeld g.1 g.2) = false := by
    rw [List.any_eq_false]
    intro g hg
    have hy : isYardMem g.1 = false := by
      have := hd g hg
      simp only [dramEnd] at this
      simp [isYardMem]; omega
    simp [State.keyHeld, State.engineLocked, State.skewBusyKey, hy, h.still.engines]
  simp [awaitKeys, bind, StateT.bind, Except.bind, hk]

theorem awaitAcquires_quiet {s : State} (h : s.Quiet) (log : List Eff) : awaitAcquires ⟨s, log⟩ = .ok ((), ⟨s, log⟩) := by
  simp [awaitAcquires, State.acquiring, bind, StateT.bind, Except.bind, h.still.idle.pending, h.still.idle.window, h.still.acquires]

theorem awaitUnsettled_quiet {s : State} (h : s.Quiet) (va : Word) (n : Nat) (log : List Eff) :
    awaitUnsettled va n ⟨s, log⟩ = .ok ((), ⟨s, log⟩) := by
  simp [awaitUnsettled, bind, StateT.bind, Except.bind, h.still.idle.window]

theorem readBytes_eq (m : Memory) (a n : Nat) : m.readBytes a n = (List.range n).map (fun i => m.read (a + i)) := by
  induction n generalizing a with
  | zero => rfl
  | succ n ih =>
    rw [Memory.readBytes, ih, List.range_succ_eq_map, List.map_cons, List.map_map, Nat.add_zero]
    congr 1
    apply List.map_congr_left
    intro i _
    simp only [Function.comp]
    rw [show a + 1 + i = a + (i + 1) by omega]

theorem readBytes_add (m : Memory) (a n k : Nat) : m.readBytes a (n + k) = m.readBytes a n ++ m.readBytes (a + n) k := by
  simp only [readBytes_eq, List.range_add, List.map_append, List.map_map]
  congr 1
  apply List.map_congr_left
  intro i _
  simp only [Function.comp, Nat.add_assoc]

/-- A byte that a quiet strand loads is memory's (R237, R296). -/
theorem quietByte {s : State} (h : s.Quiet) (atSlice : Bool) (k : Nat) : s.coreByte s.me.pos atSlice k = s.mem.read k := by
  unfold State.coreByte
  split
  · rfl
  · split
    · simp [State.domByte, State.dirtyByte, h.still.domain]
    · simp [h.still.l1, State.cachedByte, State.domByte, State.dirtyByte, h.still.domain, domLine]

theorem ownByte_quiet {s : State} (h : s.Quiet) (k : Nat) : s.me.ownByte k = none := by
  simp [Strand.ownByte, h.still.storeBuf, h.still.held, h.still.act, h.still.idle.pair, heldByte]

theorem loadBytes_quiet {s : State} (h : s.Quiet) (asid : BitVec 16) (atSlice : Bool) (g : Seg) :
    s.loadBytes asid atSlice g = s.mem.readBytes g.key g.n := by
  rw [State.loadBytes, readBytes_eq]
  apply List.map_congr_left
  intro i _
  simp only [ownByte_quiet h, quietByte h]
  split <;> rfl

/-- Where no tile is open, the segments of an access are untiled. -/
theorem tileWays_quiet {s : State} (h : s.Quiet) (w : Who) (b : ReqBy) (agent va : Nat) (segs : List (Nat × Nat)) (need : Tenure)
    (plain : Bool) (log : List Eff) :
    tileWays w b agent va segs need plain ⟨s, log⟩ = .ok ((placeSegs va segs).map (fun g => ⟨g.1, g.2.1, g.2.2, .untiled⟩), ⟨s, log⟩) := by
  simp [tileWays, bind, StateT.bind, Except.bind, h.still.tiles]

/-- The bytes of the segments of a range of DRAM are the range's. -/
theorem dramSegs_bytes (m : Memory) (f : Nat × Nat × Nat → Seg) (a n : Nat) (hf : ∀ g, (f g).key = g.1 ∧ (f g).n = g.2.2) :
    ((placeSegs a (dramSegs a n)).map f).flatMap (fun g => m.readBytes g.key g.n) = m.readBytes a n := by
  unfold dramSegs
  split
  · simp [placeSegs, (hf _).1, (hf _).2]
  · rename_i hr
    simp only [placeSegs, List.map_cons, List.map_nil, List.flatMap_cons, List.flatMap_nil, (hf _).1, (hf _).2, List.append_nil]
    rw [← readBytes_add]
    congr 1; omega

/-- A load by a quiet strand (R252): the bytes of memory, and nothing changes but the touches that the caches will record. -/
theorem loadMem_quiet {s : State} (h : s.Quiet) (va : Word) (n : Nat) (nu : BitVec 5) (acq : Order) (log : List Eff)
    (hd : InDram va n) (hn : 0 < n) :
    ∃ l effs, loadMem va n nu acq ⟨s, log⟩ = .ok (s.mem.readBytes va.toNat n, ⟨applyAll s effs, effs.reverse ++ log⟩) ∧
      applyAll s effs = { s with touches := l } := by
  have hp : s.poisonedAt s.me.pos.yidx s.me.pos.heavy (dramSegs va.toNat n) = false := by
    simp [State.poisonedAt, h.still.poison, h.still.domain]
  have hb : ∀ (asid : BitVec 16) (atSlice : Bool),
      ((placeSegs va.toNat (dramSegs va.toNat n)).map (fun g => (⟨g.1, g.2.1, g.2.2, .untiled⟩ : Seg))).flatMap (s.loadBytes asid atSlice) =
        s.mem.readBytes va.toNat n := by
    intro asid atSlice
    rw [show s.loadBytes asid atSlice = fun g => s.mem.readBytes g.key g.n from funext (loadBytes_quiet h asid atSlice)]
    exact dramSegs_bytes _ _ _ _ (fun g => ⟨rfl, rfl⟩)
  have e : ∃ ts, loadMem va n nu acq ⟨s, log⟩ = (do
      emit (.touches ts)
      match acq with
      | some sc => queueTouch (.acquire (s.me.toucher nu) sc)
      | none => pure ()
      return s.mem.readBytes va.toNat n : Act (List Byte)) ⟨s, log⟩ := by
    unfold loadMem
    rw [act_bind _ _ _ _ _ (awaitAcquires_quiet h log), act_bind _ _ _ _ _ (show getMe ⟨s, log⟩ = .ok (s.me, ⟨s, log⟩) from rfl),
      act_bind _ _ _ _ _ (translateRange_quiet h va n .load log hd hn),
      act_bind _ _ _ _ _ (awaitKeys_quiet h _ log (dramSegs_below hd hn)),
      act_bind _ _ _ _ _ (tileWays_quiet h _ _ _ _ _ _ _ log), act_bind _ _ _ _ _ (getS_run ⟨s, log⟩)]
    simp only [hp, Bool.false_eq_true, if_false, hb]
    exact ⟨_, rfl⟩
  obtain ⟨ts, e⟩ := e
  cases acq with
  | none => exact ⟨_, [.touches _], e, rfl⟩
  | some sc => exact ⟨_, [.touches _, .touches _], e, rfl⟩

/-- The checks of a store by a quiet strand (R252, R253): it passes, and its stores hold its bytes. -/
theorem checkStore_quiet {s : State} (h : s.Quiet) (va : Word) (bytes : List Byte) (nu : BitVec 5) (rel : Order) (log : List Eff)
    (hd : InDram va bytes.length) (hn : bytes ≠ []) :
    checkStore va bytes nu rel ⟨s, log⟩ =
      .ok (storesOf va.toNat (dramSegs va.toNat bytes.length) bytes nu s.me.modes.nudef rel, ⟨s, log⟩) := by
  have hl : 0 < bytes.length := List.length_pos_iff.mpr hn
  unfold checkStore
  rw [act_bind _ _ _ _ _ (awaitAcquires_quiet h log), act_bind _ _ _ _ _ (show getMe ⟨s, log⟩ = .ok (s.me, ⟨s, log⟩) from rfl),
    act_bind _ _ _ _ _ (translateRange_quiet h va bytes.length .store log hd hl),
    act_bind _ _ _ _ _ (awaitKeys_quiet h _ log (dramSegs_below hd hl))]
  rfl

end Sys2Proof.Machine
end

