-- ==== Sys2Proof/Laws/Effects.lean ====
section
/-! SUPPORT. What any instruction or event can do: it answers a state that a list of effects leaves. -/
namespace Sys2Proof.Machine

theorem runAct_effs {n : BitVec 2} {p : Act Unit} {s t : State} (h : runAct n p s = .next t) : ∃ l, t = applyAll s l := by
  unfold runAct at h
  split at h
  · exact ⟨_, (Host.Outcome.next.inj h).symm⟩
  · cases h

theorem instr_effs_of {ext beyond : Bool} {sp : SafePoint} {body : Act Unit} {s t : State} (h : instr ext beyond sp body s = .next t) :
    ∃ l, t = applyAll s l := runAct_effs h

theorem instrH_effs_of {ext side : Bool} {sp : SafePoint} {body : Act Unit} {s t : State} (h : instrH ext side sp body s = .next t) :
    ∃ l, t = applyAll s l := runAct_effs h

theorem instrA_effs_of {o : Opening} {ext beyond : Bool} {sp : SafePoint} {body : Act Unit} {s t : State}
    (h : instrA o ext beyond sp body s = .next t) : ∃ l, t = applyAll s l := runAct_effs h

theorem event_effs_of {body : Act Unit} {s t : State} (h : event body s = .next t) : ∃ l, t = applyAll s l := by
  unfold event at h
  split at h
  · exact ⟨_, (Host.Outcome.next.inj h).symm⟩
  · cases h
  · exact ⟨[], (Host.Outcome.next.inj h).symm⟩

theorem illegal_effs_of {b : BitVec 32} {s t : State} (h : illegal b s = .next t) : ∃ l, t = applyAll s l := runAct_effs h

end Sys2Proof.Machine
end

