-- ==== Sys2Proof/Laws/Operands.lean ====
section
/-! SUPPORT. What each operand form does for a strand that nothing holds back: the registers it writes and the flags it raises. -/
namespace Sys2Proof.Machine

/-- Clear states stay clear under register writes; a form's run is the register write it ends with. -/
theorem unary_clear {s : State} (h : s.Clear) (d a : BitVec 5) (f : Word → Word) (log : List Eff) :
    unary d a f ⟨s, log⟩ = .ok ((), ⟨applyEff s (.reg (.s d (f (s.me.arch.sreg a)))), .reg (.s d (f (s.me.arch.sreg a))) :: log⟩) := by
  rw [unary, act_bind _ _ _ _ _ (rdS_clear h a log), wrS_clear h]

theorem binary_clear {s : State} (h : s.Clear) (d a b : BitVec 5) (f : Word → Word → Word) (log : List Eff) :
    binary d a b f ⟨s, log⟩ =
      .ok ((), ⟨applyEff s (.reg (.s d (f (s.me.arch.sreg a) (s.me.arch.sreg b)))),
        .reg (.s d (f (s.me.arch.sreg a) (s.me.arch.sreg b))) :: log⟩) := by
  rw [binary, act_bind _ _ _ _ _ (rdS_clear h a log), act_bind _ _ _ _ _ (rdS_clear h b log), wrS_clear h]

theorem ternary_clear {s : State} (h : s.Clear) (d a b c : BitVec 5) (f : Word → Word → Word → Word) (log : List Eff) :
    ternary d a b c f ⟨s, log⟩ =
      .ok ((), ⟨applyEff s (.reg (.s d (f (s.me.arch.sreg a) (s.me.arch.sreg b) (s.me.arch.sreg c)))),
        .reg (.s d (f (s.me.arch.sreg a) (s.me.arch.sreg b) (s.me.arch.sreg c))) :: log⟩) := by
  rw [ternary, act_bind _ _ _ _ _ (rdS_clear h a log), act_bind _ _ _ _ _ (rdS_clear h b log),
    act_bind _ _ _ _ _ (rdS_clear h c log), wrS_clear h]

/-- A division whose divisor is not zero. -/
theorem division_clear {s : State} (h : s.Clear) (d a b : BitVec 5) (f : Word → Word → Word) (hb : s.me.arch.sreg b ≠ 0)
    (log : List Eff) :
    division d a b f ⟨s, log⟩ =
      .ok ((), ⟨applyEff s (.reg (.s d (f (s.me.arch.sreg a) (s.me.arch.sreg b)))),
        .reg (.s d (f (s.me.arch.sreg a) (s.me.arch.sreg b))) :: log⟩) := by
  rw [division, act_bind _ _ _ _ _ (rdS_clear h a log), act_bind _ _ _ _ _ (rdS_clear h b log),
    act_bind _ _ _ _ _ (claim_clear h _ log), if_neg hb, wrS_clear h]

/-- A division by zero (R121). -/
theorem division_by_zero {s : State} (h : s.Clear) (d a b : BitVec 5) (f : Word → Word → Word) (hb : s.me.arch.sreg b = 0)
    (log : List Eff) : division d a b f ⟨s, log⟩ = .error (.trap 0x2A 0 []) := by
  rw [division, act_bind _ _ _ _ _ (rdS_clear h a log), act_bind _ _ _ _ _ (rdS_clear h b log),
    act_bind _ _ _ _ _ (claim_clear h _ log), if_pos hb]
  rfl

/-- Flags of which none traps have no cause (R44, R46). -/
theorem fpCause_untrapped {s : State} {f : FpFlags} (h : s.Untrapped f) :
    fpCause s.me.modes.nve s.me.modes.dze s.me.modes.nanmode f = none := by
  obtain ⟨h1, h2, h3⟩ := h
  unfold fpCause
  cases hn : s.me.modes.nve <;> cases hd : s.me.modes.dze <;> cases hm : s.me.modes.nanmode <;> simp_all

/-- Flags of which none traps are raised, and counted outside mode 1 of K.NANMODE (R43-R46). -/
theorem raiseFlags_quiet {s : State} {f : FpFlags} (h : s.Untrapped f) (log : List Eff) :
    raiseFlags f ⟨s, log⟩ = .ok ((), ⟨applyEff s (.reg (s.flagEff f)), .reg (s.flagEff f) :: log⟩) := by
  simp [raiseFlags, bind, StateT.bind, Except.bind, fpCause_untrapped h, State.flagEff]

/-- Flags of which one traps raise their cause (R44, R46). -/
theorem raiseFlags_traps {s : State} {f : FpFlags} {c : BitVec 8}
    (h : fpCause s.me.modes.nve s.me.modes.dze s.me.modes.nanmode f = some c) (log : List Eff) :
    raiseFlags f ⟨s, log⟩ = .error (.trap c 0 []) := by
  simp [raiseFlags, bind, StateT.bind, Except.bind, h]

theorem State.Untrapped.started {s : State} {f : FpFlags} (h : s.Untrapped f) (n : Nat) : (Machine.started s n).Untrapped f := h

theorem State.Untrapped.reg {s : State} {f : FpFlags} (h : s.Untrapped f) (e : RegEff) : (applyEff s (.reg e)).Untrapped f := h

theorem dynMode_run (s : State) (log : List Eff) :
    dynMode ⟨s, log⟩ = .ok (RMode.ofCode s.me.modes.rmode.toNat, ⟨s, log⟩) := rfl

theorem modeOf_run (r : BitVec 3) (s : State) (log : List Eff) :
    modeOf r ⟨s, log⟩ =
      .ok (if r = 4#3 then RMode.ofCode s.me.modes.rmode.toNat else RMode.ofCode r.toNat, ⟨s, log⟩) := rfl

theorem wrF_quiet {s : State} (h : s.Clear) (d : BitVec 5) (r : FRes) (q : s.Untrapped r.2) (log : List Eff) :
    wrF d r ⟨s, log⟩ = .ok ((), ⟨applyAll s (s.floatEffs d r), (s.floatEffs d r).reverse ++ log⟩) := by
  rw [wrF, act_bind _ _ _ _ _ (claim_clear h _ log), act_bind _ _ _ _ _ (raiseFlags_quiet q log), wrS_clear (h.reg _)]
  rfl

theorem fbinary_quiet {s : State} (h : s.Clear) (t : BitVec 2) (d a b : BitVec 5)
    (f : FFmt → RMode → FVal → FVal → FRes) (log : List Eff) :
    let m := codeFmt t.toNat
    let r := f m (RMode.ofCode s.me.modes.rmode.toNat) (m.value (s.me.arch.sreg a).toNat) (m.value (s.me.arch.sreg b).toNat)
    s.Untrapped r.2 → fbinary t d a b f ⟨s, log⟩ = .ok ((), ⟨applyAll s (s.floatEffs d r), (s.floatEffs d r).reverse ++ log⟩) := by
  intro m r q
  rw [fbinary, act_bind _ _ _ _ _ (rdS_clear h a log), act_bind _ _ _ _ _ (rdS_clear h b log),
    act_bind _ _ _ _ _ (dynMode_run s log)]
  exact wrF_quiet h d r q log

theorem fpattern_quiet {s : State} (h : s.Clear) (t : BitVec 2) (d a b : BitVec 5)
    (f : FFmt → Nat → Nat → FRes) (log : List Eff) :
    let m := codeFmt t.toNat
    let r := f m ((s.me.arch.sreg a).toNat % 2 ^ m.width) ((s.me.arch.sreg b).toNat % 2 ^ m.width)
    s.Untrapped r.2 → fpattern t d a b f ⟨s, log⟩ = .ok ((), ⟨applyAll s (s.floatEffs d r), (s.floatEffs d r).reverse ++ log⟩) := by
  intro m r q
  rw [fpattern, act_bind _ _ _ _ _ (rdS_clear h a log), act_bind _ _ _ _ _ (rdS_clear h b log)]
  exact wrF_quiet h d r q log

theorem ffma_quiet {s : State} (h : s.Clear) (m : FFmt) (d a b c : BitVec 5) (log : List Eff) :
    let r := m.dest.fma (RMode.ofCode s.me.modes.rmode.toNat) (m.value (s.me.arch.sreg a).toNat)
      (m.value (s.me.arch.sreg b).toNat) (m.value (s.me.arch.sreg c).toNat)
    s.Untrapped r.2 → ffma m d a b c ⟨s, log⟩ = .ok ((), ⟨applyAll s (s.floatEffs d r), (s.floatEffs d r).reverse ++ log⟩) := by
  intro r q
  rw [ffma, act_bind _ _ _ _ _ (rdS_clear h a log), act_bind _ _ _ _ _ (rdS_clear h b log),
    act_bind _ _ _ _ _ (rdS_clear h c log), act_bind _ _ _ _ _ (dynMode_run s log)]
  exact wrF_quiet h d r q log

/-- Several effects in order. -/
theorem emitAll_run (l : List Eff) (s : State) (log : List Eff) :
    emitAll l ⟨s, log⟩ = .ok ((), ⟨applyAll s l, l.reverse ++ log⟩) := by
  induction l generalizing s log with
  | nil => rfl
  | cons e es ih =>
    rw [emitAll, act_bind _ _ _ _ _ (emit_run e ⟨s, log⟩), ih]
    simp

/-- A result without lookahead is written at once, one with lookahead waits (R57). -/
theorem deliver_now {s : State} (acq : Bool) (effs : List RegEff) (log : List Eff) :
    deliver 0 acq effs ⟨s, log⟩ = .ok ((), ⟨applyAll s (effs.map Eff.reg), (effs.map Eff.reg).reverse ++ log⟩) := by
  simp [deliver, deliverAs, bind, StateT.bind, Except.bind, emitAll_run]

theorem deliver_later {s : State} (h : s.Clear) (la : BitVec 4) (hl : la ≠ 0#4) (acq : Bool) (effs : List RegEff) (log : List Eff) :
    let x := { s.me with pending := s.me.pending ++ [⟨effs, la.toNat, acq, false, false, [], false, [], s.cycle⟩] }
    deliver la acq effs ⟨s, log⟩ = .ok ((), ⟨applyEff s (.strand x), .strand x :: log⟩) := by
  simp [deliver, deliverAs, bind, StateT.bind, Except.bind, hl, h.window, applyEff]

/-! ### Vectors -/

theorem vbinary_clear {s : State} (h : s.Clear) (d a b : BitVec 5) (m ty : BitVec 3) (f : Nat → Nat → Nat → Nat)
    (log : List Eff) :
    let v := mergeLanes (tyWidth ty) (s.me.arch.mreg m) (s.me.arch.vreg d)
      (fun i => f (tyWidth ty) (lane (tyWidth ty) (s.me.arch.vreg a) i) (lane (tyWidth ty) (s.me.arch.vreg b) i))
    vbinary d a b m ty f ⟨s, log⟩ = .ok ((), ⟨applyEff s (.reg (.v d v)), .reg (.v d v) :: log⟩) := by
  intro v
  rw [vbinary, act_bind _ _ _ _ _ (rdV_clear h a log), act_bind _ _ _ _ _ (rdV_clear h b log),
    act_bind _ _ _ _ _ (rdM_clear h m log), act_bind _ _ _ _ _ (rdOld_clear h d m log), wrV_clear h]

theorem vunary_clear {s : State} (h : s.Clear) (d a : BitVec 5) (m ty : BitVec 3) (f : Nat → Nat → Nat)
    (log : List Eff) :
    let v := mergeLanes (tyWidth ty) (s.me.arch.mreg m) (s.me.arch.vreg d)
      (fun i => f (tyWidth ty) (lane (tyWidth ty) (s.me.arch.vreg a) i))
    vunary d a m ty f ⟨s, log⟩ = .ok ((), ⟨applyEff s (.reg (.v d v)), .reg (.v d v) :: log⟩) := by
  intro v
  rw [vunary, act_bind _ _ _ _ _ (rdV_clear h a log), act_bind _ _ _ _ _ (rdM_clear h m log),
    act_bind _ _ _ _ _ (rdOld_clear h d m log), wrV_clear h]

theorem wrVF_quiet {s : State} (h : s.Clear) (d : BitVec 5) (r : Vec × FpFlags) (q : s.Untrapped r.2) (log : List Eff) :
    wrVF d r ⟨s, log⟩ = .ok ((), ⟨applyAll s (s.floatVEffs d r), (s.floatVEffs d r).reverse ++ log⟩) := by
  rw [wrVF, act_bind _ _ _ _ _ (claim_clear h _ log), act_bind _ _ _ _ _ (raiseFlags_quiet q log), wrV_clear (h.reg _)]
  rfl

theorem vfbinary_quiet {s : State} (h : s.Clear) (d a b : BitVec 5) (m ty : BitVec 3)
    (f : RMode → Nat → Nat → FRes) (log : List Eff) :
    let r := mergeLanesF (tyWidth ty) (s.me.arch.mreg m) (s.me.arch.vreg d) (fun i =>
      f (RMode.ofCode s.me.modes.rmode.toNat) (lane (tyWidth ty) (s.me.arch.vreg a) i) (lane (tyWidth ty) (s.me.arch.vreg b) i))
    s.Untrapped r.2 → vfbinary d a b m ty f ⟨s, log⟩ = .ok ((), ⟨applyAll s (s.floatVEffs d r), (s.floatVEffs d r).reverse ++ log⟩) := by
  intro r q
  rw [vfbinary, act_bind _ _ _ _ _ (rdV_clear h a log), act_bind _ _ _ _ _ (rdV_clear h b log),
    act_bind _ _ _ _ _ (rdM_clear h m log), act_bind _ _ _ _ _ (rdOld_clear h d m log), act_bind _ _ _ _ _ (dynMode_run s log)]
  exact wrVF_quiet h d r q log

theorem vfunary_quiet {s : State} (h : s.Clear) (d a : BitVec 5) (m ty : BitVec 3)
    (f : RMode → Nat → FRes) (log : List Eff) :
    let r := mergeLanesF (tyWidth ty) (s.me.arch.mreg m) (s.me.arch.vreg d) (fun i =>
      f (RMode.ofCode s.me.modes.rmode.toNat) (lane (tyWidth ty) (s.me.arch.vreg a) i))
    s.Untrapped r.2 → vfunary d a m ty f ⟨s, log⟩ = .ok ((), ⟨applyAll s (s.floatVEffs d r), (s.floatVEffs d r).reverse ++ log⟩) := by
  intro r q
  rw [vfunary, act_bind _ _ _ _ _ (rdV_clear h a log), act_bind _ _ _ _ _ (rdM_clear h m log),
    act_bind _ _ _ _ _ (rdOld_clear h d m log), act_bind _ _ _ _ _ (dynMode_run s log)]
  exact wrVF_quiet h d r q log

/-- Two registers written: a flag effect and a result. -/
theorem instr_two (s : State) (e1 e2 : RegEff) (h : s.Idle) (ext beyond : Bool) (sp : SafePoint) (body : Act Unit)
    (hb : ∀ log, body ⟨started s (words ext sp), log⟩ =
      .ok ((), ⟨applyAll (started s (words ext sp)) [.reg e1, .reg e2], [.reg e1, .reg e2].reverse ++ log⟩)) :
    instr ext beyond sp body s = .next (retired s (words ext sp) [.reg e1, .reg e2]) := by
  refine instr_effs s [.reg e1, .reg e2] h ext beyond sp body hb h.pair ?_ h.safereq
  simp [retired, applyEff, Strand.applyReg, Strand.countIssue, h.window]

end Sys2Proof.Machine
end

