-- ==== Sys2Proof/Laws/PerInstr.lean ====
section
/-! SUPPORT. Statements about every instruction, one lemma for each constructor: what the encoder yields for a well-formed
instruction parses to that instruction; an event has no encoding. -/
namespace Sys2Proof.Laws

set_option linter.unusedSimpArgs false
set_option Elab.async false

/-! ### The layouts of the formats: the fields of a body built from fields -/


theorem unpackA_pack (f : FieldsA) : unpackA (packA f) = f := by
  cases f; simp only [unpackA, packA, FieldsA.mk.injEq]
  and_intros <;>
    (apply BitVec.eq_of_getLsbD_eq; intro i hi; simp only [BitVec.getLsbD_extractLsb', BitVec.getLsbD_append, hi, decide_true, Bool.true_and]; (repeat' split) <;> first | (exfalso; omega) | (congr 1; omega))

theorem unpackB_pack (f : FieldsB) : unpackB (packB f) = f := by
  cases f; simp only [unpackB, packB, FieldsB.mk.injEq]
  and_intros <;>
    (apply BitVec.eq_of_getLsbD_eq; intro i hi; simp only [BitVec.getLsbD_extractLsb', BitVec.getLsbD_append, hi, decide_true, Bool.true_and]; (repeat' split) <;> first | (exfalso; omega) | (congr 1; omega))

theorem unpackI_pack (f : FieldsI) : unpackI (packI f) = f := by
  cases f; simp only [unpackI, packI, FieldsI.mk.injEq]
  and_intros <;>
    (apply BitVec.eq_of_getLsbD_eq; intro i hi; simp only [BitVec.getLsbD_extractLsb', BitVec.getLsbD_append, hi, decide_true, Bool.true_and]; (repeat' split) <;> first | (exfalso; omega) | (congr 1; omega))

theorem unpackV_pack (f : FieldsV) : unpackV (packV f) = f := by
  cases f; simp only [unpackV, packV, FieldsV.mk.injEq]
  and_intros <;>
    (apply BitVec.eq_of_getLsbD_eq; intro i hi; simp only [BitVec.getLsbD_extractLsb', BitVec.getLsbD_append, hi, decide_true, Bool.true_and]; (repeat' split) <;> first | (exfalso; omega) | (congr 1; omega))

theorem unpackW_pack (f : FieldsW) : unpackW (packW f) = f := by
  cases f; simp only [unpackW, packW, FieldsW.mk.injEq]
  and_intros <;>
    (apply BitVec.eq_of_getLsbD_eq; intro i hi; simp only [BitVec.getLsbD_extractLsb', BitVec.getLsbD_append, hi, decide_true, Bool.true_and]; (repeat' split) <;> first | (exfalso; omega) | (congr 1; omega))

theorem unpackT_pack (f : FieldsT) : unpackT (packT f) = f := by
  cases f; simp only [unpackT, packT, FieldsT.mk.injEq]
  and_intros <;>
    (apply BitVec.eq_of_getLsbD_eq; intro i hi; simp only [BitVec.getLsbD_extractLsb', BitVec.getLsbD_append, hi, decide_true, Bool.true_and]; (repeat' split) <;> first | (exfalso; omega) | (congr 1; omega))

theorem unpackK_pack (f : FieldsK) : unpackK (packK f) = f := by
  cases f; simp only [unpackK, packK, FieldsK.mk.injEq]
  and_intros <;>
    (apply BitVec.eq_of_getLsbD_eq; intro i hi; simp only [BitVec.getLsbD_extractLsb', BitVec.getLsbD_append, hi, decide_true, Bool.true_and]; (repeat' split) <;> first | (exfalso; omega) | (congr 1; omega))

theorem unpackKN_pack (f : FieldsKN) : unpackKN (packKN f) = f := by
  cases f; simp only [unpackKN, packKN, FieldsKN.mk.injEq]
  and_intros <;>
    (apply BitVec.eq_of_getLsbD_eq; intro i hi; simp only [BitVec.getLsbD_extractLsb', BitVec.getLsbD_append, hi, decide_true, Bool.true_and]; (repeat' split) <;> first | (exfalso; omega) | (congr 1; omega))

theorem unpackC24_pack (f : FieldsC24) : unpackC24 (packC24 f) = f := by
  cases f; simp only [unpackC24, packC24, FieldsC24.mk.injEq]
  and_intros <;>
    (apply BitVec.eq_of_getLsbD_eq; intro i hi; simp only [BitVec.getLsbD_extractLsb', BitVec.getLsbD_append, hi, decide_true, Bool.true_and]; (repeat' split) <;> first | (exfalso; omega) | (congr 1; omega))

theorem unpackCM_pack (f : FieldsCM) : unpackCM (packCM f) = f := by
  cases f; simp only [unpackCM, packCM, FieldsCM.mk.injEq]
  and_intros <;>
    (apply BitVec.eq_of_getLsbD_eq; intro i hi; simp only [BitVec.getLsbD_extractLsb', BitVec.getLsbD_append, hi, decide_true, Bool.true_and]; (repeat' split) <;> first | (exfalso; omega) | (congr 1; omega))

theorem unpackCL_pack (f : FieldsCL) : unpackCL (packCL f) = f := by
  cases f; simp only [unpackCL, packCL, FieldsCL.mk.injEq]
  and_intros <;>
    (apply BitVec.eq_of_getLsbD_eq; intro i hi; simp only [BitVec.getLsbD_extractLsb', BitVec.getLsbD_append, hi, decide_true, Bool.true_and]; (repeat' split) <;> first | (exfalso; omega) | (congr 1; omega))

/-! ### Fields joined from parts -/

theorem extract_high {m n l : Nat} (a : BitVec m) (b : BitVec n) (x : BitVec l) (hl : l = m + n) (hx : x = (a ++ b).cast hl.symm)
    (k w : Nat) (h : n ≤ k) : x.extractLsb' k w = a.extractLsb' (k - n) w := by
  subst hl; subst hx
  apply BitVec.eq_of_getLsbD_eq; intro i hi
  simp only [BitVec.cast_eq, BitVec.getLsbD_extractLsb', BitVec.getLsbD_append, hi, decide_true, Bool.true_and]
  split
  · exfalso; omega
  · congr 1; omega

theorem extract_low {m n l : Nat} (a : BitVec m) (b : BitVec n) (x : BitVec l) (hl : l = m + n) (hx : x = (a ++ b).cast hl.symm)
    (k w : Nat) (h : k + w ≤ n) : x.extractLsb' k w = b.extractLsb' k w := by
  subst hl; subst hx
  apply BitVec.eq_of_getLsbD_eq; intro i hi
  simp only [BitVec.cast_eq, BitVec.getLsbD_extractLsb', BitVec.getLsbD_append, hi, decide_true, Bool.true_and]
  split
  · rfl
  · exfalso; omega

theorem high {m n : Nat} (a : BitVec m) (b : BitVec n) (k w : Nat) (h : n ≤ k) : (a ++ b).extractLsb' k w = a.extractLsb' (k - n) w :=
  extract_high a b _ rfl rfl k w h
theorem low {m n : Nat} (a : BitVec m) (b : BitVec n) (k w : Nat) (h : k + w ≤ n) : (a ++ b).extractLsb' k w = b.extractLsb' k w :=
  extract_low a b _ rfl rfl k w h
theorem joined {m n : Nat} (a : BitVec m) (b : BitVec n) (x : BitVec (m + n)) : a ++ b = x ↔ a = x.extractLsb' n m ∧ b = x.extractLsb' 0 n := by
  constructor
  · rintro rfl; rw [high _ _ _ _ (Nat.le_refl n), low _ _ _ _ (by omega)]; simp
  · rintro ⟨rfl, rfl⟩
    apply BitVec.eq_of_getLsbD_eq; intro i hi
    simp only [BitVec.getLsbD_extractLsb', BitVec.getLsbD_append, Nat.zero_add]
    split
    · simp [*]
    · have : n + (i - n) = i := by omega
      simp [this]; omega

theorem high_2_3 (a : BitVec 2) (b : BitVec 3) (k w : Nat) (h : 3 ≤ k) :
    BitVec.extractLsb' (n := 5) k w (a ++ b) = a.extractLsb' (k - 3) w := high a b k w h
theorem low_2_3 (a : BitVec 2) (b : BitVec 3) (k w : Nat) (h : k + w ≤ 3) :
    BitVec.extractLsb' (n := 5) k w (a ++ b) = b.extractLsb' k w := low a b k w h
theorem joined_2_3 (a : BitVec 2) (b : BitVec 3) (x : BitVec 5) :
    @Eq (BitVec 5) (a ++ b) x ↔ a = x.extractLsb' 3 2 ∧ b = x.extractLsb' 0 3 := joined a b x
theorem high_3_2 (a : BitVec 3) (b : BitVec 2) (k w : Nat) (h : 2 ≤ k) :
    BitVec.extractLsb' (n := 5) k w (a ++ b) = a.extractLsb' (k - 2) w := high a b k w h
theorem low_3_2 (a : BitVec 3) (b : BitVec 2) (k w : Nat) (h : k + w ≤ 2) :
    BitVec.extractLsb' (n := 5) k w (a ++ b) = b.extractLsb' k w := low a b k w h
theorem joined_3_2 (a : BitVec 3) (b : BitVec 2) (x : BitVec 5) :
    @Eq (BitVec 5) (a ++ b) x ↔ a = x.extractLsb' 2 3 ∧ b = x.extractLsb' 0 2 := joined a b x
theorem high_4_1 (a : BitVec 4) (b : BitVec 1) (k w : Nat) (h : 1 ≤ k) :
    BitVec.extractLsb' (n := 5) k w (a ++ b) = a.extractLsb' (k - 1) w := high a b k w h
theorem low_4_1 (a : BitVec 4) (b : BitVec 1) (k w : Nat) (h : k + w ≤ 1) :
    BitVec.extractLsb' (n := 5) k w (a ++ b) = b.extractLsb' k w := low a b k w h
theorem joined_4_1 (a : BitVec 4) (b : BitVec 1) (x : BitVec 5) :
    @Eq (BitVec 5) (a ++ b) x ↔ a = x.extractLsb' 1 4 ∧ b = x.extractLsb' 0 1 := joined a b x
theorem high_1_1 (a : BitVec 1) (b : BitVec 1) (k w : Nat) (h : 1 ≤ k) :
    BitVec.extractLsb' (n := 2) k w (a ++ b) = a.extractLsb' (k - 1) w := high a b k w h
theorem low_1_1 (a : BitVec 1) (b : BitVec 1) (k w : Nat) (h : k + w ≤ 1) :
    BitVec.extractLsb' (n := 2) k w (a ++ b) = b.extractLsb' k w := low a b k w h
theorem joined_1_1 (a : BitVec 1) (b : BitVec 1) (x : BitVec 2) :
    @Eq (BitVec 2) (a ++ b) x ↔ a = x.extractLsb' 1 1 ∧ b = x.extractLsb' 0 1 := joined a b x
theorem high_5_6 (a : BitVec 5) (b : BitVec 6) (k w : Nat) (h : 6 ≤ k) :
    BitVec.extractLsb' (n := 11) k w (a ++ b) = a.extractLsb' (k - 6) w := high a b k w h
theorem low_5_6 (a : BitVec 5) (b : BitVec 6) (k w : Nat) (h : k + w ≤ 6) :
    BitVec.extractLsb' (n := 11) k w (a ++ b) = b.extractLsb' k w := low a b k w h
theorem joined_5_6 (a : BitVec 5) (b : BitVec 6) (x : BitVec 11) :
    @Eq (BitVec 11) (a ++ b) x ↔ a = x.extractLsb' 6 5 ∧ b = x.extractLsb' 0 6 := joined a b x
theorem high_20_2 (a : BitVec 20) (b : BitVec 2) (k w : Nat) (h : 2 ≤ k) :
    BitVec.extractLsb' (n := 22) k w (a ++ b) = a.extractLsb' (k - 2) w := high a b k w h
theorem low_20_2 (a : BitVec 20) (b : BitVec 2) (k w : Nat) (h : k + w ≤ 2) :
    BitVec.extractLsb' (n := 22) k w (a ++ b) = b.extractLsb' k w := low a b k w h
theorem joined_20_2 (a : BitVec 20) (b : BitVec 2) (x : BitVec 22) :
    @Eq (BitVec 22) (a ++ b) x ↔ a = x.extractLsb' 2 20 ∧ b = x.extractLsb' 0 2 := joined a b x
theorem high_22_2 (a : BitVec 22) (b : BitVec 2) (k w : Nat) (h : 2 ≤ k) :
    BitVec.extractLsb' (n := 24) k w (a ++ b) = a.extractLsb' (k - 2) w := high a b k w h
theorem low_22_2 (a : BitVec 22) (b : BitVec 2) (k w : Nat) (h : k + w ≤ 2) :
    BitVec.extractLsb' (n := 24) k w (a ++ b) = b.extractLsb' k w := low a b k w h
theorem joined_22_2 (a : BitVec 22) (b : BitVec 2) (x : BitVec 24) :
    @Eq (BitVec 24) (a ++ b) x ↔ a = x.extractLsb' 2 22 ∧ b = x.extractLsb' 0 2 := joined a b x
theorem high_24_3 (a : BitVec 24) (b : BitVec 3) (k w : Nat) (h : 3 ≤ k) :
    BitVec.extractLsb' (n := 27) k w (a ++ b) = a.extractLsb' (k - 3) w := high a b k w h
theorem low_24_3 (a : BitVec 24) (b : BitVec 3) (k w : Nat) (h : k + w ≤ 3) :
    BitVec.extractLsb' (n := 27) k w (a ++ b) = b.extractLsb' k w := low a b k w h
theorem joined_24_3 (a : BitVec 24) (b : BitVec 3) (x : BitVec 27) :
    @Eq (BitVec 27) (a ++ b) x ↔ a = x.extractLsb' 3 24 ∧ b = x.extractLsb' 0 3 := joined a b x
theorem high_27_5 (a : BitVec 27) (b : BitVec 5) (k w : Nat) (h : 5 ≤ k) :
    BitVec.extractLsb' (n := 32) k w (a ++ b) = a.extractLsb' (k - 5) w := high a b k w h
theorem low_27_5 (a : BitVec 27) (b : BitVec 5) (k w : Nat) (h : k + w ≤ 5) :
    BitVec.extractLsb' (n := 32) k w (a ++ b) = b.extractLsb' k w := low a b k w h
theorem joined_27_5 (a : BitVec 27) (b : BitVec 5) (x : BitVec 32) :
    @Eq (BitVec 32) (a ++ b) x ↔ a = x.extractLsb' 5 27 ∧ b = x.extractLsb' 0 5 := joined a b x
theorem high_24_1 (a : BitVec 24) (b : BitVec 1) (k w : Nat) (h : 1 ≤ k) :
    BitVec.extractLsb' (n := 25) k w (a ++ b) = a.extractLsb' (k - 1) w := high a b k w h
theorem low_24_1 (a : BitVec 24) (b : BitVec 1) (k w : Nat) (h : k + w ≤ 1) :
    BitVec.extractLsb' (n := 25) k w (a ++ b) = b.extractLsb' k w := low a b k w h
theorem joined_24_1 (a : BitVec 24) (b : BitVec 1) (x : BitVec 25) :
    @Eq (BitVec 25) (a ++ b) x ↔ a = x.extractLsb' 1 24 ∧ b = x.extractLsb' 0 1 := joined a b x
theorem high_25_2 (a : BitVec 25) (b : BitVec 2) (k w : Nat) (h : 2 ≤ k) :
    BitVec.extractLsb' (n := 27) k w (a ++ b) = a.extractLsb' (k - 2) w := high a b k w h
theorem low_25_2 (a : BitVec 25) (b : BitVec 2) (k w : Nat) (h : k + w ≤ 2) :
    BitVec.extractLsb' (n := 27) k w (a ++ b) = b.extractLsb' k w := low a b k w h
theorem joined_25_2 (a : BitVec 25) (b : BitVec 2) (x : BitVec 27) :
    @Eq (BitVec 27) (a ++ b) x ↔ a = x.extractLsb' 2 25 ∧ b = x.extractLsb' 0 2 := joined a b x
theorem high_26_1 (a : BitVec 26) (b : BitVec 1) (k w : Nat) (h : 1 ≤ k) :
    BitVec.extractLsb' (n := 27) k w (a ++ b) = a.extractLsb' (k - 1) w := high a b k w h
theorem low_26_1 (a : BitVec 26) (b : BitVec 1) (k w : Nat) (h : k + w ≤ 1) :
    BitVec.extractLsb' (n := 27) k w (a ++ b) = b.extractLsb' k w := low a b k w h
theorem joined_26_1 (a : BitVec 26) (b : BitVec 1) (x : BitVec 27) :
    @Eq (BitVec 27) (a ++ b) x ↔ a = x.extractLsb' 1 26 ∧ b = x.extractLsb' 0 1 := joined a b x
theorem high_2_1 (a : BitVec 2) (b : BitVec 1) (k w : Nat) (h : 1 ≤ k) :
    BitVec.extractLsb' (n := 3) k w (a ++ b) = a.extractLsb' (k - 1) w := high a b k w h
theorem low_2_1 (a : BitVec 2) (b : BitVec 1) (k w : Nat) (h : k + w ≤ 1) :
    BitVec.extractLsb' (n := 3) k w (a ++ b) = b.extractLsb' k w := low a b k w h
theorem joined_2_1 (a : BitVec 2) (b : BitVec 1) (x : BitVec 3) :
    @Eq (BitVec 3) (a ++ b) x ↔ a = x.extractLsb' 1 2 ∧ b = x.extractLsb' 0 1 := joined a b x


theorem fn_of_packKN (f : FieldsKN) : (unpackK (packKN f)).fn = f.fn := by
  have h := congrArg FieldsKN.fn (unpackKN_pack f)
  exact h

theorem bit_cases (x : BitVec 1) : x = 0#1 ∨ x = 1#1 := by revert x; decide



/-- What the encoder yields for a well-formed instruction parses to that instruction. -/
def RoundTrip.Statement (i : Instr) : Prop :=
  ∀ p, i.parts = some p → i.WF → parseChecked p.op p.body p.ext p.sp = .ok i


theorem RoundTrip.br x0 x1 : RoundTrip.Statement (.br x0 x1) := by
  intro p hp hw; cases hp
  simp [parseChecked, parse, parse01, unpackC24_pack, noExt, withExt, optExt, need, hw]
theorem RoundTrip.call x0 x1 : RoundTrip.Statement (.call x0 x1) := by
  intro p hp hw; cases hp
  simp [parseChecked, parse, parse02, unpackC24_pack, noExt, withExt, optExt, need, hw]
theorem RoundTrip.brm x0 x1 x2 x3 : RoundTrip.Statement (.brm x0 x1 x2 x3) := by
  intro p hp hw; cases hp
  simp [parseChecked, parse, parse03, unpackCM_pack, noExt, withExt, optExt, need, hw]
theorem RoundTrip.bcmp x0 x1 x2 x3 x4 : RoundTrip.Statement (.bcmp x0 x1 x2 x3 x4) := by
  intro p hp hw; cases hp
  simp [parseChecked, parse, parse04, unpackI_pack, noExt, withExt, optExt, need, hw]
theorem RoundTrip.bcmpImm32 x0 x1 x2 x3 x4 : RoundTrip.Statement (.bcmpImm32 x0 x1 x2 x3 x4) := by
  intro p hp hw; cases hp
  simp [parseChecked, parse, parse04, unpackI_pack, noExt, withExt, optExt, need, hw]
theorem RoundTrip.loop x0 x1 x2 : RoundTrip.Statement (.loop x0 x1 x2) := by
  intro p hp hw; cases hp
  simp [parseChecked, parse, parse05, unpackCL_pack, noExt, withExt, optExt, need, hw]
theorem RoundTrip.callr x0 x1 : RoundTrip.Statement (.callr x0 x1) := by
  intro p hp hw; cases hp
  simp [parseChecked, parse, parse06, unpackA_pack, noExt, withExt, optExt, need, hw]
theorem RoundTrip.jmp x0 x1 : RoundTrip.Statement (.jmp x0 x1) := by
  intro p hp hw; cases hp
  simp [parseChecked, parse, parse06, unpackA_pack, noExt, withExt, optExt, need, hw]
theorem RoundTrip.nop : RoundTrip.Statement (.nop) := by
  intro p hp hw; cases hp
  simp [parseChecked, parse, parse06, unpackA_pack, noExt, withExt, optExt, need, hw]
theorem RoundTrip.yield x0 : RoundTrip.Statement (.yield x0) := by
  intro p hp hw; cases hp
  simp [parseChecked, parse, parse06, unpackA_pack, noExt, withExt, optExt, need, hw]
theorem RoundTrip.exit x0 : RoundTrip.Statement (.exit x0) := by
  intro p hp hw; cases hp
  simp [parseChecked, parse, parse06, unpackA_pack, noExt, withExt, optExt, need, hw]
theorem RoundTrip.spawn x0 x1 x2 x3 : RoundTrip.Statement (.spawn x0 x1 x2 x3) := by
  intro p hp hw; cases hp
  simp [parseChecked, parse, parse06, unpackA_pack, noExt, withExt, optExt, need, hw]
theorem RoundTrip.trap x0 x1 : RoundTrip.Statement (.trap x0 x1) := by
  intro p hp hw; cases hp
  simp [parseChecked, parse, parse06, unpackA_pack, noExt, withExt, optExt, need, hw]
theorem RoundTrip.isync x0 : RoundTrip.Statement (.isync x0) := by
  intro p hp hw; cases hp
  simp [parseChecked, parse, parse06, unpackA_pack, noExt, withExt, optExt, need, hw]
theorem RoundTrip.trig x0 x1 x2 x3 x4 x5 : RoundTrip.Statement (.trig x0 x1 x2 x3 x4 x5) := by
  intro p hp hw; cases hp
  simp [parseChecked, parse, parse07, unpackB_pack, noExt, withExt, optExt, need, hw]
theorem RoundTrip.add x0 x1 x2 x3 : RoundTrip.Statement (.add x0 x1 x2 x3) := by
  intro p hp hw; cases hp
  simp [parseChecked, parse, parse08, unpackA_pack, noExt, withExt, optExt, need, hw]
theorem RoundTrip.sub x0 x1 x2 x3 : RoundTrip.Statement (.sub x0 x1 x2 x3) := by
  intro p hp hw; cases hp
  simp [parseChecked, parse, parse08, unpackA_pack, noExt, withExt, optExt, need, hw]
theorem RoundTrip.and x0 x1 x2 x3 : RoundTrip.Statement (.and x0 x1 x2 x3) := by
  intro p hp hw; cases hp
  simp [parseChecked, parse, parse08, unpackA_pack, noExt, withExt, optExt, need, hw]
theorem RoundTrip.or x0 x1 x2 x3 : RoundTrip.Statement (.or x0 x1 x2 x3) := by
  intro p hp hw; cases hp
  simp [parseChecked, parse, parse08, unpackA_pack, noExt, withExt, optExt, need, hw]
theorem RoundTrip.xor x0 x1 x2 x3 : RoundTrip.Statement (.xor x0 x1 x2 x3) := by
  intro p hp hw; cases hp
  simp [parseChecked, parse, parse08, unpackA_pack, noExt, withExt, optExt, need, hw]
theorem RoundTrip.andn x0 x1 x2 x3 : RoundTrip.Statement (.andn x0 x1 x2 x3) := by
  intro p hp hw; cases hp
  simp [parseChecked, parse, parse08, unpackA_pack, noExt, withExt, optExt, need, hw]
theorem RoundTrip.shl x0 x1 x2 x3 : RoundTrip.Statement (.shl x0 x1 x2 x3) := by
  intro p hp hw; cases hp
  simp [parseChecked, parse, parse08, unpackA_pack, noExt, withExt, optExt, need, hw]
theorem RoundTrip.shrN x0 x1 x2 x3 : RoundTrip.Statement (.shrN x0 x1 x2 x3) := by
  intro p hp hw; cases hp
  simp [parseChecked, parse, parse08, unpackA_pack, noExt, withExt, optExt, need, hw]
theorem RoundTrip.shrI x0 x1 x2 x3 : RoundTrip.Statement (.shrI x0 x1 x2 x3) := by
  intro p hp hw; cases hp
  simp [parseChecked, parse, parse08, unpackA_pack, noExt, withExt, optExt, need, hw]
theorem RoundTrip.rot x0 x1 x2 x3 : RoundTrip.Statement (.rot x0 x1 x2 x3) := by
  intro p hp hw; cases hp
  simp [parseChecked, parse, parse08, unpackA_pack, noExt, withExt, optExt, need, hw]
theorem RoundTrip.minI x0 x1 x2 x3 : RoundTrip.Statement (.minI x0 x1 x2 x3) := by
  intro p hp hw; cases hp
  simp [parseChecked, parse, parse08, unpackA_pack, noExt, withExt, optExt, need, hw]
theorem RoundTrip.minN x0 x1 x2 x3 : RoundTrip.Statement (.minN x0 x1 x2 x3) := by
  intro p hp hw; cases hp
  simp [parseChecked, parse, parse08, unpackA_pack, noExt, withExt, optExt, need, hw]
theorem RoundTrip.maxI x0 x1 x2 x3 : RoundTrip.Statement (.maxI x0 x1 x2 x3) := by
  intro p hp hw; cases hp
  simp [parseChecked, parse, parse08, unpackA_pack, noExt, withExt, optExt, need, hw]
theorem RoundTrip.maxN x0 x1 x2 x3 : RoundTrip.Statement (.maxN x0 x1 x2 x3) := by
  intro p hp hw; cases hp
  simp [parseChecked, parse, parse08, unpackA_pack, noExt, withExt, optExt, need, hw]
theorem RoundTrip.clz x0 x1 x2 : RoundTrip.Statement (.clz x0 x1 x2) := by
  intro p hp hw; cases hp
  simp [parseChecked, parse, parse08, unpackA_pack, noExt, withExt, optExt, need, hw]
theorem RoundTrip.ctz x0 x1 x2 : RoundTrip.Statement (.ctz x0 x1 x2) := by
  intro p hp hw; cases hp
  simp [parseChecked, parse, parse08, unpackA_pack, noExt, withExt, optExt, need, hw]
theorem RoundTrip.popc x0 x1 x2 : RoundTrip.Statement (.popc x0 x1 x2) := by
  intro p hp hw; cases hp
  simp [parseChecked, parse, parse08, unpackA_pack, noExt, withExt, optExt, need, hw]
theorem RoundTrip.shadd1 x0 x1 x2 x3 : RoundTrip.Statement (.shadd1 x0 x1 x2 x3) := by
  intro p hp hw; cases hp
  simp [parseChecked, parse, parse08, unpackA_pack, noExt, withExt, optExt, need, hw]
theorem RoundTrip.shadd2 x0 x1 x2 x3 : RoundTrip.Statement (.shadd2 x0 x1 x2 x3) := by
  intro p hp hw; cases hp
  simp [parseChecked, parse, parse08, unpackA_pack, noExt, withExt, optExt, need, hw]
theorem RoundTrip.shadd3 x0 x1 x2 x3 : RoundTrip.Statement (.shadd3 x0 x1 x2 x3) := by
  intro p hp hw; cases hp
  simp [parseChecked, parse, parse08, unpackA_pack, noExt, withExt, optExt, need, hw]
theorem RoundTrip.shadd4 x0 x1 x2 x3 : RoundTrip.Statement (.shadd4 x0 x1 x2 x3) := by
  intro p hp hw; cases hp
  simp [parseChecked, parse, parse08, unpackA_pack, noExt, withExt, optExt, need, hw]
theorem RoundTrip.scmp x0 x1 x2 x3 x4 : RoundTrip.Statement (.scmp x0 x1 x2 x3 x4) := by
  intro p hp hw; cases hp
  simp [parseChecked, parse, parse08, unpackA_pack, noExt, withExt, optExt, need, high_2_3, low_2_3, joined_2_3, high_3_2, low_3_2, joined_3_2, high_4_1, low_4_1, joined_4_1, high_1_1, low_1_1, joined_1_1, high_5_6, low_5_6, joined_5_6, high_20_2, low_20_2, joined_20_2, high_22_2, low_22_2, joined_22_2, high_24_3, low_24_3, joined_24_3, high_27_5, low_27_5, joined_27_5, high_24_1, low_24_1, joined_24_1, high_25_2, low_25_2, joined_25_2, high_26_1, low_26_1, joined_26_1, high_2_1, low_2_1, joined_2_1, hw]
theorem RoundTrip.mul x0 x1 x2 x3 : RoundTrip.Statement (.mul x0 x1 x2 x3) := by
  intro p hp hw; cases hp
  simp [parseChecked, parse, parse09, unpackA_pack, noExt, withExt, optExt, need, hw]
theorem RoundTrip.mulhI x0 x1 x2 x3 : RoundTrip.Statement (.mulhI x0 x1 x2 x3) := by
  intro p hp hw; cases hp
  simp [parseChecked, parse, parse09, unpackA_pack, noExt, withExt, optExt, need, hw]
theorem RoundTrip.mulhN x0 x1 x2 x3 : RoundTrip.Statement (.mulhN x0 x1 x2 x3) := by
  intro p hp hw; cases hp
  simp [parseChecked, parse, parse09, unpackA_pack, noExt, withExt, optExt, need, hw]
theorem RoundTrip.divI x0 x1 x2 x3 : RoundTrip.Statement (.divI x0 x1 x2 x3) := by
  intro p hp hw; cases hp
  simp [parseChecked, parse, parse09, unpackA_pack, noExt, withExt, optExt, need, hw]
theorem RoundTrip.divN x0 x1 x2 x3 : RoundTrip.Statement (.divN x0 x1 x2 x3) := by
  intro p hp hw; cases hp
  simp [parseChecked, parse, parse09, unpackA_pack, noExt, withExt, optExt, need, hw]
theorem RoundTrip.remI x0 x1 x2 x3 : RoundTrip.Statement (.remI x0 x1 x2 x3) := by
  intro p hp hw; cases hp
  simp [parseChecked, parse, parse09, unpackA_pack, noExt, withExt, optExt, need, hw]
theorem RoundTrip.remN x0 x1 x2 x3 : RoundTrip.Statement (.remN x0 x1 x2 x3) := by
  intro p hp hw; cases hp
  simp [parseChecked, parse, parse09, unpackA_pack, noExt, withExt, optExt, need, hw]
theorem RoundTrip.addi x0 x1 x2 x3 : RoundTrip.Statement (.addi x0 x1 x2 x3) := by
  intro p hp hw; cases hp
  simp [parseChecked, parse, parse0A, unpackI_pack, noExt, withExt, optExt, need, hw]
theorem RoundTrip.addiImm32 x0 x1 x2 x3 : RoundTrip.Statement (.addiImm32 x0 x1 x2 x3) := by
  intro p hp hw; cases hp
  simp [parseChecked, parse, parse0A, unpackI_pack, noExt, withExt, optExt, need, hw]
theorem RoundTrip.andi x0 x1 x2 x3 : RoundTrip.Statement (.andi x0 x1 x2 x3) := by
  intro p hp hw; cases hp
  simp [parseChecked, parse, parse0A, unpackI_pack, noExt, withExt, optExt, need, hw]
theorem RoundTrip.andiImm32 x0 x1 x2 x3 : RoundTrip.Statement (.andiImm32 x0 x1 x2 x3) := by
  intro p hp hw; cases hp
  simp [parseChecked, parse, parse0A, unpackI_pack, noExt, withExt, optExt, need, hw]
theorem RoundTrip.ori x0 x1 x2 x3 : RoundTrip.Statement (.ori x0 x1 x2 x3) := by
  intro p hp hw; cases hp
  simp [parseChecked, parse, parse0A, unpackI_pack, noExt, withExt, optExt, need, hw]
theorem RoundTrip.oriImm32 x0 x1 x2 x3 : RoundTrip.Statement (.oriImm32 x0 x1 x2 x3) := by
  intro p hp hw; cases hp
  simp [parseChecked, parse, parse0A, unpackI_pack, noExt, withExt, optExt, need, hw]
theorem RoundTrip.xori x0 x1 x2 x3 : RoundTrip.Statement (.xori x0 x1 x2 x3) := by
  intro p hp hw; cases hp
  simp [parseChecked, parse, parse0A, unpackI_pack, noExt, withExt, optExt, need, hw]
theorem RoundTrip.xoriImm32 x0 x1 x2 x3 : RoundTrip.Statement (.xoriImm32 x0 x1 x2 x3) := by
  intro p hp hw; cases hp
  simp [parseChecked, parse, parse0A, unpackI_pack, noExt, withExt, optExt, need, hw]
theorem RoundTrip.shli x0 x1 x2 x3 : RoundTrip.Statement (.shli x0 x1 x2 x3) := by
  intro p hp hw; cases hp
  simp [parseChecked, parse, parse0A, unpackI_pack, noExt, withExt, optExt, need, high_2_3, low_2_3, joined_2_3, high_3_2, low_3_2, joined_3_2, high_4_1, low_4_1, joined_4_1, high_1_1, low_1_1, joined_1_1, high_5_6, low_5_6, joined_5_6, high_20_2, low_20_2, joined_20_2, high_22_2, low_22_2, joined_22_2, high_24_3, low_24_3, joined_24_3, high_27_5, low_27_5, joined_27_5, high_24_1, low_24_1, joined_24_1, high_25_2, low_25_2, joined_25_2, high_26_1, low_26_1, joined_26_1, high_2_1, low_2_1, joined_2_1, hw]
theorem RoundTrip.shriN x0 x1 x2 x3 : RoundTrip.Statement (.shriN x0 x1 x2 x3) := by
  intro p hp hw; cases hp
  simp [parseChecked, parse, parse0A, unpackI_pack, noExt, withExt, optExt, need, high_2_3, low_2_3, joined_2_3, high_3_2, low_3_2, joined_3_2, high_4_1, low_4_1, joined_4_1, high_1_1, low_1_1, joined_1_1, high_5_6, low_5_6, joined_5_6, high_20_2, low_20_2, joined_20_2, high_22_2, low_22_2, joined_22_2, high_24_3, low_24_3, joined_24_3, high_27_5, low_27_5, joined_27_5, high_24_1, low_24_1, joined_24_1, high_25_2, low_25_2, joined_25_2, high_26_1, low_26_1, joined_26_1, high_2_1, low_2_1, joined_2_1, hw]
theorem RoundTrip.shriI x0 x1 x2 x3 : RoundTrip.Statement (.shriI x0 x1 x2 x3) := by
  intro p hp hw; cases hp
  simp [parseChecked, parse, parse0A, unpackI_pack, noExt, withExt, optExt, need, high_2_3, low_2_3, joined_2_3, high_3_2, low_3_2, joined_3_2, high_4_1, low_4_1, joined_4_1, high_1_1, low_1_1, joined_1_1, high_5_6, low_5_6, joined_5_6, high_20_2, low_20_2, joined_20_2, high_22_2, low_22_2, joined_22_2, high_24_3, low_24_3, joined_24_3, high_27_5, low_27_5, joined_27_5, high_24_1, low_24_1, joined_24_1, high_25_2, low_25_2, joined_25_2, high_26_1, low_26_1, joined_26_1, high_2_1, low_2_1, joined_2_1, hw]
theorem RoundTrip.movi x0 x1 x2 : RoundTrip.Statement (.movi x0 x1 x2) := by
  intro p hp hw; cases hp
  simp [parseChecked, parse, parse0B, unpackI_pack, noExt, withExt, optExt, need, hw]
theorem RoundTrip.moviImm32 x0 x1 x2 : RoundTrip.Statement (.moviImm32 x0 x1 x2) := by
  intro p hp hw; cases hp
  simp [parseChecked, parse, parse0B, unpackI_pack, noExt, withExt, optExt, need, hw]
theorem RoundTrip.movhi x0 x1 x2 x3 : RoundTrip.Statement (.movhi x0 x1 x2 x3) := by
  intro p hp hw; cases hp
  simp [parseChecked, parse, parse0B, unpackI_pack, noExt, withExt, optExt, need, hw]
theorem RoundTrip.movhiImm32 x0 x1 x2 x3 : RoundTrip.Statement (.movhiImm32 x0 x1 x2 x3) := by
  intro p hp hw; cases hp
  simp [parseChecked, parse, parse0B, unpackI_pack, noExt, withExt, optExt, need, hw]
theorem RoundTrip.sel x0 x1 x2 x3 x4 : RoundTrip.Statement (.sel x0 x1 x2 x3 x4) := by
  intro p hp hw; cases hp
  simp [parseChecked, parse, parse0C, unpackB_pack, noExt, withExt, optExt, need, hw]
theorem RoundTrip.extb x0 x1 x2 x3 x4 : RoundTrip.Statement (.extb x0 x1 x2 x3 x4) := by
  intro p hp hw; cases hp
  simp [parseChecked, parse, parse0D, unpackB_pack, noExt, withExt, optExt, need, hw]
theorem RoundTrip.insb x0 x1 x2 x3 x4 : RoundTrip.Statement (.insb x0 x1 x2 x3 x4) := by
  intro p hp hw; cases hp
  simp [parseChecked, parse, parse0E, unpackB_pack, noExt, withExt, optExt, need, hw]
theorem RoundTrip.ffmaF32 x0 x1 x2 x3 x4 : RoundTrip.Statement (.ffmaF32 x0 x1 x2 x3 x4) := by
  intro p hp hw; cases hp
  simp [parseChecked, parse, parse11, unpackB_pack, noExt, withExt, optExt, need, hw]
theorem RoundTrip.ffmaF16 x0 x1 x2 x3 x4 : RoundTrip.Statement (.ffmaF16 x0 x1 x2 x3 x4) := by
  intro p hp hw; cases hp
  simp [parseChecked, parse, parse12, unpackB_pack, noExt, withExt, optExt, need, hw]
theorem RoundTrip.ffmaBf16 x0 x1 x2 x3 x4 : RoundTrip.Statement (.ffmaBf16 x0 x1 x2 x3 x4) := by
  intro p hp hw; cases hp
  simp [parseChecked, parse, parse13, unpackB_pack, noExt, withExt, optExt, need, hw]
theorem RoundTrip.fadd x0 x1 x2 x3 x4 : RoundTrip.Statement (.fadd x0 x1 x2 x3 x4) := by
  intro p hp hw; cases hp
  simp [parseChecked, parse, parse14, unpackA_pack, noExt, withExt, optExt, need, high_2_3, low_2_3, joined_2_3, high_3_2, low_3_2, joined_3_2, high_4_1, low_4_1, joined_4_1, high_1_1, low_1_1, joined_1_1, high_5_6, low_5_6, joined_5_6, high_20_2, low_20_2, joined_20_2, high_22_2, low_22_2, joined_22_2, high_24_3, low_24_3, joined_24_3, high_27_5, low_27_5, joined_27_5, high_24_1, low_24_1, joined_24_1, high_25_2, low_25_2, joined_25_2, high_26_1, low_26_1, joined_26_1, high_2_1, low_2_1, joined_2_1, hw]
theorem RoundTrip.fsub x0 x1 x2 x3 x4 : RoundTrip.Statement (.fsub x0 x1 x2 x3 x4) := by
  intro p hp hw; cases hp
  simp [parseChecked, parse, parse14, unpackA_pack, noExt, withExt, optExt, need, high_2_3, low_2_3, joined_2_3, high_3_2, low_3_2, joined_3_2, high_4_1, low_4_1, joined_4_1, high_1_1, low_1_1, joined_1_1, high_5_6, low_5_6, joined_5_6, high_20_2, low_20_2, joined_20_2, high_22_2, low_22_2, joined_22_2, high_24_3, low_24_3, joined_24_3, high_27_5, low_27_5, joined_27_5, high_24_1, low_24_1, joined_24_1, high_25_2, low_25_2, joined_25_2, high_26_1, low_26_1, joined_26_1, high_2_1, low_2_1, joined_2_1, hw]
theorem RoundTrip.fmul x0 x1 x2 x3 x4 : RoundTrip.Statement (.fmul x0 x1 x2 x3 x4) := by
  intro p hp hw; cases hp
  simp [parseChecked, parse, parse14, unpackA_pack, noExt, withExt, optExt, need, high_2_3, low_2_3, joined_2_3, high_3_2, low_3_2, joined_3_2, high_4_1, low_4_1, joined_4_1, high_1_1, low_1_1, joined_1_1, high_5_6, low_5_6, joined_5_6, high_20_2, low_20_2, joined_20_2, high_22_2, low_22_2, joined_22_2, high_24_3, low_24_3, joined_24_3, high_27_5, low_27_5, joined_27_5, high_24_1, low_24_1, joined_24_1, high_25_2, low_25_2, joined_25_2, high_26_1, low_26_1, joined_26_1, high_2_1, low_2_1, joined_2_1, hw]
theorem RoundTrip.fmin x0 x1 x2 x3 x4 : RoundTrip.Statement (.fmin x0 x1 x2 x3 x4) := by
  intro p hp hw; cases hp
  simp [parseChecked, parse, parse14, unpackA_pack, noExt, withExt, optExt, need, high_2_3, low_2_3, joined_2_3, high_3_2, low_3_2, joined_3_2, high_4_1, low_4_1, joined_4_1, high_1_1, low_1_1, joined_1_1, high_5_6, low_5_6, joined_5_6, high_20_2, low_20_2, joined_20_2, high_22_2, low_22_2, joined_22_2, high_24_3, low_24_3, joined_24_3, high_27_5, low_27_5, joined_27_5, high_24_1, low_24_1, joined_24_1, high_25_2, low_25_2, joined_25_2, high_26_1, low_26_1, joined_26_1, high_2_1, low_2_1, joined_2_1, hw]
theorem RoundTrip.fmax x0 x1 x2 x3 x4 : RoundTrip.Statement (.fmax x0 x1 x2 x3 x4) := by
  intro p hp hw; cases hp
  simp [parseChecked, parse, parse14, unpackA_pack, noExt, withExt, optExt, need, high_2_3, low_2_3, joined_2_3, high_3_2, low_3_2, joined_3_2, high_4_1, low_4_1, joined_4_1, high_1_1, low_1_1, joined_1_1, high_5_6, low_5_6, joined_5_6, high_20_2, low_20_2, joined_20_2, high_22_2, low_22_2, joined_22_2, high_24_3, low_24_3, joined_24_3, high_27_5, low_27_5, joined_27_5, high_24_1, low_24_1, joined_24_1, high_25_2, low_25_2, joined_25_2, high_26_1, low_26_1, joined_26_1, high_2_1, low_2_1, joined_2_1, hw]
theorem RoundTrip.fsgnJ x0 x1 x2 x3 x4 : RoundTrip.Statement (.fsgnJ x0 x1 x2 x3 x4) := by
  intro p hp hw; cases hp
  simp [parseChecked, parse, parse14, unpackA_pack, noExt, withExt, optExt, need, high_2_3, low_2_3, joined_2_3, high_3_2, low_3_2, joined_3_2, high_4_1, low_4_1, joined_4_1, high_1_1, low_1_1, joined_1_1, high_5_6, low_5_6, joined_5_6, high_20_2, low_20_2, joined_20_2, high_22_2, low_22_2, joined_22_2, high_24_3, low_24_3, joined_24_3, high_27_5, low_27_5, joined_27_5, high_24_1, low_24_1, joined_24_1, high_25_2, low_25_2, joined_25_2, high_26_1, low_26_1, joined_26_1, high_2_1, low_2_1, joined_2_1, hw]
theorem RoundTrip.fsgnJn x0 x1 x2 x3 x4 : RoundTrip.Statement (.fsgnJn x0 x1 x2 x3 x4) := by
  intro p hp hw; cases hp
  simp [parseChecked, parse, parse14, unpackA_pack, noExt, withExt, optExt, need, high_2_3, low_2_3, joined_2_3, high_3_2, low_3_2, joined_3_2, high_4_1, low_4_1, joined_4_1, high_1_1, low_1_1, joined_1_1, high_5_6, low_5_6, joined_5_6, high_20_2, low_20_2, joined_20_2, high_22_2, low_22_2, joined_22_2, high_24_3, low_24_3, joined_24_3, high_27_5, low_27_5, joined_27_5, high_24_1, low_24_1, joined_24_1, high_25_2, low_25_2, joined_25_2, high_26_1, low_26_1, joined_26_1, high_2_1, low_2_1, joined_2_1, hw]
theorem RoundTrip.fsgnJx x0 x1 x2 x3 x4 : RoundTrip.Statement (.fsgnJx x0 x1 x2 x3 x4) := by
  intro p hp hw; cases hp
  simp [parseChecked, parse, parse14, unpackA_pack, noExt, withExt, optExt, need, high_2_3, low_2_3, joined_2_3, high_3_2, low_3_2, joined_3_2, high_4_1, low_4_1, joined_4_1, high_1_1, low_1_1, joined_1_1, high_5_6, low_5_6, joined_5_6, high_20_2, low_20_2, joined_20_2, high_22_2, low_22_2, joined_22_2, high_24_3, low_24_3, joined_24_3, high_27_5, low_27_5, joined_27_5, high_24_1, low_24_1, joined_24_1, high_25_2, low_25_2, joined_25_2, high_26_1, low_26_1, joined_26_1, high_2_1, low_2_1, joined_2_1, hw]
theorem RoundTrip.fcmp x0 x1 x2 x3 x4 x5 : RoundTrip.Statement (.fcmp x0 x1 x2 x3 x4 x5) := by
  intro p hp hw; cases hp
  have h7 : x4 ≠ 7#3 := by rintro rfl; simp [Instr.WF, Instr.check] at hw; split at hw <;> cases hw
  simp [parseChecked, parse, parse15, unpackA_pack, noExt, withExt, optExt, need, high_2_3, low_2_3, joined_2_3, high_3_2, low_3_2, joined_3_2, high_4_1, low_4_1, joined_4_1, high_1_1, low_1_1, joined_1_1, high_5_6, low_5_6, joined_5_6, high_20_2, low_20_2, joined_20_2, high_22_2, low_22_2, joined_22_2, high_24_3, low_24_3, joined_24_3, high_27_5, low_27_5, joined_27_5, high_24_1, low_24_1, joined_24_1, high_25_2, low_25_2, joined_25_2, high_26_1, low_26_1, joined_26_1, high_2_1, low_2_1, joined_2_1, hw, h7]
theorem RoundTrip.fclass x0 x1 x2 x3 : RoundTrip.Statement (.fclass x0 x1 x2 x3) := by
  intro p hp hw; cases hp
  simp [parseChecked, parse, parse15, unpackA_pack, noExt, withExt, optExt, need, high_2_3, low_2_3, joined_2_3, high_3_2, low_3_2, joined_3_2, high_4_1, low_4_1, joined_4_1, high_1_1, low_1_1, joined_1_1, high_5_6, low_5_6, joined_5_6, high_20_2, low_20_2, joined_20_2, high_22_2, low_22_2, joined_22_2, high_24_3, low_24_3, joined_24_3, high_27_5, low_27_5, joined_27_5, high_24_1, low_24_1, joined_24_1, high_25_2, low_25_2, joined_25_2, high_26_1, low_26_1, joined_26_1, high_2_1, low_2_1, joined_2_1, hw]
theorem RoundTrip.fcvtFromFloat x0 x1 x2 x3 x4 x5 : RoundTrip.Statement (.fcvtFromFloat x0 x1 x2 x3 x4 x5) := by
  intro p hp hw; cases hp
  simp [parseChecked, parse, parse16, unpackA_pack, noExt, withExt, optExt, need, high_2_3, low_2_3, joined_2_3, high_3_2, low_3_2, joined_3_2, high_4_1, low_4_1, joined_4_1, high_1_1, low_1_1, joined_1_1, high_5_6, low_5_6, joined_5_6, high_20_2, low_20_2, joined_20_2, high_22_2, low_22_2, joined_22_2, high_24_3, low_24_3, joined_24_3, high_27_5, low_27_5, joined_27_5, high_24_1, low_24_1, joined_24_1, high_25_2, low_25_2, joined_25_2, high_26_1, low_26_1, joined_26_1, high_2_1, low_2_1, joined_2_1, hw]
theorem RoundTrip.fcvtToFloat x0 x1 x2 x3 x4 x5 : RoundTrip.Statement (.fcvtToFloat x0 x1 x2 x3 x4 x5) := by
  intro p hp hw; cases hp
  simp [parseChecked, parse, parse17, unpackA_pack, noExt, withExt, optExt, need, high_2_3, low_2_3, joined_2_3, high_3_2, low_3_2, joined_3_2, high_4_1, low_4_1, joined_4_1, high_1_1, low_1_1, joined_1_1, high_5_6, low_5_6, joined_5_6, high_20_2, low_20_2, joined_20_2, high_22_2, low_22_2, joined_22_2, high_24_3, low_24_3, joined_24_3, high_27_5, low_27_5, joined_27_5, high_24_1, low_24_1, joined_24_1, high_25_2, low_25_2, joined_25_2, high_26_1, low_26_1, joined_26_1, high_2_1, low_2_1, joined_2_1, hw]
theorem RoundTrip.vadd x0 x1 x2 x3 x4 x5 : RoundTrip.Statement (.vadd x0 x1 x2 x3 x4 x5) := by
  intro p hp hw; cases hp
  simp [parseChecked, parse, parse18, unpackV_pack, noExt, withExt, optExt, need, hw]
theorem RoundTrip.vsub x0 x1 x2 x3 x4 x5 : RoundTrip.Statement (.vsub x0 x1 x2 x3 x4 x5) := by
  intro p hp hw; cases hp
  simp [parseChecked, parse, parse18, unpackV_pack, noExt, withExt, optExt, need, hw]
theorem RoundTrip.vmul x0 x1 x2 x3 x4 x5 : RoundTrip.Statement (.vmul x0 x1 x2 x3 x4 x5) := by
  intro p hp hw; cases hp
  simp [parseChecked, parse, parse18, unpackV_pack, noExt, withExt, optExt, need, hw]
theorem RoundTrip.vminI x0 x1 x2 x3 x4 x5 : RoundTrip.Statement (.vminI x0 x1 x2 x3 x4 x5) := by
  intro p hp hw; cases hp
  simp [parseChecked, parse, parse18, unpackV_pack, noExt, withExt, optExt, need, hw]
theorem RoundTrip.vminN x0 x1 x2 x3 x4 x5 : RoundTrip.Statement (.vminN x0 x1 x2 x3 x4 x5) := by
  intro p hp hw; cases hp
  simp [parseChecked, parse, parse18, unpackV_pack, noExt, withExt, optExt, need, hw]
theorem RoundTrip.vmaxI x0 x1 x2 x3 x4 x5 : RoundTrip.Statement (.vmaxI x0 x1 x2 x3 x4 x5) := by
  intro p hp hw; cases hp
  simp [parseChecked, parse, parse18, unpackV_pack, noExt, withExt, optExt, need, hw]
theorem RoundTrip.vmaxN x0 x1 x2 x3 x4 x5 : RoundTrip.Statement (.vmaxN x0 x1 x2 x3 x4 x5) := by
  intro p hp hw; cases hp
  simp [parseChecked, parse, parse18, unpackV_pack, noExt, withExt, optExt, need, hw]
theorem RoundTrip.vand x0 x1 x2 x3 x4 x5 : RoundTrip.Statement (.vand x0 x1 x2 x3 x4 x5) := by
  intro p hp hw; cases hp
  simp [parseChecked, parse, parse19, unpackV_pack, noExt, withExt, optExt, need, hw]
theorem RoundTrip.vor x0 x1 x2 x3 x4 x5 : RoundTrip.Statement (.vor x0 x1 x2 x3 x4 x5) := by
  intro p hp hw; cases hp
  simp [parseChecked, parse, parse19, unpackV_pack, noExt, withExt, optExt, need, hw]
theorem RoundTrip.vxor x0 x1 x2 x3 x4 x5 : RoundTrip.Statement (.vxor x0 x1 x2 x3 x4 x5) := by
  intro p hp hw; cases hp
  simp [parseChecked, parse, parse19, unpackV_pack, noExt, withExt, optExt, need, hw]
theorem RoundTrip.vshl x0 x1 x2 x3 x4 x5 : RoundTrip.Statement (.vshl x0 x1 x2 x3 x4 x5) := by
  intro p hp hw; cases hp
  simp [parseChecked, parse, parse19, unpackV_pack, noExt, withExt, optExt, need, hw]
theorem RoundTrip.vshrN x0 x1 x2 x3 x4 x5 : RoundTrip.Statement (.vshrN x0 x1 x2 x3 x4 x5) := by
  intro p hp hw; cases hp
  simp [parseChecked, parse, parse19, unpackV_pack, noExt, withExt, optExt, need, hw]
theorem RoundTrip.vshrI x0 x1 x2 x3 x4 x5 : RoundTrip.Statement (.vshrI x0 x1 x2 x3 x4 x5) := by
  intro p hp hw; cases hp
  simp [parseChecked, parse, parse19, unpackV_pack, noExt, withExt, optExt, need, hw]
theorem RoundTrip.vabs x0 x1 x2 x3 x4 : RoundTrip.Statement (.vabs x0 x1 x2 x3 x4) := by
  intro p hp hw; cases hp
  simp [parseChecked, parse, parse19, unpackV_pack, noExt, withExt, optExt, need, hw]
theorem RoundTrip.vaddSatI x0 x1 x2 x3 x4 x5 : RoundTrip.Statement (.vaddSatI x0 x1 x2 x3 x4 x5) := by
  intro p hp hw; cases hp
  simp [parseChecked, parse, parse1A, unpackV_pack, noExt, withExt, optExt, need, hw]
theorem RoundTrip.vaddSatN x0 x1 x2 x3 x4 x5 : RoundTrip.Statement (.vaddSatN x0 x1 x2 x3 x4 x5) := by
  intro p hp hw; cases hp
  simp [parseChecked, parse, parse1A, unpackV_pack, noExt, withExt, optExt, need, hw]
theorem RoundTrip.vsubSatI x0 x1 x2 x3 x4 x5 : RoundTrip.Statement (.vsubSatI x0 x1 x2 x3 x4 x5) := by
  intro p hp hw; cases hp
  simp [parseChecked, parse, parse1A, unpackV_pack, noExt, withExt, optExt, need, hw]
theorem RoundTrip.vsubSatN x0 x1 x2 x3 x4 x5 : RoundTrip.Statement (.vsubSatN x0 x1 x2 x3 x4 x5) := by
  intro p hp hw; cases hp
  simp [parseChecked, parse, parse1A, unpackV_pack, noExt, withExt, optExt, need, hw]
theorem RoundTrip.vmulhI x0 x1 x2 x3 x4 x5 : RoundTrip.Statement (.vmulhI x0 x1 x2 x3 x4 x5) := by
  intro p hp hw; cases hp
  simp [parseChecked, parse, parse1A, unpackV_pack, noExt, withExt, optExt, need, hw]
theorem RoundTrip.vmulhN x0 x1 x2 x3 x4 x5 : RoundTrip.Statement (.vmulhN x0 x1 x2 x3 x4 x5) := by
  intro p hp hw; cases hp
  simp [parseChecked, parse, parse1A, unpackV_pack, noExt, withExt, optExt, need, hw]
theorem RoundTrip.vcmp x0 x1 x2 x3 x4 x5 x6 : RoundTrip.Statement (.vcmp x0 x1 x2 x3 x4 x5 x6) := by
  intro p hp hw; cases hp
  simp [parseChecked, parse, parse1B, unpackV_pack, noExt, withExt, optExt, need, high_2_3, low_2_3, joined_2_3, high_3_2, low_3_2, joined_3_2, high_4_1, low_4_1, joined_4_1, high_1_1, low_1_1, joined_1_1, high_5_6, low_5_6, joined_5_6, high_20_2, low_20_2, joined_20_2, high_22_2, low_22_2, joined_22_2, high_24_3, low_24_3, joined_24_3, high_27_5, low_27_5, joined_27_5, high_24_1, low_24_1, joined_24_1, high_25_2, low_25_2, joined_25_2, high_26_1, low_26_1, joined_26_1, high_2_1, low_2_1, joined_2_1, hw]
theorem RoundTrip.vfadd x0 x1 x2 x3 x4 x5 : RoundTrip.Statement (.vfadd x0 x1 x2 x3 x4 x5) := by
  intro p hp hw; cases hp
  simp [parseChecked, parse, parse1C, unpackV_pack, noExt, withExt, optExt, need, hw]
theorem RoundTrip.vfsub x0 x1 x2 x3 x4 x5 : RoundTrip.Statement (.vfsub x0 x1 x2 x3 x4 x5) := by
  intro p hp hw; cases hp
  simp [parseChecked, parse, parse1C, unpackV_pack, noExt, withExt, optExt, need, hw]
theorem RoundTrip.vfmul x0 x1 x2 x3 x4 x5 : RoundTrip.Statement (.vfmul x0 x1 x2 x3 x4 x5) := by
  intro p hp hw; cases hp
  simp [parseChecked, parse, parse1C, unpackV_pack, noExt, withExt, optExt, need, hw]
theorem RoundTrip.vfmin x0 x1 x2 x3 x4 x5 : RoundTrip.Statement (.vfmin x0 x1 x2 x3 x4 x5) := by
  intro p hp hw; cases hp
  simp [parseChecked, parse, parse1C, unpackV_pack, noExt, withExt, optExt, need, hw]
theorem RoundTrip.vfmax x0 x1 x2 x3 x4 x5 : RoundTrip.Statement (.vfmax x0 x1 x2 x3 x4 x5) := by
  intro p hp hw; cases hp
  simp [parseChecked, parse, parse1C, unpackV_pack, noExt, withExt, optExt, need, hw]
theorem RoundTrip.vrcpe x0 x1 x2 x3 x4 : RoundTrip.Statement (.vrcpe x0 x1 x2 x3 x4) := by
  intro p hp hw; cases hp
  simp [parseChecked, parse, parse1C, unpackV_pack, noExt, withExt, optExt, need, hw]
theorem RoundTrip.vrsqe x0 x1 x2 x3 x4 : RoundTrip.Statement (.vrsqe x0 x1 x2 x3 x4) := by
  intro p hp hw; cases hp
  simp [parseChecked, parse, parse1C, unpackV_pack, noExt, withExt, optExt, need, hw]
theorem RoundTrip.vfcvt x0 x1 x2 x3 x4 x5 x6 x7 : RoundTrip.Statement (.vfcvt x0 x1 x2 x3 x4 x5 x6 x7) := by
  intro p hp hw; cases hp
  simp [parseChecked, parse, parse1D, unpackV_pack, noExt, withExt, optExt, need, high_2_3, low_2_3, joined_2_3, high_3_2, low_3_2, joined_3_2, high_4_1, low_4_1, joined_4_1, high_1_1, low_1_1, joined_1_1, high_5_6, low_5_6, joined_5_6, high_20_2, low_20_2, joined_20_2, high_22_2, low_22_2, joined_22_2, high_24_3, low_24_3, joined_24_3, high_27_5, low_27_5, joined_27_5, high_24_1, low_24_1, joined_24_1, high_25_2, low_25_2, joined_25_2, high_26_1, low_26_1, joined_26_1, high_2_1, low_2_1, joined_2_1, hw]
theorem RoundTrip.vfcmp x0 x1 x2 x3 x4 x5 x6 : RoundTrip.Statement (.vfcmp x0 x1 x2 x3 x4 x5 x6) := by
  intro p hp hw; cases hp
  simp [parseChecked, parse, parse1E, unpackV_pack, noExt, withExt, optExt, need, high_2_3, low_2_3, joined_2_3, high_3_2, low_3_2, joined_3_2, high_4_1, low_4_1, joined_4_1, high_1_1, low_1_1, joined_1_1, high_5_6, low_5_6, joined_5_6, high_20_2, low_20_2, joined_20_2, high_22_2, low_22_2, joined_22_2, high_24_3, low_24_3, joined_24_3, high_27_5, low_27_5, joined_27_5, high_24_1, low_24_1, joined_24_1, high_25_2, low_25_2, joined_25_2, high_26_1, low_26_1, joined_26_1, high_2_1, low_2_1, joined_2_1, hw]
theorem RoundTrip.vsplat x0 x1 x2 x3 x4 : RoundTrip.Statement (.vsplat x0 x1 x2 x3 x4) := by
  intro p hp hw; cases hp
  simp [parseChecked, parse, parse1F, unpackV_pack, noExt, withExt, optExt, need, hw]
theorem RoundTrip.vextr x0 x1 x2 x3 x4 : RoundTrip.Statement (.vextr x0 x1 x2 x3 x4) := by
  intro p hp hw; cases hp
  simp [parseChecked, parse, parse1F, unpackV_pack, noExt, withExt, optExt, need, hw]
theorem RoundTrip.vins x0 x1 x2 x3 x4 : RoundTrip.Statement (.vins x0 x1 x2 x3 x4) := by
  intro p hp hw; cases hp
  simp [parseChecked, parse, parse1F, unpackV_pack, noExt, withExt, optExt, need, hw]
theorem RoundTrip.vperm x0 x1 x2 x3 x4 x5 : RoundTrip.Statement (.vperm x0 x1 x2 x3 x4 x5) := by
  intro p hp hw; cases hp
  simp [parseChecked, parse, parse1F, unpackV_pack, noExt, withExt, optExt, need, hw]
theorem RoundTrip.vslide x0 x1 x2 x3 x4 x5 : RoundTrip.Statement (.vslide x0 x1 x2 x3 x4 x5) := by
  intro p hp hw; cases hp
  simp [parseChecked, parse, parse1F, unpackV_pack, noExt, withExt, optExt, need, hw]
theorem RoundTrip.vcompr x0 x1 x2 x3 x4 : RoundTrip.Statement (.vcompr x0 x1 x2 x3 x4) := by
  intro p hp hw; cases hp
  simp [parseChecked, parse, parse1F, unpackV_pack, noExt, withExt, optExt, need, hw]
theorem RoundTrip.vexpnd x0 x1 x2 x3 x4 : RoundTrip.Statement (.vexpnd x0 x1 x2 x3 x4) := by
  intro p hp hw; cases hp
  simp [parseChecked, parse, parse1F, unpackV_pack, noExt, withExt, optExt, need, hw]
theorem RoundTrip.vsel x0 x1 x2 x3 x4 x5 : RoundTrip.Statement (.vsel x0 x1 x2 x3 x4 x5) := by
  intro p hp hw; cases hp
  simp [parseChecked, parse, parse1F, unpackV_pack, noExt, withExt, optExt, need, hw]
theorem RoundTrip.vredAdd x0 x1 x2 x3 x4 : RoundTrip.Statement (.vredAdd x0 x1 x2 x3 x4) := by
  intro p hp hw; cases hp
  simp [parseChecked, parse, parse20, unpackV_pack, noExt, withExt, optExt, need, hw]
theorem RoundTrip.vredMin x0 x1 x2 x3 x4 : RoundTrip.Statement (.vredMin x0 x1 x2 x3 x4) := by
  intro p hp hw; cases hp
  simp [parseChecked, parse, parse20, unpackV_pack, noExt, withExt, optExt, need, hw]
theorem RoundTrip.vredMax x0 x1 x2 x3 x4 : RoundTrip.Statement (.vredMax x0 x1 x2 x3 x4) := by
  intro p hp hw; cases hp
  simp [parseChecked, parse, parse20, unpackV_pack, noExt, withExt, optExt, need, hw]
theorem RoundTrip.vredAddSat x0 x1 x2 x3 x4 : RoundTrip.Statement (.vredAddSat x0 x1 x2 x3 x4) := by
  intro p hp hw; cases hp
  simp [parseChecked, parse, parse20, unpackV_pack, noExt, withExt, optExt, need, hw]
theorem RoundTrip.vscanAdd x0 x1 x2 x3 x4 : RoundTrip.Statement (.vscanAdd x0 x1 x2 x3 x4) := by
  intro p hp hw; cases hp
  simp [parseChecked, parse, parse20, unpackV_pack, noExt, withExt, optExt, need, hw]
theorem RoundTrip.vscanMin x0 x1 x2 x3 x4 : RoundTrip.Statement (.vscanMin x0 x1 x2 x3 x4) := by
  intro p hp hw; cases hp
  simp [parseChecked, parse, parse20, unpackV_pack, noExt, withExt, optExt, need, hw]
theorem RoundTrip.vscanMax x0 x1 x2 x3 x4 : RoundTrip.Statement (.vscanMax x0 x1 x2 x3 x4) := by
  intro p hp hw; cases hp
  simp [parseChecked, parse, parse20, unpackV_pack, noExt, withExt, optExt, need, hw]
theorem RoundTrip.vpkl6 x0 x1 x2 : RoundTrip.Statement (.vpkl6 x0 x1 x2) := by
  intro p hp hw; cases hp
  simp [parseChecked, parse, parse21, unpackV_pack, noExt, withExt, optExt, need, hw]
theorem RoundTrip.vupl6 x0 x1 x2 : RoundTrip.Statement (.vupl6 x0 x1 x2) := by
  intro p hp hw; cases hp
  simp [parseChecked, parse, parse21, unpackV_pack, noExt, withExt, optExt, need, hw]
theorem RoundTrip.vdot4I8 x0 x1 x2 x3 x4 : RoundTrip.Statement (.vdot4I8 x0 x1 x2 x3 x4) := by
  intro p hp hw; cases hp
  simp [parseChecked, parse, parse22, unpackV_pack, noExt, withExt, optExt, need, hw]
theorem RoundTrip.vdot4N8 x0 x1 x2 x3 x4 : RoundTrip.Statement (.vdot4N8 x0 x1 x2 x3 x4) := by
  intro p hp hw; cases hp
  simp [parseChecked, parse, parse22, unpackV_pack, noExt, withExt, optExt, need, hw]
theorem RoundTrip.vdot4I8Sat x0 x1 x2 x3 x4 : RoundTrip.Statement (.vdot4I8Sat x0 x1 x2 x3 x4) := by
  intro p hp hw; cases hp
  simp [parseChecked, parse, parse22, unpackV_pack, noExt, withExt, optExt, need, hw]
theorem RoundTrip.vdot4N8Sat x0 x1 x2 x3 x4 : RoundTrip.Statement (.vdot4N8Sat x0 x1 x2 x3 x4) := by
  intro p hp hw; cases hp
  simp [parseChecked, parse, parse22, unpackV_pack, noExt, withExt, optExt, need, hw]
theorem RoundTrip.vdot2I16 x0 x1 x2 x3 x4 : RoundTrip.Statement (.vdot2I16 x0 x1 x2 x3 x4) := by
  intro p hp hw; cases hp
  simp [parseChecked, parse, parse22, unpackV_pack, noExt, withExt, optExt, need, hw]
theorem RoundTrip.vdot2N16 x0 x1 x2 x3 x4 : RoundTrip.Statement (.vdot2N16 x0 x1 x2 x3 x4) := by
  intro p hp hw; cases hp
  simp [parseChecked, parse, parse22, unpackV_pack, noExt, withExt, optExt, need, hw]
theorem RoundTrip.vdot2I16Sat x0 x1 x2 x3 x4 : RoundTrip.Statement (.vdot2I16Sat x0 x1 x2 x3 x4) := by
  intro p hp hw; cases hp
  simp [parseChecked, parse, parse22, unpackV_pack, noExt, withExt, optExt, need, hw]
theorem RoundTrip.vdot2N16Sat x0 x1 x2 x3 x4 : RoundTrip.Statement (.vdot2N16Sat x0 x1 x2 x3 x4) := by
  intro p hp hw; cases hp
  simp [parseChecked, parse, parse22, unpackV_pack, noExt, withExt, optExt, need, hw]
theorem RoundTrip.vffmaF32 x0 x1 x2 x3 x4 x5 x6 : RoundTrip.Statement (.vffmaF32 x0 x1 x2 x3 x4 x5 x6) := by
  intro p hp hw; cases hp
  simp [parseChecked, parse, parse23, unpackW_pack, noExt, withExt, optExt, need, hw]
theorem RoundTrip.vffmaF16 x0 x1 x2 x3 x4 x5 x6 : RoundTrip.Statement (.vffmaF16 x0 x1 x2 x3 x4 x5 x6) := by
  intro p hp hw; cases hp
  simp [parseChecked, parse, parse24, unpackW_pack, noExt, withExt, optExt, need, hw]
theorem RoundTrip.vffmaBf16 x0 x1 x2 x3 x4 x5 x6 : RoundTrip.Statement (.vffmaBf16 x0 x1 x2 x3 x4 x5 x6) := by
  intro p hp hw; cases hp
  simp [parseChecked, parse, parse25, unpackW_pack, noExt, withExt, optExt, need, hw]
theorem RoundTrip.mand x0 x1 x2 x3 : RoundTrip.Statement (.mand x0 x1 x2 x3) := by
  intro p hp hw; cases hp
  simp [parseChecked, parse, parse26, unpackA_pack, noExt, withExt, optExt, need, high_2_3, low_2_3, joined_2_3, high_3_2, low_3_2, joined_3_2, high_4_1, low_4_1, joined_4_1, high_1_1, low_1_1, joined_1_1, high_5_6, low_5_6, joined_5_6, high_20_2, low_20_2, joined_20_2, high_22_2, low_22_2, joined_22_2, high_24_3, low_24_3, joined_24_3, high_27_5, low_27_5, joined_27_5, high_24_1, low_24_1, joined_24_1, high_25_2, low_25_2, joined_25_2, high_26_1, low_26_1, joined_26_1, high_2_1, low_2_1, joined_2_1, hw]
theorem RoundTrip.mor x0 x1 x2 x3 : RoundTrip.Statement (.mor x0 x1 x2 x3) := by
  intro p hp hw; cases hp
  simp [parseChecked, parse, parse26, unpackA_pack, noExt, withExt, optExt, need, high_2_3, low_2_3, joined_2_3, high_3_2, low_3_2, joined_3_2, high_4_1, low_4_1, joined_4_1, high_1_1, low_1_1, joined_1_1, high_5_6, low_5_6, joined_5_6, high_20_2, low_20_2, joined_20_2, high_22_2, low_22_2, joined_22_2, high_24_3, low_24_3, joined_24_3, high_27_5, low_27_5, joined_27_5, high_24_1, low_24_1, joined_24_1, high_25_2, low_25_2, joined_25_2, high_26_1, low_26_1, joined_26_1, high_2_1, low_2_1, joined_2_1, hw]
theorem RoundTrip.mxor x0 x1 x2 x3 : RoundTrip.Statement (.mxor x0 x1 x2 x3) := by
  intro p hp hw; cases hp
  simp [parseChecked, parse, parse26, unpackA_pack, noExt, withExt, optExt, need, high_2_3, low_2_3, joined_2_3, high_3_2, low_3_2, joined_3_2, high_4_1, low_4_1, joined_4_1, high_1_1, low_1_1, joined_1_1, high_5_6, low_5_6, joined_5_6, high_20_2, low_20_2, joined_20_2, high_22_2, low_22_2, joined_22_2, high_24_3, low_24_3, joined_24_3, high_27_5, low_27_5, joined_27_5, high_24_1, low_24_1, joined_24_1, high_25_2, low_25_2, joined_25_2, high_26_1, low_26_1, joined_26_1, high_2_1, low_2_1, joined_2_1, hw]
theorem RoundTrip.mnot x0 x1 x2 : RoundTrip.Statement (.mnot x0 x1 x2) := by
  intro p hp hw; cases hp
  simp [parseChecked, parse, parse26, unpackA_pack, noExt, withExt, optExt, need, high_2_3, low_2_3, joined_2_3, high_3_2, low_3_2, joined_3_2, high_4_1, low_4_1, joined_4_1, high_1_1, low_1_1, joined_1_1, high_5_6, low_5_6, joined_5_6, high_20_2, low_20_2, joined_20_2, high_22_2, low_22_2, joined_22_2, high_24_3, low_24_3, joined_24_3, high_27_5, low_27_5, joined_27_5, high_24_1, low_24_1, joined_24_1, high_25_2, low_25_2, joined_25_2, high_26_1, low_26_1, joined_26_1, high_2_1, low_2_1, joined_2_1, hw]
theorem RoundTrip.mpopc x0 x1 x2 : RoundTrip.Statement (.mpopc x0 x1 x2) := by
  intro p hp hw; cases hp
  simp [parseChecked, parse, parse26, unpackA_pack, noExt, withExt, optExt, need, high_2_3, low_2_3, joined_2_3, high_3_2, low_3_2, joined_3_2, high_4_1, low_4_1, joined_4_1, high_1_1, low_1_1, joined_1_1, high_5_6, low_5_6, joined_5_6, high_20_2, low_20_2, joined_20_2, high_22_2, low_22_2, joined_22_2, high_24_3, low_24_3, joined_24_3, high_27_5, low_27_5, joined_27_5, high_24_1, low_24_1, joined_24_1, high_25_2, low_25_2, joined_25_2, high_26_1, low_26_1, joined_26_1, high_2_1, low_2_1, joined_2_1, hw]
theorem RoundTrip.mfirst x0 x1 x2 : RoundTrip.Statement (.mfirst x0 x1 x2) := by
  intro p hp hw; cases hp
  simp [parseChecked, parse, parse26, unpackA_pack, noExt, withExt, optExt, need, high_2_3, low_2_3, joined_2_3, high_3_2, low_3_2, joined_3_2, high_4_1, low_4_1, joined_4_1, high_1_1, low_1_1, joined_1_1, high_5_6, low_5_6, joined_5_6, high_20_2, low_20_2, joined_20_2, high_22_2, low_22_2, joined_22_2, high_24_3, low_24_3, joined_24_3, high_27_5, low_27_5, joined_27_5, high_24_1, low_24_1, joined_24_1, high_25_2, low_25_2, joined_25_2, high_26_1, low_26_1, joined_26_1, high_2_1, low_2_1, joined_2_1, hw]
theorem RoundTrip.mset x0 x1 x2 : RoundTrip.Statement (.mset x0 x1 x2) := by
  intro p hp hw; cases hp
  simp [parseChecked, parse, parse26, unpackA_pack, noExt, withExt, optExt, need, high_2_3, low_2_3, joined_2_3, high_3_2, low_3_2, joined_3_2, high_4_1, low_4_1, joined_4_1, high_1_1, low_1_1, joined_1_1, high_5_6, low_5_6, joined_5_6, high_20_2, low_20_2, joined_20_2, high_22_2, low_22_2, joined_22_2, high_24_3, low_24_3, joined_24_3, high_27_5, low_27_5, joined_27_5, high_24_1, low_24_1, joined_24_1, high_25_2, low_25_2, joined_25_2, high_26_1, low_26_1, joined_26_1, high_2_1, low_2_1, joined_2_1, hw]
theorem RoundTrip.vdopAdd x0 x1 x2 x3 x4 : RoundTrip.Statement (.vdopAdd x0 x1 x2 x3 x4) := by
  intro p hp hw; cases hp
  simp [parseChecked, parse, parse27, unpackV_pack, noExt, withExt, optExt, need, hw]
theorem RoundTrip.vdopSub x0 x1 x2 x3 x4 : RoundTrip.Statement (.vdopSub x0 x1 x2 x3 x4) := by
  intro p hp hw; cases hp
  simp [parseChecked, parse, parse27, unpackV_pack, noExt, withExt, optExt, need, hw]
theorem RoundTrip.vdopMul x0 x1 x2 x3 x4 : RoundTrip.Statement (.vdopMul x0 x1 x2 x3 x4) := by
  intro p hp hw; cases hp
  simp [parseChecked, parse, parse27, unpackV_pack, noExt, withExt, optExt, need, hw]
theorem RoundTrip.vdopMin x0 x1 x2 x3 x4 : RoundTrip.Statement (.vdopMin x0 x1 x2 x3 x4) := by
  intro p hp hw; cases hp
  simp [parseChecked, parse, parse27, unpackV_pack, noExt, withExt, optExt, need, hw]
theorem RoundTrip.vdopMax x0 x1 x2 x3 x4 : RoundTrip.Statement (.vdopMax x0 x1 x2 x3 x4) := by
  intro p hp hw; cases hp
  simp [parseChecked, parse, parse27, unpackV_pack, noExt, withExt, optExt, need, hw]
theorem RoundTrip.vdopDiv x0 x1 x2 x3 x4 : RoundTrip.Statement (.vdopDiv x0 x1 x2 x3 x4) := by
  intro p hp hw; cases hp
  simp [parseChecked, parse, parse27, unpackV_pack, noExt, withExt, optExt, need, hw]
theorem RoundTrip.vdopSqrt x0 x1 x2 x3 : RoundTrip.Statement (.vdopSqrt x0 x1 x2 x3) := by
  intro p hp hw; cases hp
  simp [parseChecked, parse, parse27, unpackV_pack, noExt, withExt, optExt, need, hw]
theorem RoundTrip.ld x0 x1 x2 x3 x4 x5 x6 : RoundTrip.Statement (.ld x0 x1 x2 x3 x4 x5 x6) := by
  intro p hp hw; cases hp
  simp [parseChecked, parse, parse28, unpackA_pack, noExt, withExt, optExt, need, high_2_3, low_2_3, joined_2_3, high_3_2, low_3_2, joined_3_2, high_4_1, low_4_1, joined_4_1, high_1_1, low_1_1, joined_1_1, high_5_6, low_5_6, joined_5_6, high_20_2, low_20_2, joined_20_2, high_22_2, low_22_2, joined_22_2, high_24_3, low_24_3, joined_24_3, high_27_5, low_27_5, joined_27_5, high_24_1, low_24_1, joined_24_1, high_25_2, low_25_2, joined_25_2, high_26_1, low_26_1, joined_26_1, high_2_1, low_2_1, joined_2_1, hw]
theorem RoundTrip.ldOffset x0 x1 x2 x3 x4 x5 x6 x7 : RoundTrip.Statement (.ldOffset x0 x1 x2 x3 x4 x5 x6 x7) := by
  intro p hp hw; cases hp
  simp [parseChecked, parse, parse28, unpackA_pack, noExt, withExt, optExt, need, high_2_3, low_2_3, joined_2_3, high_3_2, low_3_2, joined_3_2, high_4_1, low_4_1, joined_4_1, high_1_1, low_1_1, joined_1_1, high_5_6, low_5_6, joined_5_6, high_20_2, low_20_2, joined_20_2, high_22_2, low_22_2, joined_22_2, high_24_3, low_24_3, joined_24_3, high_27_5, low_27_5, joined_27_5, high_24_1, low_24_1, joined_24_1, high_25_2, low_25_2, joined_25_2, high_26_1, low_26_1, joined_26_1, high_2_1, low_2_1, joined_2_1, hw]
theorem RoundTrip.st x0 x1 x2 x3 x4 x5 : RoundTrip.Statement (.st x0 x1 x2 x3 x4 x5) := by
  intro p hp hw; cases hp
  simp [parseChecked, parse, parse29, unpackA_pack, noExt, withExt, optExt, need, high_2_3, low_2_3, joined_2_3, high_3_2, low_3_2, joined_3_2, high_4_1, low_4_1, joined_4_1, high_1_1, low_1_1, joined_1_1, high_5_6, low_5_6, joined_5_6, high_20_2, low_20_2, joined_20_2, high_22_2, low_22_2, joined_22_2, high_24_3, low_24_3, joined_24_3, high_27_5, low_27_5, joined_27_5, high_24_1, low_24_1, joined_24_1, high_25_2, low_25_2, joined_25_2, high_26_1, low_26_1, joined_26_1, high_2_1, low_2_1, joined_2_1, hw]
theorem RoundTrip.stOffset x0 x1 x2 x3 x4 x5 x6 : RoundTrip.Statement (.stOffset x0 x1 x2 x3 x4 x5 x6) := by
  intro p hp hw; cases hp
  simp [parseChecked, parse, parse29, unpackA_pack, noExt, withExt, optExt, need, high_2_3, low_2_3, joined_2_3, high_3_2, low_3_2, joined_3_2, high_4_1, low_4_1, joined_4_1, high_1_1, low_1_1, joined_1_1, high_5_6, low_5_6, joined_5_6, high_20_2, low_20_2, joined_20_2, high_22_2, low_22_2, joined_22_2, high_24_3, low_24_3, joined_24_3, high_27_5, low_27_5, joined_27_5, high_24_1, low_24_1, joined_24_1, high_25_2, low_25_2, joined_25_2, high_26_1, low_26_1, joined_26_1, high_2_1, low_2_1, joined_2_1, hw]
theorem RoundTrip.ldv x0 x1 x2 x3 x4 x5 : RoundTrip.Statement (.ldv x0 x1 x2 x3 x4 x5) := by
  intro p hp hw; cases hp
  simp [parseChecked, parse, parse2A, unpackA_pack, noExt, withExt, optExt, need, high_2_3, low_2_3, joined_2_3, high_3_2, low_3_2, joined_3_2, high_4_1, low_4_1, joined_4_1, high_1_1, low_1_1, joined_1_1, high_5_6, low_5_6, joined_5_6, high_20_2, low_20_2, joined_20_2, high_22_2, low_22_2, joined_22_2, high_24_3, low_24_3, joined_24_3, high_27_5, low_27_5, joined_27_5, high_24_1, low_24_1, joined_24_1, high_25_2, low_25_2, joined_25_2, high_26_1, low_26_1, joined_26_1, high_2_1, low_2_1, joined_2_1, hw]
theorem RoundTrip.ldvOffset x0 x1 x2 x3 x4 x5 x6 : RoundTrip.Statement (.ldvOffset x0 x1 x2 x3 x4 x5 x6) := by
  intro p hp hw; cases hp
  simp [parseChecked, parse, parse2A, unpackA_pack, noExt, withExt, optExt, need, high_2_3, low_2_3, joined_2_3, high_3_2, low_3_2, joined_3_2, high_4_1, low_4_1, joined_4_1, high_1_1, low_1_1, joined_1_1, high_5_6, low_5_6, joined_5_6, high_20_2, low_20_2, joined_20_2, high_22_2, low_22_2, joined_22_2, high_24_3, low_24_3, joined_24_3, high_27_5, low_27_5, joined_27_5, high_24_1, low_24_1, joined_24_1, high_25_2, low_25_2, joined_25_2, high_26_1, low_26_1, joined_26_1, high_2_1, low_2_1, joined_2_1, hw]
theorem RoundTrip.ldvL6 x0 x1 x2 x3 x4 x5 : RoundTrip.Statement (.ldvL6 x0 x1 x2 x3 x4 x5) := by
  intro p hp hw; cases hp
  simp [parseChecked, parse, parse2A, unpackA_pack, noExt, withExt, optExt, need, high_2_3, low_2_3, joined_2_3, high_3_2, low_3_2, joined_3_2, high_4_1, low_4_1, joined_4_1, high_1_1, low_1_1, joined_1_1, high_5_6, low_5_6, joined_5_6, high_20_2, low_20_2, joined_20_2, high_22_2, low_22_2, joined_22_2, high_24_3, low_24_3, joined_24_3, high_27_5, low_27_5, joined_27_5, high_24_1, low_24_1, joined_24_1, high_25_2, low_25_2, joined_25_2, high_26_1, low_26_1, joined_26_1, high_2_1, low_2_1, joined_2_1, hw]
theorem RoundTrip.ldvL6Offset x0 x1 x2 x3 x4 x5 x6 : RoundTrip.Statement (.ldvL6Offset x0 x1 x2 x3 x4 x5 x6) := by
  intro p hp hw; cases hp
  simp [parseChecked, parse, parse2A, unpackA_pack, noExt, withExt, optExt, need, high_2_3, low_2_3, joined_2_3, high_3_2, low_3_2, joined_3_2, high_4_1, low_4_1, joined_4_1, high_1_1, low_1_1, joined_1_1, high_5_6, low_5_6, joined_5_6, high_20_2, low_20_2, joined_20_2, high_22_2, low_22_2, joined_22_2, high_24_3, low_24_3, joined_24_3, high_27_5, low_27_5, joined_27_5, high_24_1, low_24_1, joined_24_1, high_25_2, low_25_2, joined_25_2, high_26_1, low_26_1, joined_26_1, high_2_1, low_2_1, joined_2_1, hw]
theorem RoundTrip.pref x0 x1 x2 : RoundTrip.Statement (.pref x0 x1 x2) := by
  intro p hp hw; cases hp
  simp [parseChecked, parse, parse2A, unpackA_pack, noExt, withExt, optExt, need, hw]
theorem RoundTrip.prefOffset x0 x1 x2 x3 : RoundTrip.Statement (.prefOffset x0 x1 x2 x3) := by
  intro p hp hw; cases hp
  simp [parseChecked, parse, parse2A, unpackA_pack, noExt, withExt, optExt, need, hw]
theorem RoundTrip.evict x0 x1 x2 : RoundTrip.Statement (.evict x0 x1 x2) := by
  intro p hp hw; cases hp
  simp [parseChecked, parse, parse2A, unpackA_pack, noExt, withExt, optExt, need, hw]
theorem RoundTrip.evictOffset x0 x1 x2 x3 : RoundTrip.Statement (.evictOffset x0 x1 x2 x3) := by
  intro p hp hw; cases hp
  simp [parseChecked, parse, parse2A, unpackA_pack, noExt, withExt, optExt, need, hw]
theorem RoundTrip.stv x0 x1 x2 x3 x4 : RoundTrip.Statement (.stv x0 x1 x2 x3 x4) := by
  intro p hp hw; cases hp
  simp [parseChecked, parse, parse2B, unpackA_pack, noExt, withExt, optExt, need, high_2_3, low_2_3, joined_2_3, high_3_2, low_3_2, joined_3_2, high_4_1, low_4_1, joined_4_1, high_1_1, low_1_1, joined_1_1, high_5_6, low_5_6, joined_5_6, high_20_2, low_20_2, joined_20_2, high_22_2, low_22_2, joined_22_2, high_24_3, low_24_3, joined_24_3, high_27_5, low_27_5, joined_27_5, high_24_1, low_24_1, joined_24_1, high_25_2, low_25_2, joined_25_2, high_26_1, low_26_1, joined_26_1, high_2_1, low_2_1, joined_2_1, hw]
theorem RoundTrip.stvOffset x0 x1 x2 x3 x4 x5 : RoundTrip.Statement (.stvOffset x0 x1 x2 x3 x4 x5) := by
  intro p hp hw; cases hp
  simp [parseChecked, parse, parse2B, unpackA_pack, noExt, withExt, optExt, need, high_2_3, low_2_3, joined_2_3, high_3_2, low_3_2, joined_3_2, high_4_1, low_4_1, joined_4_1, high_1_1, low_1_1, joined_1_1, high_5_6, low_5_6, joined_5_6, high_20_2, low_20_2, joined_20_2, high_22_2, low_22_2, joined_22_2, high_24_3, low_24_3, joined_24_3, high_27_5, low_27_5, joined_27_5, high_24_1, low_24_1, joined_24_1, high_25_2, low_25_2, joined_25_2, high_26_1, low_26_1, joined_26_1, high_2_1, low_2_1, joined_2_1, hw]
theorem RoundTrip.stvL6 x0 x1 x2 x3 x4 : RoundTrip.Statement (.stvL6 x0 x1 x2 x3 x4) := by
  intro p hp hw; cases hp
  simp [parseChecked, parse, parse2B, unpackA_pack, noExt, withExt, optExt, need, high_2_3, low_2_3, joined_2_3, high_3_2, low_3_2, joined_3_2, high_4_1, low_4_1, joined_4_1, high_1_1, low_1_1, joined_1_1, high_5_6, low_5_6, joined_5_6, high_20_2, low_20_2, joined_20_2, high_22_2, low_22_2, joined_22_2, high_24_3, low_24_3, joined_24_3, high_27_5, low_27_5, joined_27_5, high_24_1, low_24_1, joined_24_1, high_25_2, low_25_2, joined_25_2, high_26_1, low_26_1, joined_26_1, high_2_1, low_2_1, joined_2_1, hw]
theorem RoundTrip.stvL6Offset x0 x1 x2 x3 x4 x5 : RoundTrip.Statement (.stvL6Offset x0 x1 x2 x3 x4 x5) := by
  intro p hp hw; cases hp
  simp [parseChecked, parse, parse2B, unpackA_pack, noExt, withExt, optExt, need, high_2_3, low_2_3, joined_2_3, high_3_2, low_3_2, joined_3_2, high_4_1, low_4_1, joined_4_1, high_1_1, low_1_1, joined_1_1, high_5_6, low_5_6, joined_5_6, high_20_2, low_20_2, joined_20_2, high_22_2, low_22_2, joined_22_2, high_24_3, low_24_3, joined_24_3, high_27_5, low_27_5, joined_27_5, high_24_1, low_24_1, joined_24_1, high_25_2, low_25_2, joined_25_2, high_26_1, low_26_1, joined_26_1, high_2_1, low_2_1, joined_2_1, hw]
theorem RoundTrip.gath x0 x1 x2 x3 x4 x5 x6 x7 x8 x9 : RoundTrip.Statement (.gath x0 x1 x2 x3 x4 x5 x6 x7 x8 x9) := by
  intro p hp hw; cases hp
  simp [parseChecked, parse, parse2C, unpackA_pack, noExt, withExt, optExt, need, high_2_3, low_2_3, joined_2_3, high_3_2, low_3_2, joined_3_2, high_4_1, low_4_1, joined_4_1, high_1_1, low_1_1, joined_1_1, high_5_6, low_5_6, joined_5_6, high_20_2, low_20_2, joined_20_2, high_22_2, low_22_2, joined_22_2, high_24_3, low_24_3, joined_24_3, high_27_5, low_27_5, joined_27_5, high_24_1, low_24_1, joined_24_1, high_25_2, low_25_2, joined_25_2, high_26_1, low_26_1, joined_26_1, high_2_1, low_2_1, joined_2_1, hw]
theorem RoundTrip.ldvs x0 x1 x2 x3 x4 x5 x6 x7 x8 x9 : RoundTrip.Statement (.ldvs x0 x1 x2 x3 x4 x5 x6 x7 x8 x9) := by
  intro p hp hw; cases hp
  simp [parseChecked, parse, parse2C, unpackA_pack, noExt, withExt, optExt, need, high_2_3, low_2_3, joined_2_3, high_3_2, low_3_2, joined_3_2, high_4_1, low_4_1, joined_4_1, high_1_1, low_1_1, joined_1_1, high_5_6, low_5_6, joined_5_6, high_20_2, low_20_2, joined_20_2, high_22_2, low_22_2, joined_22_2, high_24_3, low_24_3, joined_24_3, high_27_5, low_27_5, joined_27_5, high_24_1, low_24_1, joined_24_1, high_25_2, low_25_2, joined_25_2, high_26_1, low_26_1, joined_26_1, high_2_1, low_2_1, joined_2_1, hw]
theorem RoundTrip.scat x0 x1 x2 x3 x4 x5 x6 x7 x8 : RoundTrip.Statement (.scat x0 x1 x2 x3 x4 x5 x6 x7 x8) := by
  intro p hp hw; cases hp
  simp [parseChecked, parse, parse2D, unpackA_pack, noExt, withExt, optExt, need, high_2_3, low_2_3, joined_2_3, high_3_2, low_3_2, joined_3_2, high_4_1, low_4_1, joined_4_1, high_1_1, low_1_1, joined_1_1, high_5_6, low_5_6, joined_5_6, high_20_2, low_20_2, joined_20_2, high_22_2, low_22_2, joined_22_2, high_24_3, low_24_3, joined_24_3, high_27_5, low_27_5, joined_27_5, high_24_1, low_24_1, joined_24_1, high_25_2, low_25_2, joined_25_2, high_26_1, low_26_1, joined_26_1, high_2_1, low_2_1, joined_2_1, hw]
theorem RoundTrip.stvs x0 x1 x2 x3 x4 x5 x6 x7 x8 : RoundTrip.Statement (.stvs x0 x1 x2 x3 x4 x5 x6 x7 x8) := by
  intro p hp hw; cases hp
  simp [parseChecked, parse, parse2D, unpackA_pack, noExt, withExt, optExt, need, high_2_3, low_2_3, joined_2_3, high_3_2, low_3_2, joined_3_2, high_4_1, low_4_1, joined_4_1, high_1_1, low_1_1, joined_1_1, high_5_6, low_5_6, joined_5_6, high_20_2, low_20_2, joined_20_2, high_22_2, low_22_2, joined_22_2, high_24_3, low_24_3, joined_24_3, high_27_5, low_27_5, joined_27_5, high_24_1, low_24_1, joined_24_1, high_25_2, low_25_2, joined_25_2, high_26_1, low_26_1, joined_26_1, high_2_1, low_2_1, joined_2_1, hw]
theorem RoundTrip.ldm x0 x1 x2 x3 x4 x5 x6 : RoundTrip.Statement (.ldm x0 x1 x2 x3 x4 x5 x6) := by
  intro p hp hw; cases hp
  simp [parseChecked, parse, parse2E, unpackA_pack, noExt, withExt, optExt, need, high_2_3, low_2_3, joined_2_3, high_3_2, low_3_2, joined_3_2, high_4_1, low_4_1, joined_4_1, high_1_1, low_1_1, joined_1_1, high_5_6, low_5_6, joined_5_6, high_20_2, low_20_2, joined_20_2, high_22_2, low_22_2, joined_22_2, high_24_3, low_24_3, joined_24_3, high_27_5, low_27_5, joined_27_5, high_24_1, low_24_1, joined_24_1, high_25_2, low_25_2, joined_25_2, high_26_1, low_26_1, joined_26_1, high_2_1, low_2_1, joined_2_1, hw]
theorem RoundTrip.ldmOffset x0 x1 x2 x3 x4 x5 x6 x7 : RoundTrip.Statement (.ldmOffset x0 x1 x2 x3 x4 x5 x6 x7) := by
  intro p hp hw; cases hp
  simp [parseChecked, parse, parse2E, unpackA_pack, noExt, withExt, optExt, need, high_2_3, low_2_3, joined_2_3, high_3_2, low_3_2, joined_3_2, high_4_1, low_4_1, joined_4_1, high_1_1, low_1_1, joined_1_1, high_5_6, low_5_6, joined_5_6, high_20_2, low_20_2, joined_20_2, high_22_2, low_22_2, joined_22_2, high_24_3, low_24_3, joined_24_3, high_27_5, low_27_5, joined_27_5, high_24_1, low_24_1, joined_24_1, high_25_2, low_25_2, joined_25_2, high_26_1, low_26_1, joined_26_1, high_2_1, low_2_1, joined_2_1, hw]
theorem RoundTrip.stm x0 x1 x2 x3 x4 x5 : RoundTrip.Statement (.stm x0 x1 x2 x3 x4 x5) := by
  intro p hp hw; cases hp
  simp [parseChecked, parse, parse2F, unpackA_pack, noExt, withExt, optExt, need, high_2_3, low_2_3, joined_2_3, high_3_2, low_3_2, joined_3_2, high_4_1, low_4_1, joined_4_1, high_1_1, low_1_1, joined_1_1, high_5_6, low_5_6, joined_5_6, high_20_2, low_20_2, joined_20_2, high_22_2, low_22_2, joined_22_2, high_24_3, low_24_3, joined_24_3, high_27_5, low_27_5, joined_27_5, high_24_1, low_24_1, joined_24_1, high_25_2, low_25_2, joined_25_2, high_26_1, low_26_1, joined_26_1, high_2_1, low_2_1, joined_2_1, hw]
theorem RoundTrip.stmOffset x0 x1 x2 x3 x4 x5 x6 : RoundTrip.Statement (.stmOffset x0 x1 x2 x3 x4 x5 x6) := by
  intro p hp hw; cases hp
  simp [parseChecked, parse, parse2F, unpackA_pack, noExt, withExt, optExt, need, high_2_3, low_2_3, joined_2_3, high_3_2, low_3_2, joined_3_2, high_4_1, low_4_1, joined_4_1, high_1_1, low_1_1, joined_1_1, high_5_6, low_5_6, joined_5_6, high_20_2, low_20_2, joined_20_2, high_22_2, low_22_2, joined_22_2, high_24_3, low_24_3, joined_24_3, high_27_5, low_27_5, joined_27_5, high_24_1, low_24_1, joined_24_1, high_25_2, low_25_2, joined_25_2, high_26_1, low_26_1, joined_26_1, high_2_1, low_2_1, joined_2_1, hw]
theorem RoundTrip.amoAdd x0 x1 x2 x3 x4 x5 x6 x7 x8 : RoundTrip.Statement (.amoAdd x0 x1 x2 x3 x4 x5 x6 x7 x8) := by
  intro p hp hw; cases hp
  simp [parseChecked, parse, parse30, unpackA_pack, noExt, withExt, optExt, need, high_2_3, low_2_3, joined_2_3, high_3_2, low_3_2, joined_3_2, high_4_1, low_4_1, joined_4_1, high_1_1, low_1_1, joined_1_1, high_5_6, low_5_6, joined_5_6, high_20_2, low_20_2, joined_20_2, high_22_2, low_22_2, joined_22_2, high_24_3, low_24_3, joined_24_3, high_27_5, low_27_5, joined_27_5, high_24_1, low_24_1, joined_24_1, high_25_2, low_25_2, joined_25_2, high_26_1, low_26_1, joined_26_1, high_2_1, low_2_1, joined_2_1, hw]
theorem RoundTrip.amoAnd x0 x1 x2 x3 x4 x5 x6 x7 x8 : RoundTrip.Statement (.amoAnd x0 x1 x2 x3 x4 x5 x6 x7 x8) := by
  intro p hp hw; cases hp
  simp [parseChecked, parse, parse30, unpackA_pack, noExt, withExt, optExt, need, high_2_3, low_2_3, joined_2_3, high_3_2, low_3_2, joined_3_2, high_4_1, low_4_1, joined_4_1, high_1_1, low_1_1, joined_1_1, high_5_6, low_5_6, joined_5_6, high_20_2, low_20_2, joined_20_2, high_22_2, low_22_2, joined_22_2, high_24_3, low_24_3, joined_24_3, high_27_5, low_27_5, joined_27_5, high_24_1, low_24_1, joined_24_1, high_25_2, low_25_2, joined_25_2, high_26_1, low_26_1, joined_26_1, high_2_1, low_2_1, joined_2_1, hw]
theorem RoundTrip.amoOr x0 x1 x2 x3 x4 x5 x6 x7 x8 : RoundTrip.Statement (.amoOr x0 x1 x2 x3 x4 x5 x6 x7 x8) := by
  intro p hp hw; cases hp
  simp [parseChecked, parse, parse30, unpackA_pack, noExt, withExt, optExt, need, high_2_3, low_2_3, joined_2_3, high_3_2, low_3_2, joined_3_2, high_4_1, low_4_1, joined_4_1, high_1_1, low_1_1, joined_1_1, high_5_6, low_5_6, joined_5_6, high_20_2, low_20_2, joined_20_2, high_22_2, low_22_2, joined_22_2, high_24_3, low_24_3, joined_24_3, high_27_5, low_27_5, joined_27_5, high_24_1, low_24_1, joined_24_1, high_25_2, low_25_2, joined_25_2, high_26_1, low_26_1, joined_26_1, high_2_1, low_2_1, joined_2_1, hw]
theorem RoundTrip.amoXor x0 x1 x2 x3 x4 x5 x6 x7 x8 : RoundTrip.Statement (.amoXor x0 x1 x2 x3 x4 x5 x6 x7 x8) := by
  intro p hp hw; cases hp
  simp [parseChecked, parse, parse30, unpackA_pack, noExt, withExt, optExt, need, high_2_3, low_2_3, joined_2_3, high_3_2, low_3_2, joined_3_2, high_4_1, low_4_1, joined_4_1, high_1_1, low_1_1, joined_1_1, high_5_6, low_5_6, joined_5_6, high_20_2, low_20_2, joined_20_2, high_22_2, low_22_2, joined_22_2, high_24_3, low_24_3, joined_24_3, high_27_5, low_27_5, joined_27_5, high_24_1, low_24_1, joined_24_1, high_25_2, low_25_2, joined_25_2, high_26_1, low_26_1, joined_26_1, high_2_1, low_2_1, joined_2_1, hw]
theorem RoundTrip.amoMinI x0 x1 x2 x3 x4 x5 x6 x7 x8 : RoundTrip.Statement (.amoMinI x0 x1 x2 x3 x4 x5 x6 x7 x8) := by
  intro p hp hw; cases hp
  simp [parseChecked, parse, parse30, unpackA_pack, noExt, withExt, optExt, need, high_2_3, low_2_3, joined_2_3, high_3_2, low_3_2, joined_3_2, high_4_1, low_4_1, joined_4_1, high_1_1, low_1_1, joined_1_1, high_5_6, low_5_6, joined_5_6, high_20_2, low_20_2, joined_20_2, high_22_2, low_22_2, joined_22_2, high_24_3, low_24_3, joined_24_3, high_27_5, low_27_5, joined_27_5, high_24_1, low_24_1, joined_24_1, high_25_2, low_25_2, joined_25_2, high_26_1, low_26_1, joined_26_1, high_2_1, low_2_1, joined_2_1, hw]
theorem RoundTrip.amoMinN x0 x1 x2 x3 x4 x5 x6 x7 x8 : RoundTrip.Statement (.amoMinN x0 x1 x2 x3 x4 x5 x6 x7 x8) := by
  intro p hp hw; cases hp
  simp [parseChecked, parse, parse30, unpackA_pack, noExt, withExt, optExt, need, high_2_3, low_2_3, joined_2_3, high_3_2, low_3_2, joined_3_2, high_4_1, low_4_1, joined_4_1, high_1_1, low_1_1, joined_1_1, high_5_6, low_5_6, joined_5_6, high_20_2, low_20_2, joined_20_2, high_22_2, low_22_2, joined_22_2, high_24_3, low_24_3, joined_24_3, high_27_5, low_27_5, joined_27_5, high_24_1, low_24_1, joined_24_1, high_25_2, low_25_2, joined_25_2, high_26_1, low_26_1, joined_26_1, high_2_1, low_2_1, joined_2_1, hw]
theorem RoundTrip.amoMaxI x0 x1 x2 x3 x4 x5 x6 x7 x8 : RoundTrip.Statement (.amoMaxI x0 x1 x2 x3 x4 x5 x6 x7 x8) := by
  intro p hp hw; cases hp
  simp [parseChecked, parse, parse30, unpackA_pack, noExt, withExt, optExt, need, high_2_3, low_2_3, joined_2_3, high_3_2, low_3_2, joined_3_2, high_4_1, low_4_1, joined_4_1, high_1_1, low_1_1, joined_1_1, high_5_6, low_5_6, joined_5_6, high_20_2, low_20_2, joined_20_2, high_22_2, low_22_2, joined_22_2, high_24_3, low_24_3, joined_24_3, high_27_5, low_27_5, joined_27_5, high_24_1, low_24_1, joined_24_1, high_25_2, low_25_2, joined_25_2, high_26_1, low_26_1, joined_26_1, high_2_1, low_2_1, joined_2_1, hw]
theorem RoundTrip.amoMaxN x0 x1 x2 x3 x4 x5 x6 x7 x8 : RoundTrip.Statement (.amoMaxN x0 x1 x2 x3 x4 x5 x6 x7 x8) := by
  intro p hp hw; cases hp
  simp [parseChecked, parse, parse30, unpackA_pack, noExt, withExt, optExt, need, high_2_3, low_2_3, joined_2_3, high_3_2, low_3_2, joined_3_2, high_4_1, low_4_1, joined_4_1, high_1_1, low_1_1, joined_1_1, high_5_6, low_5_6, joined_5_6, high_20_2, low_20_2, joined_20_2, high_22_2, low_22_2, joined_22_2, high_24_3, low_24_3, joined_24_3, high_27_5, low_27_5, joined_27_5, high_24_1, low_24_1, joined_24_1, high_25_2, low_25_2, joined_25_2, high_26_1, low_26_1, joined_26_1, high_2_1, low_2_1, joined_2_1, hw]
theorem RoundTrip.amoSwap x0 x1 x2 x3 x4 x5 x6 x7 x8 : RoundTrip.Statement (.amoSwap x0 x1 x2 x3 x4 x5 x6 x7 x8) := by
  intro p hp hw; cases hp
  simp [parseChecked, parse, parse30, unpackA_pack, noExt, withExt, optExt, need, high_2_3, low_2_3, joined_2_3, high_3_2, low_3_2, joined_3_2, high_4_1, low_4_1, joined_4_1, high_1_1, low_1_1, joined_1_1, high_5_6, low_5_6, joined_5_6, high_20_2, low_20_2, joined_20_2, high_22_2, low_22_2, joined_22_2, high_24_3, low_24_3, joined_24_3, high_27_5, low_27_5, joined_27_5, high_24_1, low_24_1, joined_24_1, high_25_2, low_25_2, joined_25_2, high_26_1, low_26_1, joined_26_1, high_2_1, low_2_1, joined_2_1, hw]
theorem RoundTrip.amoCas x0 x1 x2 x3 x4 x5 x6 x7 x8 : RoundTrip.Statement (.amoCas x0 x1 x2 x3 x4 x5 x6 x7 x8) := by
  intro p hp hw; cases hp
  simp [parseChecked, parse, parse30, unpackA_pack, noExt, withExt, optExt, need, high_2_3, low_2_3, joined_2_3, high_3_2, low_3_2, joined_3_2, high_4_1, low_4_1, joined_4_1, high_1_1, low_1_1, joined_1_1, high_5_6, low_5_6, joined_5_6, high_20_2, low_20_2, joined_20_2, high_22_2, low_22_2, joined_22_2, high_24_3, low_24_3, joined_24_3, high_27_5, low_27_5, joined_27_5, high_24_1, low_24_1, joined_24_1, high_25_2, low_25_2, joined_25_2, high_26_1, low_26_1, joined_26_1, high_2_1, low_2_1, joined_2_1, hw]
theorem RoundTrip.amov x0 x1 x2 x3 x4 x5 x6 x7 : RoundTrip.Statement (.amov x0 x1 x2 x3 x4 x5 x6 x7) := by
  intro p hp hw; cases hp
  simp [parseChecked, parse, parse31, unpackA_pack, noExt, withExt, optExt, need, high_2_3, low_2_3, joined_2_3, high_3_2, low_3_2, joined_3_2, high_4_1, low_4_1, joined_4_1, high_1_1, low_1_1, joined_1_1, high_5_6, low_5_6, joined_5_6, high_20_2, low_20_2, joined_20_2, high_22_2, low_22_2, joined_22_2, high_24_3, low_24_3, joined_24_3, high_27_5, low_27_5, joined_27_5, high_24_1, low_24_1, joined_24_1, high_25_2, low_25_2, joined_25_2, high_26_1, low_26_1, joined_26_1, high_2_1, low_2_1, joined_2_1, hw]
theorem RoundTrip.amowAdd x0 x1 x2 x3 x4 x5 x6 x7 : RoundTrip.Statement (.amowAdd x0 x1 x2 x3 x4 x5 x6 x7) := by
  intro p hp hw; cases hp
  simp [parseChecked, parse, parse31, unpackA_pack, noExt, withExt, optExt, need, high_2_3, low_2_3, joined_2_3, high_3_2, low_3_2, joined_3_2, high_4_1, low_4_1, joined_4_1, high_1_1, low_1_1, joined_1_1, high_5_6, low_5_6, joined_5_6, high_20_2, low_20_2, joined_20_2, high_22_2, low_22_2, joined_22_2, high_24_3, low_24_3, joined_24_3, high_27_5, low_27_5, joined_27_5, high_24_1, low_24_1, joined_24_1, high_25_2, low_25_2, joined_25_2, high_26_1, low_26_1, joined_26_1, high_2_1, low_2_1, joined_2_1, hw]
theorem RoundTrip.amowSwap x0 x1 x2 x3 x4 x5 x6 x7 : RoundTrip.Statement (.amowSwap x0 x1 x2 x3 x4 x5 x6 x7) := by
  intro p hp hw; cases hp
  simp [parseChecked, parse, parse31, unpackA_pack, noExt, withExt, optExt, need, high_2_3, low_2_3, joined_2_3, high_3_2, low_3_2, joined_3_2, high_4_1, low_4_1, joined_4_1, high_1_1, low_1_1, joined_1_1, high_5_6, low_5_6, joined_5_6, high_20_2, low_20_2, joined_20_2, high_22_2, low_22_2, joined_22_2, high_24_3, low_24_3, joined_24_3, high_27_5, low_27_5, joined_27_5, high_24_1, low_24_1, joined_24_1, high_25_2, low_25_2, joined_25_2, high_26_1, low_26_1, joined_26_1, high_2_1, low_2_1, joined_2_1, hw]
theorem RoundTrip.amowCas x0 x1 x2 x3 x4 x5 x6 x7 : RoundTrip.Statement (.amowCas x0 x1 x2 x3 x4 x5 x6 x7) := by
  intro p hp hw; cases hp
  simp [parseChecked, parse, parse31, unpackA_pack, noExt, withExt, optExt, need, high_2_3, low_2_3, joined_2_3, high_3_2, low_3_2, joined_3_2, high_4_1, low_4_1, joined_4_1, high_1_1, low_1_1, joined_1_1, high_5_6, low_5_6, joined_5_6, high_20_2, low_20_2, joined_20_2, high_22_2, low_22_2, joined_22_2, high_24_3, low_24_3, joined_24_3, high_27_5, low_27_5, joined_27_5, high_24_1, low_24_1, joined_24_1, high_25_2, low_25_2, joined_25_2, high_26_1, low_26_1, joined_26_1, high_2_1, low_2_1, joined_2_1, hw]
theorem RoundTrip.fenceAcq x0 x1 : RoundTrip.Statement (.fenceAcq x0 x1) := by
  intro p hp hw; cases hp
  simp [parseChecked, parse, parse32, unpackA_pack, noExt, withExt, optExt, need, high_2_3, low_2_3, joined_2_3, high_3_2, low_3_2, joined_3_2, high_4_1, low_4_1, joined_4_1, high_1_1, low_1_1, joined_1_1, high_5_6, low_5_6, joined_5_6, high_20_2, low_20_2, joined_20_2, high_22_2, low_22_2, joined_22_2, high_24_3, low_24_3, joined_24_3, high_27_5, low_27_5, joined_27_5, high_24_1, low_24_1, joined_24_1, high_25_2, low_25_2, joined_25_2, high_26_1, low_26_1, joined_26_1, high_2_1, low_2_1, joined_2_1, hw]
theorem RoundTrip.fenceRel x0 x1 : RoundTrip.Statement (.fenceRel x0 x1) := by
  intro p hp hw; cases hp
  simp [parseChecked, parse, parse32, unpackA_pack, noExt, withExt, optExt, need, high_2_3, low_2_3, joined_2_3, high_3_2, low_3_2, joined_3_2, high_4_1, low_4_1, joined_4_1, high_1_1, low_1_1, joined_1_1, high_5_6, low_5_6, joined_5_6, high_20_2, low_20_2, joined_20_2, high_22_2, low_22_2, joined_22_2, high_24_3, low_24_3, joined_24_3, high_27_5, low_27_5, joined_27_5, high_24_1, low_24_1, joined_24_1, high_25_2, low_25_2, joined_25_2, high_26_1, low_26_1, joined_26_1, high_2_1, low_2_1, joined_2_1, hw]
theorem RoundTrip.fenceFull x0 x1 : RoundTrip.Statement (.fenceFull x0 x1) := by
  intro p hp hw; cases hp
  simp [parseChecked, parse, parse32, unpackA_pack, noExt, withExt, optExt, need, high_2_3, low_2_3, joined_2_3, high_3_2, low_3_2, joined_3_2, high_4_1, low_4_1, joined_4_1, high_1_1, low_1_1, joined_1_1, high_5_6, low_5_6, joined_5_6, high_20_2, low_20_2, joined_20_2, high_22_2, low_22_2, joined_22_2, high_24_3, low_24_3, joined_24_3, high_27_5, low_27_5, joined_27_5, high_24_1, low_24_1, joined_24_1, high_25_2, low_25_2, joined_25_2, high_26_1, low_26_1, joined_26_1, high_2_1, low_2_1, joined_2_1, hw]
theorem RoundTrip.cadd x0 x1 x2 x3 x4 x5 : RoundTrip.Statement (.cadd x0 x1 x2 x3 x4 x5) := by
  intro p hp hw; cases hp
  simp [parseChecked, parse, parse32, unpackA_pack, noExt, withExt, optExt, need, high_2_3, low_2_3, joined_2_3, high_3_2, low_3_2, joined_3_2, high_4_1, low_4_1, joined_4_1, high_1_1, low_1_1, joined_1_1, high_5_6, low_5_6, joined_5_6, high_20_2, low_20_2, joined_20_2, high_22_2, low_22_2, joined_22_2, high_24_3, low_24_3, joined_24_3, high_27_5, low_27_5, joined_27_5, high_24_1, low_24_1, joined_24_1, high_25_2, low_25_2, joined_25_2, high_26_1, low_26_1, joined_26_1, high_2_1, low_2_1, joined_2_1, hw]
theorem RoundTrip.cwait x0 x1 x2 x3 x4 x5 : RoundTrip.Statement (.cwait x0 x1 x2 x3 x4 x5) := by
  intro p hp hw; cases hp
  simp [parseChecked, parse, parse32, unpackA_pack, noExt, withExt, optExt, need, high_2_3, low_2_3, joined_2_3, high_3_2, low_3_2, joined_3_2, high_4_1, low_4_1, joined_4_1, high_1_1, low_1_1, joined_1_1, high_5_6, low_5_6, joined_5_6, high_20_2, low_20_2, joined_20_2, high_22_2, low_22_2, joined_22_2, high_24_3, low_24_3, joined_24_3, high_27_5, low_27_5, joined_27_5, high_24_1, low_24_1, joined_24_1, high_25_2, low_25_2, joined_25_2, high_26_1, low_26_1, joined_26_1, high_2_1, low_2_1, joined_2_1, hw]
theorem RoundTrip.cpoll x0 x1 x2 x3 x4 : RoundTrip.Statement (.cpoll x0 x1 x2 x3 x4) := by
  intro p hp hw; cases hp
  simp [parseChecked, parse, parse32, unpackA_pack, noExt, withExt, optExt, need, high_2_3, low_2_3, joined_2_3, high_3_2, low_3_2, joined_3_2, high_4_1, low_4_1, joined_4_1, high_1_1, low_1_1, joined_1_1, high_5_6, low_5_6, joined_5_6, high_20_2, low_20_2, joined_20_2, high_22_2, low_22_2, joined_22_2, high_24_3, low_24_3, joined_24_3, high_27_5, low_27_5, joined_27_5, high_24_1, low_24_1, joined_24_1, high_25_2, low_25_2, joined_25_2, high_26_1, low_26_1, joined_26_1, high_2_1, low_2_1, joined_2_1, hw]
theorem RoundTrip.tick x0 x1 : RoundTrip.Statement (.tick x0 x1) := by
  intro p hp hw; cases hp
  simp [parseChecked, parse, parse32, unpackA_pack, noExt, withExt, optExt, need, hw]
theorem RoundTrip.sbind x0 x1 x2 x3 : RoundTrip.Statement (.sbind x0 x1 x2 x3) := by
  intro p hp hw; cases hp
  simp [parseChecked, parse, parse33, unpackA_pack, noExt, withExt, optExt, need, hw]
theorem RoundTrip.sunbd x0 x1 : RoundTrip.Statement (.sunbd x0 x1) := by
  intro p hp hw; cases hp
  simp [parseChecked, parse, parse33, unpackA_pack, noExt, withExt, optExt, need, hw]
theorem RoundTrip.sarr x0 x1 x2 x3 x4 : RoundTrip.Statement (.sarr x0 x1 x2 x3 x4) := by
  intro p hp hw; cases hp
  simp [parseChecked, parse, parse33, unpackA_pack, noExt, withExt, optExt, need, hw]
theorem RoundTrip.sarrb x0 x1 x2 : RoundTrip.Statement (.sarrb x0 x1 x2) := by
  intro p hp hw; cases hp
  simp [parseChecked, parse, parse33, unpackA_pack, noExt, withExt, optExt, need, hw]
theorem RoundTrip.swait x0 x1 x2 x3 x4 : RoundTrip.Statement (.swait x0 x1 x2 x3 x4) := by
  intro p hp hw; cases hp
  simp [parseChecked, parse, parse33, unpackA_pack, noExt, withExt, optExt, need, hw]
theorem RoundTrip.stest x0 x1 x2 x3 x4 : RoundTrip.Statement (.stest x0 x1 x2 x3 x4) := by
  intro p hp hw; cases hp
  simp [parseChecked, parse, parse33, unpackA_pack, noExt, withExt, optExt, need, hw]
theorem RoundTrip.sleave x0 x1 : RoundTrip.Statement (.sleave x0 x1) := by
  intro p hp hw; cases hp
  simp [parseChecked, parse, parse33, unpackA_pack, noExt, withExt, optExt, need, hw]
theorem RoundTrip.trigx x0 x1 x2 x3 : RoundTrip.Statement (.trigx x0 x1 x2 x3) := by
  intro p hp hw; cases hp
  simp [parseChecked, parse, parse33, unpackA_pack, noExt, withExt, optExt, need, hw]
theorem RoundTrip.tcfg x0 x1 x2 x3 : RoundTrip.Statement (.tcfg x0 x1 x2 x3) := by
  intro p hp hw; cases hp
  simp [parseChecked, parse, parse34, unpackT_pack, noExt, withExt, optExt, need, hw]
theorem RoundTrip.tfmt x0 x1 x2 : RoundTrip.Statement (.tfmt x0 x1 x2) := by
  intro p hp hw; cases hp
  simp [parseChecked, parse, parse34, unpackT_pack, noExt, withExt, optExt, need, hw]
theorem RoundTrip.tscale x0 x1 x2 x3 x4 x5 : RoundTrip.Statement (.tscale x0 x1 x2 x3 x4 x5) := by
  intro p hp hw; cases hp
  simp [parseChecked, parse, parse34, unpackT_pack, noExt, withExt, optExt, need, high_2_3, low_2_3, joined_2_3, high_3_2, low_3_2, joined_3_2, high_4_1, low_4_1, joined_4_1, high_1_1, low_1_1, joined_1_1, high_5_6, low_5_6, joined_5_6, high_20_2, low_20_2, joined_20_2, high_22_2, low_22_2, joined_22_2, high_24_3, low_24_3, joined_24_3, high_27_5, low_27_5, joined_27_5, high_24_1, low_24_1, joined_24_1, high_25_2, low_25_2, joined_25_2, high_26_1, low_26_1, joined_26_1, high_2_1, low_2_1, joined_2_1, hw]
theorem RoundTrip.tzero x0 x1 x2 : RoundTrip.Statement (.tzero x0 x1 x2) := by
  intro p hp hw; cases hp
  simp [parseChecked, parse, parse34, unpackT_pack, noExt, withExt, optExt, need, hw]
theorem RoundTrip.tldr x0 x1 x2 x3 x4 x5 x6 : RoundTrip.Statement (.tldr x0 x1 x2 x3 x4 x5 x6) := by
  intro p hp hw; cases hp
  simp [parseChecked, parse, parse34, unpackT_pack, noExt, withExt, optExt, need, high_2_3, low_2_3, joined_2_3, high_3_2, low_3_2, joined_3_2, high_4_1, low_4_1, joined_4_1, high_1_1, low_1_1, joined_1_1, high_5_6, low_5_6, joined_5_6, high_20_2, low_20_2, joined_20_2, high_22_2, low_22_2, joined_22_2, high_24_3, low_24_3, joined_24_3, high_27_5, low_27_5, joined_27_5, high_24_1, low_24_1, joined_24_1, high_25_2, low_25_2, joined_25_2, high_26_1, low_26_1, joined_26_1, high_2_1, low_2_1, joined_2_1, hw]
theorem RoundTrip.tstr x0 x1 x2 x3 x4 x5 x6 : RoundTrip.Statement (.tstr x0 x1 x2 x3 x4 x5 x6) := by
  intro p hp hw; cases hp
  simp [parseChecked, parse, parse34, unpackT_pack, noExt, withExt, optExt, need, high_2_3, low_2_3, joined_2_3, high_3_2, low_3_2, joined_3_2, high_4_1, low_4_1, joined_4_1, high_1_1, low_1_1, joined_1_1, high_5_6, low_5_6, joined_5_6, high_20_2, low_20_2, joined_20_2, high_22_2, low_22_2, joined_22_2, high_24_3, low_24_3, joined_24_3, high_27_5, low_27_5, joined_27_5, high_24_1, low_24_1, joined_24_1, high_25_2, low_25_2, joined_25_2, high_26_1, low_26_1, joined_26_1, high_2_1, low_2_1, joined_2_1, hw]
theorem RoundTrip.tmovr x0 x1 x2 x3 x4 x5 : RoundTrip.Statement (.tmovr x0 x1 x2 x3 x4 x5) := by
  intro p hp hw; cases hp
  rcases bit_cases x3 with rfl | rfl <;>
    simp [parseChecked, parse, parse34, unpackT_pack, noExt, withExt, optExt, need, high_2_3, low_2_3, joined_2_3, high_3_2, low_3_2, joined_3_2, high_4_1, low_4_1, joined_4_1, high_1_1, low_1_1, joined_1_1, high_5_6, low_5_6, joined_5_6, high_20_2, low_20_2, joined_20_2, high_22_2, low_22_2, joined_22_2, high_24_3, low_24_3, joined_24_3, high_27_5, low_27_5, joined_27_5, high_24_1, low_24_1, joined_24_1, high_25_2, low_25_2, joined_25_2, high_26_1, low_26_1, joined_26_1, high_2_1, low_2_1, joined_2_1, hw]
theorem RoundTrip.tmovc x0 x1 x2 x3 x4 x5 : RoundTrip.Statement (.tmovc x0 x1 x2 x3 x4 x5) := by
  intro p hp hw; cases hp
  rcases bit_cases x3 with rfl | rfl <;>
    simp [parseChecked, parse, parse34, unpackT_pack, noExt, withExt, optExt, need, high_2_3, low_2_3, joined_2_3, high_3_2, low_3_2, joined_3_2, high_4_1, low_4_1, joined_4_1, high_1_1, low_1_1, joined_1_1, high_5_6, low_5_6, joined_5_6, high_20_2, low_20_2, joined_20_2, high_22_2, low_22_2, joined_22_2, high_24_3, low_24_3, joined_24_3, high_27_5, low_27_5, joined_27_5, high_24_1, low_24_1, joined_24_1, high_25_2, low_25_2, joined_25_2, high_26_1, low_26_1, joined_26_1, high_2_1, low_2_1, joined_2_1, hw]
theorem RoundTrip.mma x0 x1 x2 x3 x4 : RoundTrip.Statement (.mma x0 x1 x2 x3 x4) := by
  intro p hp hw; cases hp
  simp [parseChecked, parse, parse34, unpackT_pack, noExt, withExt, optExt, need, hw]
theorem RoundTrip.mmas x0 x1 x2 x3 x4 : RoundTrip.Statement (.mmas x0 x1 x2 x3 x4) := by
  intro p hp hw; cases hp
  simp [parseChecked, parse, parse34, unpackT_pack, noExt, withExt, optExt, need, hw]
theorem RoundTrip.mmaSat x0 x1 x2 x3 x4 : RoundTrip.Statement (.mmaSat x0 x1 x2 x3 x4) := by
  intro p hp hw; cases hp
  simp [parseChecked, parse, parse34, unpackT_pack, noExt, withExt, optExt, need, hw]
theorem RoundTrip.mmasSat x0 x1 x2 x3 x4 : RoundTrip.Statement (.mmasSat x0 x1 x2 x3 x4) := by
  intro p hp hw; cases hp
  simp [parseChecked, parse, parse34, unpackT_pack, noExt, withExt, optExt, need, hw]
theorem RoundTrip.gload x0 x1 x2 x3 x4 x5 : RoundTrip.Statement (.gload x0 x1 x2 x3 x4 x5) := by
  intro p hp hw; cases hp
  simp [parseChecked, parse, parse34, unpackT_pack, noExt, withExt, optExt, need, high_2_3, low_2_3, joined_2_3, high_3_2, low_3_2, joined_3_2, high_4_1, low_4_1, joined_4_1, high_1_1, low_1_1, joined_1_1, high_5_6, low_5_6, joined_5_6, high_20_2, low_20_2, joined_20_2, high_22_2, low_22_2, joined_22_2, high_24_3, low_24_3, joined_24_3, high_27_5, low_27_5, joined_27_5, high_24_1, low_24_1, joined_24_1, high_25_2, low_25_2, joined_25_2, high_26_1, low_26_1, joined_26_1, high_2_1, low_2_1, joined_2_1, hw]
theorem RoundTrip.gdrop x0 x1 x2 : RoundTrip.Statement (.gdrop x0 x1 x2) := by
  intro p hp hw; cases hp
  simp [parseChecked, parse, parse34, unpackT_pack, noExt, withExt, optExt, need, hw]
theorem RoundTrip.tdrain x0 x1 x2 : RoundTrip.Statement (.tdrain x0 x1 x2) := by
  intro p hp hw; cases hp
  simp [parseChecked, parse, parse34, unpackT_pack, noExt, withExt, optExt, need, hw]
theorem RoundTrip.tfill x0 x1 x2 : RoundTrip.Statement (.tfill x0 x1 x2) := by
  intro p hp hw; cases hp
  simp [parseChecked, parse, parse34, unpackT_pack, noExt, withExt, optExt, need, hw]
theorem RoundTrip.tstat x0 x1 x2 x3 : RoundTrip.Statement (.tstat x0 x1 x2 x3) := by
  intro p hp hw; cases hp
  simp [parseChecked, parse, parse34, unpackT_pack, noExt, withExt, optExt, need, hw]
theorem RoundTrip.tfree x0 x1 x2 : RoundTrip.Statement (.tfree x0 x1 x2) := by
  intro p hp hw; cases hp
  simp [parseChecked, parse, parse34, unpackT_pack, noExt, withExt, optExt, need, hw]
theorem RoundTrip.topen x0 x1 x2 : RoundTrip.Statement (.topen x0 x1 x2) := by
  intro p hp hw; cases hp
  simp [parseChecked, parse, parse35, unpackA_pack, noExt, withExt, optExt, need, hw]
theorem RoundTrip.tclose x0 x1 : RoundTrip.Statement (.tclose x0 x1) := by
  intro p hp hw; cases hp
  simp [parseChecked, parse, parse35, unpackA_pack, noExt, withExt, optExt, need, hw]
theorem RoundTrip.tacqS x0 x1 x2 : RoundTrip.Statement (.tacqS x0 x1 x2) := by
  intro p hp hw; cases hp
  simp [parseChecked, parse, parse35, unpackA_pack, noExt, withExt, optExt, need, hw]
theorem RoundTrip.tacqW x0 x1 x2 : RoundTrip.Statement (.tacqW x0 x1 x2) := by
  intro p hp hw; cases hp
  simp [parseChecked, parse, parse35, unpackA_pack, noExt, withExt, optExt, need, hw]
theorem RoundTrip.tacqA x0 x1 x2 : RoundTrip.Statement (.tacqA x0 x1 x2) := by
  intro p hp hw; cases hp
  simp [parseChecked, parse, parse35, unpackA_pack, noExt, withExt, optExt, need, hw]
theorem RoundTrip.trel x0 x1 x2 : RoundTrip.Statement (.trel x0 x1 x2) := by
  intro p hp hw; cases hp
  simp [parseChecked, parse, parse35, unpackA_pack, noExt, withExt, optExt, need, hw]
theorem RoundTrip.tsplit x0 x1 x2 x3 : RoundTrip.Statement (.tsplit x0 x1 x2 x3) := by
  intro p hp hw; cases hp
  simp [parseChecked, parse, parse35, unpackA_pack, noExt, withExt, optExt, need, hw]
theorem RoundTrip.tqry x0 x1 x2 x3 : RoundTrip.Statement (.tqry x0 x1 x2 x3) := by
  intro p hp hw; cases hp
  simp [parseChecked, parse, parse35, unpackA_pack, noExt, withExt, optExt, need, hw]
theorem RoundTrip.tdesc x0 x1 x2 x3 : RoundTrip.Statement (.tdesc x0 x1 x2 x3) := by
  intro p hp hw; cases hp
  simp [parseChecked, parse, parse35, unpackA_pack, noExt, withExt, optExt, need, hw]
theorem RoundTrip.yskew x0 x1 x2 x3 : RoundTrip.Statement (.yskew x0 x1 x2 x3) := by
  intro p hp hw; cases hp
  simp [parseChecked, parse, parse36, unpackA_pack, noExt, withExt, optExt, need, hw]
theorem RoundTrip.yunsk x0 x1 x2 : RoundTrip.Statement (.yunsk x0 x1 x2) := by
  intro p hp hw; cases hp
  simp [parseChecked, parse, parse36, unpackA_pack, noExt, withExt, optExt, need, hw]
theorem RoundTrip.dadd x0 x1 x2 x3 x4 : RoundTrip.Statement (.dadd x0 x1 x2 x3 x4) := by
  intro p hp hw; cases hp
  simp [parseChecked, parse, parse38, unpackA_pack, noExt, withExt, optExt, need, hw]
theorem RoundTrip.dsub x0 x1 x2 x3 x4 : RoundTrip.Statement (.dsub x0 x1 x2 x3 x4) := by
  intro p hp hw; cases hp
  simp [parseChecked, parse, parse38, unpackA_pack, noExt, withExt, optExt, need, hw]
theorem RoundTrip.dmul x0 x1 x2 x3 x4 : RoundTrip.Statement (.dmul x0 x1 x2 x3 x4) := by
  intro p hp hw; cases hp
  simp [parseChecked, parse, parse38, unpackA_pack, noExt, withExt, optExt, need, hw]
theorem RoundTrip.ddiv x0 x1 x2 x3 x4 : RoundTrip.Statement (.ddiv x0 x1 x2 x3 x4) := by
  intro p hp hw; cases hp
  simp [parseChecked, parse, parse38, unpackA_pack, noExt, withExt, optExt, need, hw]
theorem RoundTrip.dsqrt x0 x1 x2 x3 : RoundTrip.Statement (.dsqrt x0 x1 x2 x3) := by
  intro p hp hw; cases hp
  simp [parseChecked, parse, parse38, unpackA_pack, noExt, withExt, optExt, need, hw]
theorem RoundTrip.dmin x0 x1 x2 x3 x4 : RoundTrip.Statement (.dmin x0 x1 x2 x3 x4) := by
  intro p hp hw; cases hp
  simp [parseChecked, parse, parse38, unpackA_pack, noExt, withExt, optExt, need, hw]
theorem RoundTrip.dmax x0 x1 x2 x3 x4 : RoundTrip.Statement (.dmax x0 x1 x2 x3 x4) := by
  intro p hp hw; cases hp
  simp [parseChecked, parse, parse38, unpackA_pack, noExt, withExt, optExt, need, hw]
theorem RoundTrip.dcmp x0 x1 x2 x3 x4 x5 : RoundTrip.Statement (.dcmp x0 x1 x2 x3 x4 x5) := by
  intro p hp hw; cases hp
  simp [parseChecked, parse, parse38, unpackA_pack, noExt, withExt, optExt, need, high_2_3, low_2_3, joined_2_3, high_3_2, low_3_2, joined_3_2, high_4_1, low_4_1, joined_4_1, high_1_1, low_1_1, joined_1_1, high_5_6, low_5_6, joined_5_6, high_20_2, low_20_2, joined_20_2, high_22_2, low_22_2, joined_22_2, high_24_3, low_24_3, joined_24_3, high_27_5, low_27_5, joined_27_5, high_24_1, low_24_1, joined_24_1, high_25_2, low_25_2, joined_25_2, high_26_1, low_26_1, joined_26_1, high_2_1, low_2_1, joined_2_1, hw]
theorem RoundTrip.dcvtToF64 x0 x1 x2 x3 x4 x5 : RoundTrip.Statement (.dcvtToF64 x0 x1 x2 x3 x4 x5) := by
  intro p hp hw; cases hp
  simp [parseChecked, parse, parse38, unpackA_pack, noExt, withExt, optExt, need, high_2_3, low_2_3, joined_2_3, high_3_2, low_3_2, joined_3_2, high_4_1, low_4_1, joined_4_1, high_1_1, low_1_1, joined_1_1, high_5_6, low_5_6, joined_5_6, high_20_2, low_20_2, joined_20_2, high_22_2, low_22_2, joined_22_2, high_24_3, low_24_3, joined_24_3, high_27_5, low_27_5, joined_27_5, high_24_1, low_24_1, joined_24_1, high_25_2, low_25_2, joined_25_2, high_26_1, low_26_1, joined_26_1, high_2_1, low_2_1, joined_2_1, hw]
theorem RoundTrip.dcvtFromF64 x0 x1 x2 x3 x4 x5 : RoundTrip.Statement (.dcvtFromF64 x0 x1 x2 x3 x4 x5) := by
  intro p hp hw; cases hp
  simp [parseChecked, parse, parse38, unpackA_pack, noExt, withExt, optExt, need, high_2_3, low_2_3, joined_2_3, high_3_2, low_3_2, joined_3_2, high_4_1, low_4_1, joined_4_1, high_1_1, low_1_1, joined_1_1, high_5_6, low_5_6, joined_5_6, high_20_2, low_20_2, joined_20_2, high_22_2, low_22_2, joined_22_2, high_24_3, low_24_3, joined_24_3, high_27_5, low_27_5, joined_27_5, high_24_1, low_24_1, joined_24_1, high_25_2, low_25_2, joined_25_2, high_26_1, low_26_1, joined_26_1, high_2_1, low_2_1, joined_2_1, hw]
theorem RoundTrip.dfma x0 x1 x2 x3 x4 x5 : RoundTrip.Statement (.dfma x0 x1 x2 x3 x4 x5) := by
  intro p hp hw; cases hp
  simp [parseChecked, parse, parse39, unpackB_pack, noExt, withExt, optExt, need, hw]
theorem RoundTrip.vdfma x0 x1 x2 x3 x4 x5 x6 : RoundTrip.Statement (.vdfma x0 x1 x2 x3 x4 x5 x6) := by
  intro p hp hw; cases hp
  simp [parseChecked, parse, parse3A, unpackW_pack, noExt, withExt, optExt, need, hw]
theorem RoundTrip.fdiv x0 x1 x2 x3 x4 : RoundTrip.Statement (.fdiv x0 x1 x2 x3 x4) := by
  intro p hp hw; cases hp
  simp [parseChecked, parse, parse3B, unpackA_pack, noExt, withExt, optExt, need, hw]
theorem RoundTrip.fsqrt x0 x1 x2 x3 : RoundTrip.Statement (.fsqrt x0 x1 x2 x3) := by
  intro p hp hw; cases hp
  simp [parseChecked, parse, parse3B, unpackA_pack, noExt, withExt, optExt, need, hw]
theorem RoundTrip.fexp2 x0 x1 x2 x3 : RoundTrip.Statement (.fexp2 x0 x1 x2 x3) := by
  intro p hp hw; cases hp
  simp [parseChecked, parse, parse3B, unpackA_pack, noExt, withExt, optExt, need, hw]
theorem RoundTrip.flog2 x0 x1 x2 x3 : RoundTrip.Statement (.flog2 x0 x1 x2 x3) := by
  intro p hp hw; cases hp
  simp [parseChecked, parse, parse3B, unpackA_pack, noExt, withExt, optExt, need, hw]
theorem RoundTrip.fsin x0 x1 x2 x3 : RoundTrip.Statement (.fsin x0 x1 x2 x3) := by
  intro p hp hw; cases hp
  simp [parseChecked, parse, parse3B, unpackA_pack, noExt, withExt, optExt, need, hw]
theorem RoundTrip.fcos x0 x1 x2 x3 : RoundTrip.Statement (.fcos x0 x1 x2 x3) := by
  intro p hp hw; cases hp
  simp [parseChecked, parse, parse3B, unpackA_pack, noExt, withExt, optExt, need, hw]
theorem RoundTrip.frcp x0 x1 x2 x3 : RoundTrip.Statement (.frcp x0 x1 x2 x3) := by
  intro p hp hw; cases hp
  simp [parseChecked, parse, parse3B, unpackA_pack, noExt, withExt, optExt, need, hw]
theorem RoundTrip.frsq x0 x1 x2 x3 : RoundTrip.Statement (.frsq x0 x1 x2 x3) := by
  intro p hp hw; cases hp
  simp [parseChecked, parse, parse3B, unpackA_pack, noExt, withExt, optExt, need, hw]
theorem RoundTrip.shipw x0 : RoundTrip.Statement (.shipw x0) := by
  intro p hp hw; cases hp
  simp [parseChecked, parse, parse3B, unpackA_pack, noExt, withExt, optExt, need, hw]
theorem RoundTrip.migrate x0 : RoundTrip.Statement (.migrate x0) := by
  intro p hp hw; cases hp
  simp [parseChecked, parse, parse3B, unpackA_pack, noExt, withExt, optExt, need, hw]
theorem RoundTrip.msend x0 x1 x2 x3 : RoundTrip.Statement (.msend x0 x1 x2 x3) := by
  intro p hp hw; cases hp
  simp [parseChecked, parse, parse3C, unpackA_pack, noExt, withExt, optExt, need, hw]
theorem RoundTrip.msendT x0 x1 x2 x3 : RoundTrip.Statement (.msendT x0 x1 x2 x3) := by
  intro p hp hw; cases hp
  simp [parseChecked, parse, parse3C, unpackA_pack, noExt, withExt, optExt, need, hw]
theorem RoundTrip.mmask x0 x1 x2 x3 : RoundTrip.Statement (.mmask x0 x1 x2 x3) := by
  intro p hp hw; cases hp
  simp [parseChecked, parse, parse3C, unpackA_pack, noExt, withExt, optExt, need, hw]
theorem RoundTrip.mbox x0 x1 x2 x3 : RoundTrip.Statement (.mbox x0 x1 x2 x3) := by
  intro p hp hw; cases hp
  simp [parseChecked, parse, parse3C, unpackA_pack, noExt, withExt, optExt, need, hw]
theorem RoundTrip.mdone x0 x1 : RoundTrip.Statement (.mdone x0 x1) := by
  intro p hp hw; cases hp
  simp [parseChecked, parse, parse3C, unpackA_pack, noExt, withExt, optExt, need, hw]
theorem RoundTrip.rdsend x0 x1 x2 x3 : RoundTrip.Statement (.rdsend x0 x1 x2 x3) := by
  intro p hp hw; cases hp
  simp [parseChecked, parse, parse3C, unpackA_pack, noExt, withExt, optExt, need, high_2_3, low_2_3, joined_2_3, high_3_2, low_3_2, joined_3_2, high_4_1, low_4_1, joined_4_1, high_1_1, low_1_1, joined_1_1, high_5_6, low_5_6, joined_5_6, high_20_2, low_20_2, joined_20_2, high_22_2, low_22_2, joined_22_2, high_24_3, low_24_3, joined_24_3, high_27_5, low_27_5, joined_27_5, high_24_1, low_24_1, joined_24_1, high_25_2, low_25_2, joined_25_2, high_26_1, low_26_1, joined_26_1, high_2_1, low_2_1, joined_2_1, hw]
theorem RoundTrip.rdrecv x0 x1 x2 x3 x4 : RoundTrip.Statement (.rdrecv x0 x1 x2 x3 x4) := by
  intro p hp hw; cases hp
  simp [parseChecked, parse, parse3C, unpackA_pack, noExt, withExt, optExt, need, high_2_3, low_2_3, joined_2_3, high_3_2, low_3_2, joined_3_2, high_4_1, low_4_1, joined_4_1, high_1_1, low_1_1, joined_1_1, high_5_6, low_5_6, joined_5_6, high_20_2, low_20_2, joined_20_2, high_22_2, low_22_2, joined_22_2, high_24_3, low_24_3, joined_24_3, high_27_5, low_27_5, joined_27_5, high_24_1, low_24_1, joined_24_1, high_25_2, low_25_2, joined_25_2, high_26_1, low_26_1, joined_26_1, high_2_1, low_2_1, joined_2_1, hw]
theorem RoundTrip.cpy x0 x1 x2 x3 : RoundTrip.Statement (.cpy x0 x1 x2 x3) := by
  intro p hp hw; cases hp
  simp [parseChecked, parse, parse3D, unpackA_pack, noExt, withExt, optExt, need, hw]
theorem RoundTrip.cpyt x0 x1 x2 x3 : RoundTrip.Statement (.cpyt x0 x1 x2 x3) := by
  intro p hp hw; cases hp
  simp [parseChecked, parse, parse3D, unpackA_pack, noExt, withExt, optExt, need, hw]
theorem RoundTrip.cpyq x0 x1 x2 : RoundTrip.Statement (.cpyq x0 x1 x2) := by
  intro p hp hw; cases hp
  simp [parseChecked, parse, parse3D, unpackA_pack, noExt, withExt, optExt, need, hw]
theorem RoundTrip.krd x0 x1 x2 : RoundTrip.Statement (.krd x0 x1 x2) := by
  intro p hp hw; cases hp
  simp [parseChecked, parse, parse3E, unpackKN_pack, noExt, withExt, optExt, need, hw, fn_of_packKN]
theorem RoundTrip.kwr x0 x1 x2 : RoundTrip.Statement (.kwr x0 x1 x2) := by
  intro p hp hw; cases hp
  simp [parseChecked, parse, parse3E, unpackKN_pack, noExt, withExt, optExt, need, hw, fn_of_packKN]
theorem RoundTrip.eret x0 x1 x2 : RoundTrip.Statement (.eret x0 x1 x2) := by
  intro p hp hw; cases hp
  simp [parseChecked, parse, parse3E, unpackK_pack, noExt, withExt, optExt, need, hw]
theorem RoundTrip.waiti x0 x1 x2 : RoundTrip.Statement (.waiti x0 x1 x2) := by
  intro p hp hw; cases hp
  simp [parseChecked, parse, parse3E, unpackK_pack, noExt, withExt, optExt, need, hw]
theorem RoundTrip.tlbw x0 x1 x2 x3 : RoundTrip.Statement (.tlbw x0 x1 x2 x3) := by
  intro p hp hw; cases hp
  simp [parseChecked, parse, parse3E, unpackK_pack, noExt, withExt, optExt, need, hw]
theorem RoundTrip.tlbinv x0 x1 x2 : RoundTrip.Statement (.tlbinv x0 x1 x2) := by
  intro p hp hw; cases hp
  simp [parseChecked, parse, parse3E, unpackK_pack, noExt, withExt, optExt, need, hw]
theorem RoundTrip.aswch x0 x1 x2 : RoundTrip.Statement (.aswch x0 x1 x2) := by
  intro p hp hw; cases hp
  simp [parseChecked, parse, parse3E, unpackK_pack, noExt, withExt, optExt, need, hw]
theorem RoundTrip.launch x0 x1 x2 : RoundTrip.Statement (.launch x0 x1 x2) := by
  intro p hp hw; cases hp
  simp [parseChecked, parse, parse3E, unpackK_pack, noExt, withExt, optExt, need, hw]
theorem RoundTrip.launchT x0 x1 x2 : RoundTrip.Statement (.launchT x0 x1 x2) := by
  intro p hp hw; cases hp
  simp [parseChecked, parse, parse3E, unpackK_pack, noExt, withExt, optExt, need, hw]
theorem RoundTrip.swout x0 x1 x2 : RoundTrip.Statement (.swout x0 x1 x2) := by
  intro p hp hw; cases hp
  simp [parseChecked, parse, parse3E, unpackK_pack, noExt, withExt, optExt, need, hw]
theorem RoundTrip.swin x0 x1 x2 : RoundTrip.Statement (.swin x0 x1 x2) := by
  intro p hp hw; cases hp
  simp [parseChecked, parse, parse3E, unpackK_pack, noExt, withExt, optExt, need, hw]
theorem RoundTrip.rdcfg x0 x1 x2 x3 : RoundTrip.Statement (.rdcfg x0 x1 x2 x3) := by
  intro p hp hw; cases hp
  simp [parseChecked, parse, parse3E, unpackK_pack, noExt, withExt, optExt, need, hw]
theorem RoundTrip.longLatencyCompletion x0 x1 : RoundTrip.Statement (.longLatencyCompletion x0 x1) := by intro p hp; cases hp
theorem RoundTrip.settle x0 : RoundTrip.Statement (.settle x0) := by intro p hp; cases hp
theorem RoundTrip.fetchFill x0 : RoundTrip.Statement (.fetchFill x0) := by intro p hp; cases hp
theorem RoundTrip.storeBufferDrain x0 : RoundTrip.Statement (.storeBufferDrain x0) := by intro p hp; cases hp
theorem RoundTrip.guestDispatch x0 : RoundTrip.Statement (.guestDispatch x0) := by intro p hp; cases hp
theorem RoundTrip.shippedCompletion x0 x1 : RoundTrip.Statement (.shippedCompletion x0 x1) := by intro p hp; cases hp
theorem RoundTrip.shippedFault x0 x1 : RoundTrip.Statement (.shippedFault x0 x1) := by intro p hp; cases hp
theorem RoundTrip.cancelPacket x0 : RoundTrip.Statement (.cancelPacket x0) := by intro p hp; cases hp
theorem RoundTrip.migrateTransferDone x0 : RoundTrip.Statement (.migrateTransferDone x0) := by intro p hp; cases hp
theorem RoundTrip.forwardedReply x0 : RoundTrip.Statement (.forwardedReply x0) := by intro p hp; cases hp
theorem RoundTrip.matrixPipeStart x0 : RoundTrip.Statement (.matrixPipeStart x0) := by intro p hp; cases hp
theorem RoundTrip.matrixCompletion x0 x1 : RoundTrip.Statement (.matrixCompletion x0 x1) := by intro p hp; cases hp
theorem RoundTrip.tileTransferCompletion x0 : RoundTrip.Statement (.tileTransferCompletion x0) := by intro p hp; cases hp
theorem RoundTrip.skewRearrangeDone x0 : RoundTrip.Statement (.skewRearrangeDone x0) := by intro p hp; cases hp
theorem RoundTrip.penaltyUpdate x0 : RoundTrip.Statement (.penaltyUpdate x0) := by intro p hp; cases hp
theorem RoundTrip.mirrorUpdate : RoundTrip.Statement (.mirrorUpdate) := by intro p hp; cases hp
theorem RoundTrip.tenureGrant : RoundTrip.Statement (.tenureGrant) := by intro p hp; cases hp
theorem RoundTrip.recall : RoundTrip.Statement (.recall) := by intro p hp; cases hp
theorem RoundTrip.drainRequest : RoundTrip.Statement (.drainRequest) := by intro p hp; cases hp
theorem RoundTrip.watchWake x0 : RoundTrip.Statement (.watchWake x0) := by intro p hp; cases hp
theorem RoundTrip.watchPoll x0 : RoundTrip.Statement (.watchPoll x0) := by intro p hp; cases hp
theorem RoundTrip.waitDeadline x0 : RoundTrip.Statement (.waitDeadline x0) := by intro p hp; cases hp
theorem RoundTrip.activationStart x0 : RoundTrip.Statement (.activationStart x0) := by intro p hp; cases hp
theorem RoundTrip.statGather x0 : RoundTrip.Statement (.statGather x0) := by intro p hp; cases hp
theorem RoundTrip.messageArrival x0 : RoundTrip.Statement (.messageArrival x0) := by intro p hp; cases hp
theorem RoundTrip.heldMessagePlaced x0 x1 : RoundTrip.Statement (.heldMessagePlaced x0 x1) := by intro p hp; cases hp
theorem RoundTrip.mailboxWaitExpiry x0 x1 : RoundTrip.Statement (.mailboxWaitExpiry x0 x1) := by intro p hp; cases hp
theorem RoundTrip.messageAnswer x0 x1 x2 : RoundTrip.Statement (.messageAnswer x0 x1 x2) := by intro p hp; cases hp
theorem RoundTrip.handlerActivation x0 x1 : RoundTrip.Statement (.handlerActivation x0 x1) := by intro p hp; cases hp
theorem RoundTrip.portArbitration x0 x1 : RoundTrip.Statement (.portArbitration x0 x1) := by intro p hp; cases hp
theorem RoundTrip.reductionRound x0 x1 : RoundTrip.Statement (.reductionRound x0 x1) := by intro p hp; cases hp
theorem RoundTrip.routerPowerDown x0 : RoundTrip.Statement (.routerPowerDown x0) := by intro p hp; cases hp
theorem RoundTrip.routerWake x0 x1 : RoundTrip.Statement (.routerWake x0 x1) := by intro p hp; cases hp
theorem RoundTrip.routerReady x0 : RoundTrip.Statement (.routerReady x0) := by intro p hp; cases hp
theorem RoundTrip.pageWalk x0 x1 : RoundTrip.Statement (.pageWalk x0 x1) := by intro p hp; cases hp
theorem RoundTrip.atsCompletion x0 x1 x2 x3 x4 x5 : RoundTrip.Statement (.atsCompletion x0 x1 x2 x3 x4 x5) := by intro p hp; cases hp
theorem RoundTrip.priSuccess x0 x1 : RoundTrip.Statement (.priSuccess x0 x1) := by intro p hp; cases hp
theorem RoundTrip.priInvalidRequest x0 x1 : RoundTrip.Statement (.priInvalidRequest x0 x1) := by intro p hp; cases hp
theorem RoundTrip.priResponseFailure x0 : RoundTrip.Statement (.priResponseFailure x0) := by intro p hp; cases hp
theorem RoundTrip.atsInvalidateRequest x0 x1 x2 x3 : RoundTrip.Statement (.atsInvalidateRequest x0 x1 x2 x3) := by intro p hp; cases hp
theorem RoundTrip.invalidateCompletion : RoundTrip.Statement (.invalidateCompletion) := by intro p hp; cases hp
theorem RoundTrip.transferStart x0 : RoundTrip.Statement (.transferStart x0) := by intro p hp; cases hp
theorem RoundTrip.transferComplete x0 x1 : RoundTrip.Statement (.transferComplete x0 x1) := by intro p hp; cases hp
theorem RoundTrip.transferFailed x0 x1 : RoundTrip.Statement (.transferFailed x0 x1) := by intro p hp; cases hp
theorem RoundTrip.remotePathLoss x0 : RoundTrip.Statement (.remotePathLoss x0) := by intro p hp; cases hp
theorem RoundTrip.sertenPut x0 x1 x2 x3 : RoundTrip.Statement (.sertenPut x0 x1 x2 x3) := by intro p hp; cases hp
theorem RoundTrip.hostMemoryWrite x0 x1 x2 : RoundTrip.Statement (.hostMemoryWrite x0 x1 x2) := by intro p hp; cases hp
theorem RoundTrip.hostMemoryRead x0 x1 : RoundTrip.Statement (.hostMemoryRead x0 x1) := by intro p hp; cases hp
theorem RoundTrip.hostCounterAdd x0 x1 x2 : RoundTrip.Statement (.hostCounterAdd x0 x1 x2) := by intro p hp; cases hp
theorem RoundTrip.eqConfigWrite x0 x1 x2 : RoundTrip.Statement (.eqConfigWrite x0 x1 x2) := by intro p hp; cases hp
theorem RoundTrip.registerWrite x0 x1 : RoundTrip.Statement (.registerWrite x0 x1) := by intro p hp; cases hp
theorem RoundTrip.launchRecordTake x0 x1 x2 : RoundTrip.Statement (.launchRecordTake x0 x1 x2) := by intro p hp; cases hp
theorem RoundTrip.deviceQueueAdmit x0 x1 x2 : RoundTrip.Statement (.deviceQueueAdmit x0 x1 x2) := by intro p hp; cases hp
theorem RoundTrip.teamPlacement x0 : RoundTrip.Statement (.teamPlacement x0) := by intro p hp; cases hp
theorem RoundTrip.priorityAging x0 x1 : RoundTrip.Statement (.priorityAging x0 x1) := by intro p hp; cases hp
theorem RoundTrip.quantumExpiry x0 : RoundTrip.Statement (.quantumExpiry x0) := by intro p hp; cases hp
theorem RoundTrip.parkExpiry x0 : RoundTrip.Statement (.parkExpiry x0) := by intro p hp; cases hp
theorem RoundTrip.safewaitExpiry x0 : RoundTrip.Statement (.safewaitExpiry x0) := by intro p hp; cases hp
theorem RoundTrip.swapOut x0 : RoundTrip.Statement (.swapOut x0) := by intro p hp; cases hp
theorem RoundTrip.eventBacklogDrain x0 : RoundTrip.Statement (.eventBacklogDrain x0) := by intro p hp; cases hp
theorem RoundTrip.requestTimeout x0 : RoundTrip.Statement (.requestTimeout x0) := by intro p hp; cases hp
theorem RoundTrip.functionLevelReset x0 : RoundTrip.Statement (.functionLevelReset x0) := by intro p hp; cases hp
theorem RoundTrip.errorCorrected x0 x1 x2 : RoundTrip.Statement (.errorCorrected x0 x1 x2) := by intro p hp; cases hp
theorem RoundTrip.poisonConsumed x0 : RoundTrip.Statement (.poisonConsumed x0) := by intro p hp; cases hp
theorem RoundTrip.uncorrectableError x0 : RoundTrip.Statement (.uncorrectableError x0) := by intro p hp; cases hp
theorem RoundTrip.pipeFailure x0 : RoundTrip.Statement (.pipeFailure x0) := by intro p hp; cases hp
theorem RoundTrip.exchangeComplete x0 x1 : RoundTrip.Statement (.exchangeComplete x0 x1) := by intro p hp; cases hp
theorem RoundTrip.deviceFault x0 : RoundTrip.Statement (.deviceFault x0) := by intro p hp; cases hp
theorem RoundTrip.deviceReset : RoundTrip.Statement (.deviceReset) := by intro p hp; cases hp
theorem RoundTrip.go x0 : RoundTrip.Statement (.go x0) := by intro p hp; cases hp
theorem RoundTrip.imageVerifyDone x0 : RoundTrip.Statement (.imageVerifyDone x0) := by intro p hp; cases hp
theorem RoundTrip.bringUpReady x0 : RoundTrip.Statement (.bringUpReady x0) := by intro p hp; cases hp
theorem RoundTrip.recoveryReset : RoundTrip.Statement (.recoveryReset) := by intro p hp; cases hp
theorem RoundTrip.spdmRequest x0 : RoundTrip.Statement (.spdmRequest x0) := by intro p hp; cases hp
theorem RoundTrip.clockStepDown x0 x1 : RoundTrip.Statement (.clockStepDown x0 x1) := by intro p hp; cases hp
theorem RoundTrip.clockStepUp : RoundTrip.Statement (.clockStepUp) := by intro p hp; cases hp
theorem RoundTrip.thermalTrip : RoundTrip.Statement (.thermalTrip) := by intro p hp; cases hp
theorem RoundTrip.waitiTimeout x0 : RoundTrip.Statement (.waitiTimeout x0) := by intro p hp; cases hp
theorem RoundTrip.linkRetrained : RoundTrip.Statement (.linkRetrained) := by intro p hp; cases hp
theorem RoundTrip.sertenGet x0 x1 x2 x3 : RoundTrip.Statement (.sertenGet x0 x1 x2 x3) := by intro p hp; cases hp
theorem RoundTrip.sertenCounterAdd x0 x1 x2 x3 : RoundTrip.Statement (.sertenCounterAdd x0 x1 x2 x3) := by intro p hp; cases hp
theorem RoundTrip.portLinkChange x0 x1 : RoundTrip.Statement (.portLinkChange x0 x1) := by intro p hp; cases hp
theorem RoundTrip.coalescingIntervalEnd x0 : RoundTrip.Statement (.coalescingIntervalEnd x0) := by intro p hp; cases hp

end Sys2Proof.Laws
end

