-- ==== Sys2Proof/Laws/Trap.lean ====
section
/-! SUPPORT. What taking a trap does (R94-R97): an instruction of an idle strand whose body raises a cause traps in user mode, and in
supervisor mode is a device fault. -/
namespace Sys2Proof.Machine

/-- An instruction whose body raises a cause takes the trap at its own address, with nothing of its own done. -/
theorem instr_raise {s : State} (h : s.Idle) (ext beyond : Bool) (sp : SafePoint) (body : Act Unit) (c : BitVec 8) (f : Word)
    (hc : c ≠ 0x50#8)
    (hb : body ⟨started s (words ext sp), [.pc (s.me.arch.pcw + BitVec.ofNat 62 (words ext sp)), .issued]⟩ = .error (.trap c f [])) :
    instr ext beyond sp body s =
      runAct (BitVec.ofNat 2 (words ext sp)) (fun _ => .error (.trap c f [])) s := by
  have e : instrProg (words ext sp) beyond false sp body ⟨s, []⟩ = .error (.trap c f []) := by
    simp only [instrProg, bind, StateT.bind, Except.bind, checkIssue_idle s h, getMe, getS, pure, StateT.pure, Except.pure, emit]
    have : applyEff (applyEff s .issued) (.pc (s.me.arch.pcw + BitVec.ofNat 62 (words ext sp))) = started s (words ext sp) := rfl
    rw [this, freeFirst_trap hb hc]
  simp only [instr, runAct, e]

/-- The same for the forms of class H. -/
theorem instrH_raise {s : State} (h : s.Idle) (ext side : Bool) (sp : SafePoint) (body : Act Unit) (c : BitVec 8) (f : Word)
    (hc : c ≠ 0x50#8)
    (hb : body ⟨started s (words ext sp), [.pc (s.me.arch.pcw + BitVec.ofNat 62 (words ext sp)), .issued]⟩ = .error (.trap c f [])) :
    instrH ext side sp body s =
      runAct (BitVec.ofNat 2 (words ext sp)) (fun _ => .error (.trap c f [])) s := by
  have e : instrProg (words ext sp) false side sp body ⟨s, []⟩ = .error (.trap c f []) := by
    simp only [instrProg, bind, StateT.bind, Except.bind, checkIssue_idle s h, getMe, getS, pure, StateT.pure, Except.pure, emit]
    have : applyEff (applyEff s .issued) (.pc (s.me.arch.pcw + BitVec.ofNat 62 (words ext sp))) = started s (words ext sp) := rfl
    rw [this, freeFirst_trap hb hc]
  simp only [instrH, runAct, e]

theorem flushPending_idle {s : State} (h : s.Idle) : s.me.flushPending = s.me := by
  simp [Strand.flushPending, h.pending]
  rw [← h.pending]

theorem mustAgree_idle {s : State} (h : s.Idle) : s.me.mustAgree = false := by simp [Strand.mustAgree, h.pair]

@[simp] theorem modifyDev_run (f : Dev → Dev) (r : Run) : modifyDev f r = .ok ((), ⟨{ r.s with dev := f r.s.dev }, .dev (f r.s.dev) :: r.log⟩) := rfl
@[simp] theorem modifyYard_run (y : Nat) (f : Yard → Yard) (r : Run) :
    modifyYard y f r = .ok ((), ⟨{ r.s with yards := assocSet r.s.yards y (f (r.s.yard y)) }, .yard y (f (r.s.yard y)) :: r.log⟩) := rfl

/-- Where a trap goes (R96): the cause's bit of K.TRAPMIG. -/
theorem trapMigrates_eq (w : Word) (c : BitVec 8) (hm : c.toNat < 0x40 ∨ c = 0x48#8) :
    trapMigrates w c = w.getLsbD (if c = 0x48#8 then 60 else c.toNat) := by
  have e : (c.extractLsb' 0 7).toNat = c.toNat % 128 := by simp [BitVec.extractLsb'_toNat]
  rcases hm with h | rfl
  · have h1 : c ≠ 0x48#8 := by rintro rfl; simp at h
    have h2 : c.toNat % 128 = c.toNat := Nat.mod_eq_of_lt (by omega)
    have h3 : c.toNat ≠ 0x48 := by omega
    simp [trapMigrates, e, h1, h2, h3, h]
  · rfl

/-- A trap of an idle strand outside supervisor mode, but of consumed poison: it is routed (R94). -/
theorem takeTrap_idle {s : State} (h : s.Idle) (hu : s.me.st.sup = false) (c : BitVec 8) (hc : c ≠ 0x50#8) (f : Word) (n : BitVec 2) :
    takeTrap s.me.arch.pcw c f n 0 ⟨s, []⟩ =
      routeTrap (TrapRegs.of c s.me.arch.pcw f n 0 0 0) ⟨s, [.strand s.me]⟩ := by
  have hw : s.me.window.isEmpty = true := by rw [h.window]; rfl
  simp [takeTrap, bind, StateT.bind, Except.bind, emit, hw, mustAgree_idle h, flushPending_idle h, hu, hc]
  rfl

/-- The effects of a trap's routing (R94, R96). -/
def routeEffs (t : TrapRegs) (s : State) : List Eff :=
  let x := s.me
  let y := x.pos.yidx
  let d := ((s.dev.dropReqs x.pos .access).dropReqs x.pos .tacq).leave x.asks
  let Y := ((s.yard y).unwatch x.pos).leave x.asks
  let moved := fun (run : RunState) => Eff.strand ((x.trapped t run).inHandler (s.yard y).regs.evbase)
  .dev d :: .yard y Y ::
    if trapMigrates (s.yard y).regs.trapmig t.code then
      if x.pos.heavy then [moved .ready]
      else match s.ownFor y with
        | some p => [moved (.moving (s.cycle + 48) p)]
        | none => [moved .trapWait, .yard y { Y with heavy := { Y.heavy with ownWait := Y.heavy.ownWait ++ [x.pos] } }]
    else [.strand (x.trapped t (.parkedTrap false)), .yard y { Y with notes := Y.notes ++ [x.pos] }]

/-- A yard just set. -/
@[simp] theorem yard_of_set (a : Strand) (b : List Strand) (c : List ((Nat × Bool × Nat) × Core)) (l : List (Nat × Yard)) (y : Nat)
    (Y : Yard) (d : Dev) (m : Memory) (ts : List Touch) (ag : List Turn) (n k : Nat) :
    (⟨a, b, c, assocSet l y Y, d, m, ts, ag, n, k⟩ : State).yard y = Y := by simp [State.yard, assocGet_assocSet]

/-- The yards do not depend on the device. -/
@[simp] theorem yard_of_dev (s : State) (y : Nat) (d : Dev) : ({ s with dev := d } : State).yard y = s.yard y := rfl

@[simp] theorem yard_after_strand (s : State) (x : Strand) (y : Nat) : (applyEff s (.strand x)).yard y = s.yard y := rfl
@[simp] theorem yard_after_dev (s : State) (d : Dev) (y : Nat) : (applyEff s (.dev d)).yard y = s.yard y := rfl

@[simp] theorem notes_of_unwatch (Y : Yard) (p : Pos) : (Y.unwatch p).notes = Y.notes := rfl
/-- A walk asked for leaves a yard's notifications, registers and heavy core alone. -/
theorem askWalk_rest (Y : Yard) (a : Asker) (asid : BitVec 16) (va : Word) :
    (Y.askWalk a asid va).notes = Y.notes ∧ (Y.askWalk a asid va).regs = Y.regs ∧ (Y.askWalk a asid va).heavy = Y.heavy := by
  unfold Yard.askWalk
  repeat (first | exact ⟨rfl, rfl, rfl⟩ | split)

/-- So do several, one after another. -/
theorem askWalks_rest (l : List Asker) (Y : Yard) (asid : BitVec 16) (va : Word) :
    (l.foldl (fun Y a => Y.askWalk a asid va) Y).notes = Y.notes ∧ (l.foldl (fun Y a => Y.askWalk a asid va) Y).regs = Y.regs ∧
      (l.foldl (fun Y a => Y.askWalk a asid va) Y).heavy = Y.heavy := by
  induction l generalizing Y with
  | nil => exact ⟨rfl, rfl, rfl⟩
  | cons a l ih =>
    obtain ⟨h1, h2, h3⟩ := ih (Y.askWalk a asid va)
    obtain ⟨g1, g2, g3⟩ := askWalk_rest Y a asid va
    exact ⟨h1.trans g1, h2.trans g2, h3.trans g3⟩

theorem admitWalks_rest (Y : Yard) :
    (Y.admitWalks).notes = Y.notes ∧ (Y.admitWalks).regs = Y.regs ∧ (Y.admitWalks).heavy = Y.heavy := by
  have e : ∀ (l : List WalkReq) (Z : Yard), let W := l.foldl (fun Y r => r.askers.foldl (fun Y a => Y.askWalk a r.asid r.va) Y) Z
      W.notes = Z.notes ∧ W.regs = Z.regs ∧ W.heavy = Z.heavy := by
    intro l
    induction l with
    | nil => exact fun Z => ⟨rfl, rfl, rfl⟩
    | cons r l ih =>
      intro Z
      obtain ⟨h1, h2, h3⟩ := ih (r.askers.foldl (fun Y a => Y.askWalk a r.asid r.va) Z)
      obtain ⟨g1, g2, g3⟩ := askWalks_rest r.askers Z r.asid r.va
      exact ⟨h1.trans g1, h2.trans g2, h3.trans g3⟩
  exact e Y.walkWait { Y with walkWait := [] }

@[simp] theorem notes_of_leave (Y : Yard) (f : Asker → Bool) : (Y.leave f).notes = Y.notes := (admitWalks_rest _).1
@[simp] theorem regs_of_unwatch (Y : Yard) (p : Pos) : (Y.unwatch p).regs = Y.regs := rfl
@[simp] theorem regs_of_leave (Y : Yard) (f : Asker → Bool) : (Y.leave f).regs = Y.regs := (admitWalks_rest _).2.1
@[simp] theorem heavy_of_unwatch (Y : Yard) (p : Pos) : (Y.unwatch p).heavy = Y.heavy := rfl
@[simp] theorem heavy_of_leave (Y : Yard) (f : Asker → Bool) : (Y.leave f).heavy = Y.heavy := (admitWalks_rest _).2.2

@[simp] theorem teams_of_leave (d : Dev) (f : Asker → Bool) : (d.leave f).teams = d.teams := rfl
@[simp] theorem tiles_of_leave (d : Dev) (f : Asker → Bool) : (d.leave f).tiles = d.tiles := rfl
@[simp] theorem teams_of_dropReqs (d : Dev) (p : Pos) (b : ReqBy) : (d.dropReqs p b).teams = d.teams := rfl
@[simp] theorem tiles_of_dropReqs (d : Dev) (p : Pos) (b : ReqBy) : (d.dropReqs p b).tiles = d.tiles := rfl

theorem routeTrap_run (t : TrapRegs) (s : State) (log : List Eff) :
    routeTrap t ⟨s, log⟩ = .ok ((), ⟨applyAll s (routeEffs t s), (routeEffs t s).reverse ++ log⟩) := by
  by_cases hg : trapMigrates (s.yard s.me.pos.yidx).regs.trapmig t.code = true
  · by_cases hh : s.me.pos.heavy = true
    · simp only [routeTrap, routeEffs, bind, StateT.bind, Except.bind, getS_run, modifyDev_run, modifyYard_run, hg, hh, if_true]; rfl
    · cases hf : s.ownFor s.me.pos.yidx with
      | some p => simp only [routeTrap, routeEffs, bind, StateT.bind, Except.bind, getS_run, modifyDev_run, modifyYard_run, hg, hh, hf, if_true]; rfl
      | none =>
        simp only [routeTrap, routeEffs, bind, StateT.bind, Except.bind, getS_run, modifyDev_run, modifyHeavy, modifyYard_run, emit_run, applyEff,
          yard_of_set, yard_of_dev, applyAll_cons, applyAll_nil, hg, hh, hf, if_true, Bool.false_eq_true, if_false, List.reverse_cons, List.reverse_nil,
          List.nil_append, List.cons_append]
  · simp only [routeTrap, routeEffs, bind, StateT.bind, Except.bind, getS_run, modifyDev_run, modifyYard_run, emit_run, applyEff,
      yard_of_set, yard_of_dev, applyAll_cons, applyAll_nil, hg, Bool.false_eq_true, if_false, List.reverse_cons, List.reverse_nil, List.nil_append,
      List.cons_append]

/-- A trap of an idle strand outside supervisor mode (R94-R96). -/
theorem runAct_traps {s : State} (h : s.Idle) (hu : s.me.st.sup = false) (c : BitVec 8) (hc : c ≠ 0x50#8)
    (hm : c.toNat < 0x40 ∨ c = 0x48#8) (f : Word) (n : Nat) :
    TrapsTo (runAct (BitVec.ofNat 2 n) (fun _ => .error (.trap c f [])) s) s c f n := by
  have e := trapMigrates_eq (s.yard s.me.pos.yidx).regs.trapmig c hm
  simp only [TrapsTo, runAct, outcomeEffs, applyAll_nil, takeTrap_idle h hu c hc, ← e, routeTrap_run]
  refine ⟨_, rfl, ?_⟩
  by_cases hg : trapMigrates (s.yard s.me.pos.yidx).regs.trapmig c = true
  · by_cases hh : s.me.pos.heavy = true
    · simp +contextual [routeEffs, TrapRegs.of, hg, hh, Strand.inHandler, Strand.trapped, yard_after_yard, @eq_comm _ s.me.pos.yidx]
    · cases hf : s.ownFor s.me.pos.yidx <;>
        simp +contextual [routeEffs, TrapRegs.of, hg, hh, hf, Strand.inHandler, Strand.trapped, yard_after_yard, @eq_comm _ s.me.pos.yidx]
  · simp +contextual [routeEffs, TrapRegs.of, hg, Strand.trapped, yard_after_yard, @eq_comm _ s.me.pos.yidx]

/-! ### In supervisor mode (R97, R438) -/

/-- A list of effects, one for each element of a list. -/
theorem forAll_emit {α : Type} (l : List α) (g : α → Eff) (s : State) (log : List Eff) :
    forAll l (fun e => emit (g e)) ⟨s, log⟩ = .ok ((), ⟨applyAll s (l.map g), (l.map g).reverse ++ log⟩) := by
  induction l generalizing s log with
  | nil => rfl
  | cons a l ih =>
    simp only [forAll, bind, StateT.bind, Except.bind, emit, ih, List.map_cons, applyAll_cons, List.reverse_cons, List.append_assoc,
      List.singleton_append]

/-- Every yard named in a list reset: each yard of the list is at its reset values, every other as before. -/
theorem yard_after_resets (l : List (Nat × Yard)) (s : State) (y : Nat) :
    (applyAll s (l.map (fun e => .yard e.1 Yard.reset))).yard y = if l.any (fun e => e.1 == y) then Yard.reset else s.yard y := by
  induction l generalizing s with
  | nil => rfl
  | cons a l ih =>
    rw [List.map_cons, applyAll_cons, ih, List.any_cons, yard_after_yard]
    by_cases h : a.1 = y
    · simp [h]
    · simp only [h, if_false, beq_eq_false_iff_ne.mpr h, Bool.false_or]

/-- A yard that is not listed is at its reset values. -/
theorem yard_unlisted (s : State) (y : Nat) (h : s.yards.any (fun e => e.1 == y) = false) : s.yard y = Yard.reset := by
  unfold State.yard
  generalize s.yards = l at h
  induction l with
  | nil => rfl
  | cons a l ih =>
    simp only [List.any_cons, Bool.or_eq_false_iff, beq_eq_false_iff_ne] at h
    simp only [assocGet, if_neg h.1]
    exact ih h.2

/-- What DRAM has in place of what stands in caches alone (R426). -/
def dramEffs (s : State) : List Eff := s.dev.dram.map (fun e => .mem (e.1 * 128) e.2)

/-- Writes of memory change memory. -/
theorem mems_rest (l : List (Nat × List Byte)) (s : State) :
    applyAll s (l.map (fun e => .mem (e.1 * 128) e.2)) = { s with mem := l.foldl (fun m e => m.writeBytes (e.1 * 128) e.2) s.mem } := by
  induction l generalizing s with
  | nil => rfl
  | cons a l ih => exact ih (applyEff s (.mem (a.1 * 128) a.2))

/-- The effects of a device fault (R438). -/
def faultEffs (r : McRecord) (s : State) : List Eff :=
  dramEffs s ++ [.dev ((applyAll s (dramEffs s)).devAfterFault r)] ++ s.yards.map (fun e => .yard e.1 Yard.reset) ++ s.cores.map (fun e => .core e.1 Core.reset) ++
    [.others [], .strand (Strand.emptyAt (supPos 0)), .touches []]

theorem deviceFault_run (r : McRecord) (s : State) (log : List Eff) :
    deviceFault r ⟨s, log⟩ = .ok ((), ⟨applyAll s (faultEffs r s), (faultEffs r s).reverse ++ log⟩) := by
  have e : loseCaches ⟨s, log⟩ = .ok ((), ⟨applyAll s (dramEffs s), (dramEffs s).reverse ++ log⟩) := by
    rw [loseCaches, act_bind _ _ _ _ _ (getS_run ⟨s, log⟩)]
    exact forAll_emit s.dev.dram _ s log
  have e1 : (applyAll s (dramEffs s)).yards = s.yards := by rw [dramEffs, mems_rest]
  have e2 : (applyAll s (dramEffs s)).cores = s.cores := by rw [dramEffs, mems_rest]
  unfold deviceFault
  rw [act_bind _ _ _ _ _ e]
  simp only [bind, StateT.bind, Except.bind, getS_run, emit, forAll_emit, faultEffs, applyAll_append, List.reverse_append,
    applyAll_cons, applyAll_nil, List.append_assoc, e1, e2]
  rfl

/-- What effects on cores leave alone. -/
theorem cores_rest (l : List ((Nat × Bool × Nat) × Core)) (s : State) :
    (applyAll s (l.map (fun e => .core e.1 Core.reset))).dev = s.dev ∧
      (applyAll s (l.map (fun e => .core e.1 Core.reset))).yards = s.yards ∧
      (applyAll s (l.map (fun e => .core e.1 Core.reset))).mem = s.mem := by
  induction l generalizing s with
  | nil => exact ⟨rfl, rfl, rfl⟩
  | cons a l ih => exact ih (applyEff s (.core a.1 Core.reset))

/-- What effects on yards leave alone. -/
theorem yards_rest (l : List (Nat × Yard)) (s : State) :
    (applyAll s (l.map (fun e => .yard e.1 Yard.reset))).dev = s.dev ∧ (applyAll s (l.map (fun e => .yard e.1 Yard.reset))).mem = s.mem := by
  induction l generalizing s with
  | nil => exact ⟨rfl, rfl⟩
  | cons a l ih => exact ih (applyEff s (.yard a.1 Yard.reset))

/-- A trap of an idle strand in supervisor mode, but of consumed poison (R97). -/
theorem runAct_escalates {s : State} (h : s.Idle) (hu : s.me.st.sup = true) (c : BitVec 8) (hc : c ≠ 0x50#8) (f : Word) (n : BitVec 2) :
    EscalatesTo (runAct n (fun _ => .error (.trap c f [])) s) s := by
  have hw : s.me.window.isEmpty = true := by rw [h.window]; rfl
  have e : takeTrap s.me.arch.pcw c f n 0 ⟨s, []⟩ =
      deviceFault (McRecord.of 7 0 6 s.me.pos s.me.tid s.cycle) ⟨s, [.strand s.me]⟩ := by
    simp [takeTrap, bind, StateT.bind, Except.bind, emit, hw, mustAgree_idle h, flushPending_idle h, hu, hc]
    rfl
  simp only [EscalatesTo, runAct, outcomeEffs, applyAll_nil, e, deviceFault_run, List.reverse_append, List.reverse_reverse,
    List.nil_append]
  refine ⟨_, rfl, ?_⟩
  have e0 : applyAll s [.strand s.me] = s := rfl
  simp only [List.reverse_cons, List.reverse_nil, List.nil_append, applyAll_append, e0, faultEffs]
  generalize hb : applyAll s (dramEffs s) = b
  have hm : b.mem = s.dev.dram.foldl (fun m e => m.writeBytes (e.1 * 128) e.2) s.mem := by rw [← hb, dramEffs, mems_rest]
  have hs : b.yards = s.yards := by rw [← hb, dramEffs, mems_rest]
  obtain ⟨c1, c2, c3⟩ := cores_rest s.cores (applyAll (applyAll b [.dev (b.devAfterFault (McRecord.of 7 0 6 s.me.pos s.me.tid s.cycle))])
    (s.yards.map (fun e => .yard e.1 Yard.reset)))
  obtain ⟨y1, y2⟩ := yards_rest s.yards (applyAll b [.dev (b.devAfterFault (McRecord.of 7 0 6 s.me.pos s.me.tid s.cycle))])
  have hy : ∀ y, (applyAll (applyAll b [.dev (b.devAfterFault (McRecord.of 7 0 6 s.me.pos s.me.tid s.cycle))])
      (s.yards.map (fun e => .yard e.1 Yard.reset))).yard y = Yard.reset := by
    intro y
    rw [yard_after_resets]
    split
    · rfl
    · rename_i hn
      exact yard_unlisted b y (by rw [hs]; exact Bool.eq_false_iff.mpr hn)
  simp only [applyAll_cons, applyAll_nil, mem_after_touches, mem_after_strand, mem_after_others, dev_after_touches, dev_after_strand,
    dev_after_others, others_after_touches, others_after_strand, others_after_others, me_after_touches, me_after_strand] at *
  refine ⟨(c3.trans y2).trans hm, ?_, ?_, ?_, trivial, trivial, ?_, ?_⟩
  · rw [c1, y1]; rfl
  · rw [c1, y1]; rfl
  · rw [c1, y1]; rfl
  · intro y
    exact (congrArg (fun l => assocGet Yard.reset l y) c2).trans (hy y)
  · rw [c1, y1]; rfl

end Sys2Proof.Machine
end

