-- ==== Sys2Proof/Tests/Slice0.lean ====
section
/-! SUPPORT. The model's own tests: terms that break a rule of WellFormed and are refused, words written out bit by bit from the
specification's formats, single steps whose results are the specification's worked examples or hand calculations from its
rules, and for every statement with hypotheses a witness: a state and operands that meet them. -/
namespace Sys2Proof.Test

open Machine

set_option maxRecDepth 100000
set_option Elab.async false

/-! ### Small states -/

/-- The state with these registers written. -/
def sets (s : State) (rs : List RegEff) : State :=
  { s with me := { s.me with arch := rs.foldl Arch.apply s.me.arch } }

/-- The state with these bytes of memory written. -/
def mems (s : State) (l : List (Nat × List Byte)) : State :=
  { s with mem := l.foldl (fun m e => m.writeBytes e.1 e.2) s.mem }

/-- A machine that has come up, with the supervisor of yard 0 about to fetch at 4000. -/
def sup : State :=
  { State.reset with
    me := { Strand.supervisor 0 with run := .ready, arch := { Arch.zero with pcw := 1000 } }
    dev := { State.reset.dev with boot := { State.reset.dev.boot with phase := 5 } } }

/-- A grid of one team with 16 strands, and its team, placed on cores 4 and 5 of yard 0. -/
def grid1 : Grid :=
  { gid := 1, entry := 0x1000, params := 0, strands := 16, yardmem := 4, granary := 2, prio := 0, nomatrix := false,
    paired := false, tenant := 3, asid := 0, done := 0, incr := 0, seq := 0, ovf := 0, ovfsize := 0, order := 0, left := 1,
    queue := none }

def team1 : Team :=
  { tid := 1, grid := 1, lin := 0, where_ := .placed, yidx := 0, cores := [4, 5], granules := [3, 2, 9, 10],
    savebase := 0x100000000, clk := 5, period := 1, ticks := [], lastTick := 0, clockSlot := 0, clockGen := 0, mbwait := 0,
    mmask := 0x7fff, nextToken := 1, since := 0, quantumAt := none, prio := 0, gains := [], homeYard := none, statWaits := [], killed := false }

/-- The same machine with the focus on that team's strand 0, in user mode. -/
def user : State :=
  { sup with
    me := { sup.me with pos := ⟨0, false, 4, 0⟩, home := ⟨0, false, 4, 0⟩, tid := 1, st := Status.zero, index := 0 }
    dev := { sup.dev with teams := [team1], grids := [grid1] } }

/-- The instruction or event answers a next state of which `p` holds. -/
def after (i : Instr) (s : State) (p : State → Bool) : Bool :=
  match exec i s with
  | .next t => p t
  | _ => false

/-- Its result in scalar register `d`. -/
def gives (i : Instr) (s : State) (d : BitVec 5) (v : Word) : Bool := after i s (fun t => t.me.arch.sreg d == v)

theorem smoke_condition :
    ([.bcmp 0 0 6 0 none, .bcmpImm32 0 0 6 0 none, .scmp 0 0 0 6 none, .fcmp 0 0 0 0 5 none, .vcmp 0 0 0 0 0 6 none,
     .vfcmp 0 0 0 0 4 5 none, .dcmp 0 0 0 0 5 none] :
      List Instr).all (fun i => i.check == some .condition) = true := by decide

theorem smoke_register_field :
    ([.trig 0 0 0 31 0 none, .ldm 31 0 0 0 1 0 none, .ldm 25 0 0 0 7 0 none, .ldmOffset 31 0 0 0 1 0 0 none,
     .ldmOffset 25 0 0 0 7 0 0 none, .stm 31 0 0 1 0 none, .stm 25 0 0 7 0 none, .stmOffset 31 0 0 1 0 0 none,
     .stmOffset 25 0 0 7 0 0 none, .amowAdd 31 0 0 0 0 0 0 none, .amowSwap 31 0 0 0 0 0 0 none,
     .amowCas 31 0 0 0 0 0 0 none, .cwait 0 0 31 0 0 none, .swait 0 0 31 0 none, .gload 31 0 0 0 0 none, .mbox 0 0 31 none,
     .cpy 0 31 0 none, .cpy 0 0 31 none, .cpyt 0 31 0 none, .cpyt 0 0 31 none, .waiti 0 0 none, .waiti 30 0 none] :
      List Instr).all (fun i => i.check == some .registerField) = true := by decide

theorem smoke_type_field_1 :
    ([.fadd 0 0 0 3 none, .fsub 0 0 0 3 none, .fmul 0 0 0 3 none, .fmin 0 0 0 3 none, .fmax 0 0 0 3 none,
     .fsgnJ 0 0 0 3 none, .fsgnJn 0 0 0 3 none, .fsgnJx 0 0 0 3 none, .fcmp 0 0 0 3 0 none, .fclass 0 0 3 none,
     .fcvtFromFloat 0 0 0 1 1 none, .fcvtFromFloat 0 0 0 3 0 none, .fcvtFromFloat 0 0 0 0 7 none,
     .fcvtToFloat 0 0 0 3 4 none, .fcvtToFloat 0 0 0 0 2 none, .fcvtToFloat 0 0 0 0 7 none, .vadd 0 0 0 0 4 none,
     .vsub 0 0 0 0 4 none, .vmul 0 0 0 0 4 none, .vminI 0 0 0 0 4 none, .vminN 0 0 0 0 4 none, .vmaxI 0 0 0 0 4 none,
     .vmaxN 0 0 0 0 4 none, .vshl 0 0 0 0 4 none, .vshrN 0 0 0 0 4 none, .vshrI 0 0 0 0 4 none, .vabs 0 0 0 7 none,
     .vaddSatI 0 0 0 0 4 none, .vaddSatN 0 0 0 0 4 none, .vsubSatI 0 0 0 0 4 none, .vsubSatN 0 0 0 0 4 none,
     .vmulhI 0 0 0 0 4 none, .vmulhN 0 0 0 0 4 none, .vcmp 0 0 0 0 4 0 none, .vfadd 0 0 0 0 3 none, .vfsub 0 0 0 0 3 none] :
      List Instr).all (fun i => i.check == some .typeField) = true := by decide

theorem smoke_type_field_2 :
    ([.vfmul 0 0 0 0 3 none, .vfmin 0 0 0 0 3 none, .vfmax 0 0 0 0 3 none, .vrcpe 0 0 0 3 none, .vrcpe 0 0 0 7 none,
     .vrsqe 0 0 0 3 none, .vrsqe 0 0 0 7 none, .vfcvt 0 0 0 4 0 4 0 none, .vfcvt 0 0 0 1 0 2 0 none,
     .vfcvt 0 0 1 4 0 5 0 none, .vfcvt 0 0 0 3 0 4 0 none, .vfcmp 0 0 0 0 3 0 none, .vfcmp 0 0 0 0 7 0 none,
     .vredAdd 0 0 0 7 none, .vredMin 0 0 0 7 none, .vredMax 0 0 0 7 none, .vredAddSat 0 0 0 4 none, .vscanAdd 0 0 0 7 none,
     .vscanMin 0 0 0 7 none, .vscanMax 0 0 0 7 none, .ld 0 0 0 0 7 0 none, .ldOffset 0 0 0 0 7 0 0 none, .st 0 0 0 7 0 none,
     .stOffset 0 0 0 7 0 0 none, .gath 0 0 0 0 4 0 0 0 0 none, .ldvs 0 0 0 0 4 0 0 0 0 none, .scat 0 0 0 4 0 0 0 0 none,
     .stvs 0 0 0 4 0 0 0 0 none, .amov 0 0 5 0 0 0 0 none, .dcvtToF64 0 0 0 0 7 none, .dcvtFromF64 0 0 0 0 7 none] :
      List Instr).all (fun i => i.check == some .typeField) = true := by decide

theorem smoke_rounding_field :
    ([.fcvtFromFloat 0 0 5 0 0 none, .fcvtToFloat 0 0 5 0 0 none, .vfcvt 0 0 0 0 0 0 5 none, .dcvtToF64 0 0 5 0 0 none,
     .dcvtFromF64 0 0 5 0 0 none] :
      List Instr).all (fun i => i.check == some .roundingField) = true := by decide

theorem smoke_reserved_field :
    ([.gath 0 0 0 0 0 0 0 3 0 none, .gath 0 0 0 0 0 0 0 2 0 none, .ldvs 0 0 0 0 0 0 0 3 0 none, .ldvs 0 0 0 0 0 0 0 2 0 none,
     .scat 0 0 0 0 0 0 3 0 none, .scat 0 0 0 0 0 0 1 0 none, .stvs 0 0 0 0 0 0 3 0 none, .stvs 0 0 0 0 0 0 1 0 none,
     .amov 0 0 0 0 0 3 0 none, .amov 0 0 0 0 0 1 0 none] :
      List Instr).all (fun i => i.check == some .reservedField) = true := by decide

theorem smoke_control_number :
    ([.krd 0 5 none, .krd 0 799 none, .kwr 0 5 none, .kwr 0 799 none] :
      List Instr).all (fun i => i.check == some .controlNumber) = true := by decide


abbrev is (ws : List (BitVec 32)) (i : Instr) : Prop := decode ws = .ok (i, [])

/-- Words of R55. -/
theorem decode_branches :
    is [0b0_0_000001_111111111111111111111110] (.br (-2) none) ∧
    is [0b0_0_000010_000000000000000000001001] (.call 9 none) ∧
    is [0b0_0_000011_101_11_0000000000000000110] (.brm 5 3 6 none) ∧
    is [0b0_0_000100_00100_00101_010_11111111101] (.bcmp 4 5 2 (-3) none) ∧
    is [0b0_0_000101_00110_1111111111111111110] (.loop 6 (-2) none) ∧
    is [0b0_0_000110_00000_00101_00000_0000_00000] (.callr 5 none) := by
  refine ⟨?_, ?_, ?_, ?_, ?_, ?_⟩ <;> rfl

/-- Words of R50. -/
theorem decode_format_a :
    is [0b0_0_001000_00111_00110_00100_0000_00000] (.add 7 6 4 none) ∧
    is [0b0_0_001001_01001_01010_01011_0000_00100] (.divI 9 10 11 none) ∧
    is [0b0_0_001000_00001_00010_00011_0000_11011] (.scmp 1 2 3 3 none) ∧
    is [0b0_0_010100_00100_00101_00110_0000_01_000] (.fadd 4 5 6 1 none) ∧
    is [0b0_0_010101_00100_00101_00110_0000_10_011] (.fcmp 4 5 6 2 3 none) ∧
    is [0b0_0_100110_00_011_00_001_00_010_0000_00000] (.mand 3 1 2 none) ∧
    is [0b0_0_110101_11000_10101_00000_0000_00000] (.topen 24 21 none) ∧
    is [0b0_0_110011_00100_00011_00101_0000_00000] (.sbind 4 3 5 none) ∧
    is [0b0_0_110011_00100_00101_00000_0000_00111] (.trigx 4 5 0 none) ∧
    is [0b0_0_110110_00100_00101_00110_0000_00000] (.yskew 4 5 6 none) ∧
    is [0b0_0_111000_01000_01001_01010_0011_00000] (.dadd 8 9 10 3 none) ∧
    is [0b0_0_111011_01000_01001_01010_1111_00000] (.fdiv 8 9 10 15 none) ∧
    is [0b0_0_111100_00100_00101_00110_0000_00000] (.msend 4 5 6 none) ∧
    is [0b0_0_111101_00100_00110_01000_0000_00000] (.cpy 4 6 8 none) := by
  refine ⟨?_, ?_, ?_, ?_, ?_, ?_, ?_, ?_, ?_, ?_, ?_, ?_, ?_, ?_⟩ <;> rfl

/-- Words of R50, R51. -/
theorem decode_formats_b_and_i :
    is [0b0_0_001100_00001_00010_00011_11111_0000] (.sel 1 2 3 31 none) ∧
    is [0b0_0_001101_00001_00010_00011_00100_0000] (.extb 1 2 3 4 none) ∧
    is [0b0_0_001110_00001_00010_00011_00100_0000] (.insb 1 2 3 4 none) ∧
    is [0b0_0_010001_00100_00101_00110_00111_0000] (.ffmaF32 4 5 6 7 none) ∧
    is [0b0_0_000111_00100_00101_00110_00111_0000] (.trig 4 5 6 7 0 none) ∧
    is [0b0_0_111001_00100_00101_00110_00111_0010] (.dfma 4 5 6 7 2 none) ∧
    is [0b0_0_001010_00101_00110_110_00000_000011] (.shriI 5 6 3 none) ∧
    is [0b0_0_001010_00100_00100_000_00000000001] (.addi 4 4 1 none) ∧
    is [0b0_0_001011_00110_00000_000_00000001000] (.movi 6 8 none) ∧
    is [0b0_1_001011_00101_00000_000_00000000000, 0b10000000000000000000000000000000] (.moviImm32 5 0x80000000 none) ∧
    is [0b0_1_001011_00101_00101_001_00000000000, 0b01111111000000000001001000110100] (.movhiImm32 5 5 0x7F001234 none) ∧
    is [0b1_0_001011_00110_00000_000_11111111111, 0b00000000000000010000001100000111] (.movi 6 (-1) (some 0x00010307)) := by
  refine ⟨?_, ?_, ?_, ?_, ?_, ?_, ?_, ?_, ?_, ?_, ?_, ?_⟩ <;> rfl

/-- Words of R50, R54. -/
theorem decode_formats_v_and_w :
    is [0b0_0_011000_00100_00101_00110_001_010_000] (.vadd 4 5 6 1 2 none) ∧
    is [0b0_0_011001_00100_00101_00110_001_111_000] (.vand 4 5 6 1 7 none) ∧
    is [0b0_0_011010_00100_00101_00110_001_011_000] (.vaddSatI 4 5 6 1 3 none) ∧
    is [0b0_0_011011_00_100_00101_00110_001_010_101] (.vcmp 4 5 6 1 2 5 none) ∧
    is [0b0_0_011100_00100_00101_00110_001_110_000] (.vfadd 4 5 6 1 6 none) ∧
    is [0b0_0_011101_00010_00011_0_0_110_000_100_000] (.vfcvt 2 3 0 6 0 4 0 none) ∧
    is [0b0_0_011110_00_100_00101_00110_001_100_100] (.vfcmp 4 5 6 1 4 4 none) ∧
    is [0b0_0_011111_00100_00101_00000_011_010_000] (.vsplat 4 5 3 2 none) ∧
    is [0b0_0_100000_00100_00101_00000_011_110_000] (.vredAdd 4 5 3 6 none) ∧
    is [0b0_0_100001_00100_00101_00000_000_111_000] (.vpkl6 4 5 none) ∧
    is [0b0_0_100010_00100_00101_00110_001_010_000] (.vdot4I8 4 5 6 1 none) ∧
    is [0b0_0_100011_01000_01001_01010_01011_010_1] (.vffmaF32 8 9 10 11 2 1 none) ∧
    is [0b0_0_100111_00100_00101_00110_001_011_000] (.vdopAdd 4 5 6 1 none) ∧
    is [0b0_0_111010_00100_00101_00110_00111_001_0] (.vdfma 4 5 6 7 1 0 none) := by
  refine ⟨?_, ?_, ?_, ?_, ?_, ?_, ?_, ?_, ?_, ?_, ?_, ?_, ?_, ?_⟩ <;> rfl

/-- Words of R50, R52, R53. -/
theorem decode_formats_m_and_g :
    is [0b0_0_101000_00110_00010_00111_0010_100_00] (.ld 6 2 7 2 4 0 none) ∧
    is [0b0_0_101001_00110_00010_00111_0000_110_01] (.st 6 2 7 6 1 none) ∧
    is [0b0_1_101000_00100_00010_00111_0000_100_01, 0b11111111111111111111111111000000] (.ldOffset 4 2 7 0 4 1 (-64) none) ∧
    is [0b0_0_101010_00110_00010_00111_0001_000_10] (.ldv 6 2 7 1 2 none) ∧
    is [0b0_0_101011_00110_00010_00111_0000_000_10] (.stv 6 2 7 2 none) ∧
    is [0b0_0_101110_00110_00010_00111_0000_011_00] (.ldm 6 2 7 0 3 0 none) ∧
    is [0b0_0_101111_00110_00010_00111_0000_011_00] (.stm 6 2 7 3 0 none) ∧
    is [0b1_1_101000_00100_00010_00111_0000_100_01, 0b00000000000000000000000001000000, 0b00000000000000010000001100000111] (.ldOffset 4 2 7 0 4 1 64 (some 0x00010307)) := by
  refine ⟨?_, ?_, ?_, ?_, ?_, ?_, ?_, ?_⟩ <;> rfl

/-- Words of R50. -/
theorem decode_formats_t_and_k :
    is [0b0_0_110100_101_000_000_00110_0000_000000] (.tcfg 5 6 0 none) ∧
    is [0b0_0_110010_0000000000000000000000_10] (.fenceAcq 2 none) ∧
    is [0b0_0_111110_00100_000000000001_0000000] (.krd 4 0x001 none) ∧
    is [0b0_0_111110_00101_000000010010_0000001] (.kwr 5 0x012 none) ∧
    is [0b0_0_111110_00110_00111_0000000_0001000] (.eret 6 7 none) := by
  refine ⟨?_, ?_, ?_, ?_, ?_⟩ <;> rfl

/-- Words that R48-R65 leave unassigned or that break a field rule; each is refused by name. -/
theorem decode_refuses :
    decode [] = .error .truncated ∧
    decode [0b0_0_000000_000000000000000000000000] = .error .unassignedMajor ∧
    decode [0b0_0_001000_00111_00110_00100_0000_10101] = .error .unassignedFunction ∧
    decode [0b0_1_000001_000000000000000000000000, 0] = .error .xBit ∧
    decode [0b0_0_000100_00100_00101_110_00000000001] = .error .condition ∧
    decode [0b0_0_010100_00100_00101_00110_0000_11_000] = .error .typeField ∧
    decode [0b0_0_111000_01000_01001_00101_0000_10_000] = .error .roundingField ∧
    decode [0b0_1_001010_00100_00100_000_00000000001, 0] = .error .reservedField := by
  refine ⟨?_, ?_, ?_, ?_, ?_, ?_, ?_, ?_⟩ <;> rfl
/-! ### Single steps

The expected values are worked examples of the rules named, or hand calculations from their tables. -/

/-! R120, R121: scalar integers. -/

theorem test_add_wraps : gives (.add 3 1 2 none) (sets sup [.s 1 0xFFFFFFFFFFFFFFFF, .s 2 2]) 3 1 = true := by decide +kernel
theorem test_write_to_s0_is_discarded :
    after (.add 0 1 2 none) (sets sup [.s 1 5, .s 2 2]) (fun t => t.me.arch.sreg 0 == 0 && t.me.arch.pcw == 1001) = true := by
  decide +kernel
theorem test_sub_destination_is_source : gives (.sub 1 1 2 none) (sets sup [.s 1 5, .s 2 7]) 1 0xFFFFFFFFFFFFFFFE = true := by
  decide +kernel
theorem test_andn : gives (.andn 3 1 2 none) (sets sup [.s 1 0xFF, .s 2 0x0F]) 3 0xF0 = true := by decide +kernel
theorem test_shl_by_64_clears : gives (.shl 3 1 2 none) (sets sup [.s 1 1, .s 2 64]) 3 0 = true := by decide +kernel
theorem test_shr_n_by_63 : gives (.shrN 3 1 2 none) (sets sup [.s 1 0x8000000000000000, .s 2 63]) 3 1 = true := by decide +kernel
theorem test_shr_i_by_64_fills :
    gives (.shrI 3 1 2 none) (sets sup [.s 1 0x8000000000000000, .s 2 64]) 3 0xFFFFFFFFFFFFFFFF = true := by decide +kernel
theorem test_rot_by_65 : gives (.rot 3 1 2 none) (sets sup [.s 1 0x8000000000000001, .s 2 65]) 3 3 = true := by decide +kernel
theorem test_min_i : gives (.minI 3 1 2 none) (sets sup [.s 1 0xFFFFFFFFFFFFFFFF, .s 2 1]) 3 0xFFFFFFFFFFFFFFFF = true := by
  decide +kernel
theorem test_min_n : gives (.minN 3 1 2 none) (sets sup [.s 1 0xFFFFFFFFFFFFFFFF, .s 2 1]) 3 1 = true := by decide +kernel
theorem test_max_i : gives (.maxI 3 1 2 none) (sets sup [.s 1 0xFFFFFFFFFFFFFFFF, .s 2 1]) 3 1 = true := by decide +kernel
theorem test_clz_of_zero : gives (.clz 3 1 none) sup 3 64 = true := by decide +kernel
theorem test_clz : gives (.clz 3 1 none) (sets sup [.s 1 0x10]) 3 59 = true := by decide +kernel
theorem test_ctz : gives (.ctz 3 1 none) (sets sup [.s 1 0x18]) 3 3 = true := by decide +kernel
theorem test_popc : gives (.popc 3 1 none) (sets sup [.s 1 0xF00000000000000F]) 3 8 = true := by decide +kernel
theorem test_shadd3 : gives (.shadd3 3 1 2 none) (sets sup [.s 1 5, .s 2 2]) 3 42 = true := by decide +kernel
theorem test_scmp_less_signed : gives (.scmp 3 1 2 2 none) (sets sup [.s 1 0xFFFFFFFFFFFFFFFF, .s 2 0]) 3 1 = true := by decide +kernel
theorem test_scmp_less_unsigned : gives (.scmp 3 1 2 4 none) (sets sup [.s 1 0xFFFFFFFFFFFFFFFF, .s 2 0]) 3 0 = true := by
  decide +kernel
theorem test_mulh_i : gives (.mulhI 3 1 2 none) (sets sup [.s 1 0xFFFFFFFFFFFFFFFF, .s 2 0xFFFFFFFFFFFFFFFF]) 3 0 = true := by
  decide +kernel
theorem test_mulh_n :
    gives (.mulhN 3 1 2 none) (sets sup [.s 1 0xFFFFFFFFFFFFFFFF, .s 2 0xFFFFFFFFFFFFFFFF]) 3 0xFFFFFFFFFFFFFFFE = true := by
  decide +kernel
theorem test_div_i : gives (.divI 3 1 2 none) (sets sup [.s 1 7, .s 2 0xFFFFFFFFFFFFFFFE]) 3 0xFFFFFFFFFFFFFFFD = true := by
  decide +kernel
theorem test_rem_i : gives (.remI 3 1 2 none) (sets sup [.s 1 0xFFFFFFFFFFFFFFF9, .s 2 2]) 3 0xFFFFFFFFFFFFFFFF = true := by
  decide +kernel
theorem test_div_n : gives (.divN 3 1 2 none) (sets sup [.s 1 0xFFFFFFFFFFFFFFF9, .s 2 2]) 3 0x7FFFFFFFFFFFFFFC = true := by
  decide +kernel
theorem test_div_i_overflow :
    gives (.divI 3 1 2 none) (sets sup [.s 1 0x8000000000000000, .s 2 0xFFFFFFFFFFFFFFFF]) 3 0x8000000000000000 = true := by
  decide +kernel
theorem test_rem_n_small :
    gives (.remN 3 1 2 none) (sets sup [.s 1 0x8000000000000000, .s 2 0xFFFFFFFFFFFFFFFF]) 3 0x8000000000000000 = true := by
  decide +kernel
theorem test_div_by_zero_traps :
    after (.divI 0 1 2 none) (sets user [.s 1 7]) (fun t =>
      t.me.trap.code == 0x2A && t.me.trap.pc == 1000 && t.me.trap.addr == 0 && t.me.run == .parkedTrap false) = true := by
  decide +kernel

/-! R123, R125, R126: immediates and fields. -/

theorem test_movi_imm32 : gives (.moviImm32 5 0x80000000 none) sup 5 0xFFFFFFFF80000000 = true := by decide +kernel
theorem test_movhi_imm32 :
    gives (.movhiImm32 5 5 0x7F001234 none) (sets sup [.s 5 0xFFFFFFFF80000000]) 5 0x7F00123480000000 = true := by decide +kernel
theorem test_addi_negative : gives (.addi 3 1 0x7FF none) (sets sup [.s 1 0]) 3 0xFFFFFFFFFFFFFFFF = true := by decide +kernel
theorem test_shri_i : gives (.shriI 3 1 63 none) (sets sup [.s 1 0x8000000000000000]) 3 0xFFFFFFFFFFFFFFFF = true := by decide +kernel
theorem test_sel : gives (.sel 3 1 2 4 none) (sets sup [.s 1 7, .s 2 9, .s 4 0x8000000000000000]) 3 7 = true := by decide +kernel
theorem test_extb_straddles :
    gives (.extb 3 1 2 4 none) (sets sup [.s 1 0xF000000000000000, .s 2 5, .s 4 0x1073C]) 3 0xFFFFFFFFFFFFFFDF = true := by
  decide +kernel
theorem test_extb_zero_extends :
    gives (.extb 3 1 2 4 none) (sets sup [.s 1 0xF000000000000000, .s 2 5, .s 4 0x073C]) 3 0x5F = true := by decide +kernel
theorem test_insb : gives (.insb 3 1 2 4 none) (sets sup [.s 1 0xFFFF, .s 2 0xA5, .s 4 0x0404]) 3 0xFF5F = true := by decide +kernel

/-! R28, R38, R39, R127-R132, R183: floating point. -/

theorem test_fadd_tie_to_even :
    after (.fadd 3 1 2 1 none) (sets sup [.s 1 0x6800, .s 2 0x3C00]) (fun t =>
      t.me.arch.sreg 3 == 0x6800 && t.me.arch.fpflags == 0x10) = true := by decide +kernel
theorem test_fadd_rounds_up :
    gives (.fadd 3 1 2 1 none) (let s := sets sup [.s 1 0x6800, .s 2 0x3C00]
      { s with me := { s.me with modes := { s.me.modes with rmode := 2 } } }) 3 0x6801 = true := by decide +kernel
theorem test_fmul_zero_by_infinity :
    after (.fmul 3 1 2 0 none) (sets sup [.s 1 0, .s 2 0x7F800000]) (fun t =>
      t.me.arch.sreg 3 == 0x7FC00000 && t.me.arch.fpflags == 0x21) = true := by decide +kernel
theorem test_fmin_of_zeros : gives (.fmin 3 1 2 0 none) (sets sup [.s 1 0, .s 2 0x80000000]) 3 0x80000000 = true := by decide +kernel
theorem test_fsgnjx : gives (.fsgnJx 3 1 2 0 none) (sets sup [.s 1 0xBF800000, .s 2 0x80000000]) 3 0x3F800000 = true := by
  decide +kernel
theorem test_kBlockSum_sticky_breaks_tie :
    let x (n : Nat) : FVal := .num false n 0
    (kBlockSum .f32 .rne [x 1, x (2 ^ 70), x (2 ^ 46)]).1 = 0x62800001 ∧
      (kBlockSum .f32 .rne [x 0, x (2 ^ 70), x (2 ^ 46)]).1 = 0x62800000 := by decide +kernel
theorem test_vrcpe_of_three :
    after (.vrcpe 2 1 0 6 none) (sets sup [.v 1 0x40400000]) (fun t =>
      lane 32 (t.me.arch.vreg 2) 0 == 0x3EAB0000 && t.me.arch.fpflags.getLsbD 4) = true := by decide +kernel
theorem test_dadd_at_heavy_core :
    gives (.dadd 3 1 2 0 none) (sets sup [.s 1 0x3FF0000000000000, .s 2 0x3FF0000000000000]) 3 0x4000000000000000 = true := by
  decide +kernel
theorem test_fdiv_by_zero :
    after (.fdiv 3 1 2 0 none) (sets sup [.s 1 0x3F800000, .s 2 0]) (fun t =>
      t.me.arch.sreg 3 == 0x7F800000 && t.me.arch.fpflags == 0x02) = true := by decide +kernel
theorem test_fsqrt : gives (.fsqrt 3 1 0 none) (sets sup [.s 1 0x40800000]) 3 0x40000000 = true := by decide +kernel
theorem test_fexp2_of_integer : gives (.fexp2 3 1 0 none) (sets sup [.s 1 0x40400000]) 3 0x41000000 = true := by decide +kernel

/-! R41, R138, R144, R152-R159: vectors and masks. -/

/-- The first four 32-bit lanes, zeros above. -/
def lanes4 (a b c d : Nat) : Vec := ofLanes 32 (fun i => [a, b, c, d].getD i 0)

theorem test_vadd_merges :
    after (.vadd 2 1 1 3 2 none) (sets sup [.v 1 (lanes4 5 6 7 8), .v 2 (lanes4 1 1 1 1), .m 3 0b0101]) (fun t =>
      t.me.arch.vreg 2 == lanes4 10 1 14 1) = true := by decide +kernel
theorem test_vadd_sat_i :
    after (.vaddSatI 2 1 1 0 2 none) (sets sup [.v 1 (lanes4 0x7FFFFFFF 0x80000000 1 0)]) (fun t =>
      t.me.arch.vreg 2 == lanes4 0x7FFFFFFF 0x80000000 2 0) = true := by decide +kernel
theorem test_vcmp_zeroes_inactive :
    after (.vcmp 2 1 1 3 2 0 none) (sets sup [.v 1 (lanes4 5 6 7 8), .m 3 0b0110, .m 2 0xFFFFFFFFFFFFFFFF]) (fun t =>
      t.me.arch.mreg 2 == 0b0110) = true := by decide +kernel
theorem test_vdot4_sat_is_exact :
    after (.vdot4I8Sat 2 1 3 0 none) (sets sup [.v 1 0x807F, .v 3 0x7F7F, .v 2 2147483600]) (fun t =>
      lane 32 (t.me.arch.vreg 2) 0 == 2147483473) = true := by decide +kernel
theorem test_vcompr :
    after (.vcompr 4 5 3 2 none) (sets sup [.v 5 (ofLanes 32 id), .m 3 0xA00C]) (fun t =>
      t.me.arch.vreg 4 == lanes4 2 3 13 15) = true := by decide +kernel
theorem test_vexpnd :
    after (.vexpnd 6 5 3 2 none) (sets sup [.v 5 (ofLanes 32 id), .m 3 0xA00C]) (fun t =>
      t.me.arch.vreg 6 == ofLanes 32 (fun i => if i = 3 then 1 else if i = 13 then 2 else if i = 15 then 3 else 0)) = true := by
  decide +kernel
theorem test_vred_add_tree :
    after (.vredAdd 3 1 0 6 none) (sets sup [.v 1 (lanes4 0x4B800000 0x3F800000 0x3F800000 0x3F800000)]) (fun t =>
      t.me.arch.sreg 3 == 0x4B800001 && t.me.arch.fpflags == 0x10) = true := by decide +kernel
theorem test_vscan_add :
    after (.vscanAdd 2 1 0 6 none) (sets sup [.v 1 (lanes4 0x4B800000 0x3F800000 0x3F800000 0x3F800000)]) (fun t =>
      t.me.arch.vreg 2 == ofLanes 32 (fun _ => 0x4B800000)) = true := by decide +kernel
theorem test_vred_add_sat : gives (.vredAddSat 3 1 0 0 none) (sets sup [.v 1 0x646464]) 3 127 = true := by decide +kernel
theorem test_vred_add_i8 : gives (.vredAdd 3 1 0 0 none) (sets sup [.v 1 0x646464]) 3 44 = true := by decide +kernel
theorem test_vextr_index_wraps : gives (.vextr 3 1 2 2 none) (sets sup [.v 1 (lanes4 9 8 7 6), .s 2 17]) 3 8 = true := by
  decide +kernel
theorem test_vpkl6 :
    after (.vpkl6 2 1 none) (sets sup [.v 1 0xFF3F2A15]) (fun t =>
      t.me.arch.vreg 2 == BitVec.ofNat 512 (0x15 + 0x2A * 2 ^ 6 + 0x3F * 2 ^ 12 + 0x3F * 2 ^ 18)) = true := by decide +kernel
theorem test_mnot_of_m0 : after (.mnot 1 0 none) (sets sup [.m 1 5]) (fun t => t.me.arch.mreg 1 == 0) = true := by decide +kernel
theorem test_mfirst_of_zero : gives (.mfirst 3 1 none) sup 3 64 = true := by decide +kernel
theorem test_mset_m0_is_discarded :
    after (.mset 0 1 none) (sets sup [.s 1 5]) (fun t => t.me.arch.mreg 0 == BitVec.allOnes 64) = true := by decide +kernel

/-! R101-R107: control flow. -/

theorem test_bcmp_back :
    after (.bcmp 4 5 2 (-3) none) (sets sup [.s 4 0xFFFFFFFFFFFFFFFF]) (fun t => t.me.arch.pcw == 997) = true := by decide +kernel
theorem test_call_links :
    after (.call 9 (some 0)) sup (fun t => t.me.arch.pcw == 1009 && t.me.arch.sreg 30 == 4008) = true := by decide +kernel
theorem test_callr_s30_jumps_to_old_s30 :
    after (.callr 30 none) (sets sup [.s 30 0x800]) (fun t => t.me.arch.pcw == 0x200 && t.me.arch.sreg 30 == 4004) = true := by
  decide +kernel
theorem test_jmp_misaligned_traps :
    after (.jmp 1 none) (sets user [.s 1 0x802]) (fun t => t.me.trap.code == 0x14 && t.me.trap.addr == 0x802) = true := by decide +kernel
theorem test_loop_of_zero_runs_on :
    after (.loop 6 (-2) none) sup (fun t => t.me.arch.pcw == 998 && t.me.arch.sreg 6 == 0xFFFFFFFFFFFFFFFF) = true := by decide +kernel
theorem test_loop_s0_is_taken : after (.loop 0 5 none) sup (fun t => t.me.arch.pcw == 1005) = true := by decide +kernel
theorem test_brm_none_of_m0 : after (.brm 0 2 9 none) sup (fun t => t.me.arch.pcw == 1001) = true := by decide +kernel
theorem test_nop : after .nop sup (fun t => t.me.arch == { sup.me.arch with pcw := 1001 } && t.mem == []) = true := by decide +kernel

/-! R237, R252-R256, R311, R314: loads, stores and atomics. -/

theorem test_ld_i8_extends : gives (.ld 3 1 0 0 0 0 none) (mems (sets sup [.s 1 0x2000]) [(0x2000, [0x80, 1])]) 3
    0xFFFFFFFFFFFFFF80 = true := by decide +kernel
theorem test_ld_n16_is_little_endian : gives (.ld 3 1 0 0 3 0 none) (mems (sets sup [.s 1 0x2000]) [(0x2000, [0x80, 0xFF])]) 3
    0xFF80 = true := by decide +kernel
theorem test_ld_misaligned_traps :
    after (.ld 3 1 0 0 4 0 none) (sets user [.s 1 0x2002]) (fun t => t.me.trap.code == 0x14 && t.me.trap.addr == 0x2002) = true := by
  decide +kernel
theorem test_st_negative_offset :
    after (.stOffset 2 1 0 4 0 0xFFFFFFF8 none) (sets sup [.s 1 0x2008, .s 2 0x11223344]) (fun t =>
      ((List.range 5).map (fun i => heldByte t.me.storeBuf (0x2000 + i))) == [some 0x44, some 0x33, some 0x22, some 0x11, none]) =
      true := by decide +kernel
theorem test_stm_writes_in_order :
    after (.stm 2 1 0 1 0 none) (sets sup [.s 1 0x2000, .s 2 7, .s 3 9]) (fun t =>
      heldByte t.me.storeBuf 0x2000 == some 7 && heldByte t.me.storeBuf 0x2008 == some 9) = true := by decide +kernel
theorem test_scat_highest_lane_wins :
    after (.scat 2 1 3 0 2 0 0 0 none) (sets sup [.s 1 0x2000, .v 2 (lanes4 1 2 3 4)]) (fun t =>
      heldByte t.me.storeBuf 0x2000 == some 0) = true := by decide +kernel
theorem test_amo_add_returns_old :
    after (.amoAdd 3 1 2 0 1 0 0 2 none) (mems (sets sup [.s 1 0x2000, .s 2 5]) [(0x2000, [0xFF])]) (fun t =>
      t.me.arch.sreg 3 == 0xFF && t.mem.readBytes 0x2000 2 == [0x04, 0x01]) = true := by decide +kernel
theorem test_amo_cas_fails :
    after (.amoCas 3 1 2 0 0 0 0 2 none) (mems (sets sup [.s 1 0x2000, .s 2 5, .s 3 8]) [(0x2000, [9])]) (fun t =>
      t.me.arch.sreg 3 == 9 && t.mem.readBytes 0x2000 1 == [9]) = true := by decide +kernel
theorem test_amo_min_i_compares_32_bits :
    after (.amoMinI 3 1 2 0 0 0 0 2 none) (mems (sets sup [.s 1 0x2000, .s 2 5]) [(0x2000, [0xFF, 0xFF, 0xFF, 0xFF])]) (fun t =>
      t.mem.readBytes 0x2000 4 == [0xFF, 0xFF, 0xFF, 0xFF]) = true := by decide +kernel
theorem test_store_drains :
    after (.storeBufferDrain (supPos 0))
      { sup with me := { sup.me with storeBuf := [⟨0x2000, 0x2000, [7], 0, 0, none, none⟩] } } (fun t =>
      t.me.storeBuf == [] && t.cachedByte 0 true 0x2000 == 7) = true := by decide +kernel
/-! ### Witnesses

For each statement with hypotheses, states and operands that meet them together, each clause at a boundary of its range. -/

/-- `State.Idle`, decided. -/
def idleB (s : State) : Bool :=
  decide (s.me.resumeMask = none ∧ s.me.stopped = false ∧ s.me.window = [] ∧ s.me.pending = [] ∧ s.me.pair = none ∧
    s.me.arch.poisoned = [] ∧ s.me.st.safereq = false)

/-- `State.Still`, decided. -/
def stillB (s : State) : Bool :=
  idleB s && decide (s.me.storeBuf = [] ∧ s.me.arch.held = [] ∧ s.me.fenceRel = none ∧ s.me.act = none ∧ s.me.sent = none ∧
    s.me.wait = none ∧ s.dev.tiles = [] ∧ s.dev.engines = [] ∧ s.dev.poison = [] ∧ s.dev.tenReqs = [] ∧
    s.dev.acquires = [] ∧ s.dev.partials = [] ∧ (s.core (coreKey s.me.pos)).l1 = [] ∧ ∀ e ∈ s.yards, e.2.domain = [])

/-- `State.Quiet`, decided. -/
def quietB (s : State) : Bool := stillB s && decide (s.me.st.sup = true ∧ s.me.modes.asid = 0)

theorem idle_of {s : State} (h : idleB s = true) : s.Idle := by
  obtain ⟨a, b, c, d, e, f, g⟩ := of_decide_eq_true h
  exact ⟨a, b, c, d, e, f, g⟩

/-- Where every yard that is listed has an empty domain, every yard has. -/
theorem domains_of {s : State} (h : ∀ e ∈ s.yards, e.2.domain = []) (y : Nat) : (s.yard y).domain = [] := by
  unfold State.yard
  generalize s.yards = l at h
  induction l with
  | nil => rfl
  | cons e l ih =>
    obtain ⟨k, v⟩ := e
    simp only [assocGet]
    split
    · exact h _ (List.mem_cons_self ..)
    · exact ih (fun e he => h e (List.mem_cons_of_mem _ he))

theorem still_of {s : State} (h : stillB s = true) : s.Still := by
  simp only [stillB, Bool.and_eq_true] at h
  obtain ⟨a, b, c, d, e, f, g, i, j, k, l, m, n, o⟩ := of_decide_eq_true h.2
  exact ⟨idle_of h.1, a, b, c, d, e, f, g, i, j, k, l, m, n, domains_of o⟩

theorem quiet_of {s : State} (h : quietB s = true) : s.Quiet := by
  simp only [quietB, Bool.and_eq_true] at h
  obtain ⟨a, b⟩ := of_decide_eq_true h.2
  exact ⟨still_of h.1, a, b⟩

/-- `State.Untrapped`, decided. -/
def untrappedB (s : State) (f : FpFlags) : Bool :=
  !(s.me.modes.nve && f.nv) && !(s.me.modes.dze && f.dz) && !(s.me.modes.nanmode && f.np)

theorem untrapped_of {s : State} {f : FpFlags} (h : untrappedB s f = true) : s.Untrapped f := by
  unfold untrappedB at h
  refine ⟨?_, ?_, ?_⟩ <;> intro g <;> simp [g] at h <;> simp_all

/-- A strand with every trap enable set. -/
def enabled (s : State) : State :=
  { s with me := { s.me with modes := { s.me.modes with nve := true, dze := true, nanmode := true } } }

/-- IntegerAluResults, ImmediateAndFieldResults, IntegerLaneResults, DotProductResults, ControlReadResults in supervisor mode, and
with floating point ScalarFloatResults, FloatLaneResults, LaneMovementResults, ReductionResults and RegisterFrames: flags that trap
nothing, with the enables off and with every enable on, and flags that each enable traps. -/
theorem witness_idle : sup.Idle ∧ user.Idle ∧ sup.Untrapped ⟨true, true, true, true, true, true⟩ ∧
    (enabled user).Untrapped ⟨false, false, true, true, true, false⟩ ∧ (enabled user).Idle ∧ (enabled sup).Idle ∧
    (enabled user).me.modes.nve = true ∧ (enabled user).me.modes.dze = true ∧ (enabled user).me.modes.nanmode = true ∧ flagNV.nv = true ∧
    flagDZ.dz = true ∧ flagDZ.nv = false ∧ flagDZ.np = false ∧ flagNP.np = true ∧ sup.me.st.sup = true ∧ user.me.st.sup = false ∧
    sup.me.arch.poisoned = [] :=
  ⟨idle_of (by decide +kernel), idle_of (by decide +kernel), untrapped_of (by decide +kernel), untrapped_of (by decide +kernel),
    idle_of (by decide +kernel), idle_of (by decide +kernel), by decide +kernel⟩

/-- RoundingResults: a value that is exact, one that is tiny, and one that overflows; the largest finite pattern; and a sum, a product and
a fused product that are not zero. -/
theorem witness_RoundingResults : 0 < 3 ∧ (FFmt.f16.round .rne false 3 0).2 = FpFlags.none ∧
    (FFmt.f16.round .rne true 1 (-26)).2 = ⟨false, false, false, true, true, false⟩ ∧
    (FFmt.f16.round .rtz false 1 16).2 = ⟨false, false, true, false, true, false⟩ ∧ 0x7BFF < FFmt.f16.infBits ∧
    FFmt.f16.dest.add .rne (.num false 1 0) (.num true 3 0) = FFmt.f16.round .rne true 2 0 ∧ 0 < 1 * 3 ∧
    (FFmt.f16.dest.fma .rup (.num false 1 0) (.num false 3 0) (.num true 1 0)) = FFmt.f16.round .rup false 2 0 := by decide +kernel

/-- MultiplyDivideResults: a divisor that is not zero, and zero in each mode. -/
theorem witness_MultiplyDivideResults : (sets user [.s 2 1]).Idle ∧ (sets user [.s 2 1]).me.arch.sreg 2 ≠ 0 ∧
    user.me.arch.sreg 0 = 0 ∧ user.me.st.sup = false ∧ sup.me.arch.sreg 0 = 0 ∧ sup.me.st.sup = true :=
  ⟨idle_of (by decide +kernel), by decide +kernel⟩

/-- RegistersHoldWhatTheyAreGiven: the last lane of the widest and of the narrowest lanes, and the last mask bit. -/
theorem witness_RegistersHoldWhatTheyAreGiven : 63 < 512 / tyWidth 0 ∧ 7 < 512 / tyWidth 3 ∧ 63 < 64 := by decide +kernel

/-- ControlFlowResults: a jump's address is a word's. -/
theorem witness_ControlFlowResults :
    (sets sup [.s 1 0xFFFFFFFFFFFFFFFC]).Idle ∧ ((sets sup [.s 1 0xFFFFFFFFFFFFFFFC]).me.arch.sreg 1).extractLsb' 0 2 = 0#2 :=
  ⟨idle_of (by decide +kernel), by decide +kernel⟩

/-- The supervisor with s1 at the last 64 bytes of device memory, s2 = 8, and vector v3 of small signed lanes. -/
def atEnd : State := sets sup [.s 1 0x7FFFFFFFC0, .s 2 8, .v 3 (lanes4 0 1 2 0xFFFFFFFF)]

/-- The team's strand in user mode with this entry in its yard's TLB, s1 in its page and s2 beyond every page. -/
def hinting (e : TlbEntry) : State :=
  { sets user [.s 1 0x40000FFF, .s 2 0xFFFFFFFFFFFFFFFF, .s 3 0xFFFF0000004000, .s 4 0xFFFF0000003FFF] with
    yards := [(0, { Yard.reset with tlb := [e] })] }

/-- CacheHintResults: device memory untranslated; a page that translation grants and one that it refuses; addresses beyond translation,
beyond memory, beyond the team's window and in yard memory. -/
theorem witness_CacheHintResults : atEnd.Quiet ∧ atEnd.dev.partials = [] ∧ (atEnd.me.arch.sreg 1).toNat < dramEnd ∧
    (let e := leafEntry 0 0x40000000 3 0x7FFFF8000F true
     let s := hinting e
     s.Idle ∧ ¬(s.me.modes.asid = 0 ∧ s.me.st.sup = true) ∧ (s.me.arch.sreg 1).toNat < 2 ^ 56 ∧
       inAperture (s.me.arch.sreg 1).toNat = false ∧ s.tlbLookup s.me.who (s.me.arch.sreg 1).toNat = some e ∧
       e.refuses s.me.st.sup .load = none ∧ e.hostLeaf = false ∧ e.key (s.me.arch.sreg 1).toNat < dramEnd ∧
       2 ^ 56 ≤ (s.me.arch.sreg 2).toNat ∧ inAperture (s.me.arch.sreg 3).toNat = true ∧
       s.allotment s.me.tid ≤ (s.me.arch.sreg 3).toNat - apertureBase ∧ inAperture (s.me.arch.sreg 4).toNat = true ∧
       isYardMem (s.windowKey s.me.tid ((s.me.arch.sreg 4).toNat - apertureBase)) = true) ∧
    (let e := leafEntry 0 0x40000000 3 0x7FFFF8004F true
     let s := hinting e
     s.Idle ∧ s.tlbLookup s.me.who (s.me.arch.sreg 1).toNat = some e ∧ e.refuses s.me.st.sup .load ≠ none) ∧
    ((sets sup [.s 1 0x8000000000]).Idle ∧ dramEnd ≤ ((sets sup [.s 1 0x8000000000]).me.arch.sreg 1).toNat) :=
  ⟨quiet_of (by decide +kernel), by decide +kernel, by decide +kernel, ⟨idle_of (by decide +kernel), by decide +kernel⟩,
    ⟨idle_of (by decide +kernel), by decide +kernel⟩, idle_of (by decide +kernel), by decide +kernel⟩

theorem maps_of_free {s : State} {k : Access} {va : Word} {n key : Nat}
    (h : s.me.modes.asid = 0 ∧ s.me.st.sup = true ∧ va.toNat + n ≤ dramEnd ∧ key = va.toNat) : s.Maps k va n key :=
  .inl ⟨⟨h.1, h.2.1⟩, h.2.2⟩

theorem maps_of_entry {s : State} {k : Access} {va : Word} {n key : Nat} (e : TlbEntry)
    (h : va.toNat % 4096 + n ≤ 4096 ∧ va.toNat < 2 ^ 56 ∧ ¬(s.me.modes.asid = 0 ∧ s.me.st.sup = true) ∧ inAperture va.toNat = false ∧
      s.tlbLookup s.me.who va.toNat = some e ∧ e.refuses s.me.st.sup k = none ∧ e.hostLeaf = false ∧ key = e.key va.toNat ∧
      key + n ≤ dramEnd ∧ ∀ f ∈ s.microTlb s.me.who ++ (s.yard s.me.pos.yidx).tlb, f.maps s.me.modes.asid va.toNat = true →
        { f with pinned := e.pinned } = e) : s.Maps k va n key :=
  .inr ⟨h.1, h.2.1, .inl ⟨h.2.2.1, h.2.2.2.1, e, h.2.2.2.2⟩⟩

theorem maps_of_window {s : State} {k : Access} {va : Word} {n key : Nat}
    (h : va.toNat % 4096 + n ≤ 4096 ∧ va.toNat < 2 ^ 56 ∧ inAperture va.toNat = true ∧
      va.toNat - apertureBase + n ≤ s.allotment s.me.tid ∧ key = s.windowKey s.me.tid (va.toNat - apertureBase) ∧
      isYardMem key = true ∧ s.skewBusyKey key n = false) : s.Maps k va n key :=
  .inr ⟨h.1, h.2.1, .inr h.2.2⟩

/-- The leaf of a page of 512 KiB at the end of device memory that lets users load and store. -/
def openLeaf : TlbEntry := leafEntry 0 0x40000000 3 0x7FFFF8000F true

/-- The team's strand in user mode with s1 at the last 64 bytes of a page that translation grants, s2 at those of its window of yard
memory, and s3 to s6 beyond what it may access. -/
def translated (e : TlbEntry) : State :=
  sets (hinting e) [.s 1 0x4007FFC0, .s 2 0xFFFF0000003FC0, .s 3 0x100000000000000, .s 4 0xFFFF0000003FC8, .s 5 0x40001004, .s 6 0x50000000]

/-- LoadResults, StoreResults, MemoryFrames, AtomicResults, VectorAtomicResults, WideAtomicResults and CounterResults: the last 64 bytes of
device memory untranslated, those of a page, and those of the window of yard memory, for each access. -/
theorem witness_LoadResults_and_StoreResults : atEnd.Still ∧ atEnd.MemOk ∧ (translated openLeaf).Still ∧ (translated openLeaf).MemOk ∧
    (∀ k ∈ [Access.load, .store, .atomic], atEnd.Maps k (atEnd.me.arch.sreg 1) 64 0x7FFFFFFFC0 ∧
      (translated openLeaf).Maps k ((translated openLeaf).me.arch.sreg 1) 64 0x7FFFFFFFC0 ∧
      (translated openLeaf).Maps k ((translated openLeaf).me.arch.sreg 2) 64 ((translated openLeaf).windowKey 1 0x3FC0) ∧
      atEnd.Maps k (atEnd.me.arch.sreg 1 + (0x38 : BitVec 32).signExtend 64) 8 0x7FFFFFFFF8) ∧
    (atEnd.me.arch.sreg 1).toNat % 64 = 0 ∧ (atEnd.me.arch.sreg 1 + (0x38 : BitVec 32).signExtend 64).toNat % 8 = 0 ∧
    ((translated openLeaf).me.arch.sreg 1).toNat % 64 = 0 ∧ ((translated openLeaf).me.arch.sreg 2).toNat % 64 = 0 ∧
    (2 : BitVec 2) ≠ 0#2 ∧ (4 : BitVec 3).toNat < 5 := by
  refine ⟨still_of (by decide +kernel), by unfold State.MemOk; decide +kernel, still_of (by decide +kernel),
    by unfold State.MemOk; decide +kernel, ?_, by decide +kernel⟩
  intro k hk
  simp only [List.mem_cons, List.not_mem_nil, or_false] at hk
  rcases hk with rfl | rfl | rfl <;>
    exact ⟨maps_of_free (by decide +kernel), maps_of_entry openLeaf (by decide +kernel), maps_of_window (by decide +kernel),
      maps_of_free (by decide +kernel)⟩

/-- The gathers and scatters of LoadResults, StoreResults and MemoryFrames: eight elements of 8 bytes under m0, by stride and by index. -/
theorem witness_LoadResults_lanes : (3 : BitVec 3).toNat < 4 ∧
    (∀ l, l < 512 / 64 → (atEnd.me.arch.mreg 0).getLsbD l = true →
      (atEnd.me.arch.sreg 1 + BitVec.ofNat 64 l * atEnd.me.arch.sreg 2).toNat % (64 / 8) = 0 ∧
        atEnd.Maps .load (atEnd.me.arch.sreg 1 + BitVec.ofNat 64 l * atEnd.me.arch.sreg 2) (64 / 8) (0x7FFFFFFFC0 + 8 * l)) ∧
    (∀ l, l < 512 / 32 → (atEnd.me.arch.mreg 0).getLsbD l = true →
      let va := atEnd.me.arch.sreg 1 + BitVec.ofInt 64 (sLane 32 (lane 32 (atEnd.me.arch.vreg 3) l) * (32 / 8 : Nat))
      va.toNat % (32 / 8) = 0 ∧ atEnd.Maps .store va (32 / 8) va.toNat) := by
  have a : ∀ l, l < 512 / 64 → (atEnd.me.arch.mreg 0).getLsbD l = true →
      (atEnd.me.arch.sreg 1 + BitVec.ofNat 64 l * atEnd.me.arch.sreg 2).toNat % (64 / 8) = 0 ∧
      (atEnd.me.arch.sreg 1 + BitVec.ofNat 64 l * atEnd.me.arch.sreg 2).toNat + 64 / 8 ≤ dramEnd ∧
      0x7FFFFFFFC0 + 8 * l = (atEnd.me.arch.sreg 1 + BitVec.ofNat 64 l * atEnd.me.arch.sreg 2).toNat := by decide +kernel
  have b : ∀ l, l < 512 / 32 → (atEnd.me.arch.mreg 0).getLsbD l = true →
      let va := atEnd.me.arch.sreg 1 + BitVec.ofInt 64 (sLane 32 (lane 32 (atEnd.me.arch.vreg 3) l) * (32 / 8 : Nat))
      va.toNat % (32 / 8) = 0 ∧ va.toNat + 32 / 8 ≤ dramEnd := by decide +kernel
  have c : atEnd.me.modes.asid = 0 ∧ atEnd.me.st.sup = true := by decide +kernel
  exact ⟨by decide +kernel, fun l h g => ⟨(a l h g).1, maps_of_free ⟨c.1, c.2, (a l h g).2⟩⟩,
    fun l h g => ⟨(b l h g).1, maps_of_free ⟨c.1, c.2, (b l h g).2, rfl⟩⟩⟩

theorem faults_missing {s : State} {k : Access} {va : Word} {n : Nat} {c : BitVec 8}
    (h : let a := va.toNat
      let free := s.me.modes.asid = 0 ∧ s.me.st.sup = true
      c = missCause k ∧ (2 ^ 56 ≤ a ∨ (free ∧ dramEnd ≤ a ∧ a < 2 ^ 56 ∧ inAperture a = false) ∨
        (inAperture a = true ∧ s.allotment s.me.tid < a - apertureBase + n) ∨
        ((¬free ∧ a < 2 ^ 56 ∧ a % 4096 + n ≤ 4096 ∧ inAperture a = false) ∧ s.tlbLookup s.me.who a = none ∧
          ((s.yard s.me.pos.yidx).ended s.me.who.asker s.me.modes.asid a).map (fun e => e.leaf) = some none))) :
    s.FaultsAt k va n c := .inl h

theorem faults_entry {s : State} {k : Access} {va : Word} {n : Nat} {c : BitVec 8} (e : TlbEntry)
    (f : s.tlbLookup s.me.who va.toNat = some e)
    (h : let a := va.toNat
      let su := e.su = true ∧ s.me.st.sup = false
      (¬(s.me.modes.asid = 0 ∧ s.me.st.sup = true) ∧ a < 2 ^ 56 ∧ a % 4096 + n ≤ 4096 ∧ inAperture a = false) ∧
      (((k = .load ∧ c = 0x12 ∧ (su ∨ e.r = false)) ∨ (k = .store ∧ c = 0x13 ∧ (su ∨ e.w = false)) ∨
        (k = .atomic ∧ c = 0x12 ∧ (su ∨ e.r = false)) ∨ (k = .atomic ∧ c = 0x13 ∧ ¬su ∧ e.r = true ∧ e.w = false)) ∨
       (c = 0x16 ∧ (e.refuses s.me.st.sup k = none ∧ e.hostLeaf = true) ∧
        ((¬(e.ats = true ∧ e.hostGrants k = true) ∧ s.dev.refusedPage s.me.modes.asid (a / 4096) s.me.who.asker = true) ∨
          (e.ats = true ∧ e.hostGrants k = true ∧
            (s.func ((s.space s.me.modes.asid).map (fun x => x.tenant.toNat) |>.getD 0)).frozen = true))))) : s.FaultsAt k va n c := by
  obtain ⟨m, (⟨a, b, g⟩ | ⟨a, b, g⟩ | ⟨a, b, g⟩ | ⟨a, b, g⟩) | ⟨b, g⟩⟩ := h
  · exact .inr (.inl ⟨a, b, m, e, f, g⟩)
  · exact .inr (.inr (.inl ⟨a, b, m, e, f, g⟩))
  · exact .inr (.inr (.inr (.inl ⟨a, b, m, e, f, g⟩)))
  · exact .inr (.inr (.inr (.inr (.inl ⟨a, b, m, e, f, g⟩))))
  · exact .inr (.inr (.inr (.inr (.inr ⟨b, m, e, f, g⟩))))

/-- The state in which the walk of the page of s6 has failed for the strand. -/
def failedWalk : State :=
  let s := translated openLeaf
  { s with yards := [(0, { s.yard 0 with endedWalks := [⟨⟨0, 0x50000000, [s.me.who.asker]⟩, none⟩] })] }

/-- A leaf of host memory, and the states in which the host has refused its page and in which its function is frozen. -/
def hostLeaf : TlbEntry := { leafEntry 0 0x40000000 3 0x2F true with ats := false }
def hostRefused : State :=
  let s := translated hostLeaf
  { s with dev := { s.dev with pageReqs := [⟨0, 0x4007F, false, [⟨s.me.who.asker, hostLeaf, true, false, false, 0, 2, false, true⟩]⟩] } }
def hostFrozen : State :=
  let e := { hostLeaf with ats := true, hostR := true, hostW := true }
  let s := translated e
  { s with dev := { s.dev with funcs := [(0, { Func.reset with frozen := true })] } }

/-- MemoryTraps: every cause, and addresses that are not aligned. -/
theorem witness_MemoryTraps :
    let s := translated openLeaf
    let f := sets sup [.s 1 0x8000000000]
    let su := translated (leafEntry 0 0x40000000 3 0x7FFFF8004F true)
    let ro := translated (leafEntry 0 0x40000000 3 0x7FFFF80007 true)
    let wo := translated (leafEntry 0 0x40000000 3 0x7FFFF8000B true)
    (s.Still ∧ s.FaultsAt .load (s.me.arch.sreg 3) 8 0x10 ∧ s.FaultsAt .store (s.me.arch.sreg 4) 64 0x11 ∧
      (s.me.arch.sreg 3).toNat % 64 = 0 ∧ (s.me.arch.sreg 4).toNat % 8 = 0 ∧ (s.me.arch.sreg 5).toNat % 8 ≠ 0) ∧
    (f.Still ∧ f.FaultsAt .atomic (f.me.arch.sreg 1) 16 0x11 ∧ f.me.pos.heavy = true ∧ (f.me.arch.sreg 1).toNat % 16 = 0 ∧
      (f.me.arch.sreg 0).toNat % 4 = 0) ∧
    (failedWalk.Still ∧ failedWalk.FaultsAt .load (failedWalk.me.arch.sreg 6) 64 0x10) ∧
    (su.Still ∧ su.FaultsAt .load (su.me.arch.sreg 1) 64 0x12 ∧ su.FaultsAt .store (su.me.arch.sreg 1) 64 0x13 ∧
      su.FaultsAt .atomic (su.me.arch.sreg 1) 64 0x12) ∧
    (ro.Still ∧ ro.FaultsAt .store (ro.me.arch.sreg 1) 64 0x13 ∧ ro.FaultsAt .atomic (ro.me.arch.sreg 1) 64 0x13) ∧
    (wo.Still ∧ wo.FaultsAt .load (wo.me.arch.sreg 1) 64 0x12 ∧ wo.FaultsAt .atomic (wo.me.arch.sreg 1) 64 0x12) ∧
    (hostRefused.Still ∧ hostRefused.FaultsAt .load (hostRefused.me.arch.sreg 1) 64 0x16) ∧
    hostFrozen.Still ∧ hostFrozen.FaultsAt .store (hostFrozen.me.arch.sreg 1) 64 0x16 := by
  refine ⟨⟨still_of (by decide +kernel), faults_missing (by decide +kernel), faults_missing (by decide +kernel), by decide +kernel⟩,
    ⟨still_of (by decide +kernel), faults_missing (by decide +kernel), by decide +kernel⟩,
    ⟨still_of (by decide +kernel), faults_missing (by decide +kernel)⟩, ⟨still_of (by decide +kernel), ?_, ?_, ?_⟩,
    ⟨still_of (by decide +kernel), ?_, ?_⟩, ⟨still_of (by decide +kernel), ?_, ?_⟩,
    ⟨still_of (by decide +kernel), ?_⟩, still_of (by decide +kernel), ?_⟩ <;> exact faults_entry _ rfl (by decide +kernel)

/-- The lanes of MemoryTraps: lane 3 of a stride of 0x1000 lies beyond device memory, and those below it do not. -/
theorem witness_MemoryTraps_lanes :
    let s := sets sup [.s 1 0x7FFFFFD000, .s 2 0x1000]
    let addr := fun (p : Nat) => s.me.arch.sreg 1 + BitVec.ofNat 64 p * s.me.arch.sreg 2
    s.Still ∧ (s.me.arch.mreg 0).getLsbD 3 = true ∧ s.FaultsAt .load (addr 3) 8 0x10 ∧ (addr 3).toNat % 8 = 0 ∧
      ∀ p, p < 3 → (addr p).toNat % 8 = 0 ∧ s.Maps .load (addr p) 8 (addr p).toNat := by
  intro s addr
  have a : ∀ p, p < 3 → (addr p).toNat % 8 = 0 ∧ (addr p).toNat + 8 ≤ dramEnd := by decide +kernel
  have c : s.me.modes.asid = 0 ∧ s.me.st.sup = true := by decide +kernel
  refine ⟨still_of (by decide +kernel), by decide +kernel, ?_, by decide +kernel,
    fun p h => ⟨(a p h).1, maps_of_free ⟨c.1, c.2, (a p h).2, rfl⟩⟩⟩
  exact .inl ⟨rfl, .inr (.inl ⟨c, by decide +kernel⟩)⟩

/-- The supervisor with a counter of 5 at 0x2000 (s1), targets 5 (s2) and 6 (s4), and time-outs 0 (s5) and, for s6 = 6, 9 (s7). -/
def atCounter : State :=
  mems (sets sup [.s 1 0x2000, .s 2 5, .s 4 6, .s 5 0, .s 6 6, .s 7 9, .s 8 0x400]) [(0x2000, [5])]

/-- FenceResults: nothing under way, and a store still in the store buffer. -/
theorem witness_FenceResults : atCounter.Still ∧
    (let s := { sup with me := { sup.me with storeBuf := [⟨0x2000, 0x2000, [7], 0, 0, none, none⟩] } }
     s.Idle ∧ s.me.storeBuf ≠ []) :=
  ⟨still_of (by decide +kernel), idle_of (by decide +kernel), by decide +kernel⟩

/-- CounterResults: a target that is reached, one that is not, without and with time to wait. -/
theorem witness_CounterResults : atCounter.Still ∧ (atCounter.me.arch.sreg 1).toNat % 8 = 0 ∧
    atCounter.Maps .atomic (atCounter.me.arch.sreg 1) 8 0x2000 ∧ atCounter.Maps .load (atCounter.me.arch.sreg 1) 8 0x2000 ∧
    (let old := leValue (atCounter.mem.readBytes 0x2000 8)
     (atCounter.me.arch.sreg 2).toNat ≤ old ∧
     (old < (atCounter.me.arch.sreg 4).toNat ∧ atCounter.me.arch.sreg (4 + 1) = 0) ∧
     old < (atCounter.me.arch.sreg 6).toNat ∧ atCounter.me.arch.sreg (6 + 1) ≠ 0) :=
  ⟨still_of (by decide +kernel), by decide +kernel, maps_of_free (by decide +kernel), maps_of_free (by decide +kernel), by decide +kernel⟩

/-- A handler of the team in supervisor mode, with s1 and s8 as in `atCounter` and s9 at window offset 0x2040. -/
def inTeam : State :=
  mems (sets { user with me := { user.me with st := { Status.zero with sup := true } } }
    [.s 1 0x2000, .s 2 5, .s 8 0x400, .s 9 0xFFFF0000002040, .s 10 0, .s 11 9]) [(0x2000, [5])]

/-- TickTriggerResults: a strand of a team, an aligned counter and entry, and room in the trigger table. -/
theorem witness_TickTriggerResults : inTeam.Still ∧ inTeam.team inTeam.me.tid = some team1 ∧
    (inTeam.me.arch.sreg 1).toNat % 8 = 0 ∧ inTeam.Maps .load (inTeam.me.arch.sreg 1) 8 0x2000 ∧ (inTeam.me.arch.sreg 8).toNat % 4 = 0 ∧
    (inTeam.yard inTeam.me.pos.yidx).triggers.length < 256 :=
  ⟨still_of (by decide +kernel), by decide +kernel, by decide +kernel, maps_of_free (by decide +kernel), by decide +kernel⟩

/-- The same with slot 7 bound to the sheaf at s9, in phase 1. -/
def atSheaf : State :=
  let s := { inTeam with me := { inTeam.me with binds := [⟨7, 0xFFFF0000002040, none⟩] } }
  let key := s.windowKey 1 0x2040
  { sets s [.s 12 1, .s 13 0, .s 14 1, .s 15 4] with mem := s.mem.writeBytes key (Sheaf.mk 3 4 4 4 2 2 1 0).store }

/-- SheafResults: a bound slot; a phase token that has passed (s10 = 0), and one that has not, without time (s12) and with (s14);
and a free slot for the sheaf at s9. -/
theorem witness_SheafResults : atSheaf.Still ∧ atSheaf.me.binding 7 = some ⟨7, 0xFFFF0000002040, none⟩ ∧
    (let key := atSheaf.windowKey atSheaf.me.tid 0x2040
     let passed := fun (v : Word) => 0 < (BitVec.ofNat 32 (atSheaf.visiblePhase atSheaf.me.tid 0x2040 key) - v.extractLsb' 0 32).toInt
     passed (atSheaf.me.arch.sreg 10) ∧ (¬passed (atSheaf.me.arch.sreg 12) ∧ atSheaf.me.arch.sreg (12 + 1) = 0) ∧
     (¬passed (atSheaf.me.arch.sreg 14) ∧ atSheaf.me.arch.sreg (14 + 1) ≠ 0)) ∧
    (let v := atSheaf.me.arch.sreg 9
     v.toNat % 64 = 0 ∧ apertureBase ≤ v.toNat ∧ v.toNat < apertureBase + apertureSize ∧
     v.toNat - apertureBase < atSheaf.allotment atSheaf.me.tid ∧
     (atSheaf.sheaf (atSheaf.windowKey atSheaf.me.tid (v.toNat - apertureBase))).flags < 8 ∧
     atSheaf.slotAddr (coreKey atSheaf.me.home) 31 = none ∧
     atSheaf.skewBusyKey (atSheaf.windowKey atSheaf.me.tid (v.toNat - apertureBase)) 64 = false) :=
  ⟨still_of (by decide +kernel), by decide +kernel⟩

/-- The team's strand with s1 at window offset 0x3000 and 16 rows of a pitch of 128 bytes in s2 (the example of R234). -/
def atSkew (l : List Skew) : State :=
  { sets user [.s 1 0xFFFF0000003000, .s 2 0x1000F] with yards := [(0, { Yard.reset with skews := l })] }

/-- SkewResults: a region that fits, ending at the end of the window, and one to leave. -/
theorem witness_SkewResults : (atSkew []).Still ∧ (atSkew [⟨1, 0x3000, 16, 128, 0, false⟩]).Still ∧
    (let s := atSkew []
     let o := (s.me.arch.sreg 1).toNat - apertureBase
     let v := s.me.arch.sreg 2
     apertureBase ≤ (s.me.arch.sreg 1).toNat ∧ (s.me.arch.sreg 1).toNat < apertureBase + apertureSize ∧ v.extractLsb' 12 4 = 0#4 ∧
     v.extractLsb' 24 40 = 0#40 ∧ 128 * (v.extractLsb' 16 8).toNat ≠ 0 ∧ o % 128 = 0 ∧
     o + ((v.extractLsb' 0 12).toNat + 1) * (128 * (v.extractLsb' 16 8).toNat) ≤ s.allotment s.me.tid) ∧
    (let s := atSkew [⟨1, 0x3000, 16, 128, 0, false⟩]
     ∃ k ∈ (s.yard s.me.pos.yidx).skews.filter (fun k => k.tid == s.me.tid && !k.leaving),
       k.base = (s.me.arch.sreg 1).toNat - apertureBase) ∧
    (let s := atSkew [⟨1, 0x2000, 8, 512, 0, false⟩]
     let mine := (s.yard s.me.pos.yidx).skews.filter (fun k => k.tid == s.me.tid && !k.leaving)
     s.Still ∧ (∀ k ∈ mine, k.base + k.rows * k.pitch ≤ (s.me.arch.sreg 1).toNat - apertureBase) ∧ mine.length = 1) :=
  ⟨still_of (by decide +kernel), still_of (by decide +kernel), by decide +kernel, ⟨⟨1, 0x3000, 16, 128, 0, false⟩, by decide +kernel⟩,
    still_of (by decide +kernel), by decide +kernel⟩
/-- HeavyFloatResults and WideAtomicResults: the supervisor is at the heavy core, and the last 16 bytes of device memory. -/
theorem witness_HeavyFloatResults_and_WideAtomicResults : sup.Idle ∧ (enabled sup).Untrapped ⟨false, false, true, true, true, false⟩ ∧ sup.me.pos.heavy = true ∧ atEnd.Quiet ∧
    atEnd.MemOk ∧ atEnd.me.pos.heavy = true ∧
    (sets sup [.s 1 0x7FFFFFFFF0]).Still ∧ ((sets sup [.s 1 0x7FFFFFFFF0]).me.arch.sreg 1).toNat % 16 = 0 ∧
    (sets sup [.s 1 0x7FFFFFFFF0]).Maps .atomic ((sets sup [.s 1 0x7FFFFFFFF0]).me.arch.sreg 1) 16 0x7FFFFFFFF0 :=
  ⟨idle_of (by decide +kernel), untrapped_of (by decide +kernel), by decide +kernel, quiet_of (by decide +kernel),
    by unfold State.MemOk; decide +kernel, by decide +kernel, still_of (by decide +kernel), by decide +kernel,
    maps_of_free (by decide +kernel)⟩

/-- A packet of the team's strand 0: DMUL of 3.0 and -2.0 into s4. -/
def packet : Packet :=
  { pos := ⟨0, false, 4, 0⟩, seq := 9, asid := 0, tenant := 3, dests := [.s 4], rmode := 0, nve := false, dze := false,
    nanmode := false, nudef := 0, op := .dfp 2, mask := BitVec.allOnes 64,
    opnd := [BitVec.ofNat 512 0x4008000000000000, BitVec.ofNat 512 0xC000000000000000], since := 0, began := none }

/-- The state with the heavy core of yard 0 like this. -/
def heavyOf (s : State) (H : Heavy) : State := { s with yards := [(0, { Yard.reset with heavy := H })] }

/-- ShippingResults: an empty queue, one entry free, and a full queue; and a full window. -/
theorem witness_ShippingResults :
    let s := fun (n : Nat) => heavyOf user { Yard.reset.heavy with queue := List.replicate n packet }
    ((s 7).Still ∧ (s 8).Still) ∧ ∀ n ∈ [0, 7, 8], (s n).me.pos.heavy = false ∧ (s n).nomatrix (s n).me.tid = false ∧
      ((s n).yard (s n).me.pos.yidx).heavy.failed = false ∧
      (((s n).yard (s n).me.pos.yidx).heavy.queueOf (s n).me.pos.core).length = n ∧
      (let e : WEntry := ⟨7, [], 0, 3, 3, 1, false, none, Arch.zero, false, none, []⟩
       (List.replicate 16 e).countP (fun e => e.seq != 0#8 && !e.done) = 16 ∧ ∀ g ∈ List.replicate 16 e, g.dests = [] ∧ g.index = []) :=
  ⟨⟨still_of (by decide +kernel), still_of (by decide +kernel)⟩, by decide +kernel⟩

/-- A supervisor strand of the team with tiles t0, t1, t2 (their contents given) and a spilled t5, a format word, and granary
slots. -/
def tileState (c0 c1 c2 : TileCfg) (D : TileData) (word : BitVec 16) (gran : List GranSlot) (rs : List RegEff) : State :=
  let home : Pos := supPos 0
  let s : State := { sup with
    me := { sup.me with
      tid := 1
      tiles := ((((sup.me.tiles.set 0 ⟨some c0, .clean, some 0⟩).set 1 ⟨some c1, .clean, some 1⟩).set 2 ⟨some c2, .clean, some 2⟩).set
        5 ⟨some c0, .spilled, none⟩).set 3 ⟨some c0, .empty, none⟩
      fmt := ⟨word, true, 0, 0⟩ }
    dev := { sup.dev with
      teams := [team1], grids := [{ grid1 with asid := 5 }], spaces := [⟨5, 7, 3, 0x10001, 0, 0⟩] } }
  mems (sets (heavyOf s { Yard.reset.heavy with
      tiles := [⟨0, home, 0, D, 0⟩, ⟨1, home, 1, D, 0⟩, ⟨2, home, 2, D, 0⟩], granary := gran }) rs)
    [(0x10000, [1, 0, 2]), (0x20010, [0x1F, 0, 0, 0x80])]

/-- A row of sparse F32 data: eight of 48 elements, all 1.0. -/
def sparseRow : List Byte := leBytes 8 0x800000010101 ++ leBytes 8 0 ++ List.replicate 24 1

theorem tile_state_of {s : State} (h : stillB s = true)
    (g : s.me.pos.heavy = true ∧ s.me.home.yidx = s.me.pos.yidx ∧ s.nomatrix s.me.tid = false ∧
      (s.yard s.me.pos.yidx).heavy.failed = false ∧ s.me.poisonTiles = [] ∧
      (∀ k ∈ (s.yard s.me.pos.yidx).heavy.matrixPackets ++ (s.yard s.me.pos.yidx).heavy.running, k.pos ≠ s.me.pos) ∧
      ∀ k ∈ (s.yard s.me.pos.yidx).heavy.running, k.op.isTransfer = false) : AtTiles s :=
  ⟨still_of h, g.1, g.2.1, g.2.2.1, g.2.2.2.1, g.2.2.2.2.1, g.2.2.2.2.2.1, g.2.2.2.2.2.2⟩

theorem configured_of {s : State} {j : BitVec 3} {c : TileCfg} (w : Word) (h : (s.me.tile j).cfg = some c ∧ TileCfg.ofWord w = some c) :
    Configured s j c := ⟨h.1, w, h.2⟩

/-- TileResults and TileMoveResults: tiles of 4 rows of 64 bytes; a configuration word, a format word, rows that fit, a row that is
loaded and stored at the end of memory; a spilled tile with its save slot mapped; the last element of the last row and column. -/
def tiles4 : State :=
  tileState ⟨4, 64, .f32⟩ ⟨4, 64, .f32⟩ ⟨4, 16, .f32⟩ (BitVec.ofNat 24576 0x3F800000) 0 []
    [.s 1 0x7FFFFFFF00, .s 2 0x803, .s 3 0, .s 4 3, .s 6 0x30F]

/-- The same with t0 dirty. -/
def tilesDirty : State := { tiles4 with me := { tiles4.me with tiles := tiles4.me.tiles.set 0 ⟨some ⟨4, 64, .f32⟩, .dirty, some 0⟩ } }

/-- The contents of the tiles of `tiles4`. -/
def data4 : TileData := BitVec.ofNat 24576 0x3F800000

theorem witness_TileResults : (AtTiles tiles4 ∧ tiles4.Quiet ∧ tiles4.MemOk) ∧
    TileCfg.ofWord (tiles4.me.arch.sreg 2) = some ⟨4, 64, .f32⟩ ∧
    formatValid (tiles4.me.arch.sreg 3) = true ∧ tiles4.me.fmt.valid = true ∧
    ((tiles4.me.arch.sreg 1).toNat % 8 = 0 ∧ InDram (tiles4.me.arch.sreg 1) 64) ∧
    Configured tiles4 0 ⟨4, 64, .f32⟩ ∧ Resident tiles4 0 data4 ∧ (tiles4.me.tile 0).st ≠ .dirty ∧
    (Configured tiles4 3 ⟨4, 64, .f32⟩ ∧ Absent tiles4 3 ∧ (tiles4.me.tile 3).st = .empty ∧ TileRoom tiles4) ∧
    (Configured tiles4 5 ⟨4, 64, .f32⟩ ∧ Absent tiles4 5 ∧ (tiles4.me.tile 5).st = .spilled) ∧ (tiles4.me.tile 7).cfg = none ∧
    (let addr := fun (i : Nat) => tiles4.me.arch.sreg 1 + BitVec.ofNat 64 i * (64 : BitVec 24).signExtend 64
     (∀ i, i ≤ 4 → (addr i).toNat % 4 = 0) ∧ ∀ i, i < 4 → InDram (addr i) 64) :=
  ⟨⟨tile_state_of (by decide +kernel) (by decide +kernel), quiet_of (by decide +kernel), by unfold State.MemOk; decide +kernel⟩,
    by decide +kernel, by decide +kernel, by decide +kernel, ⟨by decide +kernel, by unfold InDram; decide +kernel⟩,
    configured_of 0x803 (by decide +kernel), ⟨by decide +kernel, by decide +kernel⟩, by decide +kernel,
    ⟨configured_of 0x803 (by decide +kernel), ⟨by decide +kernel, by decide +kernel⟩, by decide +kernel,
      by unfold TileRoom; decide +kernel⟩,
    ⟨configured_of 0x803 (by decide +kernel), ⟨by decide +kernel, by decide +kernel⟩, by decide +kernel⟩, by decide +kernel,
    by unfold InDram; decide +kernel⟩

/-- Whatever else is in memory, these two table entries map the team's save area, read and write. -/
theorem saveArea_maps {s : State} (hs : s.space 5 = some ⟨5, 7, 3, 0x10001, 0, 0⟩)
    (r0 : leValue (s.mem.readBytes (0x10000 + 8 * 0) 8) = 0x20001)
    (r1 : leValue (s.mem.readBytes (0x20000 + 8 * (2 % 2 ^ 12)) 8) = 0x8000001F) (va : Nat) (h : 0x100000000 ≤ va)
    (g : va < 0x180000000) : s.walk 5 va = some (leafEntry 5 0x100000000 1 0x8000001F false) := by
  have a : va / 2 ^ 43 % 2 ^ 13 = 0 := by omega
  have b : va / 2 ^ 31 = 2 := by omega
  have t : s.walk 5 va = walkFrom s.mem 5 va 4 0 0x10000 := by
    simp only [State.walk, hs]
    rw [if_pos (by decide), show (0x10001 : Word).toNat % 2 ^ 52 / 2 ^ 16 * 2 ^ 16 = 0x10000 from by decide]
  have e : leafEntry 5 va 1 0x8000001F false = leafEntry 5 0x100000000 1 0x8000001F false := by
    simp only [leafEntry, levelBits, b]
    all_goals rfl
  rw [t, walkFrom]
  simp only [levelBits, indexBits, a, r0]
  rw [if_neg (by decide), if_neg (by decide), if_neg (by decide), walkFrom]
  simp only [levelBits, indexBits, b]
  rw [if_neg (by decide), show (0x20001 : Nat) % 2 ^ 52 / 2 ^ 9 * 2 ^ 9 = 0x20000 from rfl, r1, if_neg (by decide), if_pos (by decide), e]

/-- The save slot of tile `j` of strand 0 then lies in the memory that the area is mapped to. -/
theorem saveSlot_maps {s : State} (hs : s.space 5 = some ⟨5, 7, 3, 0x10001, 0, 0⟩) (hg : s.grid 1 = some { grid1 with asid := 5 })
    (r0 : leValue (s.mem.readBytes (0x10000 + 8 * 0) 8) = 0x20001)
    (r1 : leValue (s.mem.readBytes (0x20000 + 8 * (2 % 2 ^ 12)) 8) = 0x8000001F) (off : Nat) (h : off < 0x80000000) (w : Bool) :
    s.saveKey team1 off w = some (0x80000000 + off) := by
  have m := saveArea_maps hs r0 r1 (0x100000000 + off) (by omega) (by omega)
  simp only [State.saveKey, show team1.grid = 1 from rfl, hg, Option.bind_some, show team1.savebase.toNat = 0x100000000 from rfl, m]
  rw [if_neg (by cases w <;> decide)]
  simp only [TlbEntry.key, show (leafEntry 5 0x100000000 1 0x8000001F false).hostLeaf = false from rfl,
    show (leafEntry 5 0x100000000 1 0x8000001F false).bits = 31 from rfl,
    show (leafEntry 5 0x100000000 1 0x8000001F false).ppage = 1 from by decide]
  rw [if_neg (by decide)]
  congr 1
  omega

/-- A read of bytes at which two memories agree. -/
theorem read_bytes_congr {m m' : Memory} : ∀ n a, (∀ k, a ≤ k → k < a + n → m.read k = m'.read k) → m.readBytes a n = m'.readBytes a n
  | 0, _, _ => rfl
  | n + 1, a, h => by
    rw [Memory.readBytes, Memory.readBytes, h a (Nat.le_refl a) (by omega),
      read_bytes_congr n (a + 1) (fun k h1 h2 => h k (by omega) (by omega))]

theorem witness_TileResults_save : AtTiles tilesDirty ∧ tilesDirty.MemOk ∧ Configured tilesDirty 0 ⟨4, 64, .f32⟩ ∧
    Resident tilesDirty 0 data4 ∧ (tilesDirty.me.tile 0).st = .dirty ∧ tilesDirty.team tilesDirty.me.tid = some team1 ∧
    SaveSlot tilesDirty team1 0 (0x80000000 + saveOffset 0 0) := by
  refine ⟨tile_state_of (by decide +kernel) (by decide +kernel), by unfold State.MemOk; decide +kernel,
    configured_of 0x803 (by decide +kernel), ⟨by decide +kernel, by decide +kernel⟩, by decide +kernel, by decide +kernel, ?_⟩
  intro m hm i hi
  have r : ∀ a, a < 0x80000000 - 8 → m.readBytes a 8 = tilesDirty.mem.readBytes a 8 := fun a h =>
    read_bytes_congr 8 a (fun k _ h2 => hm k (.inl (by simp only [saveOffset]; omega)))
  have sp : tilesDirty.space 5 = some ⟨5, 7, 3, 0x10001, 0, 0⟩ := by decide +kernel
  have gr : tilesDirty.grid 1 = some { grid1 with asid := 5 } := by decide +kernel
  rw [show saveOffset tilesDirty.me.index.toNat (0 : BitVec 3).toNat = saveOffset 0 0 from by decide +kernel,
    saveSlot_maps (s := { tilesDirty with mem := m }) sp gr
      (by rw [show ({ tilesDirty with mem := m } : State).mem = m from rfl, r _ (by decide)]; decide +kernel)
      (by rw [show ({ tilesDirty with mem := m } : State).mem = m from rfl, r _ (by decide)]; decide +kernel)
      _ (by simp only [saveOffset]; omega)]
  congr 1
  omega

theorem saved_tile_of (s : State) (x : Strand) (j : BitVec 3) (t : Team) (ht : s.team x.tid = some t) (hp : s.dev.poison = [])
    (hk : ∀ i, i < 3072 → (s.saveKey t (saveOffset x.index.toNat j.toNat + i) false).isSome = true) :
    ∃ D, s.savedTile x j = some D := by
  have n : ((List.range 3072).map (fun i => s.saveKey t (saveOffset x.index.toNat j.toNat + i) false)).any
      (fun k => k.isNone) = false := by
    rw [List.any_eq_false]
    intro k hx
    obtain ⟨i, hi, rfl⟩ := List.mem_map.1 hx
    rw [Option.isNone_iff_eq_none]
    intro hn
    simpa [hn] using hk i (List.mem_range.1 hi)
  have p : ∀ l, s.poisoned l = false := fun l => by simp [State.poisoned, hp]
  simp only [State.savedTile, ht, Option.bind_some, n, p, Bool.or_false]
  exact ⟨_, rfl⟩

theorem witness_TileResults_refill : ∃ D, tiles4.savedTile tiles4.me 5 = some D := by
  refine saved_tile_of _ _ _ team1 (by decide +kernel) (by decide +kernel) ?_
  intro i h
  rw [show saveOffset tiles4.me.index.toNat (5 : BitVec 3).toNat = saveOffset 0 5 from by decide +kernel,
    saveSlot_maps (by decide +kernel) (by decide +kernel) (by decide +kernel) (by decide +kernel) _ (by simp only [saveOffset]; omega)]
  rfl

theorem witness_TileMoveResults : (AtTiles tiles4 ∧ ∀ j ∈ ([0, 3, 5] : List (BitVec 3)), Configured tiles4 j ⟨4, 64, .f32⟩) ∧
    (Finds tiles4 0 data4 ∧ Finds tiles4 3 0 ∧ ∃ D, Finds tiles4 5 D) ∧ TileRoom tiles4 ∧
    let c : TileCfg := ⟨4, 64, .f32⟩
    let w := tiles4.me.arch.sreg 4
    let v := tiles4.me.arch.sreg 6
    ((w.extractLsb' 0 4).toNat < c.rows ∧ w.extractLsb' 4 2 ≠ 3#2 ∧ 64 * (w.extractLsb' 4 2).toNat < c.rb) ∧
      ((v.extractLsb' 0 8).toNat < c.cols ∧ (v.extractLsb' 8 4).toNat < c.rows) := by
  have room : TileRoom tiles4 := by unfold TileRoom; decide +kernel
  obtain ⟨D, hD⟩ := witness_TileResults_refill
  refine ⟨⟨tile_state_of (by decide +kernel) (by decide +kernel), ?_⟩,
    ⟨.inl ⟨by decide +kernel, by decide +kernel⟩, .inr ⟨⟨by decide +kernel, by decide +kernel⟩, .inl (by decide +kernel)⟩, D,
      .inr ⟨⟨by decide +kernel, by decide +kernel⟩, .inr ⟨by decide +kernel, room, hD⟩⟩⟩, room, by decide +kernel⟩
  intro j hj
  refine configured_of 0x803 ⟨?_, by decide +kernel⟩
  revert j
  decide +kernel

/-- MatrixResults: F32 tiles, I8 tiles, and sparse F32 data in granary slot 1 of two; a load of such a slot. -/
def mmaF32 : State := tileState ⟨4, 16, .f32⟩ ⟨4, 64, .f32⟩ ⟨4, 64, .f32⟩ 0 0 [] []
def mmaI8 : State := tileState ⟨4, 16, .i32⟩ ⟨4, 64, .i8⟩ ⟨4, 64, .i8⟩ 0 0x164 [] []
def mmasF32 : State :=
  tileState ⟨4, 16, .f32⟩ ⟨4, 192, .f32⟩ ⟨4, 64, .f32⟩ 0 0x800
    [⟨1, 1, 4, 1, .f32, 1, List.replicate 4 (leBytes 8 0xFF ++ List.replicate 32 1), false⟩] [.s 1 1, .s 2 0x7FFFFFFF60, .s 3 0x1003001]

theorem witness_MatrixResults :
    (∀ s ∈ [mmaF32, mmaI8, mmasF32], quietB s = true ∧ (s.me.pos.heavy = true ∧ s.me.home.yidx = s.me.pos.yidx ∧
        s.nomatrix s.me.tid = false ∧ (s.yard s.me.pos.yidx).heavy.failed = false ∧ s.me.poisonTiles = [] ∧
        (∀ k ∈ (s.yard s.me.pos.yidx).heavy.matrixPackets ++ (s.yard s.me.pos.yidx).heavy.running, k.pos ≠ s.me.pos) ∧
        ∀ k ∈ (s.yard s.me.pos.yidx).heavy.running, k.op.isTransfer = false) ∧
      (s.yard s.me.pos.yidx).heavy.matq.length < 8 ∧ s.me.fmt.valid = true ∧ (s.me.tile 0).cfg.map (fun c => c.et) = s.me.fmt.cty ∧
      (s.me.tile 1).cfg.map (fun c => c.et) = s.me.fmt.aty ∧
      (s.me.tile 0).cfg.map (fun c => c.rows) = (s.me.tile 1).cfg.map (fun c => c.rows) ∧
      ∀ j ∈ [0, 1, 2], (s.me.tile j).phys.isSome = true ∧ tileBits s s j = some 0) ∧
    (∀ s ∈ [mmaF32, mmaI8], s.me.fmt.spn = 0#3 ∧ (s.me.tile 2).cfg.map (fun c => c.et) = s.me.fmt.bty ∧
      (s.me.tile 1).cfg.map (fun c => c.cols) = (s.me.tile 2).cfg.map (fun c => c.cols) ∧
      (s.me.tile 0).cfg.map (fun c => c.cols) = (s.me.tile 2).cfg.map (fun c => c.rows)) ∧
    mmaI8.me.fmt.aty = some .i8 ∧
    ([(4, 16, .f32), (4, 64, .f32), (4, 16, .i32), (4, 64, .i8), (4, 192, .f32)] : List (Nat × Nat × ElemTy)).all (fun c =>
      TileCfg.ofWord (BitVec.ofNat 64 (c.1 - 1 + c.2.1 / 8 * 2 ^ 8 + c.2.2.code * 2 ^ 16)) == some ⟨c.1, c.2.1, c.2.2⟩) = true := by
  decide +kernel

theorem witness_MatrixResults_sparse :
    let s := mmasF32
    let g : GranSlot := ⟨1, 1, 4, 1, .f32, 1, List.replicate 4 (leBytes 8 0xFF ++ List.replicate 32 1), false⟩
    (s.me.arch.sreg 1).extractLsb' 0 9 = 1 ∧ s.granarySlot 0 1 1 = some g ∧ 1 < s.granarySize 1 ∧ g.expand.isSome = true ∧
      s.me.fmt.spn ≠ 0#3 ∧ g.spn = s.me.fmt.spn ∧ some g.et = s.me.fmt.bty ∧
      (s.me.tile 1).cfg.map (fun c => c.cols) = some (48 * g.ng) ∧ (s.me.tile 0).cfg.map (fun c => c.cols) = some g.nr ∧
      gloadControl (s.me.arch.sreg (2 + 1)) = some (1, 4, 1, .f32, 1) ∧ (s.me.arch.sreg 2).toNat % 8 = 0 ∧
      (let addr := fun (i : Nat) => s.me.arch.sreg 2 + BitVec.ofNat 64 i * (40 : BitVec 24).signExtend 64
       (∀ i, i ≤ 4 → (addr i).toNat % 4 = 0) ∧ ∀ i, i < 4 → (addr i).toNat + 40 ≤ dramEnd) := by decide +kernel

/-- The end of a matrix operation in pipe 1 of yard 0: of the strand at `pos`, whose home is core 4, with F32 tiles, of MMA t0, t1, t2
or of MMAS with the sparse slot of `mmasF32`. -/
def matrixPacket (pos : Pos) (op : HOp) : Packet := { packet with pos := pos, dests := [], op := op, opnd := [] }

def piped (pos : Pos) (op : HOp) (slot : Option GranSlot) : State :=
  let home : Pos := ⟨0, false, 4, 0⟩
  let s := if op = .mma 0 1 2 false then mmaF32 else mmasF32
  let H := { (s.yard 0).heavy with
    pipes := [(1, ⟨matrixPacket pos op, slot⟩)], tiles := (s.yard 0).heavy.tiles.map (fun t => { t with owner := home }) }
  heavyOf { s with
    me := { s.me with pos := pos, home := home, window :=
      [{ seq := 9, dests := [], mask := 0, la := 3, left := 3, ilen := 1, done := false, safePoint := none, base := Arch.zero,
         acq := false, unsettled := none }] } } H

theorem witness_MatrixResults_pipe :
    ∀ pos ∈ [(⟨0, false, 4, 0⟩ : Pos), ⟨0, true, 0, 1⟩],
      let g : GranSlot := ⟨1, 1, 4, 1, .f32, 1, List.replicate 4 (leBytes 8 0xFF ++ List.replicate 32 1), false⟩
      ∀ e ∈ [(HOp.mma 0 1 2 false, (none : Option GranSlot)), (.mmas 0 1 false, some g)],
        let s := piped pos e.1 e.2
        ((s.yard 0).heavy.pipes.find? (fun e => e.1 == 1) = some (1, ⟨matrixPacket pos e.1, e.2⟩) ∧
          s.at? pos = some s.me ∧ (s.strands.map (fun y => y.pos)).Nodup ∧ s.me.home.yidx = 0) ∧
        ((s.me.tile 0).cfg.isSome = true ∧ (s.me.tile 1).cfg.isSome = true ∧ (s.me.tile 2).cfg.isSome = true ∧
          g.expand.isSome = true ∧ ((s.yard 0).heavy.tileOf s.me.home 0).isSome = true) ∧
        ∃ w, s.me.window = [w] ∧ w.seq = (matrixPacket pos e.1).seq ∧ w.done = false ∧ s.me.st.safereq = false ∧ s.me.arch.held = [] := by
  intro pos hp g e he
  refine ⟨?_, ?_, _, rfl, rfl, rfl, ?_, ?_⟩
  all_goals (revert pos e; decide +kernel)

/-- ShipwMigrateResults: a strand at a lean core with a free own slot, one that has moved, and one behind another that waits. -/
theorem witness_ShipwMigrateResults : user.Still ∧ user.me.st.migt = false ∧ user.me.pos.heavy = false ∧
    (∀ f ∈ user.dev.forwards, f.2 ≠ user.me.pos) ∧ user.me.st.mig = false ∧ user.me.run = .ready ∧
    user.freeOwn user.me.pos.yidx = some ⟨0, true, 0, 1⟩ ∧
    (let s := { user with me := { user.me with pos := ⟨0, true, 0, 1⟩, st := { Status.zero with mig := true } } }
     stillB s = true ∧ s.me.st.migt = false ∧ s.me.pos.slot ≠ 0 ∧ s.me.st.mig = true ∧ ∀ f ∈ s.dev.forwards, f.2 ≠ s.me.pos) ∧
    (let s := heavyOf user { Yard.reset.heavy with ownWait := [⟨0, false, 5, 0⟩] }
     stillB s = true ∧ (s.yard 0).heavy.ownWait ≠ []) :=
  ⟨still_of (by decide +kernel), by decide +kernel⟩
/-- A descriptor of 12 rows of 16 columns of 4 bytes at a base, rows 128 bytes apart. -/
def descBytes (base : Nat) : List Byte :=
  leBytes 8 base ++ leBytes 4 16 ++ leBytes 4 12 ++ leBytes 8 0 ++ leBytes 8 128 ++ leBytes 16 0 ++ [2, 2, 1] ++ List.replicate 13 0

def desc (base : Nat) : Desc := (Desc.ofBytes (descBytes base)).getD ⟨0, [], [], 0, 0, 0⟩

/-- A handle table of 16 entries at 0x40000 with entries 5 to 7 free, and a descriptor at 0x2000. -/
def atTable : State :=
  mems (sets { sup with dev := { sup.dev with spaces := [⟨0, 0, 0, 0, 0x40004, htfreeOf 5 7 3⟩] } } [.s 1 0x2000])
    [(0x2000, descBytes 0x100000)]

/-- TenureResults, of TOPEN: a descriptor at an aligned address, and a table with a free entry. -/
theorem witness_TenureResults_topen : atTable.Quiet ∧ (∀ e ∈ atTable.yards, e.2.domain = []) ∧
    (let va := atTable.me.arch.sreg 1
     let x := atTable.spaceOf 0
     va.toNat % 64 = 0 ∧ va.toNat + 64 ≤ dramEnd ∧ Desc.ofBytes (atTable.mem.readBytes va.toNat 64) = some (desc 0x100000) ∧
     (desc 0x100000).meets apertureBase (apertureBase + apertureSize) = false ∧
     ((desc 0x100000).regions 0 (desc 0x100000).outerExt).length ≤ 64 ∧ x.log2n ≤ 20 ∧ x.count ≠ 0 ∧
     (x.entryVa x.head).toNat + 128 ≤ dramEnd) :=
  ⟨quiet_of (by decide +kernel), by decide +kernel, by decide +kernel⟩

/-- The tile that this opens as entry 5, unheld and whole. -/
def openTile : TileObj := ⟨0, 5, 1, desc 0x100000, [⟨0, 12, []⟩], [2], false, 0, false⟩

/-- The state with that tile open, its handle in s7, sections 1 to 4 in s9 and the split into 12 in s10. -/
def atTile : State :=
  let s := sets { sup with dev := { sup.dev with tiles := [openTile], spaces := [⟨0, 0, 0, 0, 0x40004, htfreeOf 6 7 2⟩] } }
    [.s 7 (BitVec.ofNat 64 (2 ^ 20 + 5)), .s 9 (BitVec.ofNat 64 (2 ^ 32 + 4 * 2 ^ 48)), .s 10 12]
  mems s [(((s.spaceOf 0).entryVa 5).toNat, descBytes 0x100000 ++ [0, 0, 0, 0, 1, 0])]

theorem witness_TenureResults : AtTenure atTile (atTile.me.arch.sreg 7) openTile := by
  constructor
  · exact idle_of (by decide +kernel)
  all_goals first | decide +kernel | (unfold InDram; decide +kernel)

theorem witness_TenureResults_operands :
    (let v := atTile.me.arch.sreg 9
     let first := (v.extractLsb' 32 16).toNat
     let count := (v.extractLsb' 48 16).toNat
     first < openTile.desc.outerExt ∧ count ≠ 0 ∧ first + count ≤ openTile.desc.outerExt) ∧
    (((atTile.me.arch.sreg 0).extractLsb' 48 16).toNat = 0 ∧ 0 < openTile.desc.outerExt) ∧
    (openTile.desc.split = true ∧ 1 ≤ (atTile.me.arch.sreg 10).toNat ∧ (atTile.me.arch.sreg 10).toNat ≤ 16 ∧
      (atTile.me.arch.sreg 10).toNat ≤ openTile.desc.outerExt) ∧
    (openTile.pieces.mergeSort (fun p q => p.lo ≤ q.lo))[((atTile.me.arch.sreg 0).extractLsb' 0 4).toNat]? = some ⟨0, 12, []⟩ := by
  decide +kernel

/-- MessageResults: a supervisor strand of the team with a message word in s8 and its payload's address in s9; with an answer of
acceptance, and of a full mailbox. -/
def atMessage (sent : Option Nat) (answers : List (Nat × Nat)) : State :=
  sets { inTeam with
      me := { inTeam.me with modes := { inTeam.me.modes with tenant := 3 }, sent := sent, answers := answers }
      dev := { inTeam.dev with routes := (List.range 16).map (fun i => (i, ⟨false, 0xFFFF⟩)) } }
    [.s 8 (BitVec.ofNat 64 (3 + 2 * 256 + 8 * 65536)), .s 9 0x2000]

theorem witness_MessageResults :
    (∀ s ∈ [atMessage none [], atMessage (some 1) [(0, 0)], atMessage (some 1) [(0, 1)]], idleB s = true ∧ s.me.act = none ∧
      s.me.st.sup = true ∧ s.destOk (s.me.arch.sreg 8) = true ∧ (s.me.arch.sreg 9).toNat % 8 = 0) ∧
    (let s := atMessage none []
     s.Still ∧ s.maySend s.me (destClass (s.me.arch.sreg 8)) = true ∧
       s.Maps .load (s.me.arch.sreg 9) (destLen (s.me.arch.sreg 8)) 0x2000 ∧ destClass (s.me.arch.sreg 8) ≠ 15#4) ∧
    (let s := sets user [.s 8 0xF00]
     s.Idle ∧ s.me.act = none ∧ destClass (s.me.arch.sreg 8) = 15#4 ∧ s.me.st.sup = false) ∧
    ((atMessage (some 1) [(0, 0)]).me.answerOf 0 = 0 ∧ (atMessage (some 1) [(0, 0)]).me.sent = some 1 ∧
      (atMessage (some 1) [(0, 0)]).me.answers ≠ []) ∧
    (atMessage (some 1) [(0, 1)]).me.answerOf 0 ≠ 0 ∧
    (let s := atMessage (some 1) [(0, 1)]
     let u : State := { s with me := { s.me with st := Status.zero } }
     idleB u = true ∧ u.me.act = none ∧ u.me.st.sup = false ∧ u.destOk (u.me.arch.sreg 8) = true ∧
       destClass (u.me.arch.sreg 8) ≠ 15#4 ∧ u.me.sent = some 1 ∧ u.me.answers ≠ [] ∧ u.me.answerOf 0 ≠ 0) :=
  ⟨by decide +kernel, ⟨still_of (by decide +kernel), by decide +kernel, maps_of_free (by decide +kernel), by decide +kernel⟩,
    ⟨idle_of (by decide +kernel), by decide +kernel⟩, by decide +kernel⟩

/-- MailboxResults: a mailbox of 512 bytes for class 2 (s8), its buffer (s9) and handler (s10); and one to remove. -/
def atMailbox (on : Nat) (l : List Mailbox) : State :=
  sets { user with yards := [(0, { Yard.reset with mailboxes := l })] }
    [.s 8 (BitVec.ofNat 64 (2 + 16 * on + 8 * 256)), .s 9 0xFFFF0000000040, .s 10 0x1000]

theorem witness_MailboxResults :
    (∀ s ∈ [atMailbox 1 [], atMailbox 0 [⟨2, 1, 64, 512, 0x1000, [], false⟩]], stillB s = true ∧ s.team s.me.tid = some team1 ∧
      s.grid team1.grid = some grid1 ∧ (s.me.arch.sreg 8).extractLsb' 5 3 = 0#3 ∧ (s.me.arch.sreg 8).extractLsb' 19 45 = 0#45 ∧
      (s.me.arch.sreg 8).extractLsb' 0 4 ≠ 15#4) ∧
    (let s := atMailbox 1 []
     let va := s.me.arch.sreg 9
     let size := 64 * ((s.me.arch.sreg 8).extractLsb' 8 11).toNat
     (s.me.arch.sreg 8).getLsbD 4 = true ∧ team1.resident = true ∧ 512 ≤ size ∧ va.toNat % 64 = 0 ∧
       (s.me.arch.sreg (9 + 1)).toNat % 4 = 0 ∧ apertureBase ≤ va.toNat ∧ va.toNat < apertureBase + apertureSize ∧
       va.toNat - apertureBase + size ≤ team1.allotment ∧ (s.yard 0).mailbox 2 = none ∧
       s.windowHeld s.me.tid (va.toNat - apertureBase) size = false ∧ size ≤ 65536) ∧
    (let s := atMailbox 0 [⟨2, 1, 64, 512, 0x1000, [], false⟩]
     (s.me.arch.sreg 8).getLsbD 4 = false ∧ (s.yard 0).mailbox 2 = some ⟨2, 1, 64, 512, 0x1000, [], false⟩ ∧
       s.windowHeld 1 64 512 = false) := by decide +kernel

/-- MailboxResults, of MDONE: an activation of a trigger that holds two stores to yard memory, one that holds a message and one whose message
is answered; and one of a message, whose record is the last that its mailbox holds, or is not. -/
def started (src : ActSource) (hold : List HoldItem) : Activation := ⟨src, hold, false, false, false, 2, true, 1, []⟩

def inActivation (a : Activation) (l : List Mailbox) (ctl : List Byte) : State :=
  let s := sets { user with
      me := { user.me with modes := { user.me.modes with tenant := 3 }, act := some a }
      yards := [(0, { Yard.reset with mailboxes := l })]
      dev := { user.dev with routes := (List.range 16).map (fun i => (i, ⟨false, 0xFFFF⟩)) } } []
  { s with mem := s.mem.writeBytes (s.windowKey 1 64) ctl }

theorem witness_MailboxResults_mdone :
    let src := ActSource.trigger 0x1000 5 true 3
    let sts : List HeldStore := [⟨yardKey 0 64, 0, [1, 2], 0, 0, none, none⟩, ⟨yardKey 0 65, 0, [3], 0, 0, none, none⟩]
    (let a := started src (sts.map (fun st => .store [st] false))
     let u := inActivation a [] []
     stillB { u with me := { u.me with act := none } } = true ∧ u.ownMailbox = none ∧ a.mdone = false ∧ a.releasing = false ∧
       ∀ st ∈ sts, st.mark = none ∧ st.rel = none ∧ isYardMem st.key = true ∧ u.skewBusyKey st.key st.bytes.length = false) ∧
    (let dst : Word := BitVec.ofNat 64 (3 + 2 * 256 + 8 * 65536)
     let u := inActivation (started src [.msg dst [1, 2, 3, 4, 5, 6, 7, 8] true]) [] []
     stillB { u with me := { u.me with act := none } } = true ∧ u.ownMailbox = none ∧ u.maySend u.me (destClass dst) = true) ∧
    (∀ used ∈ [16, 80], let m : Mailbox := ⟨2, 1, 64, 512, 0x1000, [], true⟩
     let a := started (.message 2 64) []
     let u := inActivation a [m] (leBytes 4 (64 + used) ++ leBytes 4 64 ++ leBytes 4 used ++ List.replicate 52 0 ++ leBytes 2 8)
     stillB { u with me := { u.me with act := none } } = true ∧ u.ownMailbox = some m ∧ (u.team m.tid).any Team.resident = true ∧
       m.mb % 64 = 0 ∧ u.windowHeld m.tid m.mb m.size = false ∧
       (let c := u.mbCtl m
        let r := 8 + leValue (u.readTeam m.tid (m.mb + 64) 2) % 512
        (used = 16 → r = c.used) ∧
          (used = 80 → r < c.used ∧ 64 + r < m.size ∧ leValue (u.readTeam m.tid (m.mb + (64 + r)) 2) / 2 ^ 15 % 2 = 0))) := by
  decide +kernel

/-- ReductionTreeResults: a tree rooted at yard 0 with one vector waiting, with and without a total; no time to wait (s0) and
time (s9). -/
def atTree (total : Option Vec) : State :=
  sets { user with dev := { user.dev with
      trees := [(2, ⟨0, 0, 0, 0, [0, 3], [(user.yardStop 0, 0, 9)], total, []⟩)] } } [.s 9 1]

/-- What ReductionTreeResults asks of the state with a total `v`. -/
abbrev treeWitness (v : Option Vec) : Prop :=
  stillB (atTree v) = true ∧
    (atTree v).dev.tree 2 = some ⟨0, 0, 0, 0, [0, 3], [(user.yardStop 0, 0, 9)], v, []⟩ ∧ (0 : BitVec 4) = (atTree v).me.modes.tenant ∧
    (atTree v).me.pos.yidx ∈ [0, 3] ∧ (atTree v).me.pos.yidx = 0 ∧
    [(user.yardStop 0, 0, (9 : Vec))].countP (fun e => e.1 == (atTree v).yardStop 0 && e.2.1 == 0) < 2 ∧
    (atTree v).me.arch.sreg 0 = 0 ∧ (atTree v).me.arch.sreg 9 ≠ 0

theorem witness_ReductionTreeResults : treeWitness none ∧ treeWitness (some 77) := ⟨by decide +kernel, by decide +kernel⟩

/-- CopyResults: a copy of 4096 bytes (s6 to s9), two descriptors of the same shape (s10 to s13), and a ticket (s14). -/
def atCopy : State :=
  mems (sets sup [.s 6 0x200000, .s 7 0x300000, .s 8 0x1000, .s 9 0, .s 10 0x2000, .s 11 0x2040, .s 14 0x100])
    [(0x2000, descBytes 0x500000), (0x2040, descBytes 0x600000)]

theorem witness_CopyResults : quietB atCopy = true ∧ atCopy.pickEngine atCopy.me.pos.yidx = some 0 ∧
    (ctlOk (atCopy.me.arch.sreg 8) = true ∧ compOk (atCopy.me.arch.sreg 8) (atCopy.me.arch.sreg 9) = true ∧
      ctlDir (atCopy.me.arch.sreg 8) = 0) ∧
    (let w := atCopy.me.arch.sreg 12
     let dst := atCopy.me.arch.sreg 10
     let src := atCopy.me.arch.sreg (10 + 1)
     ctlOk w = true ∧ compOk w (atCopy.me.arch.sreg 13) = true ∧ ctlDir w = 0 ∧ w.toNat % 2 ^ 32 = 0 ∧ dst.toNat % 64 = 0 ∧
       src.toNat % 64 = 0 ∧ dst.toNat + 64 ≤ dramEnd ∧ src.toNat + 64 ≤ dramEnd ∧
       Desc.ofBytes (atCopy.mem.readBytes dst.toNat 64) = some (desc 0x500000) ∧
       Desc.ofBytes (atCopy.mem.readBytes src.toNat 64) = some (desc 0x600000) ∧ (desc 0x500000).eszl2 = (desc 0x600000).eszl2 ∧
       (desc 0x500000).rank = (desc 0x600000).rank ∧ (desc 0x500000).ext = (desc 0x600000).ext) ∧
    (let q : Transfer := ⟨1, 0, 0, 0, 3, 0x200000, 0x300000, 0, 0, 0x900, none, none, 0x900, 0, none, 1, 0, 0, 8⟩
     atCopy.me.arch.sreg 14 = BitVec.ofNat 64 (0 + q.serial * 2 ^ 8) ∧ q.serial < 2 ^ 40 ∧ q.asid = atCopy.me.modes.asid) := by
  decide +kernel

/-- ControlReadResults and ControlWriteResults: a strand of a team in each mode, the highest NU count that a read returns whole, and
an address space that is live. -/
theorem witness_ControlReadResults_and_ControlWriteResults : user.Idle ∧ inTeam.Idle ∧
    (user.me.st.sup = false ∧ (0x093 : BitVec 12) ≠ 0x032#12 ∧ (0x093 : BitVec 12) ≠ 0x091#12 ∧ (0x093 : BitVec 12) ≠ 0x092#12) ∧
    inTeam.me.st.sup = true ∧ (user.func user.me.modes.tenant.toNat).nuHonLast < 2 ^ 32 ∧
    user.team user.me.tid = some team1 ∧ user.grid team1.grid = some grid1 ∧ inTeam.team inTeam.me.tid = some team1 ∧
    inTeam.isLive inTeam.me.modes.asid = true :=
  ⟨idle_of (by decide +kernel), idle_of (by decide +kernel), by decide +kernel⟩

/-- A yard whose K.TRAPMIG migrates TRAP, and its handler's address. -/
def migrating (s : State) : State :=
  { s with yards := [(0, { Yard.reset with regs := { Yard.reset.regs with trapmig := 0x1000000000000000, evbase := 0x4000 } })] }

/-- TrapAndReturnResults: a user strand whose trap parks and one whose trap migrates; a handler with its own trap to return from; a
parked strand to resume, a notification to take, and none. -/
def inHandler : State :=
  sets { sup with me := { sup.me with st := { sup.me.st with migt := true }, trap := ⟨0x48, 0x1234, 99, 1, 0, 0, 0⟩, home := ⟨0, false, 4, 0⟩ } }
    [.s 5 7, .s 6 0x8004]

def parked (b : Bool) : Strand := { user.me with run := .parkedTrap b, trap := ⟨0x48, 0x1234, 99, 1, 0, 0, 0⟩ }

def beside (s : State) (x : Strand) (notes : List Pos) : State :=
  { s with others := [x], yards := [(0, { Yard.reset with notes := notes })] }

theorem witness_TrapAndReturnResults :
    (idleB user = true ∧ user.me.st.sup = false ∧ (user.yard 0).regs.trapmig.getLsbD 60 = false) ∧
    (idleB (migrating user) = true ∧ (migrating user).me.st.sup = false ∧
      ((migrating user).yard 0).regs.trapmig.getLsbD 60 = true) ∧
    (idleB sup = true ∧ sup.me.st.sup = true ∧ sup.me.pos.heavy = true ∧ sup.me.st.migt = false) ∧
    (idleB inHandler = true ∧ inHandler.me.st.sup = true ∧ inHandler.me.st.migt = true ∧ inHandler.me.trap.fpc.toNat % 4 = 0) ∧
    (let s := beside inHandler (parked true) []
     idleB s = true ∧ (6 : BitVec 5) ≠ 0 ∧ (s.me.arch.sreg 6).getLsbD 15 = true ∧
       s.parkedAt (refPos 0 (s.me.arch.sreg 6)) = some (parked true) ∧
       (parked true).pos ≠ s.me.pos ∧ (parked true).st.mig = false ∧ (∀ u ∈ s.others, u.pos = (parked true).pos → u = parked true) ∧
       (parked true).trap.fpc.toNat % 4 = 0) ∧
    (let x := { parked true with st := { Status.zero with mig := true } }
     let s := beside inHandler x []
     idleB s = true ∧ s.parkedAt (refPos 0 (s.me.arch.sreg 6)) = some x ∧ x.pos ≠ s.me.pos ∧ x.st.mig = true ∧ x.pos.heavy = false ∧
       x.pos ∉ (s.yard x.pos.yidx).heavy.ownWait ∧ x.trap.fpc.toNat % 4 = 0) ∧
    (inHandler.parkedAt (refPos 0 (inHandler.me.arch.sreg 6)) = none ∧ (inHandler.me.arch.sreg 1).getLsbD 15 = false) ∧
    (let s := beside inHandler (parked false) [⟨0, false, 4, 0⟩]
     idleB s = true ∧ (29 : BitVec 5).toNat ≤ 29 ∧ (s.yard s.me.pos.yidx).notes.head?.bind s.at? = some (parked false) ∧
       s.me.wait = none ∧ (parked false).pos ≠ s.me.pos ∧ ∀ u ∈ s.others, u.pos = (parked false).pos → u = parked false) ∧
    ((inHandler.yard inHandler.me.pos.yidx).notes = [] ∧ inHandler.me.wait = none ∧ inHandler.me.arch.sreg 0 = 0 ∧
      inHandler.me.arch.sreg 5 ≠ 0) := by decide +kernel

/-- TranslationControlResults: a pinned leaf of level 2, beside one pinned entry of its set and beside none; the three kinds of TLBINV;
a space that is live, one to make, and one to end. -/
def atTlb : State :=
  sets { sup with dev := { sup.dev with spaces := [⟨0, 0, 0, 0, 0, 0⟩, ⟨9, 77, 3, 0, 0, 0⟩] } }
    [.s 6 (BitVec.ofNat 64 (2 + 5 * 2 ^ 25 + 4)), .s 7 (BitVec.ofNat 64 (3 + 4 + 8 + 3 * 2 ^ 25)), .s 8 0x40000, .s 9 0x20000,
      .s 10 9, .s 11 (BitVec.ofNat 64 (2 ^ 40 + 2 ^ 36 * 3 + 2 ^ 16 * 78 + 10)), .s 12 (BitVec.ofNat 64 (2 ^ 41 + 9))]

theorem witness_TranslationControlResults : stillB atTlb = true ∧ atTlb.me.st.sup = true ∧ atTlb.me.pos.heavy = true ∧
    (let sa := atTlb.me.arch.sreg 6
     let sb := atTlb.me.arch.sreg 7
     let e := leafEntry atTlb.me.modes.asid (sa.toNat % 2 ^ 56 / 2 ^ 19 * 2 ^ 19) (sa.toNat % 4) sb.toNat (sa.getLsbD 2)
     sa.toNat % 4 ≠ 0 ∧ sa.toNat / 2 ^ 3 % 2 ^ 16 = 0 ∧ sa.toNat < 2 ^ 56 ∧ sb.getLsbD 0 = true ∧ sb.getLsbD 1 = true ∧
       malformed (sa.toNat % 4) sb.toNat = false ∧ e.pinned = true ∧
       (atTlb.yard atTlb.me.pos.yidx).tlb.countP (fun f => f.set == e.set && f.pinned) < 2) ∧
    (∀ r ∈ [(0 : BitVec 5), 8, 9], (atTlb.me.arch.sreg r).toNat < 2 ^ 19 ∧ ((atTlb.me.arch.sreg r).extractLsb' 16 2).toNat ≠ 3) ∧
    ((atTlb.me.arch.sreg 10).toNat < 2 ^ 40 ∧ atTlb.isLive 9 = true ∧ (atTlb.me.arch.sreg 10).extractLsb' 0 16 = 9#16) ∧
    (let sa := atTlb.me.arch.sreg 11
     sa.toNat / 2 ^ 40 = 1 ∧ atTlb.isLive (sa.extractLsb' 0 16) = false ∧
       ∀ x ∈ atTlb.dev.spaces, x.tenant = sa.extractLsb' 36 4 → x.pasid = sa.extractLsb' 16 20 → x.asid = 0) ∧
    (let sa := atTlb.me.arch.sreg 12
     sa.toNat / 2 ^ 40 = 2 ∧ sa.extractLsb' 0 16 ≠ (0 : BitVec 16) ∧ atTlb.isLive (sa.extractLsb' 0 16) = true ∧
       sa.extractLsb' 0 16 ≠ atTlb.me.modes.asid ∧ atTlb.asidInUse (sa.extractLsb' 0 16) = false ∧
       atTlb.usesOf (atTlb.tlbEntries (fun f => f.asid == sa.extractLsb' 0 16)) = false) ∧
    atTlb.tlbWait atTlb.me.pos = none ∧ atTlb.usesOf (atTlb.tlbEntries (fun _ => true)) = false := by decide +kernel

/-- The same beside a user strand with a store in its store buffer that has taken a translation of the yard's TLB. -/
def atTlbInUse : State :=
  { atTlb with
    others := [{ user.me with storeBuf := [⟨0x7FFFF80008, 0x40000008, [7], 0, 0, none, none⟩] }]
    yards := [(0, { Yard.reset with tlb := [leafEntry 0 0x40000000 3 0x7FFFF8000F false] })] }

theorem witness_TranslationControlResults_use : stillB atTlbInUse = true ∧ atTlbInUse.me.st.sup = true ∧
    atTlbInUse.me.pos.heavy = true ∧ atTlbInUse.tlbWait atTlbInUse.me.pos = none ∧
    (∀ r ∈ [(0 : BitVec 5), 8, 9], (atTlbInUse.me.arch.sreg r).toNat < 2 ^ 19) ∧
    atTlbInUse.usesOf (atTlbInUse.tlbEntries (fun f => f.asid == 0#16)) = true ∧
    atTlbInUse.usesOf (atTlbInUse.tlbEntries (fun f => f.pinned)) = false := by decide +kernel

/-- A launch record of two teams of 16 strands of a tenant. -/
def recordBytes (tenant : Nat) : List Byte :=
  leBytes 8 0x1000 ++ leBytes 8 0 ++ leBytes 2 2 ++ leBytes 2 1 ++ leBytes 2 1 ++ leBytes 2 16 ++ leBytes 4 8192 ++ leBytes 2 2 ++
    leBytes 2 (tenant * 256) ++ List.replicate 12 0 ++ leBytes 4 77 ++ List.replicate 16 0

/-- LaunchSwapResults: a record to launch; a team to swap out, and one saved; a route class and a tree to set. -/
def atLaunch (t : Team) : State :=
  mems (sets { sup with dev := { sup.dev with
      teams := [t], grids := [grid1], saved := [⟨1, [{ user.me with run := .ready }], [], [], [], [], []⟩] } }
    [.s 6 0x20000, .s 7 1, .s 8 (BitVec.ofNat 64 (2 ^ 9 + 5 + 16 + 9 * 2 ^ 16)),
      .s 9 (BitVec.ofNat 64 (3 + 8 + 2 * 16 + 1 * 128 + 4 * 1024 + 7 * 2 ^ 32)), .s 10 0x35]) [(0x20000, recordBytes 0)]

theorem witness_LaunchSwapResults :
    (∀ t ∈ [team1, { team1 with where_ := .saved }], quietB (atLaunch t) = true ∧ (atLaunch t).me.pos.heavy = true) ∧
    (let s := atLaunch team1
     (s.me.arch.sreg 6).toNat % 64 = 0 ∧ (s.me.arch.sreg 6).toNat + 64 ≤ dramEnd ∧
       (Record.of (s.mem.readBytes (s.me.arch.sreg 6).toNat 64)).valid s.me.modes.tenant = true ∧
       (s.team s.me.tid).bind (fun T => s.grid T.grid) = none ∧ (s.yard s.me.pos.yidx).dlq.length < 64) ∧
    (let s := atLaunch team1
     (s.residents s.me.pos.yidx).find? (fun u => u.tid == (s.me.arch.sreg 7).toNat) = some team1 ∧ s.delivered 1 = false ∧
       team1.where_ = .placed) ∧
    (let s := atLaunch { team1 with where_ := .saved }
     s.pendingTeams.find? (fun e => e.1.tid == (s.me.arch.sreg 7).toNat && e.1.where_ == .saved) =
         some ({ team1 with where_ := .saved }, grid1) ∧
       s.fits s.me.pos.yidx { team1 with where_ := .saved } grid1 = true ∧ (s.savedTeam 1).isSome = true) ∧
    (let sa := (atLaunch team1).me.arch.sreg 8
     sa.getLsbD 9 = true ∧ sa.toNat / 2 ^ 5 % 2 ^ 4 = 0 ∧ sa.toNat / 2 ^ 10 % 2 ^ 6 = 0 ∧ sa.toNat < 2 ^ 32 ∧
       (atLaunch team1).me.arch.sreg 0 = 0 ∧ (atLaunch team1).classBusy (sa.toNat % 16) = false) ∧
    (let sa := (atLaunch team1).me.arch.sreg 9
     let sb := (atLaunch team1).me.arch.sreg 10
     let members := (List.range 56).filter (fun i => sb.getLsbD i)
     sa.getLsbD 9 = false ∧ sa.toNat / 2 ^ 16 % 2 ^ 16 = 0 ∧ sa.toNat < 2 ^ 36 ∧ sb.toNat < 2 ^ 56 ∧ sa.toNat / 2 ^ 4 % 8 < 5 ∧
       sa.toNat / 2 ^ 7 % 4 ≠ 3 ∧ (atLaunch team1).isYard (sa.toNat / 2 ^ 10 % 2 ^ 6) = true ∧
       (∀ i ∈ members, (atLaunch team1).isYard i = true) ∧ members ≠ [] ∧ (atLaunch team1).treeBusy (sa.extractLsb' 0 3 : BitVec 3).toNat = false) := by
  decide +kernel

/-- ExitSpawnResults: the last strand of a team, and one of two; an entry address, with a slot free and with none. -/
theorem witness_ExitSpawnResults :
    (stillB user = true ∧ user.me.binds = [] ∧ user.me.tid ≠ 0 ∧ user.rearranging user.me.tid = false ∧ user.others = [] ∧ user.yards = []) ∧
    (let s := { user with others := [{ user.me with pos := ⟨0, false, 4, 1⟩ }] }
     stillB s = true ∧ (∀ x ∈ s.others, x.pos ≠ s.me.pos) ∧ ∃ x ∈ s.others, x.tid = s.me.tid ∧ x.run ≠ .empty) ∧
    (let s := sets user [.s 6 0xFFFFFFFFFFFFFFFC]
     stillB s = true ∧ s.me.run = .ready ∧ s.team s.me.tid = some team1 ∧ s.grid team1.grid = some grid1 ∧
       (s.me.arch.sreg 6).toNat % 4 = 0 ∧ (s.freeIndices team1 grid1).head? = some 1 ∧ s.me.pos ≠ team1.slotOf grid1.paired 1) ∧
    (let s := { user with others := (List.range 15).map (fun i =>
        { user.me with pos := team1.slotOf false (i + 1), home := team1.slotOf false (i + 1) }) }
     stillB s = true ∧ s.freeIndices team1 grid1 = []) := by decide +kernel
theorem seats_of {s : State} {p : Pos} {x : Strand} (h : s.at? p = some x ∧ (s.strands.map (fun y => y.pos)).Nodup) : s.Seats p x :=
  ⟨h.1, h.2⟩

/-- The supervisor with the team's strand beside it, as given. -/
def other (f : Strand → Strand) : State := { sup with others := [f user.me], dev := user.dev }

/-- Where that strand is. -/
def lean4 : Pos := ⟨0, false, 4, 0⟩

/-- ArrivalEvents: two results outstanding, one of them to be forwarded; an access that can settle; a code block missing; stores to
yard memory and of a whole line; a move that ends. -/
def withResults : Strand → Strand := fun x =>
  { x with pending := [⟨[.s 3 77, .v 4 5], 1, false, false, false, [], true, [], 0⟩, ⟨[.s 5 1], 2, false, false, true, [], true, [], 0⟩], run := .stalled }

theorem witness_ArrivalEvents_results :
    (other withResults).Seats lean4 (withResults user.me) ∧
    ((withResults user.me).pending[0]? = some ⟨[.s 3 77, .v 4 5], 1, false, false, false, [], true, [], 0⟩ ∧
      (withResults user.me).pending.findIdx? (fun q => q.forwarded) = some 1 ∧
      (withResults user.me).pending[1]? = some ⟨[.s 5 1], 2, false, false, true, [], true, [], 0⟩) ∧
    (let s := { other withResults with dev := { user.dev with forwards := [(⟨0, false, 9, 0⟩, lean4)] } }
     s.at? lean4 = some (withResults user.me) ∧ (s.strands.map (fun y => y.pos)).Nodup ∧ ∃ f ∈ s.dev.forwards, f.2 = lean4) :=
  ⟨seats_of (by decide +kernel), by decide +kernel⟩

/-- A load of 8 bytes into s3 from the last double word of device memory that waits in the window for its translation. -/
def loading : WEntry :=
  { seq := 9, dests := [.s 3], mask := 0, la := 5, left := 3, ilen := 1, done := false, safePoint := none,
    base := { Arch.zero with s := Arch.zero.s.set 1 0x7FFFFFFFF8, pcw := 1000 }, acq := false,
    unsettled := some ⟨.ld 3 1 8 0 6 0 none, .walking, 4⟩ }

def withLoad : Strand → Strand := fun x => { x with st := { x.st with sup := true }, window := [loading] }

theorem witness_ArrivalEvents_settle : (other withLoad).Seats lean4 (withLoad user.me) ∧ (withLoad user.me).run = .ready ∧
    ({ other withLoad with me := (withLoad user.me).standAt loading 0 4 } : State).Quiet ∧
    (loading.base.sreg 1).toNat % 8 = 0 ∧ InDram (loading.base.sreg 1) 8 :=
  ⟨seats_of (by decide +kernel), rfl, quiet_of (by decide +kernel), by decide +kernel, by unfold InDram; decide +kernel⟩

theorem witness_ArrivalEvents :
    (∀ r ∈ [RunState.walking, .pageWait], let s := other (fun x => { x with run := r })
      (s.at? lean4).map (fun x => (x.run, s.awaits lean4.yidx x.who.asker)) = some (r, false)) ∧
    (let s := other (fun x => { x with run := .fetching, st := { x.st with sup := true } })
     (s.at? lean4).map (fun x => (x.run, x.missing, x.st.sup, x.modes.asid)) = some (.fetching, some (4000, true), true, 0) ∧
       (s.at? lean4).map (fun x => (x.storeBuf, x.arch.held, x.act.isNone, x.pair.isNone)) = some ([], [], true, true) ∧
       4000 < dramEnd ∧ s.dev.engines = [] ∧ s.dev.tiles = [] ∧ s.yards.isEmpty = true ∧ s.dev.partials = []) ∧
    (∀ st ∈ [(⟨yardKey 0 80, 0, [1], 0, 8, none, none⟩ : HeldStore), ⟨128, 128, List.replicate 128 7, 0, 8, none, none⟩],
      let s := other (fun x => { x with storeBuf := [st] })
      (s.at? lean4).map (fun x => (x.storeBuf, x.fenceRel)) = some ([st], none) ∧ st.mark = none ∧
        s.keyHeld st.key st.bytes.length = false ∧ s.dev.tenReqs = [] ∧ s.dev.tiles = [] ∧ (s.yard 0).domain = [] ∧
        s.dev.partials = [] ∧ st.rel = none ∧ st.bytes.length ≤ 128) ∧
    (isYardMem (yardKey 0 80) = true ∧ isYardMem 128 = false) ∧
    (let s := other (fun x => { x with run := .moving 0 ⟨0, true, 0, 2⟩ })
     (s.at? lean4).map (fun x => x.run) = some (.moving 0 ⟨0, true, 0, 2⟩) ∧ 0 ≤ s.cycle ∧ ∀ z ∈ s.strands, z.pos ≠ ⟨0, true, 0, 2⟩) :=
  ⟨by decide +kernel, by decide +kernel, by decide +kernel, by decide +kernel, by decide +kernel⟩

/-- HeavyCoreEvents: a packet at the head of its queue; its result and its fault at a strand that shipped it; a cancel; a matrix
operation with a pipe free, and one in a pipe whose tiles are at the heavy core; a tile transfer. -/
def shipped : Strand → Strand := fun x => { x with window := [⟨9, [.s 4], BitVec.allOnes 64, 3, 3, 1, false, none, x.arch, false, none, []⟩] }

def matPacket : Packet := { packet with op := .mma 0 1 2 false, dests := [], opnd := [] }

def withTiles : Strand → Strand := fun x =>
  let t := fun (c : TileCfg) (i : Nat) => (⟨some c, .clean, some i⟩ : TileReg)
  { x with tiles := ((x.tiles.set 0 (t ⟨4, 16, .f32⟩ 0)).set 1 (t ⟨4, 64, .f32⟩ 1)).set 2 (t ⟨4, 64, .f32⟩ 2) }

theorem witness_HeavyCoreEvents_dispatch :
    ∀ c ∈ [0, 1], (let H := { Yard.reset.heavy with queue := [packet], cg := c }
     let s := heavyOf { other shipped with me := { sup.me with run := if c = 0 then .waiting .waiti else .ready } } H
     s.ownsPosition 0 = some false ∧ s.resumable 0 = none ∧
       H.heads.filter (fun h => s.dispatchable 0 h.2 && !H.sent.contains h.1) = [(4, packet)] ∧
       s.at? packet.pos = some (shipped user.me) ∧ (s.strands.map (fun y => y.pos)).Nodup ∧ packet.pos.core < 128 ∧
       packet.op = .dfp 2 ∧ packet.dests = [.s 4]) := by decide +kernel

theorem witness_HeavyCoreEvents :
    (∀ b ∈ [ReplyBody.done [.s 4 7], .fault 0x20 55 none],
      let s := heavyOf (other shipped) { Yard.reset.heavy with replies := [⟨lean4, 9, 0, b⟩] }
      s.at? lean4 = some (shipped user.me) ∧ (s.strands.map (fun y => y.pos)).Nodup ∧ s.reply? lean4 9 = some ⟨lean4, 9, 0, b⟩ ∧
        (shipped user.me).pair = none ∧ (shipped user.me).st.safereq = false ∧ (shipped user.me).arch.held = [] ∧
        (shipped user.me).pending = [] ∧ trapMigrates (s.yard 0).regs.trapmig (0x80 ||| 0x20) = false) ∧
    trapMigrates 0x100000000 (0x80 ||| 0x20) = true ∧
    (∀ b ∈ [false, true],
      let s := heavyOf (other (fun x => { shipped x with stopped := b }))
        { Yard.reset.heavy with cancels := [⟨lean4, [9]⟩], queue := [packet] }
      (s.yard 0).heavy.cancels = [⟨lean4, [9]⟩] ∧ (s.at? lean4).map (fun x => (x.stopped, x.window.map (fun e => e.seq))) = some (b, [9]) ∧
        (s.strands.map (fun y => y.pos)).Nodup ∧ ∃ k ∈ (s.yard 0).heavy.queue, (k.pos == lean4 && [9].contains k.seq) = true ∧ k.seq = 9) ∧
    (let H := { Yard.reset.heavy with matq := [⟨matPacket, none⟩] }
     H.freePipe = some 0) ∧
    (let s := heavyOf (other withTiles) { Yard.reset.heavy with
        pipes := [(1, ⟨matPacket, none⟩)], tiles := [⟨0, lean4, 0, 0, 0⟩, ⟨1, lean4, 1, 0, 0⟩, ⟨2, lean4, 2, 0, 0⟩] }
     (s.yard 0).heavy.pipes.find? (fun e => e.1 == 1) = some (1, ⟨matPacket, none⟩) ∧ s.at? matPacket.pos = some (withTiles user.me) ∧
       (s.strands.map (fun y => y.pos)).Nodup ∧ (withTiles user.me).home.yidx = 0 ∧
       (∀ j ∈ [(0 : BitVec 3), 1, 2], ((withTiles user.me).tile j).cfg.isSome = true ∧
         ((s.yard 0).heavy.tileOf (withTiles user.me).home j.toNat).map (fun p => p.data) = some 0) ∧
       matPacket.nve = false ∧ matPacket.dze = false ∧ matPacket.nanmode = false) :=
  ⟨by decide +kernel, by decide +kernel, by decide +kernel, by decide +kernel, by decide +kernel⟩

/-- WaitEvents: a wait that is woken, polls, is over; a WAITI that is over; a trigger's activation and a handler's; a gather of
statistics; a skewed region that is arranged; a mirror message; a closing window of honoured hints. -/
def waiting (p : WaitKind) (w : Wait) : State :=
  { other (fun x => { x with run := .waiting p, wait := some w }) with cycle := 7 }

theorem witness_WaitEvents_waits :
    (∀ p ∈ [WaitKind.cwait, .swait, .rdrecv], let s := waiting p ⟨p, some 6, none, 7⟩
      (s.at? lean4).map (fun x => (x.run.isTimed, x.wait)) = some (true, some ⟨p, some 6, none, 7⟩) ∧
        (s.strands.map (fun y => y.pos)).Nodup ∧ (s.yard 0).watches.any (fun w => w.pos == lean4) = false ∧ (7 : Nat) ≤ s.cycle ∧
        (⟨p, some 6, none, 7⟩ : Wait).over s.cycle = true) ∧
    (let s := { waiting .cwait ⟨.cwait, some 6, none, 7⟩ with yards := [(0, { Yard.reset with watches := [⟨lean4, 5, true⟩] })] }
     (s.yard 0).watches.any (fun w => w.pos == lean4 && w.woken) = true) ∧
    (let s := waiting .waiti ⟨.waiti, some 6, none, 0⟩
     (s.at? lean4).map (fun x => (x.run, x.wait)) = some (.waiting .waiti, some ⟨.waiti, some 6, none, 0⟩) ∧
       (⟨.waiti, some 6, none, 0⟩ : Wait).over s.cycle = true) := by decide +kernel

theorem witness_WaitEvents :
    (let s := { other id with yards := [(0, { Yard.reset with actq := [⟨1, .trigger 0x3000 99 true 4, 1⟩] })] }
     (s.nextActivation 0).map (fun e => (e.1.src, e.2.1.tid)) = some (.trigger 0x3000 99 true 4, 1) ∧
       s.activationEntry 0 (.trigger 0x3000 99 true 4) = some (0x3000, 99, 4)) ∧
    (let m : Mailbox := ⟨2, 1, 64, 512, 0x1000, [64, 96], false⟩
     let t := { team1 with mmask := 0 }
     let s := { other id with dev := { user.dev with teams := [t] }, yards := [(0, { Yard.reset with mailboxes := [m] })] }
     (s.yard 0).mailbox 2 = some m ∧ s.team m.tid = some t ∧ s.grid t.grid = some grid1 ∧ m.running = false ∧
       t.mmask.getLsbD (2 : BitVec 4).toNat = false ∧ t.where_ = .placed ∧ t.killed = false ∧ t.yidx = 0 ∧ (s.freeIndices t grid1).head? = some 1) ∧
    (let t := { team1 with savebase := 0x100000, statWaits := [64, 9] }
     let s := { other id with dev := { user.dev with teams := [t] } }
     s.mem.wf = true ∧ s.team 1 = some t ∧ t.resident = true ∧ s.teamStrands 1 ≠ [] ∧ s.keyHeld (s.windowKey 1 64) 64 = false ∧ s.areaKey t 0x40 = some 0x100040) ∧
    (∀ b ∈ [false, true], let s := { other id with cycle := 9, yards := [(0, { Yard.reset with skews := [⟨1, 0, 4, 4, 9, b⟩] })] }
      (s.yard 0).skews.find? (fun k => k.busyUntil != 0 && k.busyUntil ≤ s.cycle) = some ⟨1, 0, 4, 4, 9, b⟩ ∧ s.teamOver 1 = false) ∧
    (let m : MirrorMsg := ⟨3, ⟨5, 6, 7, 8, true⟩, 0⟩
     let s := { other id with dev := { user.dev with mirrorMsgs := [m] } }
     s.dev.mirrorMsgs.find? (fun m => m.due ≤ s.cycle) = some m) ∧
    (∀ h ∈ [16383, 16384, 16385, 65537], let s := { other id with dev := { user.dev with funcs := [(3, { Func.reset with closing := [(0, h, 16384)] })] } }
      (s.func 3).closing = [(0, h, 16384)] ∧ 0 ≤ s.cycle) := by decide +kernel

/-- TenureTranslationEvents: a request that nothing conflicts with, and one that recalls a whole tile; a drain; a walk that finds a
leaf; answers of the host that allow and deny, a page request, an invalidation. -/
def wholeTile (held : List (Nat × Tenure)) : TileObj :=
  { openTile with desc := (Desc.ofBytes ((descBytes 0x100000).set 50 0)).getD (desc 0), pieces := [⟨0, 12, held⟩] }

def request (k : Tenure) : TenReq := ⟨lean4, .tacq, 0x100000, 0, 0, 5, k, [(1, 3)], true, false⟩

def asking (T : TileObj) (k : Tenure) : State :=
  { other id with dev := { user.dev with tiles := [T], tenReqs := [request k] } }

theorem witness_TenureTranslationEvents_tenure :
    (∀ k ∈ [Tenure.s, .w, .a], let s := asking (wholeTile []) k
      s.tile 0 5 = some (wholeTile []) ∧ (wholeTile []).conflict 0 k true [(1, 3)] = none) ∧
    (∀ e ∈ [(Tenure.w, Tenure.w, Recall.recall), (.w, .s, .downgrade), (.a, .w, .combine)],
      let T := wholeTile [(7, e.1)]
      (asking T e.2.1).tile 0 5 = some T ∧ T.conflict 0 e.2.1 true [(1, 3)] = some (⟨0, 12, [(7, e.1)]⟩, 7, e.2.2) ∧ 0 < 12 ∧
        T.pieces = [⟨0, 12, [(7, e.1)]⟩] ∧ T.desc.split = false ∧ (asking T e.2.1).dev.partials = []) ∧
    (∀ more ∈ [[], [(3, 9)]], let q : Acquire := ⟨user.me.toucher 30, 1, (1, 6) :: more⟩
      let s := { other id with dev := { user.dev with acquires := [q] } }
      s.dev.acquires = [q] ∧ q.asks = (1, 6) :: more ∧ s.yards.isEmpty = true) := by decide +kernel

/-- ASID 5 with one leaf of level 1 for its lowest addresses. -/
def space5 (s : State) (leaf : Nat) : State :=
  mems { s with dev := { s.dev with spaces := [⟨5, 7, 3, 0x10001, 0, 0⟩] } }
    [(0x10000, leBytes 8 0x20001), (0x20000, leBytes 8 leaf)]

def walked (leaf : Nat) : State :=
  { space5 (other id) leaf with yards := [(0, { Yard.reset with walks := [⟨5, 0x1000, [.strand lean4 false 0]⟩] })] }

def asker (tries : Nat) (pri : Bool) : PageWaiter :=
  ⟨.strand lean4 false 0, leafEntry 5 0 1 0x3F false, true, false, !pri, 0, tries, pri, false⟩

def pageAsked (v : PageWaiter) : State :=
  let s := space5 (other id) 0x3F
  { s with dev := { s.dev with pageReqs := [⟨5, 1, true, [v]⟩], pageFaults := if v.pri then [(5, 1)] else [] } }

theorem witness_TenureTranslationEvents_translation :
    ((∀ l ∈ [0x8000001F, 0x3F, 0], ((walked l).yard 0).walks[0]? = some ⟨5, 0x1000, [.strand lean4 false 0]⟩ ∧
        ((walked l).yard 0).walkWait = [] ∧ ((walked l).yard 0).tlb = []) ∧ lean4.yidx = 0 ∧
      ((walked 0x8000001F).walk 5 0x1000).map (fun e => (e.maps 5 0x1000, e.hostLeaf)) = some (true, false) ∧
      ((walked 0x3F).walk 5 0x1000).map (fun e => (e.maps 5 0x1000, e.hostLeaf)) = some (true, true) ∧ ((walked 0).walk 5 0x1000).isNone = true) ∧
    (∀ n ∈ [0, 2], let s := pageAsked (asker n false)
      let q : PageReq := ⟨5, 1, true, [asker n false]⟩
      s.dev.pageReqs.find? (fun q => q.asid == 5 && q.page == 1 && q.waiters.any PageWaiter.translating) = some q ∧
        (∀ z ∈ s.dev.pageReqs, z.waiters ≠ []) ∧ (asker n false).who = .strand lean4 false 0) ∧
    (5, 1) ∈ (pageAsked (asker 1 true)).dev.outstanding ∧
    (let s := { other id with dev := { user.dev with invals := List.replicate 31 ⟨3, 7, 0x1000, 4096, []⟩ } }
     s.dev.invals.length < 32 ∧ s.dev.invals ≠ [] ∧ s.usesOf [] = false) := by decide +kernel

/-- MeshEvents: a packet that moves on and one that has arrived; a round that combines at an inner stop, and at the root; routers to
power down, wake and bring up. -/
def inNet (l : List NetPacket) : State :=
  { other id with dev := { user.dev with net := l, routes := (List.range 16).map (fun i => (i, ⟨false, 0xFFFF⟩)) } }

def message (dst n : Nat) : Msg := ⟨2, 0, dst, false, 0, 3, List.replicate n 9, 0, some (lean4, 0), 0, 0⟩

theorem witness_MeshEvents_ports : ∀ e ∈ [(0, 5), (0, 0), (63, 0)],
    ∀ b ∈ [NetBody.message (message 0 8), .answer ⟨(lean4, 1), 2, 3⟩, .vector 2 7, .traffic (some (9, 5, 3)), .traffic none],
    let k : NetPacket := ⟨e.1, 0, e.2, 5, 3, 2, false, b⟩
    ((inNet [k]).router e.1).power = .up ∧ (assocGet Port.reset ((inNet [k]).router e.1).ports k.port).freeAt ≤ (inNet [k]).cycle ∧ (inNet [k]).candidates e.1 k.port = [k] ∧ k.vc < 12 := by decide +kernel

def innerTree : Tree := ⟨0, 0, 0, 0, [0, 3], [(3, 0, 7)], none, []⟩
def rootTree : Tree := ⟨0, 0, 0, 0, [0], [(0, 0, 7)], none, []⟩

theorem witness_MeshEvents_rounds :
    ∀ e ∈ [(innerTree, 3), (rootTree, 0)], let s := { inNet [] with dev := { (inNet []).dev with trees := [(2, e.1)] } }
      let ports := (List.range 5).filter (fun i => (s.treePorts e.1).contains (e.2, i))
      s.dev.tree 2 = some e.1 ∧ (s.router e.2).power = .up ∧ ports ≠ [] ∧ (e.1.roundAt ports e.2).isSome = true ∧
        (match nextHop e.2 (s.yardStop e.1.root) with
        | some _ => s.dev.localRoom e.2 10 2
        | none => e.1.total.isNone && e.1.devices.isEmpty) = true := by decide +kernel

theorem witness_MeshEvents_routers :
    let s := { inNet [] with
      cycle := 2048, dev := { (inNet []).dev with routers := [(7, { Router.reset with power := .down }), (8, { Router.reset with power := .waking 2048 })] } }
    (s.router 63).power = .up ∧ (s.router 63).idleSince + 2048 ≤ s.cycle ∧ (s.router 63).upUntil ≤ s.cycle ∧
      s.wanted 63 = false ∧ s.treeOpenAt 63 = false ∧ (s.router 7).power = .down ∧ (s.router 8).power = .waking 2048 := by
  decide +kernel

/-- A mailbox of 512 bytes whose next record goes to offset 64. -/
def box : Mailbox := ⟨2, 1, 64, 512, 0x1000, [], false⟩

def boxed (msgs held : List Msg) (boxes : List Mailbox) : State :=
  let s := { inNet [] with
    dev := { (inNet []).dev with msgs := msgs, links := [(3, 77)] }
    yards := [(0, { Yard.reset with mailboxes := boxes, heldMsgs := held })]
    cycle := 70000 }
  { s with mem := s.mem.writeBytes (s.windowKey 1 64) (leBytes 4 64 ++ leBytes 4 64) }

theorem witness_MeshEvents_messages :
    (∀ dst ∈ [0, 63], let s := boxed [message dst 8] [] []
      s.dev.msgs.find? (fun m => !m.remote && (m.dst != 63 || s.dev.hostLinkUp)) = some (message dst 8) ∧ (s.yard dst).mailbox 2 = none ∧ (s.func 3).eqsize = 0) ∧
    (let s := boxed [message 0 256] [] [box]
     let c := s.mbCtl box
     (s.yard 0).mailbox 2 = some box ∧ (∀ h ∈ (s.yard 0).heldMsgs, h.cls ≠ 2) ∧ c.wr + 8 + 256 ≤ box.size ∧
       c.used + 8 + 256 ≤ box.size - 64 ∧ s.windowHeld box.tid box.mb box.size = false) ∧
    (let s := boxed [] [] [box]
     s.dev.boot.phase = 5 ∧ (∃ l ∈ s.dev.links, l.2 = 77) ∧ s.isYard 0 = true ∧ (256 : Nat) % 8 = 0 ∧ (8 : Nat) % 8 = 0) ∧
    (let m := message 0 8
     let s := boxed [] [m] [box]
     (s.yard 0).heldOf 2 = some m ∧ (s.yard 0).mailbox 2 = some box ∧ (s.mbCtl box).wr + 8 + m.payload.length ≤ box.size ∧
       (s.mbCtl box).used + 8 + m.payload.length ≤ box.size - 64 ∧ s.windowHeld box.tid box.mb box.size = false) ∧
    (let m := message 0 256
     let s := { boxed [] [m] [box] with mem := (boxed [] [m] [box]).mem.writeBytes ((boxed [] [m] [box]).windowKey 1 64) (leBytes 4 256) }
     (s.yard 0).heldOf 2 = some m ∧ (s.yard 0).mailbox 2 = some box ∧ m.since + s.mbWait box ≤ s.cycle ∧
       s.windowHeld box.tid box.mb box.size = false ∧ s.placeable 0 box m = false) ∧
    (let s := boxed [] [message 0 8] []
     (s.yard 0).heldOf 2 = some (message 0 8) ∧ (s.yard 0).mailbox 2 = none) ∧
    (let s := { other (fun x => { x with run := .answerWait, sent := some 1 }) with dev := { user.dev with answers := [⟨(lean4, 0), 2, 3⟩] } }
     (s.at? lean4).isSome = true ∧ s.dev.answers.find? (fun a => a.src == (lean4, 0) && a.code == 2) = some ⟨(lean4, 0), 2, 3⟩) := by
  decide +kernel

/-- TransferHostEvents: a transfer that can start, one that can complete at the end of memory, one that fails, one whose peer is
lost; an exported range and a counter in it; an alias, a ring with room, and the phases of bring-up. -/
def transfer (state : Nat) (dst : Word) (ctl : Word) : Transfer :=
  ⟨1, 0, 0, 0, 3, dst, 0x200000, ctl, 0, 0x900, none, none, 0x900, 0, none, state, 0, 0, 8⟩

def engine2 (t : Transfer) : State :=
  { other id with dev := { user.dev with engines := [(2, { Engine.reset with queue := [t] })] } }

theorem witness_TransferHostEvents_transfers :
    (let t := transfer 1 0x200010 0
     let s := engine2 t
     (s.engine 2).queue = [t] ∧ t.state = 1 ∧ s.transferHeld 2 t = false ∧ s.tenureReady 2 t = true) ∧
    (let t := transfer 2 0x7FFFFFF700 0
     let s := engine2 t
     (s.engine 2).queue = [t] ∧ s.transferHeld 2 t = false ∧ s.tenureReady 2 t = true ∧ t.state = 2 ∧ s.team t.tid = none ∧
       s.isFrozen t.tenant.toNat = false ∧ s.mem.wf = true ∧ t.line = none ∧ t.cursor = 0 ∧
       (t.units.drop t.cursor).head?.map (fun l => l.length) = some 1 ∧
       s.dev.tiles = [] ∧ s.dev.poison = [] ∧ s.dev.partials = [] ∧ (∀ z ∈ s.yards, z.2.domain = []) ∧ ctlDir t.ctl = 0 ∧ t.comp = 0 ∧ t.asid = 0 ∧
       t.dstDesc = none ∧ t.dst.toNat + t.len ≤ dramEnd ∧ t.src.toNat + t.len ≤ dramEnd) ∧
    (let t := transfer 2 0x8000000000 0
     ((engine2 t).transferCause 2 t).isSome = true ∧ (engine2 t).team t.tid = none ∧ (engine2 t).isFrozen t.tenant.toNat = false ∧
       (engine2 t).transferHeld 2 t = false ∧ (engine2 t).tenureReady 2 t = true) ∧
    (let t := transfer 1 0x200010 0
     let s := { engine2 t with dev := { (engine2 t).dev with funcs := [(3, { Func.reset with frozen := true })] } }
     (s.engine 2).queue = [t] ∧ s.team t.tid = none ∧ s.isFrozen t.tenant.toNat = true ∧ s.transferHeld 2 t = false ∧
       s.tenureReady 2 t = true) ∧
    (let t := transfer 1 0x200010 ((1 <<< 42) ||| (77 <<< 48))
     let s := engine2 t
     (s.dev.engines.map (fun e => e.1)).Nodup ∧ s.linked 77 = false ∧
       ∃ u ∈ s.queuedTransfers, ctlDir u.2.ctl ≠ 0 ∧ ctlDev u.2.ctl = 77) := by decide +kernel

def booting (b : BringUp) : State := { sup with dev := { sup.dev with boot := b } }

def hosted (f : Func) : State :=
  let s := space5 (other id) 0x1F
  { s with dev := { s.dev with links := [(1, 77)], funcs := [(3, f)], exports := [(2, 5)] } }

theorem witness_TransferHostEvents_host :
    (let s := hosted Func.reset
     s.dev.boot.phase = 5 ∧ s.linked 77 = true ∧ s.dev.tiles = [] ∧ s.dev.poison = [] ∧ s.dev.partials = [] ∧ s.dev.engines = [] ∧
       (∀ z ∈ s.yards, z.2.skews = []) ∧
       s.dev.exportedTo 2 = some 5 ∧ s.dev.exportedTo 3 = none ∧ s.exported 5 0x300050 200 .store = some [(0x300050, 200)] ∧ (s.addTarget 5 0 0x300050).toOption = some 0x300050 ∧
       0x7FFFFFFFFF + 1 ≤ dramEnd) ∧
    (let F := { Func.reset with aliases := [⟨6, 5, 0x300050, 0⟩] }
     let s := hosted F
     (s.func 3).aliases.find? (fun a => a.n == 6) = some ⟨6, 5, 0x300050, 0⟩ ∧ (s.func 3).aliases.find? (fun a => a.n == 7) = none) ∧
    (let F := { Func.reset with eqsize := 4, eqbase := 0x1000, eqwr := 7, eqrd := 5, backlog := [HostEvent.of 3 1 2 3 4] }
     let s := hosted F
     (s.func 3).backlog = [HostEvent.of 3 1 2 3 4] ∧ (s.func 3).eqsize ≠ 0 ∧ (s.func 3).ringFull = false ∧ s.dev.hostLinkUp = true) ∧
    (let s := { inNet [] with dev := { (inNet []).dev with trees := [(2, rootTree), (3, { rootTree with bufs := [] })] } }
     s.dev.boot.phase = 5 ∧ s.dev.tree 3 = some { rootTree with bufs := [] } ∧ s.treeBusy 3 = false) ∧
    State.reset.dev.boot.phase ≠ 5 ∧ (booting { BringUp.reset with phase := 2 }).dev.boot.phase = 2 ∧ (7 : Nat) < 8 ∧ (15 : Nat) < 16 := by
  decide +kernel

/-- SchedulerEvents: a record to take from a host queue, from the device queue and from an overflow area; a team to place, one whose
priority rises, and one that leaves by its quantum, its wait, its time at safe points and its swap-out. -/
def launching (s : State) : State :=
  mems { s with dev := { s.dev with spaces := [⟨5, 7, 3, 0x10001, 0, 0⟩] } }
    [(0x10000, leBytes 8 0x20001), (0x20000, leBytes 8 0x1F), (0x10000 + 8 * 8191, leBytes 8 0x28001),
      (0x2E000, leBytes 8 0x8000001F)]

def areas : List Word := [0x00FFFE0000000000, 0x00FFFE0000200000]

/-- The leaf that maps them. -/
def areaLeaf : TlbEntry := leafEntry 5 0x00FFFE0000000000 1 0x8000001F false

theorem areas_map (va : Nat) (h : 0x00FFFE0000000000 ≤ va) (g : va < 0x00FFFE0080000000) :
    (launching sup).walk 5 va = some areaLeaf := by
  have a : va / 2 ^ 43 % 2 ^ 13 = 8191 := by omega
  have b : va / 2 ^ 31 = 0x00FFFE0000000000 / 2 ^ 31 := by omega
  have sp : (launching sup).space 5 = some ⟨5, 7, 3, 0x10001, 0, 0⟩ := by decide +kernel
  have t : (launching sup).walk 5 va = walkFrom (launching sup).mem 5 va 4 0 0x10000 := by
    simp only [State.walk, sp]
    rw [if_pos (by decide), show (0x10001 : Word).toNat % 2 ^ 52 / 2 ^ 16 * 2 ^ 16 = 0x10000 from by decide]
  have r0 : leValue ((launching sup).mem.readBytes (0x10000 + 8 * 8191) 8) = 0x28001 := by decide +kernel
  have r1 : leValue ((launching sup).mem.readBytes (0x28000 + 8 * (0x00FFFE0000000000 / 2 ^ 31 % 2 ^ 12)) 8) = 0x8000001F := by
    decide +kernel
  have e : leafEntry 5 va 1 0x8000001F false = areaLeaf := by
    simp only [areaLeaf, leafEntry, levelBits, b]
  rw [t, walkFrom]
  simp only [levelBits, indexBits, a, r0]
  rw [if_neg (by decide), if_neg (by decide), if_neg (by decide), walkFrom]
  simp only [levelBits, indexBits, b]
  rw [if_neg (by decide), show (0x28001 : Nat) % 2 ^ 52 / 2 ^ 9 * 2 ^ 9 = 0x28000 from rfl, r1, if_neg (by decide), if_pos (by decide), e]

theorem area_page (va : Nat) (h : 0x00FFFE0000000000 ≤ va) (g : va < 0x00FFFE0080000000) :
    (launching sup).devicePage 5 va = some ((0x80000000 + (va - 0x00FFFE0000000000)) / 4096) := by
  simp only [State.devicePage, areas_map va h g]
  rw [if_neg (by decide), if_neg (by decide)]
  simp only [TlbEntry.key, show areaLeaf.hostLeaf = false from rfl, show areaLeaf.bits = 31 from rfl,
    show areaLeaf.ppage = 1 from by decide]
  rw [if_neg (by decide), show 1 * 2 ^ 31 + va % 2 ^ 31 = 0x80000000 + (va - 0x00FFFE0000000000) from by omega]

/-- The runs of an area lie where the leaf maps it. -/
theorem area_runs (o n : Nat) (h : o % 4096 = 0) (g : o + n ≤ 0x80000000) :
    ∀ r ∈ (launching sup).runsOf 5 (0x00FFFE0000000000 + o) n, 0x80000000 + o ≤ r.1 ∧ r.1 + r.2 ≤ 0x80000000 + (o + n) := by
  intro r hr
  obtain ⟨i, hi, e⟩ := List.mem_filterMap.1 hr
  have hi := List.mem_range.1 hi
  have lo : max (0x00FFFE0000000000 + o) (((0x00FFFE0000000000 + o) / 4096 + i) * 4096) = 0x00FFFE0000000000 + (o + 4096 * i) := by omega
  have k : o + 4096 * i < o + n := by omega
  simp only [lo] at e
  rw [area_page _ (by omega) (by omega)] at e
  have e := Option.some.inj e
  subst e
  exact ⟨by simp only []; omega, by simp only []; omega⟩

theorem area_mapped_of (o n : Nat) (h : o % 4096 = 0) (g : o + n ≤ 0x40000000) :
    (launching sup).areaMapped 5 (0x00FFFE0000000000 + o) n = true := by
  have r : ∀ i ∈ List.range ((0x00FFFE0000000000 + o + n + 4095) / 4096 - (0x00FFFE0000000000 + o) / 4096),
      (match (launching sup).walk 5 (((0x00FFFE0000000000 + o) / 4096 + i) * 4096) with
      | some e => e.r && e.w && e.x && !e.hostLeaf
      | none => false) = true := by
    intro i hi
    have := List.mem_range.1 hi
    rw [areas_map _ (by omega) (by omega)]
    rfl
  simp only [State.areaMapped, Bool.and_eq_true, List.all_eq_true, beq_iff_eq, decide_eq_true_eq]
  refine ⟨⟨⟨⟨⟨by omega, by omega⟩, by omega⟩, fun z hz => ?_⟩, fun z hz => ?_⟩, r⟩
  · have := area_runs o n h (by omega) z hz
    omega
  · rw [show (launching sup).areas = [] from by decide +kernel] at hz
    cases hz

theorem witness_SchedulerEvents_order :
    let r := Record.of (recordBytes 3)
    let s := launching sup
    let n := (r.grid 0 5 none).areaSize
    r.valid (s.spaceOf 5).tenant = true ∧ areas ≠ [] ∧ areas.length = r.teams ∧
      (∀ b ∈ areas, s.areaMapped 5 b.toNat n = true) ∧
      areas.Pairwise (fun a b => runsApart (s.runsOf 5 a.toNat n) (s.runsOf 5 b.toNat n) = true) := by
  have z : ((Record.of (recordBytes 3)).grid 0 5 none).areaSize ≤ 0x200000 := by decide +kernel
  refine ⟨by decide +kernel, by decide +kernel, by decide +kernel, ?_, ?_⟩
  · intro b hb
    rcases List.mem_cons.1 hb with rfl | hb
    · exact area_mapped_of 0 _ rfl (by omega)
    · rw [List.mem_singleton.1 hb]
      exact area_mapped_of 0x200000 _ rfl (by omega)
  · refine List.Pairwise.cons (fun b hb => ?_) (List.Pairwise.cons (fun b hb => (List.not_mem_nil hb).elim) List.Pairwise.nil)
    rw [List.mem_singleton.1 hb]
    simp only [runsApart, List.all_eq_true, Bool.or_eq_true, decide_eq_true_eq]
    intro p hp q hq
    have u := area_runs 0 _ rfl (by omega) p hp
    have v := area_runs 0x200000 _ rfl (by omega) q hq
    omega

theorem witness_SchedulerEvents_records :
    (let Q : HostQueue := ⟨5, 0x300000, 4, 9, 0, 0, [], none⟩
     let s := launching { sup with dev := { sup.dev with funcs := [(3, { Func.reset with queues := [(1, Q)] })] } }
     let s := mems s [(0x300000, leBytes 8 10), (0x300080, recordBytes 3)]
     (s.func 3).queues.find? (fun e => e.1 == 1) = some (1, Q) ∧ s.queueKey Q 0 = some 0x300000 ∧ s.dev.boot.phase = 5 ∧
       (s.func 3).frozen = false ∧ Q.taken < s.counter 0x300000 ∧ s.queueKey Q (64 + 64 * (Q.taken % Q.n)) = some 0x300080 ∧
       s.mem.readBytes 0x300080 64 = recordBytes 3 ∧ (Record.of (recordBytes 4)).valid (s.spaceOf Q.asid).tenant = false) ∧
    (let G := { (Record.of (recordBytes 3)).grid 9 5 none with ovf := 0x300000, ovfsize := 0x1000 }
     let s := mems (launching { sup with dev := { sup.dev with grids := [G] } }) [(0x300000, leBytes 8 2 ++ leBytes 8 1), (0x300080, recordBytes 3)]
     (s.yard 0).dlq = [] ∧ s.grid 9 = some G ∧ (s.overflow G).map (fun o => (o.1, o.2.1)) = some (2, 1) ∧ s.maySupply 0 9 = true ∧
       s.ovfKey G (64 + 64 * (1 % G.ovfRecords)) = some 0x300080) := by decide +kernel

/-- A second team, pending. -/
def other2 (t : Team) : Team := { t with tid := 2, where_ := .pending, cores := [], granules := [] }

def scheduled (f : Strand → Strand) (l : List Team) : State :=
  { other f with cycle := 100, dev := { user.dev with teams := l } }

theorem witness_SchedulerEvents_teams :
    (let s := scheduled id [other2 team1]
     (s.nextPlacement 0).map (fun e => (e.1.tid, e.2)) = some (2, grid1) ∧ s.savedTeam 2 = none) ∧
    (let t := { other2 team1 with prio := 0 }
     let s := { scheduled id [t] with cycle := 16000100 }
     s.team 2 = some t ∧ t.isPending = true ∧ s.isYard 0 = true ∧
       t.gain 0 < t.gainBy ((s.yard 0).regs.quantum.toNat % 2 ^ 32) s.cycle) ∧
    (let t := { team1 with quantumAt := some 100 }
     (∀ l ∈ [[t], [t, other2 team1]], (scheduled id l).team 1 = some t ∧ (scheduled id l).delivered 1 = false) ∧
       (100 : Nat) ≤ (scheduled id [t]).cycle ∧ (scheduled id [t]).yieldsTo t = false ∧ (scheduled id [t, other2 team1]).yieldsTo t = true) ∧
    (let s := scheduled (fun x => { x with run := .waiting .cwait, wait := some ⟨.cwait, none, some 99, 0⟩ }) [team1, other2 team1]
     (s.at? lean4).map (fun x => (x.tid, x.run, x.wait.bind (fun w => w.parkAt))) = some (1, .waiting .cwait, some 99) ∧ 99 < s.cycle ∧
       team1.where_ = .placed ∧ ∃ e ∈ s.pendingTeams, (s.without 1).fits 0 e.1 e.2 = true) ∧
    (let s := scheduled id [{ team1 with where_ := .leaving 100 }]
     (s.teamStrands 1).filter (fun x => !x.stoppedForSwap && (!x.stopped || x.holdsOn)) = [user.me] ∧ s.at? lean4 = some user.me ∧
       (s.strands.map (fun y => y.pos)).Nodup ∧ user.me.act = none ∧ user.me.window = [] ∧ user.me.pair = none) ∧
    (let st : HeldStore := ⟨yardKey 0 64, 0, [1, 2], 0, 0, none, none⟩
     let x := { user.me with act := some (started (.trigger 0x1000 5 true 3) [.store [st] false]) }
     let s := scheduled (fun _ => x) [{ team1 with where_ := .leaving 100 }]
     (s.teamStrands 1).filter (fun x => !x.stoppedForSwap && (!x.stopped || x.holdsOn)) = [x] ∧ s.at? lean4 = some x ∧
       (s.strands.map (fun y => y.pos)).Nodup ∧ x.window = [] ∧ x.pair = none ∧ x.sent = none ∧ isYardMem st.key = true ∧
       s.keyHeld st.key st.bytes.length = false) := by decide +kernel

/-- A team whose strand has stopped, to be saved in the area of `tiles4`. -/
def saving : State :=
  let s := scheduled (fun x => { x with stopped := true }) [{ team1 with where_ := .leaving 100, granules := [] }]
  mems { s with dev := { s.dev with grids := [{ grid1 with asid := 5 }], spaces := [⟨5, 7, 3, 0x10001, 0, 0⟩] } }
    [(0x10000, [1, 0, 2]), (0x20010, [0x1F, 0, 0, 0x80])]

theorem witness_SchedulerEvents_swap :
    saving.grid 1 = some { grid1 with asid := 5 } ∧ saving.transferOf 1 = false ∧ saving.rearranging 1 = false ∧
      (saving.team 1).map (fun T => (T.where_, T.granules, T.killed, T.statWaits)) = some (.leaving 100, [], false, []) ∧ (saving.yard 0).domain = [] ∧
      (saving.strands.map (fun x => x.pos)).Nodup ∧ (saving.yard 0).heavy.granary = [] ∧ saving.teamStrands 1 ≠ [] ∧
      (∀ x ∈ saving.teamStrands 1, x.stoppedForSwap = true ∧ x.run ≠ .parkedTrap true ∧ x.resumeMask = none ∧ x.poisonTiles = [] ∧
        x.index.toNat < 8 * grid1.cores ∧ ∀ j ∈ [(0 : BitVec 3), 1, 2, 3, 4, 5, 6, 7], (x.tile j).cfg = none) ∧
      ∀ m : Memory, (∀ a, (∀ i, i < grid1.areaSize → 0x80000000 + i ≠ a) → m.read a = saving.mem.read a) →
        ∀ i, i < grid1.areaSize → ({ saving with mem := m } : State).saveKey team1 i true = some (0x80000000 + i) := by
  refine ⟨by decide +kernel, by decide +kernel, by decide +kernel, by decide +kernel, by decide +kernel, by decide +kernel, by decide +kernel,
    by decide +kernel, by decide +kernel, ?_⟩
  intro m hm i hi
  have z : grid1.areaSize ≤ 0x200000 := by decide +kernel
  have r : ∀ a, a < 0x80000000 - 8 → m.readBytes a 8 = saving.mem.readBytes a 8 := fun a h =>
    read_bytes_congr 8 a (fun k _ h2 => hm k (fun i _ => by omega))
  have sp : saving.space 5 = some ⟨5, 7, 3, 0x10001, 0, 0⟩ := by decide +kernel
  have gr : saving.grid 1 = some { grid1 with asid := 5 } := by decide +kernel
  exact saveSlot_maps (s := { saving with mem := m }) sp gr
    (by rw [show ({ saving with mem := m } : State).mem = m from rfl, r _ (by decide)]; decide +kernel)
    (by rw [show ({ saving with mem := m } : State).mem = m from rfl, r _ (by decide)]; decide +kernel) _ (by omega) true

/-- ErrorEvents: a yard and units at both ends of their range; a record whose interval is over; poison consumed by the supervisor,
by an activation and by a strand; a pair at its exchange; a page request of a tenant; a frozen function. -/
def paired (failed bad : Bool) : Strand → Strand := fun x =>
  { x with run := .agreeing, pair := some { Pair.fresh x.arch with exchanging := true, failed := failed, bad := bad, count := 3 } }

def activation : Activation := ⟨.trigger 1 2 true 3, [], false, false, false, 0, false, 1, []⟩

theorem witness_ErrorEvents :
    (user.isYard 0 = true ∧ (user.yard 0).corrected = [] ∧ (1 : Nat) ≤ 1 ∧ (15 : Nat) ≤ 15) ∧
    (let r := McRecord.of 1 0 3 ⟨0, false, 0, 0⟩ 0 0
     let s := { other id with cycle := 2 ^ 20, yards := [(0, { Yard.reset with corrected := [r] })] }
     (s.yard 0).corrected.find? (fun r => r.cycle / 2 ^ 20 < s.cycle / 2 ^ 20) = some r ∧ (s.yard 0).mailbox 15 = none ∧
       (s.yard 0).mcHeld.length < 16 ∧ (s.yard 0).mcOverflow = false) := by decide +kernel

theorem witness_ErrorEvents_strands :
    (∀ sup ∈ [true, false], let s := other (fun x => { x with run := .consumed 6, st := { x.st with sup := sup } })
      (s.at? lean4).map (fun x => (x.run, x.st.sup, x.canRollBack)) = some (.consumed 6, sup, false) ∧ (s.team 1).isSome = true ∧
        s.transferOf 1 = false ∧ s.rearranging 1 = false ∧ (s.strands.map (fun y => y.pos)).Nodup) ∧
    (let s := other (fun x => { x with run := .consumed 6, act := some activation })
     (s.at? lean4).map (fun x => (x.run, x.act, x.canRollBack, x.tid)) = some (.consumed 6, some activation, true, 1)) ∧
    (RegId.s 1 ≠ .s 0 ∧ RegId.m 7 ≠ .m 0 ∧ ((other id).yard 0).mcHeld.length < 16) := by
  decide +kernel

theorem witness_ErrorEvents_pairs :
    ((other id).at? lean4 = some user.me ∧ user.me.pair = none ∧ ((other id).yard 0).heavy.tileInFlight = false ∧
      ((other id).yard 0).mailbox 15 = none) ∧
    (∀ f ∈ [true, false], ((other (paired f false)).at? lean4).map (fun x => (x.act.isNone, x.pair.map (fun q => (q.exchanging, q.failed, q.bad)))) =
      some (true, some (true, f, false)) ∧ ((other (paired f false)).team 1).isSome = true) ∧
    (0x7FFFFFFFFF < dramEnd ∧ (user.yard (user.blockYard 0x7FFFFFFFC0)).mailbox 15 = none ∧ user.dev.poison = [] ∧
      user.dev.boot.phase ≠ 15 ∧ user.transferOf 1 = false) := by decide +kernel

theorem witness_ErrorEvents_host :
    (user.isYard 0 = true ∧ (user.yard 0).heavy.failed = false ∧ (user.yard 0).heavy.pipes = [] ∧ (user.yard 0).heavy.matq = []) ∧
    (let s := { pageAsked (asker 1 false) with cycle := 20000000 }
     (∃ r ∈ s.dev.pageReqs, s.tenantOf r.asid = 3 ∧
       ∃ v ∈ r.waiters, v.asked = true ∧ v.pri = false ∧ v.failed = false ∧ v.since + 20000000 ≤ s.cycle) ∧
      (∀ x ∈ s.strands, ∀ q ∈ x.pending, q.fromHost = false) ∧ s.hostTransfers = []) ∧
    (({ user.dev with hostLinkUp := false } : Dev).hostLinkUp = false ∧ user.dev.linkWaits = []) ∧
    (let s := { other id with dev := { user.dev with funcs := [(3, { Func.reset with frozen := true })] } }
     (s.func 3).frozen = true ∧ (∀ u ∈ s.queuedTransfers, u.2.tenant ≠ 3) ∧ s.dev.tiles = [] ∧
       ∀ T ∈ s.dev.teams, s.rearranging T.tid = false) := by decide +kernel

/-- BringUpEvents: whatever the identity key is, some record does not hold its public half; recovery, GO with the shortest and longest image, with an unaligned base and with lengths out of range, and the
phases of the other events; the clock at its bounds. -/
theorem witness_BringUpEvents_key : ∃ d : Identity, leBytes 1952 d.idpub.toNat ≠ identityKey.1 := by
  refine Classical.byContradiction fun g => ?_
  have h : ∀ d : Identity, leBytes 1952 d.idpub.toNat = identityKey.1 := fun d => Classical.byContradiction fun e => g ⟨d, e⟩
  have e := (h { Identity.reset with idpub := 0 }).trans (h { Identity.reset with idpub := 1 }).symm
  exact absurd e (by decide +kernel)

theorem witness_BringUpEvents :
    (let b := { BringUp.reset with recovery := true }
     (booting b).dev.boot.recovery = true ∧ (booting b).dev.boot.phase = 0) ∧
    (∀ n ∈ [3373, 67108864], let b := { BringUp.reset with phase := 2, imgbase := 0x1000, imglen := BitVec.ofNat 64 n }
      b.imgbase.toNat % 4096 = 0 ∧ 3373 ≤ b.imglen.toNat ∧ b.imglen.toNat ≤ 67108864 ∧ (booting b).mem.wf = true) ∧
    ((0x1001 : Word).toNat % 4096 ≠ 0 ∧ (3372 : Word).toNat < 3373 ∧ 67108864 < (67108865 : Word).toNat) ∧
    (∀ p ∈ [1, 3, 4, 5], (booting { BringUp.reset with phase := p }).dev.boot.phase = p) ∧
    ((true || false) = true ∧ ({ BringUp.reset with clk := 1999 } : BringUp).clk < 2000) := by decide +kernel

/-- TrapEntry: user and supervisor mode, addresses that are misaligned by one and by four, a counter and a sheaf that are, and a strand
without bindings; a message whose payload is misaligned; a supervisor at a lean core; no matrix pipes, by the team and by the yard. -/
theorem witness_TrapEntry :
    (∀ s ∈ [user, sup], let s := sets s [.s 1 0x2001, .s 2 0x2004, .s 3 0xFFFF0000002004]
      stillB s = true ∧ (s.me.arch.sreg 1).toNat % 2 ≠ 0 ∧ (s.me.arch.sreg 2).toNat % 8 ≠ 0 ∧
        (s.me.arch.sreg 2 + (0xFFFFFFFE : BitVec 32).signExtend 64).toNat % 4 ≠ 0 ∧
        (s.me.arch.sreg 1).extractLsb' 0 2 ≠ (0#2 : BitVec 2) ∧ s.me.act = none ∧ s.me.binding 31 = none ∧
        (s.me.arch.sreg 3).toNat % 64 ≠ 0 ∧
        s.skewBusyKey (s.windowKey s.me.tid ((s.me.arch.sreg 3).toNat - apertureBase)) 64 = false) ∧
    (let s := sets (atMessage none []) [.s 9 0x2004]
     idleB s = true ∧ s.me.act = none ∧ (s.me.arch.sreg 9).toNat % 8 ≠ 0 ∧ s.destOk (s.me.arch.sreg 8) = true ∧
       destClass (s.me.arch.sreg 8) ≠ 15#4) ∧
    (user.me.st.sup = false ∧ sup.me.st.sup = true ∧ ctlAssigned 0x005 = false ∧ ctlAssigned 0x0FF = false) ∧
    (let s : State := { sup with me := { sup.me with pos := lean4 } }
     idleB s = true ∧ s.me.st.sup = true ∧ s.me.pos.heavy = false) ∧
    (let s := { user with dev := { user.dev with grids := [{ grid1 with nomatrix := true }] } }
     idleB s = true ∧ s.nomatrix s.me.tid = true) ∧
    (let s := heavyOf user { Yard.reset.heavy with failed := true }
     idleB s = true ∧ (s.yard s.me.pos.yidx).heavy.failed = true) := by decide +kernel

/-- TrapEntry, of tiles: in each mode, t7 not configured, a word of no configuration (s4), rows, columns and slots out of range (s6, s1),
an invalid format word (s8) and an invalid format; tiles whose types and whose shapes do not match. -/
theorem witness_TrapEntry_tiles :
    (∀ st ∈ [Status.zero, tiles4.me.st],
      let s := sets { tiles4 with me := { tiles4.me with st := st } } [.s 8 0x10000, .s 9 0x0FF]
      AtTiles s ∧ (s.me.tile 7).cfg = none ∧ TileCfg.ofWord (s.me.arch.sreg 4) = none ∧
      (s.me.tile 0).cfg = some ⟨4, 64, .f32⟩ ∧ ((s.me.arch.sreg 6).extractLsb' 0 4).toNat ≥ 4 ∧ ((s.me.arch.sreg 9).extractLsb' 0 8).toNat ≥ 16 ∧
      s.granarySize s.me.tid ≤ ((s.me.arch.sreg 1).extractLsb' 0 9).toNat ∧ gloadControl (s.me.arch.sreg (0 + 1)) = none ∧
      formatValid (s.me.arch.sreg 8) = false) ∧
    (let s : State := { tiles4 with me := { tiles4.me with fmt := { tiles4.me.fmt with valid := false } } }
     AtTiles s ∧ s.me.fmt.valid = false) ∧
    (let s := tiles4
     s.me.fmt.valid = true ∧ s.me.fmt.spn = 0#3 ∧ (∀ j ∈ [(0 : BitVec 3), 1, 2], (s.me.tile j).cfg.isSome = true) ∧
       (⟨4, 64, .f32⟩ : TileCfg).cols ≠ (⟨4, 16, .f32⟩ : TileCfg).cols) := by
  refine ⟨fun st h => ?_, ⟨tile_state_of (by decide +kernel) (by decide +kernel), by decide +kernel⟩, by decide +kernel⟩
  simp only [List.mem_cons, List.not_mem_nil, or_false] at h
  rcases h with rfl | rfl <;> exact ⟨tile_state_of (by decide +kernel) (by decide +kernel), by decide +kernel⟩

/-- TrapEntry, of handles: index 0, an entry that is read, a stale generation, an entry that is not open, and an index past the tile's. -/
theorem witness_TrapEntry_handles : idleB atTile = true ∧ (atTile.me.arch.sreg 0).toNat % 2 ^ 20 = 0 ∧
    (let s := sets atTile [.s 8 5, .s 9 (BitVec.ofNat 64 (12 * 2 ^ 32))]
     let key := 0x40280
     s.EntryAt 5 key ∧ (s.spaceOf s.me.modes.asid).log2n ≤ 20 ∧ 5 < 2 ^ (s.spaceOf s.me.modes.asid).log2n ∧
       (s.me.arch.sreg 8).toNat / 2 ^ 20 % 4096 ≠ s.entryGen key ∧ (s.me.arch.sreg 7).toNat / 2 ^ 20 % 4096 = s.entryGen key ∧
       (s.me.arch.sreg 7).toNat % 2 ^ 20 = 5 ∧ s.tile s.me.modes.asid 5 = some openTile ∧
       ({ s with dev := { s.dev with tiles := [] } } : State).tile s.me.modes.asid 5 = none ∧
       openTile.desc.outerExt ≤ ((s.me.arch.sreg 9).extractLsb' 32 16).toNat) :=
  ⟨by decide +kernel, by decide +kernel, maps_of_free (by decide +kernel), by decide +kernel⟩

/-- RegisterFrames: no register is poisoned, a form with and one without floating point, a divisor, and a word's address. -/
theorem witness_RegisterFrames : sup.me.arch.poisoned = [] ∧ localDest (.fadd 3 1 2 0 none) = some (.s 3, true) ∧
    localDest (.vadd 3 1 2 0 2 none) = some (.v 3, false) ∧ (sets sup [.s 2 1]).me.arch.sreg 2 ≠ 0 ∧
    (sup.me.arch.sreg 1).extractLsb' 0 2 = (0#2 : BitVec 2) ∧
    (match exec (.divI 3 1 2 none) (sets sup [.s 2 1]) with | .next _ => true | _ => false) = true := by decide +kernel

/-- StepRunsDecoded: the supervisor with ADD s7, s6, s4 in its fetch buffer, and nothing else about to happen. -/
def fetched : State := sets (sup.withFetchWord 32 0x08398800) [.s 6 5, .s 4 2]

theorem witness_StepRunsDecoded : fetched.agenda = [] ∧ fetched.dev.boot.phase = 5 ∧
    (firstEvent fetched fetched.events).isNone = true ∧ fetched.inTurn = true ∧
    (match fetchInstr ⟨fetched, []⟩ with
      | .ok (bs, _) => (match decodeBytes bs with | .ok (.add 7 6 4 none, _) => true | _ => false)
      | .error _ => false) = true := by decide +kernel

theorem test_step_runs_what_was_placed :
    (match step fetched with
      | .next t => t.me.arch.sreg 7 == 7 && t.cycle == fetched.cycle + 1
      | _ => false) = true := by decide +kernel

/-- StepKeepsMemOk: the reset state steps. -/
theorem witness_StepKeepsMemOk : State.reset.mem.wf = true ∧
    (match step State.reset with | .next t => t.mem.wf | _ => false) = true := by decide +kernel

/-- StepKeepsApart: the reset state, whose one strand is the focus, and two strands in their slots. -/
theorem witness_StepKeepsApart : State.reset.Apart ∧ (other id).Apart :=
  ⟨by unfold State.Apart; decide +kernel, by unfold State.Apart; decide +kernel⟩

/-- DecodeRefuses: words of an unassigned major, of an unassigned function, with an extension word and an LA field that ADD has not, and
with reserved bits of TOPEN and of a safe point's mask. -/
theorem witness_DecodeRefuses :
    (0x37000000 : BitVec 32).extractLsb' 24 6 = 0x37#6 ∧ (0x08000015 : BitVec 32).extractLsb' 24 6 = 0x08#6 ∧
    ((0x08000015 : BitVec 32).extractLsb' 0 5).toNat = 21 ∧ (0x08000015 : BitVec 32).extractLsb' 30 2 = 0#2 ∧
    (0x08000020 : BitVec 32).extractLsb' 5 4 ≠ 0#4 ∧ (0x48000000 : BitVec 32).extractLsb' 30 2 = 1#2 ∧
    (0x35000200 : BitVec 32).extractLsb' 9 5 ≠ 0#5 ∧ (0x88000000 : BitVec 32).extractLsb' 30 2 = 2#2 ∧
    (0x08000000 : BitVec 32).extractLsb' 27 5 ≠ 0#5 := by decide

/-- DecodeEncode: an instruction of three words, and an event. -/
theorem witness_DecodeEncode : (Instr.ldOffset 4 2 7 0 4 1 64 (some 0x00010307)).WF ∧
    (Instr.ldOffset 4 2 7 0 4 1 64 (some 0x00010307)).parts.isSome = true ∧ Instr.recall.parts.isNone = true := by decide +kernel
/-! ### Single steps of the shared units -/

/-! R255, R259, R330, R333-R341: clocks, counters and sheaves. -/

theorem test_cadd_saturates :
    after (.cadd 3 1 2 0 2 none) (mems (sets sup [.s 1 0x2000, .s 2 9]) [(0x2000, leBytes 8 0xFFFFFFFFFFFFFFF8)]) (fun t =>
      t.mem.readBytes 0x2000 8 == List.replicate 8 0xFF && t.me.arch.sreg 3 == 0xFFFFFFFFFFFFFFF8 && t.me.st.reason == 1) = true := by
  decide +kernel
theorem test_cadd_misaligned_traps :
    after (.cadd 3 1 2 0 2 none) (sets user [.s 1 0x2004]) (fun t => t.me.trap.code == 0x31 && t.me.trap.addr == 0x2004) = true := by
  decide +kernel
theorem test_tick_adds_at_most_255 :
    after (.tick 1 none) (sets user [.s 1 300]) (fun t => (t.team 1).map (fun T => T.clk) == some 260) = true := by decide +kernel

/-- The sheaf of R330 before step 5: strand 3 has not arrived. -/
def atStep4 : State :=
  let s := { inTeam with me := { inTeam.me with binds := [⟨3, 0xFFFF0000002040, none⟩] } }
  { s with mem := s.mem.writeBytes (s.windowKey 1 0x2040) (Sheaf.mk 3 4096 4 4096 4 4096 0 0).store }

theorem test_sleave_completes_the_phase :
    after (.sleave 3 none) atStep4 (fun t =>
      let h := t.sheaf (t.windowKey 1 0x2040)
      h.arrived == 4 && h.expArr == 3 && h.arrMark == 7 && h.bytesMark == 8192 && h.phase == 1) = true := by decide +kernel
theorem test_sarr_returns_the_phase :
    after (.sarr 4 3 0 0 none) atStep4 (fun t =>
      t.me.arch.sreg 4 == 0 && (t.sheaf (t.windowKey 1 0x2040)).phase == 1) = true := by decide +kernel
theorem test_sarr_unbound_traps : after (.sarr 4 5 0 0 none) user (fun t => t.me.trap.code == 0x30) = true := by decide +kernel
theorem test_yskew_of_the_example :
    after (.yskew 4 1 2 none) (atSkew []) (fun t =>
      t.me.arch.sreg 4 == 1 && (t.yard 0).skews.map (fun k => (k.base, k.rows, k.pitch)) == [(0x3000, 16, 128)]) = true := by
  decide +kernel
/-- R234's example: column 5 of rows of 128 bytes is in bank 2 of every row, and in 16 banks once the region is skewed. -/
theorem test_skew_banks :
    (List.range 16).map (fun i => (atSkew []).bankOf 0 1 (0x1000 + 128 * i + 20)) = List.replicate 16 2 ∧
    (List.range 16).map (fun i => (atSkew [⟨1, 0x1000, 16, 128, 0, false⟩]).bankOf 0 1 (0x1000 + 128 * i + 20)) =
      [2, 3, 4, 5, 6, 7, 8, 9, 10, 11, 12, 13, 14, 15, 0, 1] := by decide +kernel
theorem test_yskew_overlap_fails :
    after (.yskew 4 1 2 none) (sets (atSkew [⟨1, 0x3000, 16, 128, 0, false⟩]) [.s 1 0xFFFF0000003400]) (fun t =>
      t.me.arch.sreg 4 == 0 && t.me.st.reason == 2) = true := by decide +kernel

/-! R94-R96, R113-R115: traps and control registers. -/

theorem test_trap_parks :
    after (.trap 6 none) (sets user [.s 6 99]) (fun t =>
      t.me.trap.code == 0x48 && t.me.trap.addr == 99 && t.me.trap.pc == 1000 && t.me.trap.ilen == 1 &&
        t.me.run == .parkedTrap false && (t.yard 0).notes == [lean4]) = true := by decide +kernel
theorem test_trap_migrates :
    after (.trap 6 none) (migrating user) (fun t =>
      t.me.st.sup && t.me.st.migt && t.me.arch.pcw == 0x1000 && t.me.run == .moving 48 ⟨0, true, 0, 1⟩) = true := by decide +kernel
theorem test_eret_returns :
    after (.eret 0 0 none) inHandler (fun t =>
      !t.me.st.sup && !t.me.st.migt && t.me.arch.pcw == 0x1234 && t.me.run == .moving 48 lean4) = true := by decide +kernel
theorem test_user_read_of_ptbase_traps : after (.krd 5 0x091 none) user (fun t => t.me.trap.code == 0x04) = true := by decide +kernel
theorem test_user_write_of_status_has_no_effect :
    after (.kwr 5 0x000 none) (sets user [.s 5 1]) (fun t => t.me.st == user.me.st && t.me.run == .ready) = true := by decide +kernel
theorem test_fpflags_are_cleared_by_ones :
    after (.kwr 5 0x011 none) (sets user [.flags 0x2B true, .s 5 0x29]) (fun t => t.me.arch.fpflags == 0x02) = true := by decide +kernel
theorem test_krd_cpos : gives (.krd 5 0x042 none) user 5 4 = true := by decide +kernel
theorem test_waiti_takes_a_notification :
    after (.waiti 7 0 none) (beside inHandler (parked false) [lean4]) (fun t =>
      t.me.arch.sreg 7 == 0x100488004 && t.me.arch.sreg 8 == 99 && t.me.arch.sreg 9 == 0x48D0 && (t.yard 0).notes == []) =
      true := by decide +kernel

/-! R160, R200, R217, R263-R288, R313: heavy core, tiles and tenure. -/

theorem test_dmul_is_shipped :
    after (.dmul 4 5 6 0 none) user (fun t =>
      t.me.arch.sreg 4 == 0 && t.me.window.length == 1 && (t.yard 0).heavy.queue.map (fun k => k.op) == [.dfp 2]) = true := by
  decide +kernel
theorem test_guest_dispatch_multiplies :
    after (.guestDispatch 0) (heavyOf (other shipped) { Yard.reset.heavy with queue := [packet], cg := 1 }) (fun t =>
      (t.yard 0).heavy.replies == [⟨lean4, 9, 0, .done [.s 4 0xC018000000000000, .flags 0 true]⟩]) = true := by decide +kernel
theorem test_mma_waits_in_the_matrix_queue :
    after (.mma 0 1 2 0 none) mmaF32 (fun t =>
      (t.yard 0).heavy.matq.map (fun m => m.pkt.op) == [.mma 0 1 2 false] && t.me.window.length == 1) = true := by decide +kernel
theorem test_mma_of_one_product :
    let s := tileState ⟨1, 4, .f32⟩ ⟨1, 4, .f32⟩ ⟨1, 4, .f32⟩ 0x40400000 0 [] []
    after (.matrixCompletion 0 1) (heavyOf s { (s.yard 0).heavy with pipes := [(1, ⟨matrixPacket (supPos 0) (.mma 0 1 2 false), none⟩)] })
      (fun t => ((t.yard 0).heavy.tileOf (supPos 0) 0).map (fun p => p.data) == some 0x41400000) = true := by decide +kernel
theorem test_tzero_is_dirty :
    after (.tzero 1 0 none) tiles4 (fun t => (t.me.tile 1).st == .dirty && tileBits tiles4 t 1 == some 0) = true := by decide +kernel
theorem test_tcfg_of_rb_zero_traps :
    after (.tcfg 1 7 0 none) { tiles4 with me := { tiles4.me with st := Status.zero } } (fun t => t.me.trap.code == 0x21) = true := by
  decide +kernel
theorem test_topen_returns_the_handle :
    after (.topen 7 1 none) atTable (fun t => t.me.arch.sreg 7 == 5 && t.dev.tiles.map (fun T => T.index) == [5]) = true := by
  decide +kernel
theorem test_tacq_w_cuts_and_grants :
    after (.tacqW 7 9 none) atTile (fun t => t.dev.tiles.all (fun T => T.pieces.length == 3 &&
      [⟨0, 1, []⟩, ⟨1, 5, [(64, .w)]⟩, ⟨5, 12, []⟩].all (fun p => T.pieces.contains p))) = true := by decide +kernel

/-! R379, R386, R407: messages and launches. -/

/-- The mailbox of the example of R379: 512 bytes, RD 328, WR 368, 40 bytes used. -/
def exampleBox : State :=
  let s := inNet []
  let s := { s with dev := { s.dev with msgs := [message 0 200] }, yards := [(0, { Yard.reset with mailboxes := [box] })] }
  { s with mem := s.mem.writeBytes (s.windowKey 1 64) (leBytes 4 368 ++ leBytes 4 328 ++ leBytes 4 40) }

theorem test_message_wraps_with_a_pad :
    after (.messageArrival .mesh) exampleBox (fun t =>
      let c := t.mbCtl box
      c.wr == 272 && c.used == 392 && (t.yard 0).mailboxes.map (fun m => m.unstarted) == [[64]]) = true := by decide +kernel
theorem test_message_without_a_mailbox_is_refused :
    after (.messageArrival .mesh) { exampleBox with yards := [] } (fun t =>
      t.dev.net.map (fun k => k.body) == [.answer ⟨(lean4, 0), 2, 2⟩]) = true := by decide +kernel
theorem test_launch_queues_the_record :
    after (.launch 5 6 none) (atLaunch team1) (fun t => (t.yard 0).dlq.map (fun r => r.bytes) == [recordBytes 0]) = true := by
  decide +kernel
theorem test_spawn_starts_slot_1 :
    after (.spawn 5 6 7 none) (sets user [.s 6 0x1000, .s 7 33]) (fun t =>
      t.me.arch.sreg 5 == 1 && t.others.map (fun x => (x.pos, x.arch.pcw, x.arch.sreg 1)) == [(⟨0, false, 4, 1⟩, 0x400, 33)]) = true := by
  decide +kernel
theorem test_cpy_returns_a_ticket :
    after (.cpy 5 6 8 none) atCopy (fun t => t.me.arch.sreg 5 == 0x100 && (t.engine 0).queue.length == 1) = true := by decide +kernel

/-! R446-R453: bring-up. -/

theorem test_go_refuses_a_short_image :
    after (.go 1) (booting { BringUp.reset with phase := 2, imgbase := 0x1000, imglen := 3372 }) (fun t =>
      t.dev.boot.phase == 15 && t.dev.boot.err == 3) = true := by decide +kernel
theorem test_clock_steps_down_by_100 :
    after (.clockStepDown true false) (booting { BringUp.reset with clk := 2000 }) (fun t =>
      t.dev.boot.clk == 1900 && t.dev.boot.thermal) = true := by decide +kernel
theorem test_supervisor_trap_is_a_device_fault :
    after (.trap 0 none) sup (fun t => t.dev.boot.phase == 0 && t.dev.boot.recovery && t.dev.faultRec.isSome) = true := by decide +kernel

/-! Words placed for the next step (R47, R65). -/

theorem test_decodeTableWord : (match decodeTableWord 32 0x08398800 with | some (.add 7 6 4 none) => true | _ => false) = true := by
  decide +kernel
theorem test_undecodable_word_is_cause_1 :
    (match step (let s := sup.withFetchWord 32 0x08000015
        { s with me := { s.me with st := Status.zero, tid := 1 }, dev := { s.dev with teams := [team1], grids := [grid1] } }) with
      | .next t => t.me.trap.code == 0x01
      | _ => false) = true := by decide +kernel

end Sys2Proof.Test
end

section
/-! Proofs of O36: what KWR writes. -/
namespace Sys2Proof.Machine

/-! ### Writes of control registers (R74, R113) -/

/-- An assigned register that its mode may name passes the checks that KRD and KWR share (R113). -/
theorem controlChecks_clear {s : State} (h : s.Clear) {n : Nat} (hn : controlAssigned n = true)
    (hu : s.me.st.sup = true ∨ userAccess n ≠ .no) (log : List Eff) : controlChecks n ⟨s, log⟩ = .ok ((), ⟨s, log⟩) := by
  have hw : waitShipped ⟨s, log⟩ = .ok ((), ⟨s, log⟩) := by
    simp [waitShipped, bind, StateT.bind, Except.bind, h.window, h.pending]
  have hno : (!s.me.st.sup && decide (userAccess n = .no)) = false := by
    rcases hu with hu | hu <;> simp [hu]
  rw [controlChecks, act_bind _ _ _ _ _ (getMe_run ⟨s, log⟩)]
  by_cases h2 : n ≤ 0x02F <;> simp [hn, hno, h2, hw]

/-- What a KWR that its mode allows does: it writes what its source register holds. -/
theorem kwrForm_writes {s : State} (h : s.Clear) (a : BitVec 5) {k : BitVec 12} (hk : controlAssigned k.toNat = true)
    (hw : s.me.st.sup = true ∨ userAccess k.toNat = .rw) (log : List Eff) :
    kwrForm a k ⟨s, log⟩ = writeControl k.toNat (s.me.arch.sreg a) ⟨s, log⟩ := by
  have hu : s.me.st.sup = true ∨ userAccess k.toNat ≠ .no := hw.imp_right (fun e => by simp [e])
  have ha : (s.me.st.sup || decide (userAccess k.toNat = .rw)) = true := by simpa using hw
  rw [kwrForm, act_bind _ _ _ _ _ (controlChecks_clear h hk hu log), act_bind _ _ _ _ _ (rdS_clear h a log),
    act_bind _ _ _ _ _ (getMe_run ⟨s, log⟩), if_pos ha]

/-- A KWR that its mode does not allow does nothing. -/
theorem kwrForm_ignored {s : State} (h : s.Clear) (a : BitVec 5) {k : BitVec 12} (hk : controlAssigned k.toNat = true)
    (hs : s.me.st.sup = false) (hr : userAccess k.toNat = .ro) (log : List Eff) : kwrForm a k ⟨s, log⟩ = .ok ((), ⟨s, log⟩) := by
  rw [kwrForm, act_bind _ _ _ _ _ (controlChecks_clear h hk (.inr (by simp [hr])) log), act_bind _ _ _ _ _ (rdS_clear h a log),
    act_bind _ _ _ _ _ (getMe_run ⟨s, log⟩)]
  simp [hs, hr]

/-- A KWR of a register of which the mode may write no field completes and leaves everything as it was. -/
theorem kwr_completes {s : State} (h : s.Idle) (a : BitVec 5) {k : BitVec 12} (sp : SafePoint) (hk : controlAssigned k.toNat = true)
    (hn : (s.me.st.sup = true ∧ ∀ v, writeControl k.toNat v = pure ()) ∨ (s.me.st.sup = false ∧ userAccess k.toNat = .ro)) :
    Completes (.kwr a k sp) s (words false sp) [] := by
  have hc := h.clear.started (words false sp)
  refine instr_effs s [] h false true sp (kwrForm a k) (fun log => ?_) h.pair hc.window h.safereq
  rcases hn with ⟨hs, hv⟩ | ⟨hs, hr⟩
  · rw [kwrForm_writes hc a hk (.inl hs), hv]; rfl
  · exact kwrForm_ignored hc a hk hs hr log

/-- A control register is written, and what is written is neither memory nor a register of the program. -/
def WritesControl (a : BitVec 5) (k : BitVec 12) (sp : SafePoint) (s : State) (p : State → Prop) : Prop :=
  ∃ t, exec (.kwr a k sp) s = .next t ∧ t.mem = s.mem ∧ t.others = s.others ∧ t.cores = s.cores ∧
    Written s t (words false sp) 0 [] ∧ p t

/-- A write that is one effect answers the state that the effect leaves. -/
theorem kwr_of_effect {s : State} (h : s.Idle) (a : BitVec 5) {k : BitVec 12} (sp : SafePoint) (hk : controlAssigned k.toNat = true)
    (hw : s.me.st.sup = true ∨ userAccess k.toNat = .rw) (e : Eff)
    (he : ∀ log, writeControl k.toNat (s.me.arch.sreg a) ⟨started s (words false sp), log⟩ =
      .ok ((), ⟨applyEff (started s (words false sp)) e, e :: log⟩))
    (hp : (applyEff (started s (words false sp)) e).me.pair = none) (hwin : (applyEff (started s (words false sp)) e).me.window = [])
    (hq : (applyEff (started s (words false sp)) e).me.st.safereq = false) :
    exec (.kwr a k sp) s = .next (applyEff (started s (words false sp)) e) :=
  instr_effs s [e] h false true sp (kwrForm a k)
    (fun log => (kwrForm_writes (h.clear.started _) a hk hw log).trans (he log)) hp hwin hq

theorem started_written {s : State} (h : s.Idle) (n : Nat) : Written s (started s n) n 0 [] :=
  ⟨fun _ => ⟨rfl, (h.clear.started n).pending⟩, fun hl => absurd rfl hl⟩

/-- A write to the strand's modes. -/
theorem writes_modes {s : State} (h : s.Idle) (a : BitVec 5) {k : BitVec 12} (sp : SafePoint) (m : Modes → Modes)
    (hk : controlAssigned k.toNat = true) (hw : s.me.st.sup = true ∨ userAccess k.toNat = .rw)
    (hv : writeControl k.toNat (s.me.arch.sreg a) = modifyMe (fun x => { x with modes := m x.modes })) :
    WritesControl a k sp s (fun t => t.me.modes = m s.me.modes ∧ t.me.trap = s.me.trap ∧ t.dev = s.dev ∧ t.yards = s.yards) :=
  ⟨_, kwr_of_effect h a sp hk hw (.strand { (started s _).me with modes := m s.me.modes }) (fun _ => by rw [hv]; rfl) h.pair
      (h.clear.started (words false sp)).window h.safereq, rfl, rfl, rfl, started_written h _, rfl, rfl, rfl, rfl⟩

/-- A write to the strand's trap registers. -/
theorem writes_trap {s : State} (h : s.Idle) (a : BitVec 5) {k : BitVec 12} (sp : SafePoint) (r : TrapRegs → TrapRegs)
    (hk : controlAssigned k.toNat = true) (hs : s.me.st.sup = true)
    (hv : writeControl k.toNat (s.me.arch.sreg a) = modifyMe (fun x => { x with trap := r x.trap })) :
    WritesControl a k sp s (fun t => t.me.trap = r s.me.trap ∧ t.me.modes = s.me.modes ∧ t.dev = s.dev ∧ t.yards = s.yards) :=
  ⟨_, kwr_of_effect h a sp hk (.inl hs) (.strand { (started s _).me with trap := r s.me.trap }) (fun _ => by rw [hv]; rfl) h.pair
      (h.clear.started (words false sp)).window h.safereq, rfl, rfl, rfl, started_written h _, rfl, rfl, rfl, rfl⟩

/-- A write to a part of the device. -/
theorem writes_dev {s : State} (h : s.Idle) (a : BitVec 5) {k : BitVec 12} (sp : SafePoint) (f : Dev → Dev) (p : State → Prop)
    (hk : controlAssigned k.toNat = true) (hs : s.me.st.sup = true)
    (hv : ∀ log, writeControl k.toNat (s.me.arch.sreg a) ⟨started s (words false sp), log⟩ =
      modifyDev f ⟨started s (words false sp), log⟩)
    (hp : p { started s (words false sp) with dev := f s.dev }) :
    WritesControl a k sp s (fun t => Kept s t ∧ t.yards = s.yards ∧ p t) :=
  ⟨_, kwr_of_effect h a sp hk (.inl hs) (.dev (f s.dev)) (fun log => hv log) h.pair
      (h.clear.started (words false sp)).window h.safereq, rfl, rfl, rfl, started_written h _, ⟨rfl, rfl, rfl, rfl⟩, rfl, hp⟩

/-- A write to a register of the strand's yard. -/
theorem writes_regs {s : State} (h : s.Idle) (a : BitVec 5) {k : BitVec 12} (sp : SafePoint) (f : YardRegs → YardRegs)
    (hk : controlAssigned k.toNat = true) (hs : s.me.st.sup = true)
    (hv : writeControl k.toNat (s.me.arch.sreg a) = modifyRegs f) :
    WritesControl a k sp s (fun t => Kept s t ∧ t.dev = s.dev ∧
      t.yard s.me.pos.yidx = { s.yard s.me.pos.yidx with regs := f (s.yard s.me.pos.yidx).regs } ∧
      ∀ z, z ≠ s.me.pos.yidx → t.yard z = s.yard z) := by
  let Y := { s.yard s.me.pos.yidx with regs := f (s.yard s.me.pos.yidx).regs }
  refine ⟨_, kwr_of_effect h a sp hk (.inl hs) (.yard s.me.pos.yidx Y) (fun _ => by rw [hv]; rfl) h.pair
      (h.clear.started (words false sp)).window h.safereq, rfl, rfl, rfl, started_written h _, ⟨rfl, rfl, rfl, rfl⟩, rfl, ?_, fun z hz => ?_⟩
  · rw [yard_after_yard, if_pos rfl]
  · rw [yard_after_yard, if_neg (Ne.symm hz)]; rfl

/-! ### Address spaces and teams by number -/

theorem asid_of_spaceOf (s : State) (i : BitVec 16) : (s.spaceOf i).asid = i := by
  unfold State.spaceOf State.space
  cases e : s.dev.spaces.find? (fun x => x.asid == i) with
  | none => rfl
  | some x => simpa using List.find?_some e

/-- Records changed with their keys kept are found by their keys, changed. -/
theorem find_map_keyed {α κ : Type} [DecidableEq κ] (key : α → κ) (f : α → α) (hf : ∀ y, key (f y) = key y) (l : List α) (i : κ) :
    (l.map f).find? (fun y => key y == i) = (l.find? (fun y => key y == i)).map f := by
  rw [List.find?_map]
  congr 2
  funext y
  exact congrArg (· == i) (hf y)

/-- A space put in place of the one of its number is found there, and every other as before. -/
theorem find_putSpace (d : Dev) (x : Space) (i : BitVec 16) :
    (d.putSpace x).spaces.find? (fun y => y.asid == i) =
      if i = x.asid then some x else d.spaces.find? (fun y => y.asid == i) := by
  unfold Dev.putSpace
  split
  · next hany =>
    rw [find_map_keyed Space.asid (fun y => if y.asid = x.asid then x else y) (fun y => by
      by_cases hy : y.asid = x.asid <;> simp [hy])]
    cases hfind : d.spaces.find? (fun y => y.asid == i) with
    | none =>
      have hi : i ≠ x.asid := by
        rintro rfl
        obtain ⟨y, hy, hk⟩ := List.any_eq_true.mp hany
        exact List.find?_eq_none.mp hfind y hy hk
      simp [hi]
    | some y =>
      have hy : y.asid = i := by simpa using List.find?_some hfind
      by_cases hi : i = x.asid <;> simp [hy, hi]
  · next hany =>
    rw [List.find?_append]
    by_cases hi : i = x.asid
    · subst hi
      have hnone : d.spaces.find? (fun y => y.asid == x.asid) = none :=
        List.find?_eq_none.mpr (fun y hy hk => hany (List.any_eq_true.mpr ⟨y, hy, hk⟩))
      simp [hnone]
    · simp [Ne.symm hi, hi]

/-- Only the spaces change. -/
theorem putSpace_rest (d : Dev) (x : Space) : { d.putSpace x with spaces := d.spaces } = d := by
  unfold Dev.putSpace
  split <;> rfl

/-- A write to a register of the strand's address space, which is live. -/
theorem writes_space {s : State} (h : s.Idle) (a : BitVec 5) {k : BitVec 12} (sp : SafePoint) (f : Space → Space)
    (hk : controlAssigned k.toNat = true) (hs : s.me.st.sup = true) (hl : s.isLive s.me.modes.asid = true)
    (hv : writeControl k.toNat (s.me.arch.sreg a) = modifySpace f) (hf : ∀ x, (f x).asid = x.asid) :
    WritesControl a k sp s (fun t => Kept s t ∧ t.yards = s.yards ∧ { t.dev with spaces := s.dev.spaces } = s.dev ∧
      t.spaceOf s.me.modes.asid = f (s.spaceOf s.me.modes.asid) ∧ ∀ i, i ≠ s.me.modes.asid → t.space i = s.space i) := by
  have hrun : ∀ log, writeControl k.toNat (s.me.arch.sreg a) ⟨started s (words false sp), log⟩ =
      modifyDev (fun d => d.putSpace (f (s.spaceOf s.me.modes.asid))) ⟨started s (words false sp), log⟩ := by
    intro log
    have hlive : (decide (s.me.modes.asid = 0#16) || (s.space s.me.modes.asid).isSome) = true := by simpa [State.isLive] using hl
    rw [hv, modifySpace, act_bind _ _ _ _ _ (getS_run _)]
    exact congrFun (if_pos hlive) _
  have hasid : (f (s.spaceOf s.me.modes.asid)).asid = s.me.modes.asid := (hf _).trans (asid_of_spaceOf s _)
  refine writes_dev h a sp _ _ hk hs hrun ⟨putSpace_rest _ _, ?_, fun i hi => ?_⟩
  · rw [State.spaceOf, State.space, find_putSpace, if_pos hasid.symm]; rfl
  · exact (find_putSpace _ _ _).trans (if_neg (by rw [hasid]; exact hi))

/-- A write to a register of the strand's team. -/
theorem writes_team {s : State} (h : s.Idle) (a : BitVec 5) {k : BitVec 12} (sp : SafePoint) (f : Team → Team) (T : Team)
    (hT : s.team s.me.tid = some T) (hk : controlAssigned k.toNat = true) (hs : s.me.st.sup = true)
    (hv : ∀ log, writeControl k.toNat (s.me.arch.sreg a) ⟨started s (words false sp), log⟩ =
      modifyTeam s.me.tid f ⟨started s (words false sp), log⟩) (hf : ∀ t, (f t).tid = t.tid) :
    WritesControl a k sp s (fun t => Kept s t ∧ t.yards = s.yards ∧ { t.dev with teams := s.dev.teams } = s.dev ∧
      t.team s.me.tid = some (f T) ∧ ∀ i, i ≠ s.me.tid → t.team i = s.team i) := by
  have hfind : ∀ i, (s.dev.teams.map (fun t => if t.tid = s.me.tid then f t else t)).find? (fun t => t.tid == i) =
      (s.team i).map (fun t => if t.tid = s.me.tid then f t else t) := fun i =>
    find_map_keyed Team.tid _ (fun t => by by_cases ht : t.tid = s.me.tid <;> simp [ht, hf]) _ i
  have htid : ∀ i t, s.team i = some t → t.tid = i := fun i t ht => by simpa using List.find?_some ht
  refine writes_dev h a sp _ _ hk hs hv ⟨rfl, ?_, fun i hi => ?_⟩
  · refine (hfind _).trans ?_
    simp [hT, htid _ _ hT]
  · refine (hfind _).trans ?_
    cases ht : s.team i with
    | none => rfl
    | some t => simp [htid _ _ ht, hi]

/-- The other registers of the strand and of the device stay when K.FPFLAGS is written (R43). -/
theorem writes_fpflags {s : State} (h : s.Idle) (a : BitVec 5) (sp : SafePoint) :
    ∃ t, exec (.kwr a 0x011#12 sp) s = .next t ∧ t.mem = s.mem ∧ t.others = s.others ∧ t.cores = s.cores ∧ t.yards = s.yards ∧
      t.dev = s.dev ∧ Kept s t ∧ t.me.arch = { s.me.arch with
        pcw := s.me.arch.pcw + BitVec.ofNat 62 (words false sp)
        fpflags := s.me.arch.fpflags &&& ~~~((s.me.arch.sreg a).extractLsb' 0 6) } :=
  ⟨_, kwr_of_effect h a sp rfl (.inr rfl) (.strand { (started s (words false sp)).me with
      arch := { (started s (words false sp)).me.arch with fpflags := s.me.arch.fpflags &&& ~~~((s.me.arch.sreg a).extractLsb' 0 6) } })
      (fun _ => rfl) h.pair (h.clear.started (words false sp)).window h.safereq, rfl, rfl, rfl, rfl, rfl, ⟨rfl, rfl, rfl, rfl⟩, rfl⟩

/-! ### The fields of a written word -/

theorem and_lowMask (v : Word) {n : Nat} (hn : n ≤ 64) : v &&& lowMask n = BitVec.ofNat 64 (v.toNat % 2 ^ n) := by
  have hp : 2 ^ n ≤ 2 ^ 64 := Nat.pow_le_pow_right (by decide) hn
  have hpos : 0 < 2 ^ n := Nat.two_pow_pos n
  apply BitVec.eq_of_toNat_eq
  rw [BitVec.toNat_and, lowMask, BitVec.toNat_ofNat, BitVec.toNat_ofNat, Nat.mod_eq_of_lt (by omega : 2 ^ n - 1 < 2 ^ 64),
    Nat.and_two_pow_sub_one_eq_mod, Nat.mod_eq_of_lt (Nat.lt_of_lt_of_le (Nat.mod_lt _ hpos) hp)]

theorem extract_low (v : Word) (n : Nat) : v.extractLsb' 0 n = BitVec.ofNat n v.toNat := by
  rw [BitVec.extractLsb', Nat.shiftRight_zero]

/-- The field of K.FPC (R95). -/
theorem extract_fpc (v : Word) : v.extractLsb' 2 54 = BitVec.ofNat 54 (v.toNat / 4) := by
  rw [BitVec.extractLsb', Nat.shiftRight_eq_div_pow]

/-- The message weights have 16 registers of their own, one after another (R73). -/
theorem writeControl_mwgt (i : Fin 16) (v : Word) : writeControl (BitVec.ofNat 12 (0x060 + i.val)).toNat v =
    modifyRegs (fun r => { r with mwgt := r.mwgt.set i (v &&& 0x0F0F0F0F0F0F0F0F) }) := by
  have hset : ∀ w : Vector Word 16, w.set i (v &&& 0x0F0F0F0F0F0F0F0F) =
      Vector.ofFn (fun j => if j.val = i.val then v &&& 0x0F0F0F0F0F0F0F0F else w[j]) := by
    intro w
    ext j hj
    by_cases hij : i.val = j <;> simp [hij, Ne.symm]
  simp only [hset]
  fin_cases i <;> rfl

theorem mwgt_assigned (i : Fin 16) : controlAssigned (BitVec.ofNat 12 (0x060 + i.val)).toNat = true := by
  revert i; decide

/-- The registers without a field that can be written (R73). -/
theorem unwritable_numbers : ∀ k ∈ [0x000#12, 0x004, 0x020, 0x031, 0x033, 0x034, 0x040, 0x041, 0x042, 0x043, 0x090, 0x093],
    controlAssigned k.toNat = true ∧ ∀ v, writeControl k.toNat v = pure () := by
  simp only [List.forall_mem_cons]
  exact ⟨⟨rfl, fun _ => rfl⟩, ⟨rfl, fun _ => rfl⟩, ⟨rfl, fun _ => rfl⟩, ⟨rfl, fun _ => rfl⟩, ⟨rfl, fun _ => rfl⟩,
    ⟨rfl, fun _ => rfl⟩, ⟨rfl, fun _ => rfl⟩, ⟨rfl, fun _ => rfl⟩, ⟨rfl, fun _ => rfl⟩, ⟨rfl, fun _ => rfl⟩,
    ⟨rfl, fun _ => rfl⟩, ⟨rfl, fun _ => rfl⟩, List.forall_mem_nil _⟩

/-- The registers that user mode reads and does not write (R73). -/
theorem userReadOnly_numbers : ∀ k ∈ [0x000#12, 0x001, 0x002, 0x003, 0x004, 0x020, 0x031, 0x033, 0x034, 0x040, 0x041, 0x042, 0x043,
    0x050, 0x051, 0x060, 0x061, 0x062, 0x063, 0x064, 0x065, 0x066, 0x067, 0x068, 0x069, 0x06A, 0x06B, 0x06C, 0x06D, 0x06E, 0x06F,
    0x070, 0x071, 0x072, 0x073, 0x080, 0x081, 0x090, 0x093, 0x0A0, 0x0A1, 0x0B0],
    controlAssigned k.toNat = true ∧ userAccess k.toNat = .ro := by
  simp only [List.forall_mem_cons, List.not_mem_nil, false_implies, implies_true, and_true]
  and_intros <;> rfl

/-- Settles O36: KWR is one effect on the register that it names. -/
theorem controlWriteResults : Obligations.ControlWriteResults := by
  intro s a sp h v n y go low mode trap dev regs space
  have hlow : ∀ i, i ≤ 64 → low i = v &&& lowMask i := fun i hi => (and_lowMask v hi).symm
  refine ⟨?_, ?_, ?_, ?_, ?_, fun hs => ⟨?_, ?_, ?_, ?_, ?_, ?_, fun i => ?_, ?_, ?_, ?_, ?_, ?_, fun hl => ⟨?_, ?_, ?_⟩, ?_, ?_,
    fun T hT => ?_, ?_⟩, fun hs => ?_⟩
  · exact writes_modes h a sp (fun m => { m with nve := v.getLsbD 0, dze := v.getLsbD 1 }) rfl (.inr rfl) rfl
  · simpa only [extract_low] using writes_fpflags h a sp
  · exact writes_modes h a sp (fun m => { m with rmode := BitVec.ofNat 2 v.toNat }) rfl (.inr rfl) (by rw [← extract_low]; rfl)
  · exact writes_modes h a sp (fun m => { m with nanmode := v.getLsbD 0, nanrep := ⟨false, 0, 0, 0, 0, 0⟩ }) rfl (.inr rfl) rfl
  · exact writes_modes h a sp (fun m => { m with nudef := BitVec.ofNat 5 v.toNat }) rfl (.inr rfl) (by rw [← extract_low]; rfl)
  · exact writes_trap h a sp (fun r => { r with code := BitVec.ofNat 8 v.toNat }) rfl hs (by rw [← extract_low]; rfl)
  · exact writes_trap h a sp (fun r => { r with pc := BitVec.ofNat 54 (v.toNat / 4) }) rfl hs (by rw [← extract_fpc]; rfl)
  · exact writes_trap h a sp (fun r => { r with addr := v }) rfl hs rfl
  · exact writes_dev h a sp (fun d => { d with nufloor := low 17 }) _ rfl hs (by rw [hlow 17 (by decide)]; exact fun _ => rfl) rfl
  · exact writes_regs h a sp (fun r => { r with share := low 8 }) rfl hs (by rw [hlow 8 (by decide)]; rfl)
  · exact writes_regs h a sp (fun r => { r with gage := low 16 }) rfl hs (by rw [hlow 16 (by decide)]; rfl)
  · exact writes_regs h a sp (fun r => { r with mwgt := r.mwgt.set i (v &&& 0x0F0F0F0F0F0F0F0F) })
      (mwgt_assigned i) hs (writeControl_mwgt i v)
  · exact writes_regs h a sp (fun r => { r with quantum := low 32 }) rfl hs (by rw [hlow 32 (by decide)]; rfl)
  · exact writes_regs h a sp (fun r => { r with safewait := low 32 }) rfl hs (by rw [hlow 32 (by decide)]; rfl)
  · exact writes_regs h a sp (fun r => { r with park := low 32 }) rfl hs (by rw [hlow 32 (by decide)]; rfl)
  · exact writes_regs h a sp (fun r => { r with trapmig := v &&& 0x11030707075F071E }) rfl hs
      (by rw [← show trapmigMask = 0x11030707075F071E by decide]; rfl)
  · exact writes_regs h a sp (fun r => { r with evbase := v &&& 0x00FFFFFFFFFFFFC0 }) rfl hs
      (by rw [← show fieldMask 55 6 = 0x00FFFFFFFFFFFFC0 by decide]; rfl)
  · exact writes_space h a sp (fun x => { x with htbase := v &&& 0x00FFFFFFFFFFF01F }) rfl hs hl
      (by rw [← show lowMask 5 ||| fieldMask 55 12 = 0x00FFFFFFFFFFF01F by decide]; rfl)
      (fun _ => rfl)
  · exact writes_space h a sp (fun x => { x with htfree := low 61 }) rfl hs hl (by rw [hlow 61 (by decide)]; rfl) (fun _ => rfl)
  · exact writes_space h a sp (fun x => { x with ptbase := v &&& 0x000FFFFFFFFF0001 }) rfl hs hl
      (by rw [← show lowMask 1 ||| fieldMask 51 16 = 0x000FFFFFFFFF0001 by decide]; rfl)
      (fun _ => rfl)
  · exact writes_dev h a sp (fun d => { d with nocw := low 48 }) _ rfl hs (by rw [hlow 48 (by decide)]; exact fun _ => rfl) rfl
  · exact writes_dev h a sp (fun d => { d with nocage := low 8 }) _ rfl hs (by rw [hlow 8 (by decide)]; exact fun _ => rfl) rfl
  · exact writes_team h a sp (fun t => { t with mbwait := low 32 }) T hT rfl hs
      (by rw [hlow 32 (by decide)]; exact fun _ => rfl) (fun _ => rfl)
  · exact fun k hm => kwr_completes h a sp (unwritable_numbers k hm).1 (.inl ⟨hs, (unwritable_numbers k hm).2⟩)
  · exact fun k hm => kwr_completes h a sp (userReadOnly_numbers k hm).1 (.inr ⟨hs, (userReadOnly_numbers k hm).2⟩)

end Sys2Proof.Machine
end

section
namespace Sys2Proof.Machine

/-! ### Programs that end well -/

/-- From a state a program ends well, and what it answers and the state that its effects leave satisfy a condition. -/
def EndsIn {α : Type} (p : Act α) (s : State) (Q : α → State → Prop) : Prop :=
  ∀ log, ∃ a effs, p ⟨s, log⟩ = .ok (a, ⟨applyAll s effs, effs.reverse ++ log⟩) ∧ Q a (applyAll s effs)

theorem EndsIn.mono {α : Type} {p : Act α} {s : State} {Q Q' : α → State → Prop} (h : EndsIn p s Q) (hQ : ∀ a t, Q a t → Q' a t) :
    EndsIn p s Q' := fun log =>
  let ⟨a, effs, hp, hq⟩ := h log
  ⟨a, effs, hp, hQ a _ hq⟩

theorem endsIn_pure {α : Type} {a : α} {s : State} {Q : α → State → Prop} (h : Q a s) : EndsIn (pure a) s Q := fun _ =>
  ⟨a, [], rfl, h⟩

theorem endsIn_emit {e : Eff} {s : State} {Q : Unit → State → Prop} (h : Q () (applyEff s e)) : EndsIn (emit e) s Q := fun _ =>
  ⟨(), [e], rfl, h⟩

theorem EndsIn.bind {α β : Type} {p : Act α} {f : α → Act β} {s : State} {Q : β → State → Prop}
    (h : EndsIn p s (fun a t => EndsIn (f a) t Q)) : EndsIn (p >>= f) s Q := by
  intro log
  obtain ⟨a, effs, hp, hf⟩ := h log
  obtain ⟨b, effs', hf', hq⟩ := hf (effs.reverse ++ log)
  refine ⟨b, effs ++ effs', ?_, ?_⟩
  · rw [act_bind _ _ _ _ _ hp, hf', applyAll_append, List.reverse_append, List.append_assoc]
  · rwa [applyAll_append]

theorem endsIn_getS_bind {α : Type} {f : State → Act α} {s : State} {Q : α → State → Prop} (h : EndsIn (f s) s Q) :
    EndsIn (getS >>= f) s Q := EndsIn.bind (p := getS) (fun _ => ⟨s, [], rfl, h⟩)

theorem endsIn_modifyDev {f : Dev → Dev} {s : State} {Q : Unit → State → Prop} (h : Q () { s with dev := f s.dev }) :
    EndsIn (modifyDev f) s Q := fun _ => ⟨(), [.dev (f s.dev)], rfl, h⟩

theorem endsIn_modifyYard {y : Nat} {f : Yard → Yard} {s : State} {Q : Unit → State → Prop}
    (h : Q () { s with yards := assocSet s.yards y (f (s.yard y)) }) : EndsIn (modifyYard y f) s Q := fun _ =>
  ⟨(), [.yard y (f (s.yard y))], rfl, h⟩

theorem endsIn_require {b : Bool} {name : String} {s : State} {Q : Unit → State → Prop} (hb : b = true) (h : Q () s) :
    EndsIn (require b name) s Q := by
  subst hb
  exact endsIn_pure h

/-- An event whose program ends well takes place. -/
theorem EndsIn.event {p : Act Unit} {s : State} {Q : Unit → State → Prop} (h : EndsIn p s Q) : ∃ t, event p s = .next t ∧ Q () t := by
  obtain ⟨a, effs, hp, hq⟩ := h []
  refine ⟨applyAll s effs, ?_, hq⟩
  simp only [Machine.event, hp, List.append_nil, List.reverse_reverse]

/-- What a program keeps: it ends well wherever an invariant holds, and the invariant holds afterwards. -/
def Keeps (I : State → Prop) {α : Type} (p : Act α) : Prop := ∀ s, I s → EndsIn p s (fun _ => I)

section
variable {I : State → Prop} {α β : Type}

theorem keeps_pure {a : α} : Keeps I (pure a) := fun _ hs => endsIn_pure hs

theorem Keeps.bind {p : Act α} {f : α → Act β} (hp : Keeps I p) (hf : ∀ a, Keeps I (f a)) : Keeps I (p >>= f) := fun s hs =>
  EndsIn.bind ((hp s hs).mono (fun a t ht => hf a t ht))

theorem keeps_getS : Keeps I getS := fun s hs _ => ⟨s, [], rfl, hs⟩

theorem keeps_ite {c : Prop} [Decidable c] {p q : Act α} (hp : Keeps I p) (hq : Keeps I q) : Keeps I (if c then p else q) := by
  split
  · exact hp
  · exact hq

theorem keeps_forAll {l : List α} {f : α → Act Unit} (h : ∀ a ∈ l, Keeps I (f a)) : Keeps I (forAll l f) := by
  induction l with
  | nil => exact keeps_pure
  | cons a l ih => exact (h a List.mem_cons_self).bind fun _ => ih fun b hb => h b (List.mem_cons_of_mem _ hb)

theorem keeps_emit {e : Eff} (h : ∀ s, I s → I (applyEff s e)) : Keeps I (emit e) := fun s hs => endsIn_emit (h s hs)

theorem keeps_modifyDev {f : Dev → Dev} (h : ∀ s, I s → I { s with dev := f s.dev }) : Keeps I (modifyDev f) := fun s hs =>
  endsIn_modifyDev (h s hs)

theorem keeps_modifyYard {y : Nat} {f : Yard → Yard} (h : ∀ s, I s → I { s with yards := assocSet s.yards y (f (s.yard y)) }) :
    Keeps I (modifyYard y f) := fun s hs => endsIn_modifyYard (h s hs)

theorem keeps_modifyCore {k : Nat × Bool × Nat} {f : Core → Core}
    (h : ∀ s, I s → I { s with cores := assocSet s.cores k (f (s.core k)) }) : Keeps I (modifyCore k f) := fun s hs _ =>
  ⟨(), [.core k (f (s.core k))], rfl, h s hs⟩

/-- An access at a slice leaves the packets, the slices' lines and the functions' counters changed, and nothing else. -/
theorem keeps_sliceTouch (h : ∀ s n l f, I s → I { s with dev := { s.dev with net := n, l2 := l, funcs := f } }) (w : Toucher)
    (key : Nat) (u : SliceUse) : Keeps I (sliceTouch w key u) := by
  unfold sliceTouch countEvents
  refine keeps_getS.bind fun s => ?_
  refine (keeps_modifyDev fun u hu => h u _ u.dev.l2 u.dev.funcs hu).bind fun _ => ?_
  split
  · exact keeps_pure
  · refine (keeps_modifyDev fun u hu => h u u.dev.net _ u.dev.funcs hu).bind fun _ => keeps_ite keeps_pure ?_
    exact keeps_getS.bind fun _ => keeps_modifyDev fun u hu => h u u.dev.net u.dev.l2 _ hu

end

end Sys2Proof.Machine
end

section
namespace Sys2Proof.Machine

/-! ### What leaves the copy engines and the teams alone -/

/-- The bytes of one part of a unit written. -/
def writePart (p : PartPlace × List Byte) : Act Unit :=
  match p.1.dstKey with
  | some k => do
    clearPoison k p.2.length
    emit (.mem k p.2)
  | none => pure ()

/-- An invariant of the copy engines and the teams: it looks at nothing else. -/
def OfTransfers (I : State → Prop) : Prop :=
  ∀ s t : State, t.dev.engines = s.dev.engines → t.dev.teams = s.dev.teams → I s → I t

section
variable {I : State → Prop} (hI : OfTransfers I)
include hI

theorem keeps_device {f : Dev → Dev} (he : ∀ d, (f d).engines = d.engines := by exact fun _ => rfl)
    (ht : ∀ d, (f d).teams = d.teams := by exact fun _ => rfl) : Keeps I (modifyDev f) :=
  keeps_modifyDev fun s hs => hI s _ (he s.dev) (ht s.dev) hs

theorem keeps_yard {y : Nat} {f : Yard → Yard} : Keeps I (modifyYard y f) := keeps_modifyYard fun s hs => hI s _ rfl rfl hs

theorem keeps_heavy {y : Nat} {f : Heavy → Heavy} : Keeps I (modifyHeavy y f) := keeps_yard hI

theorem keeps_core {k : Nat × Bool × Nat} {f : Core → Core} : Keeps I (modifyCore k f) :=
  keeps_modifyCore fun s hs => hI s _ rfl rfl hs

theorem keeps_mem {k : Nat} {bs : List Byte} : Keeps I (emit (.mem k bs)) := keeps_emit fun s hs => hI s _ rfl rfl hs

theorem keeps_func {t : Nat} {f : Func → Func} : Keeps I (modifyFunc t f) := keeps_device hI

theorem keeps_slice (w : Toucher) (key : Nat) (u : SliceUse) : Keeps I (sliceTouch w key u) :=
  keeps_sliceTouch (fun s _ _ _ hs => hI s _ rfl rfl hs) w key u

theorem keeps_freshFree : Keeps I freshFree := fun s hs _ =>
  ⟨_, [.dev { s.dev with freeCtr := s.dev.freeCtr + 1 }], rfl, hI s _ rfl rfl hs⟩

theorem keeps_freeBytes (n : Nat) : Keeps I (freeBytes n) := (keeps_freshFree hI).bind fun _ => keeps_pure

theorem keeps_clearPoison (key n : Nat) : Keeps I (clearPoison key n) :=
  keeps_getS.bind fun _ => keeps_ite keeps_pure (keeps_device hI)

/-! Copies written back and dropped (R267, R272, R298). -/

theorem keeps_writeBack (d : DomLine) : Keeps I (writeBack d) :=
  (keeps_forAll fun _ _ => keeps_mem hI).bind fun _ => keeps_getS.bind fun _ => keeps_ite keeps_pure (keeps_device hI)

theorem keeps_sendBack (y : Nat) (evicts : Bool) (d : DomLine) : Keeps I (sendBack y evicts d) := by
  unfold sendBack
  refine keeps_getS.bind fun s => ?_
  split
  · exact keeps_writeBack hI d
  · exact (keeps_device hI).bind fun _ => keeps_writeBack hI d

theorem keeps_dropLine (y line : Nat) : Keeps I (dropLine y line) :=
  keeps_getS.bind fun _ => (keeps_forAll fun d _ => keeps_sendBack hI y false d).bind fun _ => (keeps_yard hI).bind fun _ =>
    keeps_forAll fun _ _ => keeps_core hI

theorem keeps_drainLines (test : Nat → Bool) : Keeps I (drainLines test) :=
  keeps_getS.bind fun _ => keeps_forAll fun y _ => keeps_forAll fun line _ => keeps_dropLine hI y line

omit hI in
theorem writebacks_rest (f : Nat → Nat) (src : Nat) (evicts : Bool) (d : Dev) (l : List Nat) :
    (l.foldl (fun d n => d.writeback src (f n) evicts) d).engines = d.engines ∧
      (l.foldl (fun d n => d.writeback src (f n) evicts) d).teams = d.teams := by
  induction l generalizing d with
  | nil => exact ⟨rfl, rfl⟩
  | cons n l ih => exact ih (d.writeback src (f n) evicts)

theorem keeps_writeBackTiled (y : Nat) (evicts : Bool) (lines : List Nat) : Keeps I (writeBackTiled y evicts lines) :=
  keeps_getS.bind fun _ => keeps_ite keeps_pure
    (keeps_device hI (fun _ => (writebacks_rest _ _ _ _ _).1) (fun _ => (writebacks_rest _ _ _ _ _).2))

theorem keeps_cleanPieceLines (t : TileObj) (agent lo hi : Nat) : Keeps I (cleanPieceLines t agent lo hi) :=
  keeps_getS.bind fun _ => keeps_ite (keeps_writeBackTiled hI _ _ _) (keeps_ite (keeps_writeBackTiled hI _ _ _) keeps_pure)

theorem keeps_dropPieceLines (t : TileObj) (agent lo hi : Nat) : Keeps I (dropPieceLines t agent lo hi) :=
  (keeps_cleanPieceLines hI t agent lo hi).bind fun _ => keeps_getS.bind fun _ =>
    keeps_ite
      ((keeps_yard hI).bind fun _ => keeps_forAll fun _ _ => keeps_getS.bind fun _ => keeps_forAll fun _ _ => keeps_core hI)
      (keeps_ite (keeps_heavy hI) keeps_pure)

/-! Combines and recalls (R272, R276). -/

theorem keeps_combineOne (p : Partial) : Keeps I (combineOne p) :=
  keeps_getS.bind fun _ => keeps_ite ((keeps_freeBytes hI _).bind fun _ => keeps_mem hI) (keeps_mem hI)

theorem keeps_dropPartialLines (agent : Nat) (lines : List Nat) : Keeps I (dropPartialLines agent lines) :=
  keeps_ite (keeps_yard hI) (keeps_ite (keeps_heavy hI) keeps_pure)

theorem keeps_combineAll (ps : List Partial) : Keeps I (combineAll ps) :=
  (keeps_forAll fun p _ => keeps_combineOne hI p).bind fun _ => (keeps_device hI).bind fun _ =>
    keeps_forAll fun g _ => keeps_dropPartialLines hI g _

theorem keeps_combinePiece (t : TileObj) (lo hi : Nat) : Keeps I (combinePiece t lo hi) := by
  unfold combinePiece
  refine keeps_getS.bind fun _ => (keeps_combineAll hI _).bind fun _ => keeps_getS.bind fun _ => ?_
  split
  · exact keeps_device hI
  · exact keeps_pure

theorem keeps_recallPiece (t : TileObj) (p : Piece) (holder : Nat) (r : Recall) (spans : List (Nat × Nat)) :
    Keeps I (recallPiece t p holder r spans) := by
  unfold recallPiece
  refine (keeps_device hI).bind fun _ => ?_
  split
  · exact keeps_pure
  · match r with
    | .combine => exact keeps_combinePiece hI _ _ _
    | .downgrade => exact (keeps_cleanPieceLines hI _ _ _ _).bind fun _ => keeps_device hI
    | .recall => exact (keeps_dropPieceLines hI _ _ _ _).bind fun _ => keeps_device hI

theorem keeps_recallAsks (agent : Nat) (l : List TenAsk) (fuel : Nat) : Keeps I (recallAsks agent l fuel) := by
  induction fuel with
  | zero => exact keeps_pure
  | succ fuel ih =>
    unfold recallAsks
    refine keeps_getS.bind fun s => ?_
    split
    · exact keeps_pure
    · exact (keeps_recallPiece hI _ _ _ _ _).bind fun _ => ih

theorem keeps_recallAll (t : TileObj) : Keeps I (recallAll t) := by
  unfold recallAll
  refine (keeps_forAll fun p _ => keeps_combinePiece hI t p.lo p.hi).bind fun _ => keeps_getS.bind fun _ => ?_
  split
  · exact keeps_pure
  · exact (keeps_forAll fun p _ => keeps_forAll fun h _ => keeps_dropPieceLines hI _ _ _ _).bind fun _ => keeps_device hI

theorem keeps_meetOutside (agent key n : Nat) (need : Tenure) : Keeps I (meetOutside agent key n need) :=
  keeps_getS.bind fun _ => keeps_recallAsks hI _ _ _

/-! Events, records and messages (R376, R423, R442). -/

theorem keeps_postEvent (t : Nat) (e : HostEvent) : Keeps I (postEvent t e) := by
  refine keeps_getS.bind fun s => keeps_ite ?_ (keeps_ite (keeps_func hI) (keeps_func hI))
  exact keeps_getS.bind fun _ => (keeps_mem hI).bind fun _ => keeps_func hI

theorem keeps_writeTeam (tid fuel off : Nat) (bytes : List Byte) : Keeps I (writeTeam tid fuel off bytes) := by
  induction fuel generalizing off bytes with
  | zero => exact keeps_pure
  | succ fuel ih =>
    unfold writeTeam
    refine keeps_ite keeps_pure (keeps_getS.bind fun s => ?_)
    dsimp only
    split
    · exact (keeps_mem hI).bind fun _ => ih _ _
    · exact ih _ _

theorem keeps_placeRecord (y : Nat) (m : Mailbox) (g : Msg) : Keeps I (placeRecord y m g) := by
  unfold placeRecord putCtl
  refine keeps_getS.bind fun s => keeps_ite ?_ (keeps_ite ?_ keeps_pure)
  · exact (keeps_writeTeam hI _ _ _ _).bind fun _ => (keeps_writeTeam hI _ _ _ _).bind fun _ => (keeps_yard hI).bind fun _ => keeps_pure
  · have rest : ∀ (l l' : List Byte) (f : Yard → Yard), Keeps I (do
        writeTeam m.tid 2 (m.mb + 64) l
        writeTeam m.tid 2 m.mb l'
        modifyYard y f
        return true : Act Bool) := fun _ _ _ =>
      (keeps_writeTeam hI _ _ _ _).bind fun _ => (keeps_writeTeam hI _ _ _ _).bind fun _ => (keeps_yard hI).bind fun _ => keeps_pure
    exact keeps_ite ((keeps_writeTeam hI _ _ _ _).bind fun _ => rest _ _ _) (rest _ _ _)

theorem keeps_placeHeld (y fuel : Nat) : Keeps I (placeHeld y fuel) := by
  induction fuel with
  | zero => exact keeps_pure
  | succ fuel ih =>
    unfold placeHeld
    refine keeps_getS.bind fun s => ?_
    dsimp only
    split
    · refine keeps_ite keeps_pure ((keeps_placeRecord hI _ _ _).bind fun ok => keeps_ite ?_ keeps_pure)
      exact (keeps_yard hI).bind fun _ => ih
    · exact keeps_pure

theorem keeps_reportRecord (y : Nat) (r : McRecord) : Keeps I (reportRecord y r) :=
  (keeps_yard hI).bind fun _ => keeps_placeHeld hI y 16

theorem keeps_storePoison (unit : Nat) (blocks : List Nat) : Keeps I (storePoison unit blocks) :=
  keeps_getS.bind fun _ => keeps_ite keeps_pure ((keeps_device hI).bind fun _ => keeps_forAll fun _ _ =>
    keeps_getS.bind fun _ => keeps_reportRecord hI _ _)

/-! Counters (R318, R320, R324). -/

theorem keeps_counterAdd (key : Nat) (v : Word) : Keeps I (counterAdd key v) :=
  keeps_getS.bind fun _ => (keeps_mem hI).bind fun _ =>
    (keeps_getS.bind fun _ => keeps_forAll fun _ _ => keeps_yard hI).bind fun _ => keeps_pure

/-! A transfer's moves (R409, R412, R413). -/

theorem keeps_readPart (e : Nat) (t : Transfer) (p : Part) (key : Nat) : Keeps I (readPart e t p key) := by
  unfold readPart
  dsimp only
  split
  · exact keeps_pure
  · refine keeps_getS.bind fun _ => (keeps_recallAsks hI _ _ _).bind fun _ => keeps_ite ?_ ?_
    · exact keeps_getS.bind fun _ => keeps_pure
    · exact (keeps_slice hI _ _ _).bind fun _ => keeps_getS.bind fun _ => keeps_pure

theorem keeps_readUnit (e : Nat) (t : Transfer) (l : List PartPlace) (data : List Byte) : Keeps I (readUnit e t l data) := by
  induction l generalizing t data with
  | nil => exact keeps_pure
  | cons p l ih =>
    unfold readUnit
    dsimp only
    split
    · exact (keeps_readPart hI _ _ _ _).bind fun _ => (ih _ _).bind fun _ => keeps_pure
    · exact keeps_pure.bind fun _ => (ih _ _).bind fun _ => keeps_pure

theorem keeps_writePart (p : PartPlace × List Byte) : Keeps I (writePart p) := by
  unfold writePart
  split
  · exact (keeps_clearPoison hI _ _).bind fun _ => keeps_mem hI
  · exact keeps_pure

theorem keeps_writeUnit (e : Nat) (t : Transfer) (l : List (PartPlace × List Byte)) : Keeps I (writeUnit e t l) := by
  have writes : Keeps I (forAll l writePart) := keeps_forAll fun p _ => keeps_writePart hI p
  unfold writeUnit
  split
  · exact writes
  · refine keeps_ite writes (keeps_getS.bind fun _ => ?_)
    exact (keeps_recallAsks hI _ _ _).bind fun _ => (keeps_drainLines hI _).bind fun _ => (keeps_slice hI _ _ _).bind fun _ => writes

theorem keeps_writePoisoned (e : Nat) (t : Transfer) (l : List PartPlace) : Keeps I (writePoisoned e t l) :=
  keeps_getS.bind fun _ => (keeps_readUnit hI _ _ _ _).bind fun _ => (keeps_writeUnit hI _ _ _).bind fun _ => keeps_storePoison hI _ _

theorem keeps_partialWrite (e : Nat) (t : Transfer) (c i : Nat) (l : List PartPlace) (data : List Byte) :
    Keeps I (partialWrite e t c i l data) := by
  induction l generalizing t i data with
  | nil => exact keeps_pure
  | cons p l ih =>
    have picked : ∀ (t : Transfer) (bs : List Byte) (picks bad : List Nat) (n : Nat), Keeps I (do
        forAll picks (fun j => match p.dstKey with
          | some k => writeUnit e t [({ p with dst := some (.at_ (k + j)) }, [bs.getD j 0])]
          | none => pure ())
        if picks.isEmpty then pure () else storePoison 14 bad
        let r ← partialWrite e t c (i + bs.length) l (data.drop p.part.n)
        return n + r : Act Nat) := by
      intro t bs picks bad n
      have rest : Keeps I (do
          let r ← partialWrite e t c (i + bs.length) l (data.drop p.part.n)
          return n + r : Act Nat) := (ih _ _ _).bind fun _ => keeps_pure
      refine (keeps_forAll fun j _ => ?_).bind fun _ => keeps_ite rest ((keeps_storePoison hI _ _).bind fun _ => rest)
      split
      · exact keeps_writeUnit hI _ _ _
      · exact keeps_pure
    unfold partialWrite
    refine keeps_getS.bind fun s => ?_
    dsimp only
    split
    · exact (keeps_readPart hI _ _ _ _).bind fun r => picked r.1 r.2 _ _ _
    · exact picked t _ _ _ _

theorem keeps_writeSome (e : Nat) (t : Transfer) : Keeps I (writeSome e t) :=
  keeps_getS.bind fun _ => (keeps_freshFree hI).bind fun _ => (keeps_ite (keeps_freeBytes hI _) keeps_pure).bind fun _ =>
    keeps_partialWrite hI _ _ _ _ _ _

end

end Sys2Proof.Machine
end

section
namespace Sys2Proof.Machine

/-! ### Queues that only shrink -/

/-- What identifies the transfers queued at the engines: engine, serial and control word. -/
def State.transferIds (s : State) : List (Nat × Nat × Word) := s.queuedTransfers.map (fun u => (u.1, u.2.serial, u.2.ctl))

/-- The engines are those of a list, and nothing is queued but what another list identifies. -/
def QueuesWithin (K : List Nat) (L : List (Nat × Nat × Word)) (s : State) : Prop :=
  s.dev.engines.map (fun e => e.1) = K ∧ ∀ x ∈ s.transferIds, x ∈ L

theorem mem_transferIds {s : State} {x : Nat × Nat × Word} :
    x ∈ s.transferIds ↔ ∃ e ∈ s.dev.engines, ∃ t ∈ e.2.queue, x = (e.1, t.serial, t.ctl) := by
  simp only [State.transferIds, State.queuedTransfers, List.mem_map, List.mem_flatMap]
  constructor
  · rintro ⟨_, ⟨e, he, t, ht, rfl⟩, rfl⟩
    exact ⟨e, he, t, ht, rfl⟩
  · rintro ⟨e, he, t, ht, rfl⟩
    exact ⟨_, ⟨e, he, t, ht, rfl⟩, rfl⟩

/-- Only the engines matter to it. -/
theorem QueuesWithin.of_engines {K : List Nat} {L : List (Nat × Nat × Word)} {s t : State} (he : t.dev.engines = s.dev.engines)
    (h : QueuesWithin K L s) : QueuesWithin K L t := by
  unfold QueuesWithin State.transferIds State.queuedTransfers at *
  rwa [he]

theorem ofTransfers_queuesWithin (K : List Nat) (L : List (Nat × Nat × Word)) : OfTransfers (QueuesWithin K L) :=
  fun _ _ he _ h => h.of_engines he

theorem ofTransfers_same (E : List (Nat × Engine)) (T : List Team) :
    OfTransfers (fun s => s.dev.engines = E ∧ s.dev.teams = T) :=
  fun _ _ he ht h => ⟨he.trans h.1, ht.trans h.2⟩

/-! ### Programs that may stop -/

/-- How a run may come out that keeps an invariant: it ends well, or the strand is held back with effects that keep it, or there is
another end, which leaves no effect. -/
def RunKept (I : State → Prop) (s : State) (log : List Eff) {α : Type} : Except Stop (α × Run) → Prop
  | .ok (_, r) => (∃ effs, r = ⟨applyAll s effs, effs.reverse ++ log⟩) ∧ I r.s
  | .error (.suspend _ effs) => ∀ u, I u → I (applyAll u effs)
  | .error _ => True

/-- A program whose runs keep an invariant, though they may stop. -/
def KeepsOrStops (I : State → Prop) {α : Type} (p : Act α) : Prop := ∀ s, I s → ∀ log, RunKept I s log (p ⟨s, log⟩)

section
variable {I : State → Prop} {α β : Type}

theorem Keeps.orStops {p : Act α} (h : Keeps I p) : KeepsOrStops I p := by
  intro s hs log
  obtain ⟨a, effs, hp, hi⟩ := h s hs log
  rw [hp]
  exact ⟨⟨effs, rfl⟩, hi⟩

theorem KeepsOrStops.bind {p : Act α} {f : α → Act β} (hp : KeepsOrStops I p) (hf : ∀ a, KeepsOrStops I (f a)) :
    KeepsOrStops I (p >>= f) := by
  intro s hs log
  have h := hp s hs log
  cases e : p ⟨s, log⟩ with
  | error x => rw [act_bind_error _ _ _ _ e]; rw [e] at h; cases x <;> exact h
  | ok x =>
    obtain ⟨a, r⟩ := x
    rw [act_bind _ _ _ _ _ e]
    rw [e] at h
    obtain ⟨⟨effs, rfl⟩, hi⟩ := h
    have g := hf a _ hi (effs.reverse ++ log)
    cases e' : f a ⟨applyAll s effs, effs.reverse ++ log⟩ with
    | error x => rw [e'] at g; cases x <;> exact g
    | ok x =>
      rw [e'] at g
      obtain ⟨⟨effs', hr⟩, hi'⟩ := g
      refine ⟨⟨effs ++ effs', ?_⟩, hi'⟩
      rw [hr, applyAll_append, List.reverse_append, List.append_assoc]

theorem keepsOrStops_ite {c : Prop} [Decidable c] {p q : Act α} (hp : KeepsOrStops I p) (hq : KeepsOrStops I q) :
    KeepsOrStops I (if c then p else q) := by
  split
  · exact hp
  · exact hq

theorem keepsOrStops_getS_bind {f : State → Act α} (h : ∀ s, I s → KeepsOrStops I (f s)) : KeepsOrStops I (getS >>= f) :=
  fun s hs log => h s hs s hs log

theorem keepsOrStops_trap {c : BitVec 8} {f : Word} {keep : List Eff} :
    KeepsOrStops I ((fun _ => .error (.trap c f keep)) : Act α) := fun _ _ _ => trivial

theorem keepsOrStops_suspend {run : RunState} {effs : List Eff} (h : ∀ u, I u → I (applyAll u effs)) :
    KeepsOrStops I (suspendAs run effs : Act α) := fun _ _ _ => h

end

/-! Translations (R346, R352, R355), as a closing tile makes them. -/

section
variable {I : State → Prop} (hI : OfTransfers I)
include hI

omit hI in
theorem addReq_rest (d : Dev) (page : Nat) (sup read write : Bool) (who : Asker) (leaf : TlbEntry) (now : Nat) :
    (d.addReq page sup read write who leaf now).engines = d.engines ∧ (d.addReq page sup read write who leaf now).teams = d.teams := by
  unfold Dev.addReq
  dsimp only
  split <;> exact ⟨rfl, rfl⟩

omit hI in
theorem checkLink_orStops (w : Who) (va : Word) : KeepsOrStops I (checkLink w va) :=
  keeps_getS.orStops.bind fun _ => keepsOrStops_ite keepsOrStops_trap
    (keepsOrStops_ite (keepsOrStops_suspend fun _ hu => hu) keeps_pure.orStops)

theorem noteTlb_orStops (w : Who) (e : TlbEntry) : KeepsOrStops I (noteTlb w e) := by
  have core : ∀ k c, Keeps I (emit (.core k c)) := fun _ _ => keeps_emit fun s hs => hI s _ rfl rfl hs
  have yard : ∀ y Y, Keeps I (emit (.yard y Y)) := fun _ _ => keeps_emit fun s hs => hI s _ rfl rfl hs
  refine (keeps_getS.bind fun s => keeps_ite (keeps_ite keeps_pure (core _ _)) ?_).orStops
  exact keeps_ite (keeps_ite keeps_pure (core _ _)) ((yard _ _).bind fun _ => keeps_ite keeps_pure (core _ _))

theorem awaitHost_orStops {α : Type} (w : Who) (va : Word) (k : Access) (leaf : TlbEntry) :
    KeepsOrStops I (awaitHost w va k leaf : Act α) := by
  unfold awaitHost
  refine keepsOrStops_getS_bind fun s hs => ?_
  dsimp only
  split
  · exact keepsOrStops_trap
  · refine (checkLink_orStops w va).bind fun _ => keepsOrStops_suspend fun u _ => ?_
    have hd : ∀ v : State, I { v with dev := s.dev.addReq (va.toNat / 4096) w.sup k.reads k.writes w.asker leaf s.cycle } :=
      fun v => hI s _ (addReq_rest _ _ _ _ _ _ _ _).1 (addReq_rest _ _ _ _ _ _ _ _).2 hs
    split
    · exact hd u
    · exact hd { u with yards := _ }

theorem translate_orStops (w : Who) (va : Word) (k : Access) : KeepsOrStops I (translate w va k) := by
  unfold translate
  refine keeps_getS.orStops.bind fun s => keepsOrStops_ite keepsOrStops_trap (keepsOrStops_ite
    (keepsOrStops_ite keepsOrStops_trap keeps_pure.orStops)
    (keepsOrStops_ite (keepsOrStops_ite keeps_pure.orStops keepsOrStops_trap) ?_))
  dsimp only
  split
  · next e _ =>
    have note : KeepsOrStops I (do noteTlb w e; return e.key va.toNat : Act Nat) :=
      (noteTlb_orStops hI w e).bind fun _ => keeps_pure.orStops
    split
    · exact keepsOrStops_trap
    · refine keepsOrStops_ite (awaitHost_orStops hI w va k e) (keepsOrStops_ite ?_ note)
      exact (checkLink_orStops w va).bind fun _ => note
  · split
    · exact keepsOrStops_ite keepsOrStops_trap (keepsOrStops_suspend fun u hu => hI u _ rfl rfl hu)
    · exact keepsOrStops_trap
    · split
      · exact keepsOrStops_trap
      · exact awaitHost_orStops hI w va k _

theorem entryKey_orStops (w : Who) (i : Nat) (k : Access) : KeepsOrStops I (entryKey w i k) := by
  unfold entryKey translateRange
  refine keeps_getS.orStops.bind fun s => KeepsOrStops.bind ?_ fun _ => keeps_pure.orStops
  refine keeps_getS.orStops.bind fun _ => keepsOrStops_ite keepsOrStops_trap ((translate_orStops hI _ _ _).bind fun _ => ?_)
  exact keepsOrStops_ite keeps_pure.orStops ((translate_orStops hI _ _ _).bind fun _ => keeps_pure.orStops)

end

/-! ### The end of a team (R405) -/

section
variable {K : List Nat} {L : List (Nat × Nat × Word)}

theorem keeps_deviceQueues {f : Dev → Dev} (he : ∀ d, (f d).engines = d.engines := by exact fun _ => rfl) :
    Keeps (QueuesWithin K L) (modifyDev f) := keeps_modifyDev fun s hs => hs.of_engines (he s.dev)

/-- A tile's lines that the engines hold are dropped, and no queue changes else (R267). -/
theorem keeps_drainTile (asid : BitVec 16) (d : Desc) : Keeps (QueuesWithin K L) (drainTile asid d) := by
  refine keeps_getS.bind fun s => (keeps_drainLines (ofTransfers_queuesWithin K L) _).bind fun _ => keeps_modifyDev ?_
  rintro u ⟨hK, hL⟩
  refine ⟨(List.map_map ..).trans hK, fun x hx => hL x ?_⟩
  obtain ⟨e', he', t', ht', rfl⟩ := mem_transferIds.mp hx
  obtain ⟨e, he, rfl⟩ := List.mem_map.mp he'
  obtain ⟨t, ht, rfl⟩ := List.mem_map.mp ht'
  refine mem_transferIds.mpr ⟨e, he, t, ht, ?_⟩
  split
  · split <;> rfl
  · rfl

theorem keeps_closeTile (w : Who) (t : TileObj) (key : Nat) (tailKey : Option Nat) :
    Keeps (QueuesWithin K L) (closeTile w t key tailKey) := by
  have hI := ofTransfers_queuesWithin K L
  unfold closeTile freeEntry
  refine (keeps_recallAll hI t).bind fun _ => (keeps_drainTile _ _).bind fun _ => (keeps_deviceQueues).bind fun _ => ?_
  refine keeps_getS.bind fun _ => (keeps_mem hI).bind fun _ => (keeps_mem hI).bind fun _ => ?_
  have put : ∀ x, Keeps (QueuesWithin K L) (modifyDev (fun d => d.putSpace x)) := fun x => keeps_deviceQueues fun d => by
    unfold Dev.putSpace
    split <;> rfl
  dsimp only
  split
  · exact (keeps_mem hI).bind fun _ => put _
  · exact put _

theorem keeps_closeTileQuietly (t : TileObj) : Keeps (QueuesWithin K L) (closeTileQuietly t) := by
  have hI := ofTransfers_queuesWithin K L
  have tried : ∀ w, KeepsOrStops (QueuesWithin K L) (translateAndClose w t) := fun w =>
    (entryKey_orStops hI _ _ _).bind fun _ => keeps_getS.orStops.bind fun _ => keepsOrStops_ite (keeps_closeTile _ _ _ _).orStops
      ((entryKey_orStops hI _ _ _).bind fun _ => (keeps_closeTile _ _ _ _).orStops)
  have left_ : Keeps (QueuesWithin K L) (do recallAll t; drainTile t.asid t.desc; modifyDev (fun d => d.removeTile t) : Act Unit) :=
    (keeps_recallAll hI t).bind fun _ => (keeps_drainTile _ _).bind fun _ => keeps_deviceQueues
  unfold closeTileQuietly
  refine keeps_getS.bind fun s => ?_
  intro u hu log
  dsimp only
  split
  · next r e =>
    obtain ⟨⟨effs, hr⟩, hi⟩ := (congrArg (RunKept (QueuesWithin K L) u log) e).mp (tried _ u hu log)
    exact ⟨_, effs, by rw [← hr], by rwa [hr] at hi⟩
  · next run effs e =>
    have h : ∀ v, _ → _ := (congrArg (RunKept (QueuesWithin K L) u log) e).mp (tried _ u hu log)
    refine EndsIn.bind (p := emitAll effs) (fun log => ⟨(), effs, emitAll_run effs u log, ?_⟩) log
    exact keeps_modifyDev (fun _ hv => hv.of_engines rfl) _ (h u hu)
  · exact left_ u hu log

theorem keeps_dropUnstarted (tid : Nat) : Keeps (QueuesWithin K L) (dropUnstarted tid) := by
  have hI := ofTransfers_queuesWithin K L
  refine keeps_getS.bind fun _ => keeps_forAll fun _ _ => keeps_forAll fun _ _ => ?_
  exact (keeps_getS.bind fun _ => keeps_writeTeam hI _ _ _ _).bind fun _ => keeps_yard hI

theorem keeps_finishGrid (g : Grid) (add : Bool) : Keeps (QueuesWithin K L) (finishGrid g add) := by
  have record : ∀ f q i, Keeps (QueuesWithin K L) (completeRecord f q i) := fun _ _ _ => keeps_func (ofTransfers_queuesWithin K L)
  have rest : Keeps (QueuesWithin K L) (do
      let s ← getS
      if s.overflowCount g = 0 || !add then modifyDev (fun d => { d with grids := d.grids.filter (fun x => x.gid != g.gid) })
      else modifyDev (fun d =>
        { d with grids := d.grids.map (fun x => if x.gid = g.gid then { x with done := 0, queue := none } else x) }) : Act Unit) :=
    keeps_getS.bind fun _ => keeps_ite keeps_deviceQueues keeps_deviceQueues
  unfold finishGrid
  dsimp only
  split
  · exact keeps_ite ((record _ _ _).bind fun _ => rest) rest
  · exact rest

theorem keeps_completeGrid (g : Grid) (add : Bool) : Keeps (QueuesWithin K L) (completeGrid g add) := by
  have hI := ofTransfers_queuesWithin K L
  unfold completeGrid
  refine keeps_getS.bind fun s => keeps_ite (keeps_finishGrid g add) ?_
  split
  · refine keeps_ite keeps_pure ((keeps_meetOutside hI _ _ _ _).bind fun _ => ?_)
    exact (keeps_counterAdd hI _ _).bind fun _ => keeps_finishGrid g true
  · exact (keeps_postEvent hI _ _).bind fun _ => keeps_finishGrid g true

theorem keeps_endTeam (tid : Nat) (add : Bool) : Keeps (QueuesWithin K L) (endTeam tid add) := by
  have hI := ofTransfers_queuesWithin K L
  unfold endTeam
  refine keeps_getS.bind fun s => ?_
  split
  · exact keeps_pure
  · next t _ =>
    have rest : Keeps (QueuesWithin K L) (do
        let s ← getS
        match s.grid t.grid with
        | some g => if g.left = 0 then completeGrid g add else pure ()
        | none => pure () : Act Unit) := keeps_getS.bind fun s => by
      split
      · exact keeps_ite (keeps_completeGrid _ _) keeps_pure
      · exact keeps_pure
    refine (keeps_forAll fun u _ => keeps_closeTileQuietly u).bind fun _ => (keeps_dropUnstarted tid).bind fun _ => ?_
    refine keeps_getS.bind fun _ => (keeps_forAll fun e _ => keeps_emit fun s hs => hs.of_engines rfl).bind fun _ => ?_
    refine (keeps_deviceQueues).bind fun _ => keeps_ite ?_ rest
    exact (keeps_getS.bind fun _ => keeps_deviceQueues).bind fun _ => rest

theorem keeps_checkTeamEnd (tid : Nat) : Keeps (QueuesWithin K L) (checkTeamEnd tid) :=
  keeps_getS.bind fun _ => keeps_ite (keeps_endTeam tid true) keeps_pure

end

end Sys2Proof.Machine
end

section
namespace Sys2Proof.Machine

/-! ### Lists by key: what they list -/

theorem keys_assocSet {κ α : Type} [DecidableEq κ] {l : List (κ × α)} {k : κ} (a : α) (hk : k ∈ l.map (fun e => e.1)) :
    (assocSet l k a).map (fun e => e.1) = l.map (fun e => e.1) := by
  induction l with
  | nil => simp at hk
  | cons e l ih =>
    obtain ⟨j, b⟩ := e
    by_cases h : j = k
    · simp [assocSet, h]
    · simp only [List.map_cons, List.mem_cons, Ne.symm h, false_or] at hk
      simp [assocSet, h, ih hk]

/-- What a list with a key's value replaced lists: the new value, and the others of other keys. -/
theorem mem_assocSet {κ α : Type} [DecidableEq κ] {l : List (κ × α)} {k : κ} {a : α} (hn : (l.map (fun e => e.1)).Nodup)
    {e : κ × α} (he : e ∈ assocSet l k a) : e = (k, a) ∨ (e.1 ≠ k ∧ e ∈ l) := by
  induction l with
  | nil => simpa [assocSet] using he
  | cons c l ih =>
    obtain ⟨j, b⟩ := c
    simp only [List.map_cons, List.nodup_cons] at hn
    by_cases h : j = k
    · subst h
      simp only [assocSet, if_pos, List.mem_cons] at he
      rcases he with rfl | he
      · exact .inl rfl
      · exact .inr ⟨fun hj => hn.1 (hj ▸ List.mem_map_of_mem he), List.mem_cons_of_mem _ he⟩
    · simp only [assocSet, if_neg h, List.mem_cons] at he
      rcases he with rfl | he
      · exact .inr ⟨h, List.mem_cons_self⟩
      · exact (ih hn.2 he).imp id (fun ⟨h1, h2⟩ => ⟨h1, List.mem_cons_of_mem _ h2⟩)

theorem assocGet_mem {κ α : Type} [DecidableEq κ] (d : α) {l : List (κ × α)} {k : κ} (hk : k ∈ l.map (fun e => e.1)) :
    (k, assocGet d l k) ∈ l := by
  induction l with
  | nil => simp at hk
  | cons e l ih =>
    obtain ⟨j, b⟩ := e
    by_cases h : j = k
    · simp [assocGet, h]
    · simp only [List.map_cons, List.mem_cons, Ne.symm h, false_or] at hk
      simp [assocGet, h, ih hk]

/-! ### Transfers that fail (R413, R428) -/

/-- A transfer as its engine remembers it. -/
def Transfer.ended (t : Transfer) : Transfer := { t with cursor := 0, line := none }

/-- The end of a transfer changes its engine, and no other engine and no team. -/
theorem endTransfer_endsIn (e : Nat) (t : Transfer) (s : State) : EndsIn (endTransfer e t) s (fun _ u =>
    u.mem = s.mem ∧ u.dev.engines = assocSet s.dev.engines e ((s.engine e).finish t.ended) ∧ u.dev.teams = s.dev.teams) :=
  EndsIn.bind (endsIn_modifyYard (endsIn_modifyDev ⟨rfl, rfl, rfl⟩))

/-- What is left of a transfer that ended within queues. -/
theorem QueuesWithin.finish {K : List Nat} {L : List (Nat × Nat × Word)} {s u : State} {e : Nat} {t : Transfer} (hK : K.Nodup)
    (he : e ∈ K) (h : QueuesWithin K L s) (hu : u.dev.engines = assocSet s.dev.engines e ((s.engine e).finish t)) :
    QueuesWithin K (L.filter (fun x => !(x.1 == e && x.2.1 == t.serial))) u := by
  obtain ⟨rfl, hL⟩ := h
  refine ⟨by rw [hu, keys_assocSet _ he], fun x hx => ?_⟩
  obtain ⟨c, hc, v, hv, rfl⟩ := mem_transferIds.mp hx
  rw [hu] at hc
  rcases mem_assocSet hK hc with rfl | ⟨hne, hmem⟩
  · obtain ⟨hq, hs⟩ := List.mem_filter.mp (show v ∈ (s.engine e).queue.filter (fun w => w.serial != t.serial) from hv)
    have hmem : (e, s.engine e) ∈ s.dev.engines := assocGet_mem _ he
    exact List.mem_filter.mpr ⟨hL _ (mem_transferIds.mpr ⟨_, hmem, v, hq, rfl⟩), by simpa using hs⟩
  · exact List.mem_filter.mpr ⟨hL _ (mem_transferIds.mpr ⟨c, hmem, v, hv, rfl⟩), by simp [hne]⟩

/-- What a running transfer that fails does before it ends keeps the engines and the teams. -/
theorem failTransfer_moves {Q : Unit → State → Prop} {s : State} {e cause : Nat} {t : Transfer} (I : State → Prop)
    (hI : OfTransfers I) (hs : I s)
    (h : ∀ u left, I u → (t.state ≠ 2 → left = t.left) → EndsIn (endFailed e t cause left) u Q) :
    EndsIn (failTransfer e t cause) s Q := by
  have last : ∀ u (t' : Transfer), t.state = 2 → I u →
      EndsIn (do let written ← writeSome e t'; endFailed e t cause (t'.left - written)) u Q := fun u t' ht hu =>
    EndsIn.bind ((keeps_writeSome hI e t' u hu).mono fun _ v hv => h v _ hv fun hn => absurd ht hn)
  unfold failTransfer
  split
  · next ht =>
    refine endsIn_getS_bind ?_
    dsimp only
    split
    · exact EndsIn.bind (EndsIn.bind ((keeps_writePoisoned hI _ _ _ s hs).mono fun _ u hu => endsIn_pure (last u _ ht hu)))
    · exact EndsIn.bind (endsIn_pure (last s _ ht hs))
  · exact h s _ hs fun _ => rfl

/-- Where no team has a number, no team ends. -/
theorem checkTeamEnd_teamless {s : State} {tid : Nat} (h : s.team tid = none) :
    EndsIn (checkTeamEnd tid) s (fun _ t => t = s) := by
  have hover : s.teamOver tid = false := by rw [State.teamOver, h]
  refine endsIn_getS_bind ?_
  rw [hover]
  exact endsIn_pure rfl

/-- Without its team, a failed transfer leaves its engine and nothing else of the engines changed. -/
theorem failTransfer_unteamed {s : State} {e cause : Nat} {t : Transfer} (ht : s.team t.tid = none) :
    EndsIn (failTransfer e t cause) s (fun _ u => ∃ left, (t.state ≠ 2 → left = t.left) ∧
      u.engine e = (s.engine e).finish { t with state := 3, cause := cause, left := left, cursor := 0, line := none }) := by
  refine failTransfer_moves (fun u => u.dev.engines = s.dev.engines ∧ u.dev.teams = s.dev.teams) (ofTransfers_same _ _) ⟨rfl, rfl⟩ ?_
  intro u left ⟨he, hT⟩ hleft
  refine EndsIn.bind ((endTransfer_endsIn _ _ _).mono fun _ v hv => ?_)
  obtain ⟨-, hve, hvT⟩ := hv
  refine EndsIn.bind ((keeps_postEvent (ofTransfers_same _ _) _ _ v ⟨hve, hvT⟩).mono fun _ w hw => ?_)
  obtain ⟨hwe, hwT⟩ := hw
  have hteam : w.team t.tid = none := by rwa [State.team, hwT, hT]
  refine (checkTeamEnd_teamless hteam).mono fun _ w' hw' => ⟨left, hleft, ?_⟩
  subst hw'
  unfold State.engine
  rw [hwe, assocGet_assocSet, if_pos rfl, State.engine, he]
  rfl

theorem failTransfer_within {K : List Nat} {L : List (Nat × Nat × Word)} {s : State} {e cause : Nat} {t : Transfer} (hK : K.Nodup)
    (he : e ∈ K) (h : QueuesWithin K L s) :
    EndsIn (failTransfer e t cause) s (fun _ => QueuesWithin K (L.filter (fun x => !(x.1 == e && x.2.1 == t.serial)))) := by
  refine failTransfer_moves _ (ofTransfers_queuesWithin K L) h fun u left hu _ => ?_
  refine EndsIn.bind ((endTransfer_endsIn _ _ _).mono fun _ v hv => ?_)
  refine EndsIn.bind ((keeps_postEvent (ofTransfers_queuesWithin _ _) _ _ v (hu.finish hK he hv.2.1)).mono fun _ w hw => ?_)
  exact keeps_checkTeamEnd _ w hw

/-- Transfers that fail one after another are queued no more. -/
theorem failTransfers_within {K : List Nat} (hK : K.Nodup) {cause : Nat} (l : List (Nat × Transfer)) (hl : ∀ v ∈ l, v.1 ∈ K)
    {L : List (Nat × Nat × Word)} {s : State} (h : QueuesWithin K L s) :
    EndsIn (forAll l (fun u => failTransfer u.1 u.2 cause)) s (fun _ u =>
      QueuesWithin K (L.filter (fun x => !l.any (fun v => x.1 == v.1 && x.2.1 == v.2.serial))) u) := by
  induction l generalizing L s with
  | nil => exact endsIn_pure (by simpa using h)
  | cons v l ih =>
    refine EndsIn.bind ((failTransfer_within hK (hl v List.mem_cons_self) h).mono fun _ u hu => ?_)
    refine (ih (fun w hw => hl w (List.mem_cons_of_mem _ hw)) hu).mono fun _ w hw => ?_
    simpa only [List.filter_filter, List.any_cons, Bool.not_or, Bool.and_comm] using hw

end Sys2Proof.Machine
end

section
namespace Sys2Proof.Machine

/-! ### Accesses from outside that nothing holds (R304, R305) -/

/-- A program that changes nothing here, and what follows it. -/
theorem EndsIn.after {α β : Type} {p : Act α} {f : α → Act β} {s : State} {Q : β → State → Prop}
    (h : EndsIn p s (fun _ t => t = s)) (hf : ∀ a, EndsIn (f a) s Q) : EndsIn (p >>= f) s Q :=
  (h.mono fun a t (e : t = s) => by rw [e]; exact hf a).bind

theorem endsIn_forAll_same {α : Type} {l : List α} {f : α → Act Unit} {s : State}
    (h : ∀ a ∈ l, EndsIn (f a) s (fun _ t => t = s)) : EndsIn (forAll l f) s (fun _ t => t = s) :=
  keeps_forAll (I := fun t => t = s) (fun a ha t ht => by rw [ht]; exact h a ha) s rfl

theorem endsIn_store {k : Nat} {bs : List Byte} {s : State} {Q : Unit → State → Prop}
    (h : Q () { s with mem := s.mem.writeBytes k bs }) : EndsIn (emit (.mem k bs)) s Q := endsIn_emit h

theorem endsIn_require_bind {α : Type} {b : Bool} {name : String} {f : Unit → Act α} {s : State} {Q : α → State → Prop}
    (hb : b = true) (h : EndsIn (f ()) s Q) : EndsIn (require b name >>= f) s Q := (endsIn_require hb h).bind

theorem endsIn_requireSome_bind {α β : Type} {o : Option α} {a : α} {name : String} {f : α → Act β} {s : State}
    {Q : β → State → Prop} (ho : o = some a) (h : EndsIn (f a) s Q) : EndsIn (requireSome o name >>= f) s Q := by
  subst ho
  exact (endsIn_pure (a := a) h).bind

/-- An event that ends in one state. -/
theorem EndsIn.exec_eq {p : Act Unit} {i : Instr} {s u : State} (hx : exec i s = Machine.event p s)
    (h : EndsIn p s (fun _ t => t = u)) : exec i s = .next u := by
  rw [hx]
  obtain ⟨t, ht, rfl⟩ := h.event
  exact ht

theorem EndsIn.reaches {p : Act Unit} {i : Instr} {s : State} {Q : State → Prop} (hx : exec i s = Machine.event p s)
    (h : EndsIn p s (fun _ t => Q t)) : Reaches i s Q := by
  obtain ⟨t, ht, hq⟩ := h.event
  exact ⟨t, hx.trans ht, hq⟩

/-- Nothing of tenure or poison stands at memory, no transfer is queued, and no region is skewed. -/
def State.Unheld (s : State) : Prop :=
  s.dev.tiles = [] ∧ s.dev.poison = [] ∧ s.dev.engines = [] ∧ ∀ z ∈ s.yards, z.2.skews = []

theorem State.Unheld.mem {s : State} (h : s.Unheld) (m : Memory) : ({ s with mem := m } : State).Unheld := h

theorem touchingKey_none {s : State} (h : s.dev.tiles = []) (key n : Nat) : s.touchingKey key n = [] := by
  simp [State.touchingKey, h]

theorem skewBusyKey_none {s : State} (h : ∀ z ∈ s.yards, z.2.skews = []) (key n : Nat) : s.skewBusyKey key n = false := by
  have : s.yards.any (fun e => e.2.skews.any (fun k =>
      k.busyUntil != 0 && (List.range (k.rows * k.pitch / 4096 + 2)).any (fun i =>
        let lo := max (k.base) ((k.base / 4096 + i) * 4096)
        let hi := min (k.base + k.rows * k.pitch) ((k.base / 4096 + i + 1) * 4096)
        lo < hi && s.windowKey k.tid lo < key + n && key < s.windowKey k.tid lo + (hi - lo)))) = false := by
    rw [List.any_eq_false]
    intro z hz
    simp [h z hz]
  rw [State.skewBusyKey, this, Bool.and_false]

theorem State.Unheld.outsideHeld {s : State} (h : s.Unheld) (agent key n : Nat) (need : Tenure) :
    s.outsideHeld agent key n need = false := by
  obtain ⟨ht, -, he, hz⟩ := h
  simp [State.outsideHeld, State.keyHeld, State.engineLocked, he, skewBusyKey_none hz, touchingKey_none ht, uncoveredAsks,
    State.graced]

/-- Where there are no tiles, an access from outside meets none. -/
theorem meetOutside_untiled {s : State} (h : s.dev.tiles = []) (agent key n : Nat) (need : Tenure) :
    EndsIn (meetOutside agent key n need) s (fun _ t => t = s) := by
  refine endsIn_getS_bind ?_
  rw [touchingKey_none h]
  exact endsIn_pure rfl

theorem clearPoison_unpoisoned {s : State} (h : s.dev.poison = []) (key n : Nat) :
    EndsIn (clearPoison key n) s (fun _ t => t = s) := by
  refine endsIn_getS_bind ?_
  simp only [h, List.filter_nil, List.isEmpty_nil, if_pos]
  exact endsIn_pure rfl

theorem writeBytes_append (m : Memory) (k : Nat) (a b : List Byte) :
    m.writeBytes k (a ++ b) = (m.writeBytes k a).writeBytes (k + a.length) b := by
  induction a generalizing m k with
  | nil => rfl
  | cons x a ih => rw [List.cons_append, Memory.writeBytes, Memory.writeBytes, ih, List.length_cons, Nat.add_assoc, Nat.add_comm 1]

/-- Pieces of one line each make up the bytes. -/
theorem writeBytes_linePieces (fuel key : Nat) (bytes : List Byte) (m : Memory) (h : key % 128 + bytes.length ≤ 128 * fuel) :
    (linePieces fuel key bytes).foldl (fun m p => m.writeBytes p.1 p.2) m = m.writeBytes key bytes := by
  induction fuel generalizing key bytes m with
  | zero =>
    obtain rfl : bytes = [] := List.eq_nil_of_length_eq_zero (by omega)
    rfl
  | succ fuel ih =>
    unfold linePieces
    split
    · next he => rw [List.isEmpty_iff.mp he]; rfl
    · rw [List.foldl_cons, ih _ _ _ (by rw [List.length_drop]; omega)]
      by_cases hl : 128 - key % 128 ≤ bytes.length
      · conv_rhs => rw [← List.take_append_drop (128 - key % 128) bytes, writeBytes_append, List.length_take_of_le hl]
      · rw [List.drop_of_length_le (by omega), List.take_of_length_le (by omega)]
        rfl

/-- One piece of a write from outside. -/
def outsidePiece (name : String) (p : Nat × List Byte) : Act Unit := do
  let s ← getS
  require (!s.outsideHeld outsideAgent p.1 p.2.length .w) name
  meetOutside outsideAgent p.1 p.2.length .w
  clearPoison p.1 p.2.length
  emit (.mem p.1 p.2)

theorem outsidePiece_endsIn {s : State} (h : s.Unheld) (name : String) (p : Nat × List Byte) :
    EndsIn (outsidePiece name p) s (fun _ t => t = { s with mem := s.mem.writeBytes p.1 p.2 }) := by
  refine endsIn_getS_bind ?_
  refine endsIn_require_bind (by rw [h.outsideHeld]; rfl) ?_
  refine (meetOutside_untiled h.1 _ _ _ _).after fun _ => ?_
  refine (clearPoison_unpoisoned h.2.1 _ _).after fun _ => ?_
  exact endsIn_store rfl

/-- Bytes written from outside where nothing holds them change those bytes alone. -/
theorem outsideWrite_endsIn {s : State} (h : s.Unheld) (name : String) (key : Nat) (bytes : List Byte) :
    EndsIn (outsideWrite name key bytes) s (fun _ t => t = { s with mem := s.mem.writeBytes key bytes }) := by
  suffices pieces : ∀ (l : List (Nat × List Byte)) (s : State), s.Unheld → EndsIn (forAll l (outsidePiece name)) s
      (fun _ t => t = { s with mem := l.foldl (fun m p => m.writeBytes p.1 p.2) s.mem }) by
    have hp := pieces (linePieces (bytes.length / 128 + 2) key bytes) s h
    rwa [writeBytes_linePieces _ _ _ _ (by omega)] at hp
  intro l
  induction l with
  | nil => exact fun s _ => endsIn_pure rfl
  | cons p l ih =>
    refine fun s h => EndsIn.bind ((outsidePiece_endsIn h name p).mono fun _ t ht => ?_)
    subst ht
    exact ih _ (h.mem _)

/-- Bytes read from outside where nothing holds them change nothing. -/
theorem outsideRead_endsIn {s : State} (h : s.Unheld) (name : String) (key n : Nat) :
    EndsIn (outsideRead name key n) s (fun _ t => t = s) := by
  refine endsIn_forAll_same fun p _ => endsIn_getS_bind ?_
  exact endsIn_require_bind (by rw [h.outsideHeld]; rfl) (meetOutside_untiled h.1 _ _ _ _)

/-- The yards that listen are told of a counter's value; memory is as it was. -/
theorem evaluateKey_mem {s : State} (key v : Nat) : EndsIn (evaluateKey key v) s (fun _ t => t.mem = s.mem) := by
  refine endsIn_getS_bind ?_
  exact keeps_forAll (I := fun t => t.mem = s.mem) (fun _ _ => keeps_modifyYard fun _ h => h) s rfl

theorem counterAdd_mem {s : State} (k : Nat) (v : Word) : EndsIn (counterAdd k v) s (fun _ t =>
    t.mem = s.mem.writeBytes k (leBytes 8 (min (s.counter k + v.toNat) (2 ^ 64 - 1)))) :=
  endsIn_getS_bind (EndsIn.bind (endsIn_store (EndsIn.bind ((evaluateKey_mem _ _).mono fun _ _ h => endsIn_pure h))))

theorem outsideAdd_mem {s : State} (h : s.Unheld) (name : String) (k : Nat) (v : Word) : EndsIn (outsideAdd name k v) s (fun _ t =>
    t.mem = s.mem.writeBytes k (leBytes 8 (min (s.counter k + v.toNat) (2 ^ 64 - 1)))) := by
  refine endsIn_getS_bind (endsIn_require_bind (by rw [h.outsideHeld]; rfl) ?_)
  exact (meetOutside_untiled h.1 _ _ _ _).after fun _ => EndsIn.bind ((counterAdd_mem k v).mono fun _ _ ht => endsIn_pure ht)

/-! ### Accesses of other devices (R305, R428) -/

section
variable {s : State} {dev : BitVec 16} (hp : s.dev.boot.phase = 5) (hl : s.linked dev.toNat = true)
include hp hl

theorem atOtherDevice : (s.dev.boot.phase == 5 && s.linked dev.toNat) = true := by
  rw [hp, hl]; rfl

theorem sertenPut_next (h : s.Unheld) {tenant : BitVec 4} {asid : BitVec 16} {va : Word} {bytes : List Byte} {k : Nat}
    (he : s.dev.exportedTo tenant = some asid)
    (hk : s.exported asid va.toNat bytes.length .store = some [(k, bytes.length)]) :
    exec (.sertenPut dev tenant va bytes) s = .next { s with mem := s.mem.writeBytes k bytes } := by
  refine EndsIn.exec_eq rfl (endsIn_getS_bind ?_)
  refine endsIn_require_bind (atOtherDevice hp hl) ?_
  simp only [he, Option.bind_some, hk, cutBytes, List.take_length]
  exact EndsIn.bind ((outsideWrite_endsIn h _ _ _).mono fun _ _ ht => endsIn_pure ht)

theorem sertenPut_unexported {tenant : BitVec 4} (va : Word) (bytes : List Byte) (he : s.dev.exportedTo tenant = none) :
    exec (.sertenPut dev tenant va bytes) s = .next s := by
  refine EndsIn.exec_eq rfl (endsIn_getS_bind ?_)
  refine endsIn_require_bind (atOtherDevice hp hl) ?_
  simp only [he, Option.bind_none]
  exact endsIn_pure rfl

theorem sertenCounterAdd_reaches (h : s.Unheld) {tenant : BitVec 4} {asid : BitVec 16} {va : Word} (v : Word) {k : Nat}
    (he : s.dev.exportedTo tenant = some asid) (hk : s.addTarget asid 0 va.toNat = .ok k) :
    Reaches (.sertenCounterAdd dev tenant va v) s (fun t =>
      t.mem = s.mem.writeBytes k (leBytes 8 (min (s.counter k + v.toNat) (2 ^ 64 - 1)))) := by
  refine EndsIn.reaches rfl (endsIn_getS_bind ?_)
  refine endsIn_require_bind (atOtherDevice hp hl) ?_
  simp only [he, Option.map_some, hk]
  exact outsideAdd_mem h _ _ _

theorem sertenCounterAdd_unexported {tenant : BitVec 4} (va v : Word) (he : s.dev.exportedTo tenant = none) :
    exec (.sertenCounterAdd dev tenant va v) s = .next s := by
  refine EndsIn.exec_eq rfl (endsIn_getS_bind ?_)
  refine endsIn_require_bind (atOtherDevice hp hl) ?_
  simp only [he, Option.map_none]
  exact endsIn_pure rfl

theorem sertenGet_next (h : s.Unheld) (tenant : BitVec 4) (va : Word) (n : Nat) :
    exec (.sertenGet dev tenant va n) s = .next s := by
  refine EndsIn.exec_eq rfl (endsIn_getS_bind ?_)
  refine endsIn_require_bind (atOtherDevice hp hl) ?_
  split
  · exact endsIn_pure rfl
  · next l _ => exact endsIn_forAll_same fun p _ => outsideRead_endsIn h _ _ _

end

theorem portLinkChange_next (s : State) {port : Nat} (dev : Option (BitVec 16)) (hp : port < 8) :
    exec (.portLinkChange port dev) s = .next { s with dev := { s.dev with
      links := s.dev.links.filter (fun l => l.1 != port) ++ dev.toList.map (fun n => (port, n.toNat)) } } :=
  EndsIn.exec_eq rfl (endsIn_require_bind (decide_eq_true hp) (endsIn_modifyDev rfl))

end Sys2Proof.Machine
end

section
namespace Sys2Proof.Machine

/-! ### Accesses of the host to memory (R304, R431) -/

theorem hostMemoryWrite_next {s : State} (hp : s.dev.boot.phase = 5) (h : s.Unheld) {pa : Nat} {bytes : List Byte}
    (hb : bytes ≠ []) (he : pa + bytes.length ≤ dramEnd) :
    exec (.hostMemoryWrite pa bytes false) s = .next { s with mem := s.mem.writeBytes pa bytes } := by
  refine EndsIn.exec_eq rfl (endsIn_getS_bind ?_)
  refine endsIn_require_bind (by simp [hp, he, hb]) ?_
  exact EndsIn.bind ((outsideWrite_endsIn h _ _ _).mono fun _ _ ht => endsIn_pure ht)

/-- Added blocks are poisoned, and those poisoned before stay so. -/
theorem mem_addPoison (d : Dev) (l : List Nat) (b : Nat) : b ∈ (d.addPoison l).poison ↔ b ∈ d.poison ∨ b ∈ l := by
  have h : ∀ acc : List Nat, b ∈ l.foldl (fun acc b => if acc.contains b then acc else acc ++ [b]) acc ↔ b ∈ acc ∨ b ∈ l := by
    induction l with
    | nil => simp
    | cons c l ih =>
      intro acc
      rw [List.foldl_cons, ih, List.mem_cons]
      split
      · next hc =>
        have := List.contains_iff_mem.mp hc
        constructor
        · tauto
        · rintro (hb | rfl | hb) <;> tauto
      · simp only [List.mem_append, List.mem_singleton]; tauto
  exact h d.poison

/-- The memory and the poison, where no yard has a mailbox for its machine-check records. -/
def Unread (m : Memory) (P : List Nat) (s : State) : Prop :=
  s.mem = m ∧ s.dev.poison = P ∧ ∀ y, (s.yard y).mailbox 15 = none

theorem Unread.setYard {m : Memory} {P : List Nat} {s : State} (h : Unread m P s) (y : Nat) {Y : Yard}
    (hY : Y.mailbox 15 = (s.yard y).mailbox 15) : Unread m P { s with yards := assocSet s.yards y Y } := by
  refine ⟨h.1, h.2.1, fun z => ?_⟩
  have hz : State.yard { s with yards := assocSet s.yards y Y } z = if y = z then Y else s.yard z := assocGet_assocSet ..
  rw [hz]
  split
  · rw [hY, h.2.2]
  · exact h.2.2 z

/-- A record that no mailbox takes is held (R442). -/
theorem keeps_reportRecord_unread {m : Memory} {P : List Nat} (y : Nat) (r : McRecord) : Keeps (Unread m P) (reportRecord y r) := by
  refine Keeps.bind (keeps_modifyYard fun s hs => hs.setYard y ?_) fun _ s hs => endsIn_getS_bind ?_
  · split <;> rfl
  · dsimp only
    rw [hs.2.2 y]
    split
    · next h => cases h
    · exact endsIn_pure hs

theorem keeps_reportPoison_unread {m : Memory} {P : List Nat} (y unit : Nat) (p : Pos) (tid addr : Nat) :
    Keeps (Unread m P) (reportPoison y unit p tid addr) := keeps_getS.bind fun _ => keeps_reportRecord_unread _ _

/-- Poison that is stored without a mailbox to report it to leaves memory as it was (R431, R442). -/
theorem storePoison_endsIn {s : State} (hm : ∀ y, (s.yard y).mailbox 15 = none) (unit : Nat) (blocks : List Nat) :
    EndsIn (storePoison unit blocks) s (fun _ t => t.mem = s.mem ∧ ∀ b ∈ blocks, b ∈ t.dev.poison) := by
  have all : ∀ b ∈ blocks, b ∈ s.dev.poison ∨ b ∈ (blocks.filter (fun b => !s.dev.poison.contains b)).eraseDups := by
    intro b hb
    by_cases hp : b ∈ s.dev.poison
    · exact .inl hp
    · exact .inr (by simpa using ⟨hb, hp⟩)
  refine endsIn_getS_bind ?_
  dsimp only
  generalize (blocks.filter (fun b => !s.dev.poison.contains b)).eraseDups = fresh at all ⊢
  split
  · next he =>
    rw [List.isEmpty_iff.mp he] at all
    exact endsIn_pure ⟨rfl, fun b hb => (all b hb).resolve_right List.not_mem_nil⟩
  · refine EndsIn.bind (endsIn_modifyDev ?_)
    have reported := keeps_forAll (l := fresh) fun b _ => keeps_reportPoison_unread (m := s.mem) (P := (s.dev.addPoison fresh).poison)
      (s.blockYard (b * 64)) unit ⟨0, false, 0, 0⟩ 0 (if isDram (b * 64) then b * 64 else 0)
    refine (reported { s with dev := s.dev.addPoison fresh } ⟨rfl, rfl, hm⟩).mono fun _ t ht => ?_
    obtain ⟨htm, htp, -⟩ := ht
    refine ⟨htm, fun b hb => ?_⟩
    rw [htp, mem_addPoison]
    exact all b hb

theorem hostMemoryWrite_poisons {s : State} (hp : s.dev.boot.phase = 5) (h : s.Unheld) {pa : Nat} {bytes : List Byte}
    (hb : bytes ≠ []) (he : pa + bytes.length ≤ dramEnd) (hm : ∀ y, (s.yard y).mailbox 15 = none) :
    Reaches (.hostMemoryWrite pa bytes true) s (fun t => t.mem = s.mem.writeBytes pa bytes ∧
      ∀ i, i < bytes.length → (pa + i) / 64 ∈ t.dev.poison) := by
  refine EndsIn.reaches rfl (endsIn_getS_bind ?_)
  refine endsIn_require_bind (by simp [hp, he, hb]) ?_
  refine EndsIn.bind ((outsideWrite_endsIn h _ _ _).mono fun _ u hu => ?_)
  subst hu
  rw [if_pos rfl]
  refine (storePoison_endsIn (s := { s with mem := s.mem.writeBytes pa bytes }) hm _ _).mono fun _ t ht => ⟨ht.1, fun i hi => ht.2 _ ?_⟩
  refine List.mem_map.mpr ⟨(pa + i) / 64 - pa / 64, List.mem_range.mpr ?_, ?_⟩ <;> omega

theorem hostMemoryRead_memory {s : State} (hp : s.dev.boot.phase = 5) (h : s.Unheld) {pa n : Nat} (he : pa + n ≤ dramEnd) :
    exec (.hostMemoryRead (.memory pa) n) s = .next s := by
  refine EndsIn.exec_eq rfl (endsIn_getS_bind ?_)
  exact endsIn_require_bind (by simp [State.barOpen, hp, he]) (outsideRead_endsIn h _ _ _)

theorem barTouch_endsIn {s : State} (h : s.Unheld) (f off n : Nat) : EndsIn (barTouch f off n) s (fun _ t => t = s) := by
  refine endsIn_getS_bind ?_
  split
  · split
    · exact endsIn_pure rfl
    · split
      · exact outsideRead_endsIn h _ _ _
      · exact endsIn_pure rfl
  · exact endsIn_pure rfl

theorem hostMemoryRead_bar {s : State} (hp : s.dev.boot.phase = 5) (h : s.Unheld) {f off n : Nat} (hf : f < 16)
    (ho : off + n ≤ 0x10000) : exec (.hostMemoryRead (.bar f off) n) s = .next s := by
  refine EndsIn.exec_eq rfl (endsIn_getS_bind ?_)
  refine endsIn_require_bind (by simp [hf, ho]) ?_
  rw [if_pos (by simp [State.barOpen, hp])]
  exact barTouch_endsIn h f off n

/-! ### Writes of the host to a function's registers (R331, R421-R423) -/

theorem func_set {s : State} {l : List (Nat × Func)} {f : Nat} {F : Func} (h : s.dev.funcs = assocSet l f F) : s.func f = F := by
  rw [State.func, h, assocGet_assocSet, if_pos rfl]

theorem func_modified (s : State) (f : Nat) (F : Func) :
    State.func { s with dev := { s.dev with funcs := assocSet s.dev.funcs f F } } f = F := func_set rfl

theorem endsIn_modifyFunc {s : State} {f : Nat} {g : Func → Func} {Q : Unit → State → Prop}
    (h : Q () { s with dev := { s.dev with funcs := assocSet s.dev.funcs f (g (s.func f)) } }) : EndsIn (modifyFunc f g) s Q :=
  endsIn_modifyDev h

/-- An 8-byte write to the address of a counter's binding is an add there (R422). -/
theorem barWrite_alias {f n : Nat} (v : Word) (hn : n < 512) : barWrite f (8 * n) 8 v = aliasAdd f n v := by
  unfold barWrite
  rw [if_neg (by simp), if_pos (by omega), Nat.mul_div_cancel_left n (by decide)]

theorem hostCounterAdd_reaches {s : State} (hp : s.dev.boot.phase = 5) (h : s.Unheld) {f n : Nat} (v : Word) (hf : f < 16)
    (hn : n < 512) {a : Alias} {k : Nat} (ha : (s.func f).aliases.find? (fun a => a.n == n) = some a)
    (hk : s.addTarget a.asid a.tid a.va.toNat = .ok k) :
    Reaches (.hostCounterAdd f n v) s (fun t =>
      t.mem = s.mem.writeBytes k (leBytes 8 (min (s.counter k + v.toNat) (2 ^ 64 - 1)))) := by
  refine EndsIn.reaches rfl (endsIn_getS_bind ?_)
  refine endsIn_require_bind (by simp [hf, hn]) ?_
  rw [if_pos (by simp [State.barOpen, hp]), barWrite_alias v hn]
  refine endsIn_getS_bind ?_
  simp only [Func.alias_, ha, hk]
  exact outsideAdd_mem h _ _ _

theorem hostCounterAdd_dropped {s : State} {f n : Nat} (v : Word) (hf : f < 16) (hn : n < 512)
    (h : s.dev.boot.phase ≠ 5 ∨ (s.func f).aliases.find? (fun a => a.n == n) = none) : exec (.hostCounterAdd f n v) s = .next s := by
  refine EndsIn.exec_eq rfl (endsIn_getS_bind ?_)
  refine endsIn_require_bind (by simp [hf, hn]) ?_
  split
  · next hb =>
    rw [barWrite_alias v hn]
    refine endsIn_getS_bind ?_
    simp only [Func.alias_, h.resolve_left (fun h => h (by simpa [State.barOpen] using hb))]
    exact endsIn_pure rfl
  · exact endsIn_pure rfl

/-- EQBASE loses the bits below a 64-byte boundary. -/
theorem and_not_63 (v : Word) : v &&& ~~~63#64 = BitVec.ofNat 64 (v.toNat / 64 * 64) := by
  have h : v &&& BitVec.allOnes 64 <<< 6 = v >>> 6 <<< 6 := by
    ext i hi
    rw [BitVec.getElem_and, BitVec.getElem_shiftLeft, BitVec.getElem_shiftLeft, BitVec.getElem_allOnes]
    by_cases h6 : i < 6
    · simp [h6]
    · simp [h6, Nat.add_sub_cancel' (Nat.le_of_not_lt h6), BitVec.getLsbD_eq_getElem hi]
  rw [show ~~~63#64 = BitVec.allOnes 64 <<< 6 from rfl, h]
  refine BitVec.eq_of_toNat_eq ?_
  simp [Nat.shiftRight_eq_div_pow, Nat.shiftLeft_eq]

theorem barWrite_eqrd (f : Nat) (v : Word) : barWrite f 0x2018 8 v = modifyFunc f (fun F => { F with eqrd := v }) := rfl

theorem eqsizeOk_iff (v : Word) : eqsizeOk v = true ↔ v = 0 ∨ ∃ i, i ≤ 12 ∧ v.toNat = 16 * 2 ^ i := by
  simp only [eqsizeOk, Bool.or_eq_true, beq_iff_eq, List.any_eq_true, List.mem_range, Nat.lt_succ_iff]

theorem barWrite_eqbase (f : Nat) (v : Word) :
    barWrite f 0x2000 8 v = modifyFunc f (fun F => { F.restartQueue with eqbase := v &&& ~~~63#64 }) := rfl

theorem barWrite_eqsize (f : Nat) (v : Word) :
    barWrite f 0x2008 8 v = modifyFunc f (fun F => { F.restartQueue with eqsize := if eqsizeOk v then v else F.eqsize }) := rfl

theorem eqConfigWrite_reaches {s : State} (hp : s.dev.boot.phase = 5) {f : Nat} (size : Bool) (v : Word) (hf : f < 16) :
    Reaches (.eqConfigWrite f size v) s (fun t => t.mem = s.mem ∧ t.func f = { s.func f with
      eqwr := 0, eqrd := 0, eqlost := 0, eqbase := if size then (s.func f).eqbase else BitVec.ofNat 64 (v.toNat / 64 * 64),
      eqsize := if size ∧ (v = 0 ∨ ∃ i, i ≤ 12 ∧ v.toNat = 16 * 2 ^ i) then v else (s.func f).eqsize }) := by
  refine EndsIn.reaches rfl (endsIn_getS_bind ?_)
  refine endsIn_require_bind (by simp [hf]) ?_
  rw [if_pos (by simp [State.barOpen, hp])]
  cases size with
  | false =>
    rw [if_neg Bool.false_ne_true, barWrite_eqbase]
    refine endsIn_modifyFunc ⟨rfl, (func_set rfl).trans ?_⟩
    rw [and_not_63]
    rfl
  | true =>
    rw [if_pos rfl, barWrite_eqsize]
    refine endsIn_modifyFunc ⟨rfl, (func_set rfl).trans ?_⟩
    simp only [eqsizeOk_iff, true_and, if_true]
    rfl

theorem eqConfigWrite_closed {s : State} (hp : s.dev.boot.phase ≠ 5) {f : Nat} (size : Bool) (v : Word) (hf : f < 16) :
    exec (.eqConfigWrite f size v) s = .next s := by
  refine EndsIn.exec_eq rfl (endsIn_getS_bind ?_)
  refine endsIn_require_bind (by simp [hf]) ?_
  rw [if_neg (by simp [State.barOpen, hp])]
  exact endsIn_pure rfl

/-- An event is written to the entry that EQWR names (R423). -/
theorem writeEvent_endsIn (s : State) (f : Nat) (e : HostEvent) : EndsIn (writeEvent f e) s (fun _ t =>
    t.mem = s.mem.writeBytes
      (hostKey ((s.func f).eqbase.toNat + 320 * ((s.func f).eqwr.toNat % (s.func f).eqsize.toNat))) e.bytes ∧
    t.func f = { s.func f with eqwr := (s.func f).eqwr + 1 }) := by
  refine endsIn_getS_bind (EndsIn.bind (endsIn_store ?_))
  generalize s.mem.writeBytes _ _ = m
  exact endsIn_modifyFunc ⟨rfl, func_set rfl⟩

theorem eventBacklogDrain_reaches {s : State} {f : Nat} {ev : HostEvent} {rest : List HostEvent}
    (hb : (s.func f).backlog = ev :: rest) (hz : (s.func f).eqsize ≠ 0) (hr : (s.func f).ringFull = false)
    (hl : s.dev.hostLinkUp = true) :
    Reaches (.eventBacklogDrain f) s (fun t => (t.func f).backlog = rest ∧ (t.func f).eqwr = (s.func f).eqwr + 1 ∧
      t.mem = s.mem.writeBytes
        (hostKey ((s.func f).eqbase.toNat + 320 * ((s.func f).eqwr.toNat % (s.func f).eqsize.toNat))) ev.bytes) := by
  refine EndsIn.reaches rfl (endsIn_getS_bind ?_)
  refine endsIn_requireSome_bind (a := ev) (by rw [hb]; rfl) ?_
  refine endsIn_require_bind (by simpa [hr, hl] using hz) (EndsIn.bind (endsIn_modifyFunc ?_))
  refine (writeEvent_endsIn _ _ _).mono fun _ t ht => ?_
  rw [func_modified] at ht
  obtain ⟨htm, htf⟩ := ht
  exact ⟨by rw [htf, hb]; rfl, by rw [htf], htm⟩

/-! ### Register writes (R6, R421, R428, R429, R446) -/

section
variable {s : State}

theorem registerWrite_eqrd (hp : s.dev.boot.phase = 5) {f : Nat} (v : Word) (hf : f < 16) :
    Reaches (.registerWrite (.bar f 0x2018 8) v) s (fun t => t.mem = s.mem ∧ t.func f = { s.func f with eqrd := v }) := by
  refine EndsIn.reaches rfl (endsIn_getS_bind ?_)
  refine endsIn_require_bind (by simp [hf]) ?_
  rw [if_pos (by simp [State.barOpen, hp])]
  rw [barWrite_eqrd]
  exact endsIn_modifyFunc ⟨rfl, func_set rfl⟩

theorem registerWrite_misplaced (hp : s.dev.boot.phase = 5) {f off n : Nat} (v : Word) (hf : f < 16) (h : n ≠ 8 ∨ off % 8 ≠ 0) :
    exec (.registerWrite (.bar f off n) v) s = .next s := by
  refine EndsIn.exec_eq rfl (endsIn_getS_bind ?_)
  refine endsIn_require_bind (by simp [hf]) ?_
  rw [if_pos (by simp [State.barOpen, hp]), barWrite, if_pos (by simpa using h)]
  exact endsIn_pure rfl

theorem registerWrite_plim (hp : s.dev.boot.phase = 5) (v : Word) :
    exec (.registerWrite .plim v) s = .next (if v.toNat < s.dev.boot.plim then
      { s with dev := { s.dev with boot := { s.dev.boot with plim := max 1500 v.toNat } } } else s) := by
  refine EndsIn.exec_eq rfl (endsIn_getS_bind ?_)
  refine endsIn_require_bind (by simp [hp]) ?_
  split
  · exact endsIn_modifyDev rfl
  · exact endsIn_pure rfl

theorem registerWrite_deviceId (hp : s.dev.boot.phase = 5) (v : Word) :
    exec (.registerWrite .deviceId v) s = .next { s with dev := { s.dev with devId := v.toNat % 2 ^ 16 } } := by
  refine EndsIn.exec_eq rfl (endsIn_getS_bind ?_)
  exact endsIn_require_bind (by simp [hp]) (endsIn_modifyDev rfl)

theorem registerWrite_tree (hp : s.dev.boot.phase = 5) {k : BitVec 3} {T : Tree} {devices : List Nat} (v : Word)
    (hT : s.dev.tree k = some T) (hb : s.treeBusy k.toNat = false) :
    Reaches (.registerWrite (.tree k.toNat devices) v) s (fun t => t.mem = s.mem ∧
      t.dev.tree k = some { T with devices := devices }) := by
  obtain ⟨⟨j, T'⟩, hf, rfl⟩ := Option.map_eq_some_iff.mp hT
  obtain rfl : j = k.toNat := by simpa using List.find?_some hf
  refine EndsIn.reaches rfl (endsIn_getS_bind ?_)
  refine endsIn_require_bind ?_ (endsIn_modifyDev ⟨rfl, ?_⟩)
  · simp only [hp, hb, beq_self_eq_true, Bool.not_false, Bool.and_true, Bool.true_and]
    exact List.any_eq_true.mpr ⟨_, List.mem_of_find?_eq_some hf, beq_self_eq_true _⟩
  · rw [Dev.tree, find_map_keyed (fun e : Nat × Tree => e.1) _ (fun e => by split <;> simp_all), hf]
    simp

theorem registerWrite_imgbase (hp : s.dev.boot.phase = 2) (v : Word) : exec (.registerWrite .imgbase v) s =
    .next { s with dev := { s.dev with boot := { s.dev.boot with imgbase := v } } } := by
  refine EndsIn.exec_eq rfl (endsIn_getS_bind ?_)
  dsimp only
  rw [if_pos hp]
  exact endsIn_modifyDev rfl

theorem registerWrite_imglen (hp : s.dev.boot.phase = 2) (v : Word) : exec (.registerWrite .imglen v) s =
    .next { s with dev := { s.dev with boot := { s.dev.boot with imglen := v } } } := by
  refine EndsIn.exec_eq rfl (endsIn_getS_bind ?_)
  dsimp only
  rw [if_pos hp]
  exact endsIn_modifyDev rfl

end

end Sys2Proof.Machine
end

section
namespace Sys2Proof.Machine

/-! ### Transfers that start and fail (R409, R413, R428) -/

theorem engine_put (s : State) (e : Nat) (E : Engine) : State.engine { s with dev := s.dev.putEngine e E } e = E := by
  rw [State.engine, Dev.putEngine, assocGet_assocSet, if_pos rfl]

/-- What an engine remembers last is the transfer that ended last. -/
theorem finish_history (E : Engine) (t : Transfer) : (E.finish t).history.getLast? = some t := by
  have h : E.history.length + 1 - 256 ≤ E.history.length := by omega
  simp only [Engine.finish, List.length_append, List.length_singleton]
  rw [List.drop_append_of_le_length h, List.getLast?_append_of_ne_nil _ (List.cons_ne_nil _ _)]
  rfl

theorem finish_queue {E : Engine} {T : Transfer} {rest : List Transfer} (hq : E.queue = T :: rest) (t : Transfer)
    (ht : t.serial = T.serial) : (E.finish t).queue = rest.filter (fun u => u.serial != T.serial) := by
  simp [Engine.finish, hq, ht]

section
variable {s : State} {e : Nat} {T : Transfer} {rest : List Transfer} (hq : (s.engine e).queue = T :: rest)
include hq

theorem head_of_queue : (s.engine e).queue.head? = some T := by rw [hq]; rfl

theorem transferStart_next (hh : s.transferHeld e T = false) (hr : s.tenureReady e T = true) (data : List Byte) (h1 : T.state = 1) :
    exec (.transferStart ⟨e, data⟩) s =
      .next { s with dev := s.dev.putEngine e { s.engine e with queue := { T with state := 2 } :: rest } } := by
  refine EndsIn.exec_eq rfl (endsIn_getS_bind ?_)
  refine endsIn_requireSome_bind (head_of_queue hq) (endsIn_require_bind (by rw [hh, hr]; rfl) ?_)
  rw [if_pos h1]
  refine endsIn_modifyDev ?_
  rw [show (assocGet Engine.reset s.dev.engines e).putHead { T with state := 2 } =
    { s.engine e with queue := { T with state := 2 } :: (s.engine e).queue.drop 1 } from rfl, hq]
  rfl

/-- A transfer without its team that runs or is of a frozen function fails with its cause. -/
theorem transferFailed_reaches (hT : s.team T.tid = none) (hx : (T.state == 2 || s.isFrozen T.tenant.toNat) = true) {c : Nat}
    (hc : s.transferCause e T = some c) :
    Reaches (.transferFailed e none) s (fun t => ∃ n, (T.state ≠ 2 → n = T.left) ∧
      (t.engine e).history.getLast? = some { T with state := 3, cause := c, left := n, cursor := 0, line := none } ∧
      (t.engine e).queue = rest.filter (fun u => u.serial != T.serial)) := by
  refine EndsIn.reaches rfl (endsIn_getS_bind ?_)
  refine endsIn_requireSome_bind (head_of_queue hq) (endsIn_require_bind hx ?_)
  refine endsIn_requireSome_bind (a := c) (by rw [hc]; rfl) ?_
  refine (failTransfer_unteamed hT).mono fun _ t ⟨n, hn, ht⟩ => ⟨n, hn, ?_, ?_⟩
  · rw [ht, finish_history]
  · exact (congrArg Engine.queue ht).trans (finish_queue hq _ rfl)

end

theorem transferCause_frozen {s : State} {T : Transfer} (e : Nat) (h : s.isFrozen T.tenant.toNat = true) :
    s.transferCause e T = some 0x16 := by rw [State.transferCause, if_pos h]

/-- The queued transfers of a device that no port reaches fail, every one (R428). -/
theorem remotePathLoss_reaches {s : State} {dev : BitVec 16} (hn : (s.dev.engines.map (fun e => e.1)).Nodup)
    (hl : s.linked dev.toNat = false) (h : ∃ u ∈ s.queuedTransfers, ctlDir u.2.ctl ≠ 0 ∧ ctlDev u.2.ctl = dev.toNat) :
    Reaches (.remotePathLoss dev) s (fun t => ∀ u ∈ t.queuedTransfers, ctlDir u.2.ctl = 0 ∨ ctlDev u.2.ctl ≠ dev.toNat) := by
  have lost : ∀ u : Nat × Transfer, (ctlDir u.2.ctl != 0 && ctlDev u.2.ctl == dev.toNat) = true ↔
      ctlDir u.2.ctl ≠ 0 ∧ ctlDev u.2.ctl = dev.toNat := fun u => by simp
  have keys : ∀ u ∈ s.queuedTransfers, u.1 ∈ s.dev.engines.map (fun e => e.1) := by
    intro u hu
    obtain ⟨c, hc, hcu⟩ := List.mem_flatMap.mp hu
    obtain ⟨t, -, rfl⟩ := List.mem_map.mp hcu
    exact List.mem_map_of_mem hc
  refine EndsIn.reaches rfl (endsIn_getS_bind ?_)
  refine endsIn_require_bind ?_ ?_
  · obtain ⟨u, hu, hd⟩ := h
    have : s.queuedTransfers.filter (fun u => ctlDir u.2.ctl != 0 && ctlDev u.2.ctl == dev.toNat) ≠ [] :=
      List.ne_nil_of_mem (List.mem_filter.mpr ⟨hu, (lost u).mpr hd⟩)
    simp [hl, this]
  refine (failTransfers_within hn _ (fun v hv => keys v (List.mem_filter.mp hv).1)
    (L := s.transferIds) ⟨rfl, fun _ hx => hx⟩).mono fun _ t ⟨_, ht⟩ u hu => ?_
  obtain ⟨hmem, hkept⟩ := List.mem_filter.mp (ht _ (List.mem_map_of_mem hu))
  obtain ⟨v, hv, hvu⟩ := List.mem_map.mp hmem
  obtain ⟨h1, h2, h3⟩ : v.1 = u.1 ∧ v.2.serial = u.2.serial ∧ v.2.ctl = u.2.ctl := by simpa using hvu
  by_contra hd
  rw [not_or, not_not] at hd
  have : v ∈ s.queuedTransfers.filter (fun u => ctlDir u.2.ctl != 0 && ctlDev u.2.ctl == dev.toNat) :=
    List.mem_filter.mpr ⟨hv, (lost v).mpr (by rwa [h3])⟩
  simp only [Bool.not_eq_true', List.any_eq_false] at hkept
  exact hkept v this (by simp [h1, h2])

end Sys2Proof.Machine
end

section
namespace Sys2Proof.Machine

/-! ### The order in which a transfer copies (R409) -/

/-- A part has bytes, and each of its ends lies in one line. -/
def Part.Fits (p : Part) : Prop := 0 < p.n ∧ p.dst % 128 + p.n ≤ 128 ∧ p.src % 128 + p.n ≤ 128

/-- What a copy of `n` bytes from `s` to `d` has still to do when the offsets from `lo` to `hi` have been copied: in ascending order
where no source byte is written before it is read, and otherwise in descending order. -/
inductive CopyRest (d s n : Nat) : Nat → Nat → List Part → Prop
  | done : CopyRest d s n 0 n []
  | up {hi : Nat} {p : Part} {l : List Part} (ho : d ≤ s ∨ s + n ≤ d) (hf : p.Fits) (hd : p.dst = d + hi) (hs : p.src = s + hi)
      (hl : CopyRest d s n 0 (hi + p.n) l) : CopyRest d s n 0 hi (p :: l)
  | down {a : Nat} {p : Part} {l : List Part} (ho : s < d) (hf : p.Fits) (hd : p.dst = d + a) (hs : p.src = s + a)
      (hn : a + p.n ≤ n) (hl : CopyRest d s n a n l) : CopyRest d s n (a + p.n) n (p :: l)

section
variable {d s n lo hi : Nat} {l : List Part}

theorem CopyRest.hi_le (h : CopyRest d s n lo hi l) : hi ≤ n := by
  induction h with
  | done => exact Nat.le_refl n
  | up _ _ _ _ _ ih => omega
  | down => exact Nat.le_refl n

/-- Each part is of offsets that have not been copied. -/
theorem CopyRest.part (h : CopyRest d s n lo hi l) : ∀ p ∈ l, p.Fits ∧
    ∃ a, p.dst = d + a ∧ p.src = s + a ∧ a + p.n ≤ n ∧ (a + p.n ≤ lo ∨ hi ≤ a) := by
  induction h with
  | done => exact fun p hp => absurd hp List.not_mem_nil
  | @up hi p l ho hf hd hs hl ih =>
    rintro q (_ | ⟨_, hq⟩)
    · exact ⟨hf, hi, hd, hs, hl.hi_le, .inr (Nat.le_refl _)⟩
    · obtain ⟨hqf, a, had, has, han, ha⟩ := ih q hq
      exact ⟨hqf, a, had, has, han, ha.imp id (by omega)⟩
  | @down a p l ho hf hd hs hn hl ih =>
    rintro q (_ | ⟨_, hq⟩)
    · exact ⟨hf, a, hd, hs, hn, .inl (Nat.le_refl _)⟩
    · obtain ⟨hqf, b, hbd, hbs, hbn, hb⟩ := ih q hq
      exact ⟨hqf, b, hbd, hbs, hbn, hb.imp (by omega) id⟩

/-- A source byte that is still to be copied has not been written. -/
theorem CopyRest.apart (h : CopyRest d s n lo hi l) {x : Nat} (hx : x < n) (hr : x < lo ∨ hi ≤ x) :
    s + x < d + lo ∨ d + hi ≤ s + x := by
  cases h with
  | done => omega
  | up => omega
  | down => omega

/-- A part by itself. -/
theorem copyRest_single {p : Part} (hf : p.Fits) : ∃ x, CopyRest p.dst p.src p.n x x [p] := by
  by_cases h : p.dst ≤ p.src
  · exact ⟨0, .up (.inl h) hf rfl rfl ((Nat.zero_add p.n).symm ▸ .done)⟩
  · exact ⟨0 + p.n, by
      have := CopyRest.down (d := p.dst) (s := p.src) (n := p.n) (a := 0) (by omega) hf rfl rfl (by omega) .done
      simpa using this⟩

/-! The parts of a transfer without tiles. -/

/-- Lines that a run of bytes meets. -/
def linesMet (d n : Nat) : Nat := (d % 128 + n + 127) / 128

theorem cutParts_zero (fuel d s : Nat) : cutParts fuel d s 0 = [] := by
  cases fuel <;> rfl

/-- One cut: it makes a part, and of the two ends one at least comes to a new line. -/
theorem cutParts_step {fuel d s n : Nat} (hn : n ≠ 0) (hf : linesMet d n + linesMet s n ≤ fuel + 1) :
    ∃ p : Part, p.Fits ∧ p.dst = d ∧ p.src = s ∧ p.n ≤ n ∧
      cutParts (fuel + 1) d s n = p :: cutParts fuel (d + p.n) (s + p.n) (n - p.n) ∧
      (n - p.n = 0 ∨ linesMet (d + p.n) (n - p.n) + linesMet (s + p.n) (n - p.n) ≤ fuel) := by
  refine ⟨⟨d, s, min n (min (128 - d % 128) (128 - s % 128))⟩, ⟨?_, ?_, ?_⟩, rfl, rfl, Nat.min_le_left _ _, ?_, ?_⟩
  · dsimp only; omega
  · dsimp only; omega
  · dsimp only; omega
  · rw [cutParts, if_neg hn]
  · unfold linesMet at *
    dsimp only
    omega

theorem cutParts_up (ho : d ≤ s ∨ s + n ≤ d) (fuel hi m : Nat) (hm : hi + m = n)
    (hf : m = 0 ∨ linesMet (d + hi) m + linesMet (s + hi) m ≤ fuel) :
    CopyRest d s n 0 hi (cutParts fuel (d + hi) (s + hi) m) := by
  induction fuel generalizing hi m with
  | zero =>
    obtain rfl : m = 0 := by unfold linesMet at hf; omega
    obtain rfl : hi = n := by omega
    exact .done
  | succ fuel ih =>
    by_cases h0 : m = 0
    · obtain rfl : hi = n := by omega
      rw [h0, cutParts_zero]
      exact .done
    · obtain ⟨p, hp, hd, hs, hpn, hc, hl⟩ := cutParts_step h0 (hf.resolve_left h0)
      rw [hc]
      refine .up ho hp hd hs ?_
      rw [Nat.add_assoc, Nat.add_assoc]
      exact ih (hi + p.n) (m - p.n) (by omega) (by rwa [← Nat.add_assoc, ← Nat.add_assoc])

theorem cutParts_down (ho : s < d) (fuel a m : Nat) (hm : a + m ≤ n)
    (hf : m = 0 ∨ linesMet (d + a) m + linesMet (s + a) m ≤ fuel) (hl : CopyRest d s n a n l) :
    CopyRest d s n (a + m) n ((cutParts fuel (d + a) (s + a) m).reverse ++ l) := by
  induction fuel generalizing a m l with
  | zero =>
    obtain rfl : m = 0 := by unfold linesMet at hf; omega
    exact hl
  | succ fuel ih =>
    by_cases h0 : m = 0
    · rw [h0, cutParts_zero]
      exact hl
    · obtain ⟨p, hp, hd, hs, hpn, hc, hl'⟩ := cutParts_step h0 (hf.resolve_left h0)
      rw [hc, List.reverse_cons, List.append_assoc, Nat.add_assoc, Nat.add_assoc, ← Nat.add_sub_cancel' hpn, ← Nat.add_assoc,
        Nat.add_sub_cancel_left]
      exact ih (a + p.n) (m - p.n) (by omega) (by rwa [← Nat.add_assoc, ← Nat.add_assoc]) (.down ho hp hd hs (by omega) hl)

end

theorem linesMet_le (d n : Nat) : linesMet d n ≤ n / 128 + 2 := by
  unfold linesMet
  omega

/-- The parts of a transfer without tiles copy its bytes. -/
theorem copyRest_parts {T : Transfer} (hd : T.dstDesc = none) (hc : ctlDir T.ctl = 0) :
    ∃ x, CopyRest T.dst.toNat T.src.toNat T.len x x T.parts := by
  have hp : T.runs.flatMap (fun r => cutParts (2 * (r.n / 128) + 4) r.dst r.src r.n) =
      cutParts (2 * (T.len / 128) + 4) T.dst.toNat T.src.toNat T.len := by
    have hr : T.runs = if T.len = 0 then [] else [⟨T.dst.toNat, T.src.toNat, T.len⟩] := by
      unfold Transfer.runs
      rw [hd]
    rw [hr]
    split
    · next h0 => rw [h0, cutParts_zero]; rfl
    · exact List.append_nil _
  have hf : linesMet T.dst.toNat T.len + linesMet T.src.toNat T.len ≤ 2 * (T.len / 128) + 4 := by
    have := linesMet_le T.dst.toNat T.len
    have := linesMet_le T.src.toNat T.len
    omega
  unfold Transfer.parts
  rw [hp]
  have hdesc : T.descends = true ↔ T.src.toNat < T.dst.toNat ∧ T.dst.toNat < T.src.toNat + T.len := by
    simp [Transfer.descends, hc, hd]
  split
  · next h =>
    have := cutParts_down (n := T.len) (hdesc.mp h).1 (2 * (T.len / 128) + 4) 0 T.len (by omega) (.inr hf) .done
    exact ⟨T.len, by simpa using this⟩
  · next h =>
    rw [hdesc] at h
    exact ⟨0, cutParts_up (by omega) _ 0 T.len (Nat.zero_add _) (.inr hf)⟩

theorem flatten_groupLines (l : List Part) : (groupLines l).flatten = l := by
  induction l with
  | nil => rfl
  | cons p l ih =>
    rw [groupLines]
    split
    · next q g gs h =>
      rw [h] at ih
      split
      · rw [← ih]; rfl
      · rw [← ih]; rfl
    · next h => rw [List.flatten_cons, ih]; rfl

/-! ### What has been copied -/

theorem readBytes_congr {m m' : Memory} {a n : Nat} (h : ∀ i < n, m.read (a + i) = m'.read (a + i)) :
    m.readBytes a n = m'.readBytes a n := by
  induction n generalizing a with
  | zero => rfl
  | succ n ih =>
    rw [Memory.readBytes, Memory.readBytes, ih fun i hi => by rw [Nat.add_assoc, Nat.add_comm 1]; exact h (i + 1) (by omega)]
    rw [show m.read a = m'.read a from h 0 (by omega)]

theorem getD_readBytes (m : Memory) (a n i : Nat) (hi : i < n) : (m.readBytes a n).getD i 0 = m.read (a + i) := by
  induction n generalizing a i with
  | zero => omega
  | succ n ih =>
    cases i with
    | zero => rfl
    | succ i => rw [Memory.readBytes, List.getD_cons_succ, ih _ _ (by omega), Nat.add_assoc, Nat.add_comm 1]

theorem drop_take_readBytes (m : Memory) (a j q n : Nat) (h : j + q ≤ n) :
    ((m.readBytes a n).drop j).take q = m.readBytes (a + j) q := by
  induction j generalizing a n with
  | zero =>
    rw [List.drop_zero, Nat.add_zero]
    induction q generalizing a n with
    | zero => rfl
    | succ q ih =>
      obtain ⟨n, rfl⟩ : ∃ k, n = k + 1 := ⟨n - 1, by omega⟩
      rw [Memory.readBytes, Memory.readBytes, List.take_succ_cons, ih _ _ (by omega)]
  | succ j ih =>
    obtain ⟨n, rfl⟩ : ∃ k, n = k + 1 := ⟨n - 1, by omega⟩
    rw [Memory.readBytes, List.drop_succ_cons, ih _ _ (by omega), Nat.add_assoc, Nat.add_comm 1]

/-- Of a copy of bytes from `s` to `d` the offsets from `lo` to `hi` have been made, and nothing else has changed. -/
def Copied (m₀ : Memory) (d s lo hi : Nat) (m : Memory) : Prop :=
  m.wf = true ∧ ∀ k, m.read k = if d + lo ≤ k ∧ k < d + hi then m₀.read (s + (k - d)) else m₀.read k

section
variable {m₀ m : Memory} {d s n lo hi : Nat}

theorem copied_none (h : m₀.wf = true) (d s x : Nat) : Copied m₀ d s x x m₀ :=
  ⟨h, fun k => by rw [if_neg (by omega)]⟩

/-- What is still to be copied reads as it did. -/
theorem Copied.readBytes (h : Copied m₀ d s lo hi m) {l : List Part} (hr : CopyRest d s n lo hi l) {x q : Nat} (hx : x + q ≤ n)
    (ho : x + q ≤ lo ∨ hi ≤ x) : m.readBytes (s + x) q = m₀.readBytes (s + x) q := by
  refine readBytes_congr fun i hi => ?_
  have := hr.apart (x := x + i) (by omega) (by omega)
  rw [h.2, if_neg (by omega)]

/-- One more part copied. -/
theorem Copied.part (h : Copied m₀ d s lo hi m) {p : Part} {a lo' hi' : Nat} (hd : p.dst = d + a) (hs : p.src = s + a)
    (hn : (a = hi ∧ lo' = lo ∧ hi' = hi + p.n) ∨ (a + p.n = lo ∧ lo' = a ∧ hi' = hi)) (hle : lo ≤ hi) :
    Copied m₀ d s lo' hi' (m.writeBytes p.dst (m₀.readBytes p.src p.n)) := by
  refine ⟨writeBytes_wf _ _ _ h.1, fun k => ?_⟩
  rw [read_writeBytes _ _ _ _ h.1, length_readBytes]
  by_cases hk : p.dst ≤ k ∧ k < p.dst + p.n
  · rw [if_pos hk, if_pos (by omega), getD_readBytes _ _ _ _ (by omega)]
    congr 1
    omega
  · rw [if_neg hk, h.2]
    by_cases hk' : d + lo ≤ k ∧ k < d + hi
    · rw [if_pos hk', if_pos (by omega)]
    · rw [if_neg hk', if_neg (by omega)]

end

end Sys2Proof.Machine
end

section
namespace Sys2Proof.Machine

/-! ### A state where copies meet nothing -/

/-- A memory, with an engine's lists and the teams, where no tile, no poison and no cached copy meets a transfer's accesses. -/
def Bare (e : Nat) (q h : List Transfer) (Ts : List Team) (m : Memory) (s : State) : Prop :=
  s.mem = m ∧ s.dev.tiles = [] ∧ s.dev.poison = [] ∧ (∀ z, (s.yard z).domain = []) ∧ (s.engine e).queue = q ∧
    (s.engine e).history = h ∧ s.dev.teams = Ts

section
variable {e : Nat} {q h : List Transfer} {Ts : List Team} {m : Memory} {s : State}

theorem Bare.tiles (hb : Bare e q h Ts m s) : s.dev.tiles = [] := hb.2.1

theorem Bare.poison (hb : Bare e q h Ts m s) : s.dev.poison = [] := hb.2.2.1

theorem Bare.domain (hb : Bare e q h Ts m s) (z : Nat) : (s.yard z).domain = [] := hb.2.2.2.1 z

theorem Bare.store (hb : Bare e q h Ts m s) (k : Nat) (bs : List Byte) :
    Bare e q h Ts (m.writeBytes k bs) { s with mem := s.mem.writeBytes k bs } := by
  obtain ⟨rfl, hrest⟩ := hb
  exact ⟨rfl, hrest⟩

theorem Bare.setYard (hb : Bare e q h Ts m s) (y : Nat) {Y : Yard} (hY : Y.domain = []) :
    Bare e q h Ts m { s with yards := assocSet s.yards y Y } := by
  obtain ⟨hm, ht, hp, hd, hrest⟩ := hb
  refine ⟨hm, ht, hp, fun z => ?_, hrest⟩
  have hz : State.yard { s with yards := assocSet s.yards y Y } z = if y = z then Y else s.yard z := assocGet_assocSet ..
  rw [hz]
  split
  · exact hY
  · exact hd z

theorem Bare.setEngine (hb : Bare e q h Ts m s) (E : Engine) :
    Bare e E.queue E.history Ts m { s with dev := { s.dev with engines := assocSet s.dev.engines e E } } := by
  obtain ⟨hm, ht, hp, hd, -, -, hT⟩ := hb
  have hE : State.engine { s with dev := { s.dev with engines := assocSet s.dev.engines e E } } e = E := engine_put s e E
  exact ⟨hm, ht, hp, hd, by rw [hE], by rw [hE], hT⟩

theorem keeps_bare_slice (w : Toucher) (key : Nat) (u : SliceUse) : Keeps (Bare e q h Ts m) (sliceTouch w key u) :=
  keeps_sliceTouch (fun _ _ _ _ hs => hs) w key u

/-- Without cached copies, a line that is dropped is dropped from the lean cores' caches alone. -/
theorem keeps_bare_dropLine (y line : Nat) : Keeps (Bare e q h Ts m) (dropLine y line) := by
  refine fun s hs => endsIn_getS_bind ?_
  rw [hs.domain y]
  refine EndsIn.bind (endsIn_pure (EndsIn.bind (endsIn_modifyYard ?_)))
  refine keeps_forAll (fun k _ => keeps_modifyCore fun _ hu => hu) _ (hs.setYard y ?_)
  show (s.yard y).domain.filter _ = []
  rw [hs.domain y]
  rfl

theorem keeps_bare_drainLines (test : Nat → Bool) : Keeps (Bare e q h Ts m) (drainLines test) :=
  keeps_getS.bind fun _ => keeps_forAll fun y _ => keeps_forAll fun line _ => keeps_bare_dropLine y line

theorem touching_none (ht : s.dev.tiles = []) (asid : BitVec 16) (va n : Nat) : s.touching asid va n = [] := by
  rw [State.touching, ht]
  rfl

theorem recallAsks_none (agent : Nat) : EndsIn (recallAsks agent [] (holdersOf [])) s (fun _ t => t = s) := endsIn_pure rfl

/-! ### Parts and units moved (R409, R412) -/

/-- A part with its ends in device memory, where an address is a key. -/
def Part.here (p : Part) : PartPlace := ⟨p, some (.at_ p.dst), some (.at_ p.src)⟩

/-- What a transfer keeps of a source line is as it was before the copy, where that is still to be copied. -/
def LineKept (m₀ : Memory) (s n lo hi : Nat) (line : Option (Nat × List Byte)) : Prop :=
  ∀ L bs, line = some (L, bs) → ∀ x q, x + q ≤ n → (x + q ≤ lo ∨ hi ≤ x) → (s + x) / 128 = L → (s + x) % 128 + q ≤ 128 →
    (bs.drop ((s + x) % 128)).take q = m₀.readBytes (s + x) q

/-- A transfer at another place of its course. -/
def Transfer.moved (T : Transfer) (cursor left : Nat) (line : Option (Nat × List Byte)) : Transfer :=
  { T with cursor := cursor, left := left, line := line }

section
variable {m₀ : Memory} {d a n lo hi : Nat} {rest : List Part}

theorem LineKept.shrink {line : Option (Nat × List Byte)} (hk : LineKept m₀ a n lo hi line) {lo' hi' : Nat} (hlo : lo' ≤ lo)
    (hhi : hi ≤ hi') : LineKept m₀ a n lo' hi' line :=
  fun L bs hl x q hx ho => hk L bs hl x q hx (by omega)

theorem lineKept_none (m₀ : Memory) (s n lo hi : Nat) : LineKept m₀ s n lo hi none := fun _ _ hl => nomatch hl

/-- A line that is read now is kept as it was before the copy, where that is still to be copied. -/
theorem Copied.lineKept (hc : Copied m₀ d a lo hi m) {l : List Part} (hr : CopyRest d a n lo hi l) (k : Nat) :
    LineKept m₀ a n lo hi (some (k / 128, m.readBytes (k - k % 128) 128)) := by
  intro L bs hl x q hx ho hL hq
  obtain ⟨rfl, rfl⟩ := Prod.mk.inj (Option.some.inj hl)
  rw [drop_take_readBytes _ _ _ _ _ hq, show k - k % 128 + (a + x) % 128 = a + x by omega, hc.readBytes hr hx ho]

theorem LineKept.cut {p : Part} {bs : List Byte} (hk : LineKept m₀ a n lo hi (some (p.src / 128, bs))) {l : List Part}
    (hr : CopyRest d a n lo hi l) (hp : p ∈ l) : (bs.drop (p.src % 128)).take p.n = m₀.readBytes p.src p.n := by
  obtain ⟨⟨-, -, hfit⟩, x, -, hs, hx, ho⟩ := hr.part p hp
  have := hk _ _ rfl x p.n hx ho (by rw [hs]) (by rwa [← hs])
  rwa [← hs] at this

/-- A part read has the bytes that were there before the copy. -/
theorem readPart_endsIn (hb : Bare e q h Ts m s) (hc : Copied m₀ d a lo hi m) {l : List Part} (hr : CopyRest d a n lo hi l)
    {T : Transfer} (hk : LineKept m₀ a n lo hi T.line) {p : Part} (hp : p ∈ l) :
    EndsIn (readPart e T p p.src) s (fun r t => Bare e q h Ts m t ∧ r.2 = m₀.readBytes p.src p.n ∧
      ∃ line, LineKept m₀ a n lo hi line ∧ r.1 = { T with line := line }) := by
  unfold readPart
  dsimp only
  split
  · next bs hl =>
    have hT : T.line = some (p.src / 128, bs) := by
      split at hl
      · next hT =>
        split at hl
        · next hL => rw [hT, hL, Option.some.inj hl]
        · cases hl
      · cases hl
    exact endsIn_pure ⟨hb, LineKept.cut (hT ▸ hk) hr hp, T.line, hk, rfl⟩
  · have hline := hc.lineKept hr p.src
    have hcut := hline.cut hr hp
    refine endsIn_getS_bind ?_
    rw [touching_none hb.tiles, show (if isDram p.src then uncoveredAsks .s [] else []) = ([] : List TenAsk) from ite_self _]
    refine (recallAsks_none _).after fun _ => ?_
    split
    · exact endsIn_getS_bind (endsIn_pure (by rw [hb.1]; exact ⟨hb, hcut, _, hline, rfl⟩))
    · refine EndsIn.bind ((keeps_bare_slice _ _ _ s hb).mono fun _ t ht => ?_)
      exact endsIn_getS_bind (endsIn_pure (by rw [ht.1]; exact ⟨ht, hcut, _, hline, rfl⟩))

/-- The parts of a unit, each with the bytes that were at its source before the copy. -/
def unitData (m₀ : Memory) (g : List Part) : List (PartPlace × List Byte) := g.map (fun p => (p.here, m₀.readBytes p.src p.n))

theorem readUnit_endsIn (hb : Bare e q h Ts m s) (hc : Copied m₀ d a lo hi m) {l : List Part} (hr : CopyRest d a n lo hi l)
    {g : List Part} (hg : ∀ p ∈ g, p ∈ l) (data : List Byte) {T : Transfer} (hk : LineKept m₀ a n lo hi T.line) :
    EndsIn (readUnit e T (g.map Part.here) data) s (fun r t => Bare e q h Ts m t ∧ r.2 = unitData m₀ g ∧
      ∃ line, LineKept m₀ a n lo hi line ∧ r.1 = { T with line := line }) := by
  induction g generalizing s T data with
  | nil => exact endsIn_pure ⟨hb, rfl, _, hk, rfl⟩
  | cons p g ih =>
    refine EndsIn.bind ((readPart_endsIn hb hc hr hk (hg p List.mem_cons_self)).mono fun r t ht => ?_)
    obtain ⟨htb, htd, line, hline, hT⟩ := ht
    have hrest := ih htb (fun p hp => hg p (List.mem_cons_of_mem _ hp)) (data.drop p.n) (T := r.1) (by rw [hT]; exact hline)
    refine EndsIn.bind (hrest.mono fun r' u hu => endsIn_pure ?_)
    obtain ⟨hub, hud, line', hline', hT'⟩ := hu
    refine ⟨hub, ?_, line', hline', by rw [hT', hT]⟩
    rw [htd, hud]
    rfl

theorem CopyRest.ordered {l : List Part} (hr : CopyRest d a n lo hi l) : lo ≤ hi := by
  cases hr <;> omega

/-- The writes of a unit's parts copy them. -/
theorem writeParts_endsIn (g : List Part) (hb : Bare e q h Ts m s) (hc : Copied m₀ d a lo hi m)
    (hr : CopyRest d a n lo hi (g ++ rest)) :
    EndsIn (forAll (unitData m₀ g) writePart) s (fun _ t => ∃ lo' hi' m', lo' ≤ lo ∧ hi ≤ hi' ∧ CopyRest d a n lo' hi' rest ∧
        Copied m₀ d a lo' hi' m' ∧ Bare e q h Ts m' t) := by
  induction g generalizing s m lo hi with
  | nil => exact endsIn_pure ⟨lo, hi, m, Nat.le_refl _, Nat.le_refl _, hr, hc, hb⟩
  | cons p g ih =>
    have hone : ∃ lo' hi', lo' ≤ lo ∧ hi ≤ hi' ∧ CopyRest d a n lo' hi' (g ++ rest) ∧
        Copied m₀ d a lo' hi' (m.writeBytes p.dst (m₀.readBytes p.src p.n)) := by
      have hle := hr.ordered
      cases hr with
      | up ho hf hd hs hl => exact ⟨0, hi + p.n, by omega, by omega, hl, hc.part hd hs (.inl ⟨rfl, rfl, rfl⟩) hle⟩
      | down ho hf hd hs hn hl => exact ⟨_, _, by omega, by omega, hl, hc.part hd hs (.inr ⟨rfl, rfl, rfl⟩) hle⟩
    obtain ⟨lo', hi', hlo, hhi, hr', hc'⟩ := hone
    refine EndsIn.bind ((clearPoison_unpoisoned hb.poison _ _).after fun _ => endsIn_store ?_)
    refine (ih (hb.store _ _) hc' hr').mono fun _ t ht => ?_
    obtain ⟨lo'', hi'', m', hlo', hhi', ht⟩ := ht
    exact ⟨lo'', hi'', m', by omega, by omega, ht⟩

theorem writeUnit_endsIn (g : List Part) (T : Transfer) (hb : Bare e q h Ts m s) (hc : Copied m₀ d a lo hi m)
    (hr : CopyRest d a n lo hi (g ++ rest)) :
    EndsIn (writeUnit e T (unitData m₀ g)) s (fun _ t => ∃ lo' hi' m', lo' ≤ lo ∧ hi ≤ hi' ∧ CopyRest d a n lo' hi' rest ∧
        Copied m₀ d a lo' hi' m' ∧ Bare e q h Ts m' t) := by
  have writes := fun t (ht : Bare e q h Ts m t) => writeParts_endsIn g ht hc hr
  unfold writeUnit
  split
  · exact writes s hb
  · split
    · exact writes s hb
    · refine endsIn_getS_bind ?_
      have hasks : (unitData m₀ g).flatMap (fun p => uncoveredAsks .w (s.touching T.asid p.1.part.dst p.1.part.n)) = [] := by
        simp [touching_none hb.tiles, uncoveredAsks]
      simp only [hasks, ite_self]
      refine (recallAsks_none _).after fun _ => ?_
      refine EndsIn.bind ((keeps_bare_drainLines _ s hb).mono fun _ t ht => ?_)
      exact EndsIn.bind ((keeps_bare_slice _ _ _ t ht).mono fun _ u hu => writes u hu)

/-- A unit moved: its parts are copied, and the transfer is at the next one. -/
theorem moveUnit_endsIn (g : List Part) (data : List Byte) (hb : Bare e q h Ts m s) (hc : Copied m₀ d a lo hi m)
    (hr : CopyRest d a n lo hi (g ++ rest)) {T : Transfer} (hk : LineKept m₀ a n lo hi T.line) :
    EndsIn (moveUnit e T (g.map Part.here) data) s (fun T' t => ∃ lo' hi' m' line, CopyRest d a n lo' hi' rest ∧
      Copied m₀ d a lo' hi' m' ∧ Bare e q h Ts m' t ∧ LineKept m₀ a n lo' hi' line ∧
      T' = T.moved (T.cursor + 1) (T.left - partBytes g) line) := by
  refine EndsIn.bind ((readUnit_endsIn hb hc hr (fun p hp => List.mem_append_left _ hp) data hk).mono fun r t ht => ?_)
  obtain ⟨T', read⟩ := r
  obtain ⟨htb, rfl, line, hline, rfl⟩ := ht
  refine EndsIn.bind ((writeUnit_endsIn g _ htb hc hr).mono fun _ u hu => ?_)
  obtain ⟨lo', hi', m', hlo, hhi, hr', hc', hub⟩ := hu
  refine EndsIn.bind (endsIn_modifyDev (endsIn_pure ?_))
  refine ⟨lo', hi', m', line, hr', hc', ?_, hline.shrink hlo hhi, ?_⟩
  · have := hub.setEngine ((u.engine e).used T.asid ((g.map Part.here).flatMap (fun p => p.ends.map (fun x => x.1))))
    obtain ⟨-, -, -, -, hq, hh, -⟩ := hub
    rw [← hq, ← hh]
    exact this
  · rw [List.map_map, show ((fun p => p.part) ∘ Part.here) = id from rfl, List.map_id]
    rfl

/-- The units that are left moved: the copy is whole. -/
theorem moveUnits_endsIn (gs : List (List Part)) (data : List Byte) (hb : Bare e q h Ts m s) (hc : Copied m₀ d a lo hi m)
    (hr : CopyRest d a n lo hi gs.flatten) {T : Transfer} (hk : LineKept m₀ a n lo hi T.line) :
    EndsIn (moveUnits e T (gs.map (fun g => g.map Part.here)) data) s (fun T' t => ∃ m' c l line, Copied m₀ d a 0 n m' ∧
      Bare e q h Ts m' t ∧ T' = T.moved c l line) := by
  induction gs generalizing s m lo hi T data with
  | nil =>
    cases hr
    exact endsIn_pure ⟨m, T.cursor, T.left, T.line, hc, hb, rfl⟩
  | cons g gs ih =>
    refine EndsIn.bind ((moveUnit_endsIn g data hb hc hr hk).mono fun T' t ht => ?_)
    obtain ⟨lo', hi', m', line, hr', hc', htb, hline, rfl⟩ := ht
    refine (ih _ htb hc' hr' hline).mono fun T'' u hu => ?_
    obtain ⟨m'', c, l, line', hc'', hub, rfl⟩ := hu
    exact ⟨m'', c, l, line', hc'', hub, rfl⟩

end

end

end Sys2Proof.Machine
end

section
namespace Sys2Proof.Machine

/-! ### A copy within device memory (R409, R412) -/

/-- A transfer that is marked as ended and ends. -/
theorem putTransfer_endTransfer {s : State} {e : Nat} {T : Transfer} {rest : List Transfer} (hq : (s.engine e).queue = T :: rest)
    (T' : Transfer) (hs : T'.serial = T.serial) :
    EndsIn (putTransfer e T') s (fun _ t => EndsIn (endTransfer e T') t (fun _ u => u.mem = s.mem ∧
      (u.engine e).queue = rest.filter (fun v => v.serial != T.serial) ∧ (u.engine e).history.getLast? = some T'.ended ∧
      u.dev.teams = s.dev.teams)) := by
  refine endsIn_modifyDev ((endTransfer_endsIn _ _ _).mono fun _ u ⟨hm, he, hT⟩ => ⟨hm, ?_, ?_, hT⟩)
  all_goals rw [engine_put] at he; rw [State.engine, he, assocGet_assocSet, if_pos rfl]
  · rw [← hs]
    refine finish_queue ?_ _ rfl
    rw [Engine.putHead, show (assocGet Engine.reset s.dev.engines e).queue = _ from hq]
    rfl
  · exact finish_history _ _

/-- Without a completion word nothing is added (R414). -/
theorem completionAdd_none {s : State} {e : Nat} {T : Transfer} (h : T.adds = false) :
    EndsIn (completionAdd e T) s (fun r t => r = none ∧ t = s) := by
  refine endsIn_getS_bind ?_
  rw [h]
  exact endsIn_pure ⟨rfl, rfl⟩

/-- A running transfer at the head of its queue that copies device memory by physical addresses, in a state where nothing meets it. -/
structure CopiesDram (s : State) (e : Nat) (T : Transfer) (rest : List Transfer) : Prop where
  queue : (s.engine e).queue = T :: rest
  held : s.transferHeld e T = false
  tenure : s.tenureReady e T = true
  running : T.state = 2
  team : s.team T.tid = none
  ok : s.MemOk
  tiles : s.dev.tiles = []
  poison : s.dev.poison = []
  domain : ∀ z, (s.yard z).domain = []
  dir : ctlDir T.ctl = 0
  asid : T.asid = 0
  untiled : T.dstDesc = none
  dst : T.dst.toNat + T.len ≤ dramEnd
  src : T.src.toNat + T.len ≤ dramEnd
  line : T.line = none

section
variable {s : State} {e : Nat} {T : Transfer} {rest : List Transfer} (h : CopiesDram s e T rest)
include h

theorem CopiesDram.bare : Bare e (T :: rest) (s.engine e).history s.dev.teams s.mem s :=
  ⟨rfl, h.tiles, h.poison, h.domain, h.queue, rfl, rfl⟩

/-- An address of device memory is its key. -/
theorem CopiesDram.engPlace {va : Nat} (hv : va < dramEnd) (k : Access) : s.engPlace e T va k = .at_ va := by
  have hlow : va < 2 ^ 39 := hv
  have hap : inAperture va = false := by
    rw [inAperture, decide_eq_false (by unfold apertureBase; omega), Bool.false_and]
  simp only [State.engPlace, if_neg (show ¬2 ^ 56 ≤ va by omega), hap, Bool.false_eq_true, if_false, h.asid, if_pos hv]
  rfl

theorem CopiesDram.part {p : Part} (hp : p ∈ T.parts) : p.Fits ∧ p.dst < dramEnd ∧ p.src < dramEnd := by
  obtain ⟨x, hx⟩ := copyRest_parts h.untiled h.dir
  obtain ⟨hf, a, hd, hs, ha, -⟩ := hx.part p hp
  have := h.dst
  have := h.src
  have := hf.1
  exact ⟨hf, by omega, by omega⟩

omit h in
theorem parts_of_unit {g : List Part} (hg : g ∈ T.units) : ∀ p ∈ g, p ∈ T.parts := fun p hp => by
  rw [← flatten_groupLines T.parts]
  exact List.mem_flatten.mpr ⟨g, hg, hp⟩

theorem CopiesDram.partPlace {p : Part} (hp : p ∈ T.parts) : s.partPlace e T p = p.here := by
  obtain ⟨-, hd, hs⟩ := h.part hp
  simp only [State.partPlace, h.dir, h.engPlace hd, h.engPlace hs]
  rfl

theorem CopiesDram.unitsLeft : s.unitsLeft e T = (T.units.drop T.cursor).map (fun g => g.map Part.here) :=
  List.map_congr_left fun _ hg => List.map_congr_left fun _ hp => h.partPlace (parts_of_unit (List.mem_of_mem_drop hg) _ hp)

theorem CopiesDram.unitCause {g : List Part} : s.unitCause (g.map Part.here) = none := by
  refine List.findSome?_eq_none_iff.mpr fun x hx => ?_
  obtain ⟨p, -, rfl⟩ := List.mem_map.mp hx
  have : s.partPoisoned p.here = false := by simp [State.partPoisoned, Part.here, PartPlace.srcKey, EngPlace.key, State.poisoned, h.poison]
  rw [this]
  rfl

theorem CopiesDram.partHeld {p : Part} (hp : p ∈ T.parts) : s.partHeld e T p.here = false := by
  obtain ⟨-, hd, hs⟩ := h.part hp
  have free : ∀ k, k < dramEnd → ((isHostMem k && !s.dev.hostLinkUp) || s.skewBusyKey k p.n) = false := by
    intro k hk
    have hk' : k < 2 ^ 39 := hk
    have hhost : isHostMem k = false := decide_eq_false (by omega)
    have hyard : isYardMem k = false := by
      rw [isYardMem, decide_eq_false (by omega), Bool.false_and]
    rw [hhost, State.skewBusyKey, hyard]
    rfl
  have hd' := free _ hd
  have hs' := free _ hs
  simp only [State.partHeld, touching_none h.tiles, uncoveredAsks, State.graced, List.map_nil, List.any_nil, Bool.and_false, Bool.or_false]
  simp only [PartPlace.ends, Part.here, Option.toList, EngPlace.key, List.map_cons, List.map_nil, List.cons_append, List.nil_append,
    List.any_cons, List.any_nil, hd', hs', Bool.or_false]

theorem CopiesDram.unitReady {g : List Part} (hg : ∀ p ∈ g, p ∈ T.parts) : s.unitReady e T (g.map Part.here) = true := by
  rw [State.unitReady, h.unitCause, Option.isNone_none, Bool.and_true]
  refine List.all_eq_true.mpr fun x hx => ?_
  obtain ⟨p, hp, rfl⟩ := List.mem_map.mp hx
  rw [h.partHeld (hg p hp)]
  rfl

theorem CopiesDram.takes (l : List PartPlace) : T.takes l = 0 := by
  rw [Transfer.takes, h.dir]
  rfl

/-- A running copy's next destination line is written (R409, R412). -/
theorem CopiesDram.start {p : Part} (hp : (T.units.drop T.cursor).head? = some [p]) :
    Reaches (.transferStart ⟨e, []⟩) s (fun t =>
      (∀ k, t.mem.read k = if p.dst ≤ k ∧ k < p.dst + p.n then s.mem.read (p.src + (k - p.dst)) else s.mem.read k) ∧
      (t.engine e).queue.map (fun u => (u.serial, u.cursor, u.left)) =
        (T.serial, T.cursor + 1, T.left - p.n) :: rest.map (fun u => (u.serial, u.cursor, u.left))) := by
  have hg : ∀ x ∈ [p], x ∈ T.parts := parts_of_unit (List.mem_of_mem_drop (List.mem_of_head? hp))
  obtain ⟨x, hx⟩ := copyRest_single (h.part (hg p List.mem_cons_self)).1
  refine EndsIn.reaches rfl (endsIn_getS_bind ?_)
  refine endsIn_requireSome_bind (head_of_queue h.queue) (endsIn_require_bind (by rw [h.held, h.tenure]; rfl) ?_)
  rw [if_neg (by rw [h.running]; decide)]
  refine endsIn_requireSome_bind (a := [p].map Part.here) (by rw [h.unitsLeft, List.head?_map, hp]; rfl) ?_
  rw [if_pos (h.unitReady hg)]
  refine endsIn_require_bind (by rw [h.takes]; rfl) ?_
  refine EndsIn.bind ((moveUnit_endsIn (rest := []) [p] [] h.bare (copied_none h.ok p.dst p.src x) hx
    (by rw [h.line]; exact lineKept_none _ _ _ _ _)).mono fun T' t ht => ?_)
  obtain ⟨lo, hi, m, line, hr, ⟨-, hread⟩, ⟨hm, -, -, -, hq, -, -⟩, -, rfl⟩ := ht
  obtain ⟨rfl, rfl⟩ : lo = 0 ∧ hi = p.n := by cases hr; exact ⟨rfl, rfl⟩
  refine endsIn_modifyDev ⟨fun k => ?_, ?_⟩
  · rw [← hm] at hread
    exact hread k
  · rw [engine_put]
    simp [Engine.putHead, show (assocGet Engine.reset t.dev.engines e).queue = _ from hq, Transfer.moved, partBytes]

/-- A running copy ends: its destination has what its source had (R412, R414). -/
theorem CopiesDram.complete (hf : s.isFrozen T.tenant.toNat = false) (hcur : T.cursor = 0) (hcomp : T.comp = 0) :
    Reaches (.transferComplete e []) s (fun t =>
      (∀ k, t.mem.read k =
        if T.dst.toNat ≤ k ∧ k < T.dst.toNat + T.len then s.mem.read (T.src.toNat + (k - T.dst.toNat)) else s.mem.read k) ∧
      (t.engine e).queue = rest.filter (fun u => u.serial != T.serial) ∧
      (t.engine e).history.getLast? = some { T with state := 0, left := 0 }) := by
  have hunits : s.unitsLeft e T = T.units.map (fun g => g.map Part.here) := by rw [h.unitsLeft, hcur, List.drop_zero]
  have hcause : s.transferCause e T = none := by
    rw [State.transferCause, if_neg (by rw [hf]; decide), if_neg (by rw [h.dir]; exact Bool.false_ne_true), hunits]
    cases T.units with
    | nil => rfl
    | cons g gs => exact h.unitCause
  have hready : (s.unitsLeft e T).all (s.unitReady e T) = true := by
    rw [hunits, List.all_map]
    exact List.all_eq_true.mpr fun g hg => h.unitReady (parts_of_unit hg)
  have htakes : ((s.unitsLeft e T).map T.takes).sum = 0 := by
    simp only [funext h.takes, List.map_const', List.sum_replicate, smul_zero]
  have hadds : ∀ c l line, (T.moved c l line).adds = false := fun c l line => by simp [Transfer.adds, Transfer.moved, hcomp]
  have hheld : s.compHeld e T = false := by
    have : T.adds = false := by simp [Transfer.adds, hcomp]
    unfold State.compHeld
    simp only [this, Bool.false_and]
    split
    · rfl
    · rfl
  obtain ⟨x, hx⟩ := copyRest_parts h.untiled h.dir
  rw [← flatten_groupLines T.parts] at hx
  refine EndsIn.reaches rfl (endsIn_getS_bind ?_)
  refine endsIn_requireSome_bind (head_of_queue h.queue) (endsIn_require_bind ?_ ?_)
  · simp [h.running, h.held, h.tenure, hcause, hready, htakes, hheld]
  rw [hunits]
  refine EndsIn.bind ((moveUnits_endsIn T.units [] h.bare (copied_none h.ok _ _ x) hx
    (by rw [h.line]; exact lineKept_none _ _ _ _ _)).mono fun T' t ht => ?_)
  obtain ⟨m, c, l, line, ⟨-, hread⟩, ⟨hm, -, -, -, hq, -, hT⟩, rfl⟩ := ht
  have hput := putTransfer_endTransfer hq { T.moved c l line with state := 0, left := 0 } rfl
  refine EndsIn.bind (hput.mono fun _ u hu => EndsIn.bind (hu.mono fun _ v hv => ?_))
  obtain ⟨hvm, hvq, hvh, hvT⟩ := hv
  refine EndsIn.bind ((completionAdd_none (hadds _ _ _)).mono fun bad w hw => ?_)
  obtain ⟨rfl, rfl⟩ := hw
  have hteam : w.team T.tid = none := by
    have := h.team
    rwa [State.team, hvT, hT]
  refine (checkTeamEnd_teamless hteam).mono fun _ w' hw' => ?_
  subst hw'
  refine ⟨fun k => ?_, hvq, ?_⟩
  · rw [hvm, hm]
    exact hread k
  · rw [hvh]
    simp only [Transfer.ended, Transfer.moved, ← hcur, ← h.line]

end

end Sys2Proof.Machine
end

section
namespace Sys2Proof.Machine

/-! ### Events of copy engines, other devices and the host (R6) -/

/-- Settles O46, event by event: a program that ends well takes its event, and the copy of a transfer is an invariant of its memory. -/
theorem transferHostEvents : Obligations.TransferHostEvents := by
  intro s plain open_
  have unheld : plain → open_ → s.Unheld := fun ⟨ht, hp, _⟩ ⟨he, hz⟩ => ⟨ht, hp, he, hz⟩
  refine ⟨?_, ?_, ?_, ?_, ?_, ?_, ?_, ?_, ?_⟩
  · intro e T rest hq hh hr copies
    refine ⟨transferStart_next hq hh hr, fun h2 hT hf => ⟨?_, fun c hc => ?_⟩, fun h1 hT hf => ?_⟩
    · intro hok ⟨ht, hp, _⟩ hd hdir hasid hdesc hdst hsrc hline
      have h : CopiesDram s e T rest := ⟨hq, hh, hr, h2, hT, hok, ht, hp, hd, hdir, hasid, hdesc, hdst, hsrc, hline⟩
      exact ⟨fun p hp => h.start hp, h.complete hf⟩
    · obtain ⟨t, ht, n, -, hn⟩ := transferFailed_reaches hq hT (by rw [h2]; rfl) hc
      exact ⟨t, ht, n, hn⟩
    · obtain ⟨t, ht, n, hn, hh⟩ := transferFailed_reaches hq hT (by rw [hf, Bool.or_true]) (transferCause_frozen e hf)
      obtain rfl := hn (by rw [h1]; decide)
      exact ⟨t, ht, hh⟩
  · exact fun dev => remotePathLoss_reaches
  · intro dev asid tenant va v bytes k hp hl hplain hopen
    have h := unheld hplain hopen
    refine ⟨fun he => ⟨sertenPut_next hp hl h he, sertenCounterAdd_reaches hp hl h v he⟩,
      sertenGet_next hp hl h tenant va, fun he => ?_⟩
    exact ⟨sertenPut_unexported hp hl va bytes he, sertenCounterAdd_unexported hp hl va v he⟩
  · exact fun port dev => portLinkChange_next s dev
  · intro pa bytes n hp hplain hopen
    have h := unheld hplain hopen
    refine ⟨fun hb he => ⟨hostMemoryWrite_next hp h hb he, hostMemoryWrite_poisons hp h hb he⟩, hostMemoryRead_memory hp h, ?_⟩
    exact fun f hf ho => hostMemoryRead_bar hp h hf ho
  · intro f n v hf hn
    refine ⟨fun a k hp hplain hopen ha hk => ?_, hostCounterAdd_dropped v hf hn⟩
    exact hostCounterAdd_reaches hp (unheld hplain hopen) v hf hn ha hk
  · exact fun f size v hf => ⟨fun hp => eqConfigWrite_reaches hp size v hf, fun hp => eqConfigWrite_closed hp size v hf⟩
  · exact fun f ev rest => eventBacklogDrain_reaches
  · intro f v off n
    refine ⟨fun hp hf => ⟨registerWrite_eqrd hp v hf, registerWrite_misplaced hp v hf⟩, fun hp => ?_, fun hp => ?_⟩
    · exact ⟨registerWrite_plim hp v, registerWrite_deviceId hp v, fun k T devices => registerWrite_tree hp v⟩
    · exact ⟨registerWrite_imgbase hp v, registerWrite_imglen hp v⟩

end Sys2Proof.Machine
end

section
/-! Proof of O58: memory keeps its canonical form. Whatever runs in a step answers a state that a list of effects leaves, and every
effect keeps the form. -/
namespace Sys2Proof.Machine

/-! ### What runs in a step is a list of effects -/

/-- Every instruction runs as a program of its strand. -/
theorem exec_instruction {i : Instr} (hi : i.parts.isSome = true) (s : State) : ∃ n p, exec i s = runAct n p s := by
  delta exec
  cases i <;> cases hi <;> exact ⟨_, _, rfl⟩

/-- Everything without an encoding runs as an event. -/
theorem exec_event {i : Instr} (hi : i.parts = none) (s : State) : ∃ p, exec i s = event p s := by
  delta exec
  cases i <;> cases hi <;> exact ⟨_, rfl⟩

theorem exec_effs {i : Instr} {s t : State} (h : exec i s = .next t) : ∃ l, t = applyAll s l := by
  cases hi : i.parts with
  | none =>
    obtain ⟨p, hp⟩ := exec_event hi s
    exact event_effs_of (hp.symm.trans h)
  | some parts =>
    obtain ⟨n, p, hp⟩ := exec_instruction (by rw [hi]; rfl) s
    exact runAct_effs (hp.symm.trans h)

theorem execBytes_effs {bs : List Byte} {s t : State} (h : execBytes bs s = .next t) : ∃ l, t = applyAll s l := by
  unfold execBytes at h
  split at h
  · exact exec_effs h
  · exact illegal_effs_of h

/-- The effects of the fetch come before those of the instruction. -/
theorem runStrand_effs {s t : State} (h : runStrand s = .next t) : ∃ l, t = applyAll s l := by
  unfold runStrand at h
  split at h
  · next bs r _ =>
    obtain ⟨l, rfl⟩ := execBytes_effs h
    exact ⟨r.log.reverse ++ l, (applyAll_append s _ l).symm⟩
  · exact runAct_effs h

theorem firstEvent_effs {s t : State} {events : List Instr} (h : firstEvent s events = some t) : ∃ l, t = applyAll s l := by
  induction events with
  | nil => cases h
  | cons i rest ih =>
    unfold firstEvent at h
    split at h
    · next u hu =>
      split at h
      · exact ih h
      · obtain rfl := Option.some.inj h
        exact exec_effs hu
    · exact ih h

theorem afterwards_effs (issued : Option Issue) (s : State) : ∃ l, s.afterwards issued = applyAll s l := by
  unfold State.afterwards
  split
  · exact ⟨_, rfl⟩
  · exact ⟨[], rfl⟩

/-! ### Memory through a step -/

theorem memOk_of_effs {s t : State} (h : s.MemOk) (ht : ∃ l, t = applyAll s l) : t.MemOk := by
  obtain ⟨l, rfl⟩ := ht
  exact memOk_all h l

theorem memOk_of_mem {s t : State} (h : s.MemOk) (ht : t.mem = s.mem) : t.MemOk := by rwa [State.MemOk, ht]

theorem memOk_focusOn {s : State} (h : s.MemOk) (p : Pos) : (s.focusOn p).MemOk := memOk_of_mem h (focusOn_rest s p).1

/-- A trial of a strand's next instruction leaves the state with a run state, or what the fetch or the instruction has left. -/
theorem memOk_refreshAt {s : State} (h : s.MemOk) (p : Pos) : (s.refreshAt p).MemOk := by
  have hp : (s.focusOn p).MemOk := memOk_focusOn h p
  have hr : ∀ r, ((s.focusOn p).withRun r).MemOk := fun _ => hp
  unfold State.refreshAt
  extract_lets s'
  split
  · split
    · next t ht =>
      have ht : t.MemOk := memOk_of_effs hp (runStrand_effs ht)
      split
      · split
        · exact ht
        · split
          · exact ht
          · exact hr _
      · exact hr _
    · exact hr _
  · exact h

theorem memOk_refresh {s : State} (h : s.MemOk) : s.refresh.MemOk := by
  have hfold : ∀ (l : List Pos) {u : State}, u.MemOk → (l.foldl State.refreshAt u).MemOk := by
    intro l
    induction l with
    | nil => exact id
    | cons p l ih => exact fun hu => ih (memOk_refreshAt hu p)
  exact memOk_focusOn (hfold _ h) _

theorem mem_after_endHeavyCycle (s : State) (y : Nat) : (s.endHeavyCycle y).mem = s.mem := by
  unfold State.endHeavyCycle
  extract_lets H
  split <;> rfl

theorem mem_after_endHeavyCycles (s : State) : s.endHeavyCycles.mem = s.mem := by
  have hfold : ∀ (l : List Nat) (u : State), (l.foldl State.endHeavyCycle u).mem = u.mem := by
    intro l
    induction l with
    | nil => exact fun _ => rfl
    | cons y l ih => exact fun u => (ih _).trans (mem_after_endHeavyCycle u y)
  exact hfold _ s

theorem mem_after_trackDram (s : State) (before : Memory) : (s.trackDram before).mem = s.mem := rfl

/-- What `afterStep` and the trials of `refresh` leave in memory is what the end of a step leaves there. -/
theorem mem_after_finish (s : State) (before : Memory) (issued : Option Issue) (patience : Nat) :
    (s.finish before issued patience).mem = (s.afterwards issued).refresh.mem := by
  have hu := mem_after_endHeavyCycles (s.afterwards issued).refresh
  unfold State.finish
  generalize (s.afterwards issued).refresh.endHeavyCycles = u at hu ⊢
  extract_lets tracked t
  have ht : t.mem = u.mem := mem_after_trackDram u before
  clear_value t
  split
  · exact ht.trans hu
  · cases t.nextTurn with
    | none => exact ht.trans hu
    | some p => exact (focusOn_rest t p).1.trans (ht.trans hu)

theorem memOk_finish {s : State} (h : s.MemOk) (before : Memory) (issued : Option Issue) (patience : Nat) :
    (s.finish before issued patience).MemOk :=
  memOk_of_mem (memOk_refresh (memOk_of_effs h (afterwards_effs issued s))) (mem_after_finish s before issued patience)

theorem memOk_finishOutcome {s t : State} {o : Host.Outcome State Fault Refusal} (h : s.MemOk)
    (ho : ∀ u, o = .next u → ∃ l, u = applyAll s l) {before : Memory} {issued : State → Option Issue} {patience : Nat}
    (ht : finishOutcome before issued patience o = .next t) : t.MemOk := by
  unfold finishOutcome at ht
  split at ht
  · next u =>
    obtain rfl := Host.Outcome.next.inj ht
    exact memOk_finish (memOk_of_effs h (ho u rfl)) _ _ _
  · next hn => exact absurd ht (hn t)

theorem memOk_ownStep {s t : State} (h : s.MemOk) (ht : ownStep s = .next t) : t.MemOk := by
  unfold ownStep at ht
  extract_lets ready at ht
  split at ht
  · next u hu =>
    obtain rfl := Host.Outcome.next.inj ht
    split at hu
    · exact memOk_finish (memOk_of_effs h (firstEvent_effs hu)) _ _ _
    · cases hu
  · split at ht
    · exact memOk_finishOutcome h (fun _ => runStrand_effs) ht
    · obtain rfl := Host.Outcome.next.inj ht
      exact memOk_finish h _ _ _

/-- Settles O58: every way that a step can go ends in the effects of what has run and in `finish`, and both keep the form. -/
theorem stepKeepsMemOk : Obligations.StepKeepsMemOk := by
  intro s t h ht
  unfold Steps step at ht
  split at ht
  · next i rest _ =>
    extract_lets s' at ht
    have hs' : s'.MemOk := h
    split at ht
    · cases ht
    · exact memOk_finishOutcome hs' (fun _ => exec_effs) ht
  · next p rest _ =>
    have hs' : State.MemOk { s with agenda := rest } := h
    obtain rfl := Host.Outcome.next.inj ht
    exact memOk_focusOn hs' p
  · split at ht
    · exact memOk_finishOutcome h (fun _ => exec_effs) ht
    · split at ht
      · exact memOk_finishOutcome h (fun _ => event_effs_of) ht
      · split at ht
        · cases ht
        · exact memOk_ownStep h ht

end Sys2Proof.Machine
end

section
/-! Proof of O35: what KRD reads. Each register with more than one field is a number that its fields make up; `readControl` gives that
number, and KRD writes it to its destination. -/
namespace Sys2Proof.Machine

/-! ### Words built from fields -/

theorem zeroExtend_eq_ofNat {w : Nat} (x : BitVec w) : x.zeroExtend 64 = (BitVec.ofNat 64 x.toNat : Word) :=
  (BitVec.ofNat_toNat 64 x).symm

theorem ofNat_shiftLeft (x k : Nat) : (BitVec.ofNat 64 x : Word) <<< k = BitVec.ofNat 64 (2 ^ k * x) := by
  apply BitVec.eq_of_toNat_eq
  simp [Nat.shiftLeft_eq, Nat.mul_comm]

theorem bitWord_eq_ofNat (b : Bool) (i : Nat) : bitWord b i = BitVec.ofNat 64 (2 ^ i * b.toNat) := by
  apply BitVec.eq_of_toNat_eq
  cases b <;> simp [bitWord, BitVec.toNat_twoPow]

/-- A field put above those that a word has so far adds its value there. -/
theorem or_field {x k : Nat} (hx : x < 2 ^ k) (y : Nat) :
    (BitVec.ofNat 64 x ||| BitVec.ofNat 64 (2 ^ k * y) : Word) = BitVec.ofNat 64 (x + 2 ^ k * y) := by
  rw [← BitVec.ofNat_or, Nat.or_comm, ← Nat.two_pow_add_eq_or_of_lt hx, Nat.add_comm]

theorem Status.word_fields (t : Status) : t.word = BitVec.ofNat 64 (t.sup.toNat + 2 * t.migt.toNat + 4 * t.mig.toNat +
    8 * t.act.toNat + 16 * t.paired.toNat + 32 * t.safereq.toNat + 2 ^ 8 * t.reason.toNat) := by
  have hsup := t.sup.toNat_le
  have hmigt := t.migt.toNat_le
  have hmig := t.mig.toNat_le
  have hact := t.act.toNat_le
  have hpaired := t.paired.toNat_le
  have hsafereq := t.safereq.toNat_le
  simp (disch := omega) only [Status.word, bitWord_eq_ofNat, zeroExtend_eq_ofNat, ofNat_shiftLeft, or_field]
  congr 1; omega

theorem TrapRegs.fpc_fields (t : TrapRegs) : t.fpc = BitVec.ofNat 64 (4 * t.pc.toNat) := by
  rw [TrapRegs.fpc, zeroExtend_eq_ofNat, ofNat_shiftLeft]; rfl

theorem TrapRegs.finfo_fields (t : TrapRegs) : t.finfo =
    BitVec.ofNat 64 (t.ilen.toNat + 4 * t.squash.toNat + 2 ^ 8 * t.hyidx.toNat + 2 ^ 14 * t.seq.toNat) := by
  simp (disch := omega) only [TrapRegs.finfo, zeroExtend_eq_ofNat, ofNat_shiftLeft, or_field]; rfl

/-- K.FPEN (R44). -/
theorem fpen_fields (m : Modes) : bitWord m.nve 0 ||| bitWord m.dze 1 = BitVec.ofNat 64 (m.nve.toNat + 2 * m.dze.toNat) := by
  have hnve := m.nve.toNat_le
  simp (disch := omega) only [bitWord_eq_ofNat, or_field]
  congr 1; omega

theorem Modes.nanWord_fields (m : Modes) : m.nanWord = BitVec.ofNat 64 (m.nanmode.toNat + 2 ^ 8 * m.nanrep.rvalid.toNat +
    2 ^ 9 * m.nanrep.pipe.toNat + 2 ^ 10 * m.nanrep.row.toNat + 2 ^ 14 * m.nanrep.col.toNat + 2 ^ 18 * m.nanrep.kstep.toNat +
    2 ^ 26 * m.nanrep.yidx.toNat) := by
  have hmode := m.nanmode.toNat_le
  have hvalid := m.nanrep.rvalid.toNat_le
  simp (disch := omega) only [Modes.nanWord, bitWord_eq_ofNat, zeroExtend_eq_ofNat, ofNat_shiftLeft, or_field]
  congr 1; omega

theorem FmtCtx.reg_fields (f : FmtCtx) : f.reg = BitVec.ofNat 64 (f.word.toNat + 2 ^ 31 * f.valid.toNat) := by
  simp (disch := omega) only [FmtCtx.reg, bitWord_eq_ofNat, zeroExtend_eq_ofNat, or_field]

theorem Modes.asidWord_fields (m : Modes) :
    m.asidWord = BitVec.ofNat 64 (m.asid.toNat + 2 ^ 16 * m.pasid.toNat + 2 ^ 36 * m.tenant.toNat) := by
  simp (disch := omega) only [Modes.asidWord, zeroExtend_eq_ofNat, ofNat_shiftLeft, or_field]

theorem coreReg_fields (p : Pos) : coreReg p = BitVec.ofNat 64 (p.core + 2 ^ 7 * p.heavy.toNat + 2 ^ 8 * p.slot) := by
  unfold coreReg
  congr 1
  cases p.heavy <;> simp [Nat.mul_comm]

theorem State.yardWord_fields (s : State) (y : Nat) :
    s.yardWord y = BitVec.ofNat 64 (y + 2 ^ 8 * s.yardStop y + 2 ^ 14 * (s.yardStop y / 16)) := by
  simp only [State.yardWord, Nat.mul_comm]

theorem Team.clkWord_fields (t : Team) : t.clkWord = BitVec.ofNat 64 (t.clk.toNat + 2 ^ 32 * t.period) := by
  rw [Team.clkWord, zeroExtend_eq_ofNat, Nat.mul_comm, or_field t.clk.isLt]

theorem Team.idWord_fields (t : Team) (g : Grid) : t.idWord g = BitVec.ofNat 64 (t.tid % 2 ^ 32 + 2 ^ 32 * (t.prio % 8) +
    2 ^ 35 * g.nomatrix.toNat + 2 ^ 36 * g.paired.toNat) := by
  have hnomatrix := g.nomatrix.toNat_le
  simp (disch := omega) only [Team.idWord, bitWord_eq_ofNat, or_field]
  congr 1; omega

/-- K.NURATIO (R250). -/
theorem nuratio_fields {f : Func} (h : f.nuHonLast < 2 ^ 32) : BitVec.ofNat 64 f.nuHonLast ||| (f.nuWin.zeroExtend 64 <<< 32) =
    BitVec.ofNat 64 (f.nuHonLast + 2 ^ 32 * f.nuWin.toNat) := by
  rw [zeroExtend_eq_ofNat, ofNat_shiftLeft, or_field h]

/-- K.SAVEAREA (R400). -/
theorem savearea_field (v : Word) : v &&& fieldMask 55 6 = BitVec.ofNat 64 (v.toNat % 2 ^ 56 / 64 * 64) := by
  have hmask : fieldMask 55 6 = lowMask 56 &&& ~~~63#64 := by decide
  have hlow : v.toNat % 2 ^ 56 < 2 ^ 64 := by omega
  rw [hmask, ← BitVec.and_assoc, and_lowMask v (by decide), and_not_63, BitVec.toNat_ofNat, Nat.mod_eq_of_lt hlow]

/-! ### Reads of control registers (R113) -/

/-- User mode reads all but three registers (R73). -/
theorem userAccess_ne_no {k : BitVec 12} (h : k ≠ 0x032#12 ∧ k ≠ 0x091#12 ∧ k ≠ 0x092#12) : userAccess k.toNat ≠ .no := by
  simp only [ne_eq, ← BitVec.toNat_inj, BitVec.toNat_ofNat] at h
  unfold userAccess
  split
  · decide
  · rw [if_neg (by simp; omega)]; decide

/-- A KRD that its mode allows writes what `readControl` gives. -/
theorem krd_completes {s : State} (h : s.Idle) (d : BitVec 5) {k : BitVec 12} (sp : SafePoint) {w v : Word} (hw : w = v)
    (hv : ∀ log, readControl k.toNat ⟨started s (words false sp), log⟩ = .ok (w, ⟨started s (words false sp), log⟩) := by
      exact fun _ => rfl)
    (hk : controlAssigned k.toNat = true := by rfl) (hu : s.me.st.sup = true ∨ (k ≠ 0x032#12 ∧ k ≠ 0x091#12 ∧ k ≠ 0x092#12)) :
    Completes (.krd d k sp) s (words false sp) [.reg (.s d v)] := by
  subst hw
  have hc := h.clear.started (words false sp)
  refine instr_reg s (.s d w) h false false sp (krdForm d k) (fun log => ?_)
  rw [krdForm, act_bind _ _ _ _ _ (controlChecks_clear hc hk (hu.imp_right userAccess_ne_no) log),
    act_bind _ _ _ _ _ (claim_clear hc _ log), act_bind _ _ _ _ _ (hv log), wrS_clear hc]

theorem teamReg_run {r : Run} {T : Team} {G : Grid} (hT : r.s.team r.s.me.tid = some T) (hG : r.s.grid T.grid = some G)
    (mask : Word) (f : Team → Grid → Word) : teamReg mask f r = .ok (f T G, r) := by
  rw [teamReg, act_bind _ _ _ _ _ (getS_run r)]
  simp [hT, hG]

/-- The message weights stand in 16 registers, one after another (R73). -/
theorem readControl_mwgt (i : Fin 16) (r : Run) : readControl (BitVec.ofNat 12 (0x060 + i.val)).toNat r =
    .ok ((r.s.yard r.s.me.pos.yidx).regs.mwgt[i], r) := by
  have hget : (r.s.yard r.s.me.pos.yidx).regs.mwgt.toArray.getD i.val 0 = (r.s.yard r.s.me.pos.yidx).regs.mwgt[i] := by
    simp
  rw [← hget]
  fin_cases i <;> rfl

/-- Settles O35, register by register: the fields of each make up the number that KRD writes. -/
theorem controlReadResults : Obligations.ControlReadResults := by
  intro s d sp h go st tr md nr p Y F X num
  refine ⟨?_, ?_, ?_, ?_, ?_, ?_, ?_, ?_, ?_, ?_, ?_, ?_, ?_, fun hn => ?_, ?_, ?_, ?_, ?_, ?_, fun i => ?_, ?_, ?_, ?_, ?_, ?_, ?_, ?_,
    ?_, ?_, ?_, ?_, fun T G hT hG => ⟨?_, ?_, ?_, ?_⟩⟩
  · exact krd_completes h d sp st.word_fields
  · exact krd_completes h d sp (zeroExtend_eq_ofNat tr.code)
  · exact krd_completes h d sp tr.fpc_fields
  · exact krd_completes h d sp rfl
  · exact krd_completes h d sp tr.finfo_fields
  · exact krd_completes h d sp (fpen_fields md)
  · exact krd_completes h d sp (zeroExtend_eq_ofNat s.me.arch.fpflags)
  · exact krd_completes h d sp (zeroExtend_eq_ofNat md.rmode)
  · exact krd_completes h d sp md.nanWord_fields
  · exact krd_completes h d sp s.me.fmt.reg_fields
  · exact krd_completes h d sp (zeroExtend_eq_ofNat md.nudef)
  · exact krd_completes h d sp rfl
  · exact krd_completes h d sp (zeroExtend_eq_ofNat F.nupen)
  · exact krd_completes h d sp (nuratio_fields hn)
  · exact krd_completes h d sp (zeroExtend_eq_ofNat s.me.index)
  · exact krd_completes h d sp (coreReg_fields p)
  · exact krd_completes h d sp (s.yardWord_fields p.yidx)
  · exact krd_completes h d sp rfl
  · exact krd_completes h d sp rfl
  · exact krd_completes h d sp rfl (fun _ => readControl_mwgt i _) (mwgt_assigned i)
  · exact krd_completes h d sp rfl
  · exact krd_completes h d sp rfl
  · exact krd_completes h d sp rfl
  · exact krd_completes h d sp rfl
  · exact krd_completes h d sp rfl
  · exact krd_completes h d sp rfl
  · exact krd_completes h d sp md.asidWord_fields
  · exact krd_completes h d sp rfl
  · exact krd_completes h d sp rfl
  · exact krd_completes h d sp rfl
  · exact krd_completes h d sp rfl
  · exact krd_completes h d sp T.clkWord_fields (fun _ => teamReg_run hT hG _ _)
  · exact krd_completes h d sp (T.idWord_fields G) (fun _ => teamReg_run hT hG _ _)
  · exact krd_completes h d sp (savearea_field T.savebase) (fun _ => teamReg_run hT hG _ _)
  · exact krd_completes h d sp rfl (fun _ => teamReg_run hT hG _ _)

end Sys2Proof.Machine
end

section
/-! PROOFS. What a step runs (O54). -/
namespace Sys2Proof.Machine

/-! ### What a step runs (R47, R61, R65, R485) -/

/-- With bring-up over, a step in which the environment makes no choice is the device's own (R447). -/
theorem step_own {s : State} (ha : s.agenda = []) (hp : s.dev.boot.phase = 5) : step s = ownStep s := by
  simp [step, ha, hp]

/-- Where no event comes about first, the strand whose turn it is runs (R89, R90). -/
theorem ownStep_runs {s : State} (he : firstEvent s s.events = none ∨ (patienceLimit ≤ s.patience ∧ s.nextTurn.isSome = true))
    (ht : s.inTurn = true) : ownStep s = finishOutcome s.mem (issuedAt s s.me.pos) 0 (runStrand s) := by
  have hnone : (if s.patience < patienceLimit || s.nextTurn.isNone then firstEvent s s.events else none) = none := by
    rcases he with he | ⟨hl, hn⟩
    · simp [he]
    · have hlt : ¬ s.patience < patienceLimit := Nat.not_lt.mpr hl
      simp [hlt, Option.isSome_iff_ne_none.mp hn]
  unfold ownStep
  simp only [hnone, ht, if_true]

theorem runStrand_of_fetch {s : State} {bs : List Byte} {r : Run} (h : fetchInstr ⟨s, []⟩ = .ok (bs, r)) :
    runStrand s = execBytes bs (applyAll s r.log.reverse) := by
  simp only [runStrand, h]

theorem runStrand_of_fetch_error {s : State} {e : Stop} (h : fetchInstr ⟨s, []⟩ = .error e) :
    runStrand s = runAct (BitVec.ofNat 2 s.me.fetchLength) (fun _ => .error e) s := by
  simp only [runStrand, h]

theorem execBytes_of_decode {bs : List Byte} {i : Instr} {rest : List (BitVec 32)} (h : decodeBytes bs = .ok (i, rest)) (s : State) :
    execBytes bs s = exec i s := by
  simp only [execBytes, h]

theorem execBytes_of_reject {bs : List Byte} {e : Reject} (h : decodeBytes bs = .error e) (s : State) :
    execBytes bs s = illegal ((wordsOfBytes bs).headD 0) s := by
  simp only [execBytes, h]

/-- A fetch buffer that has nothing to drop and holds the whole instruction gives its bytes, without an effect (R63). -/
theorem fetchInstr_buffered {s : State} {base : BitVec 32} {bs : List Byte} (hp : s.me.pruned.fetchBuf = s.me.fetchBuf)
    (hw : s.me.fetchedWord (pcOf s.me.arch.pcw).toNat = some base)
    (hb : s.me.fetched (pcOf s.me.arch.pcw).toNat (4 * lengthOf base) = some bs) : fetchInstr ⟨s, []⟩ = .ok (bs, ⟨s, []⟩) := by
  have hm : s.me.missing = none := by simp only [Strand.missing, hw, hb]
  have hf : fetchBytes 3 ⟨s, []⟩ = .ok (bs, ⟨s, []⟩) := by
    rw [fetchBytes, act_bind _ _ _ _ _ (getS_run _)]
    simp only [hm, hw, hb, Option.getD_some, act_pure]
  rw [fetchInstr, act_bind _ _ _ _ _ (getMe_run _), hp, if_pos rfl]
  exact hf

/-! ### What a step's end leaves -/

theorem agenda_of_effs {s t : State} (h : ∃ l, t = applyAll s l) : t.agenda = s.agenda := by
  obtain ⟨l, rfl⟩ := h
  exact (applyAll_clock s l).1

theorem agenda_after_focusOn (s : State) (p : Pos) : (s.focusOn p).agenda = s.agenda := by
  obtain ⟨-, -, -, -, -, hagenda, -, -⟩ := focusOn_rest s p
  exact hagenda

theorem cycle_after_focusOn (s : State) (p : Pos) : (s.focusOn p).cycle = s.cycle := by
  obtain ⟨-, -, -, -, -, -, hcycle, -⟩ := focusOn_rest s p
  exact hcycle

theorem patience_after_focusOn (s : State) (p : Pos) : (s.focusOn p).patience = s.patience := by
  obtain ⟨-, -, -, -, -, -, -, hpatience⟩ := focusOn_rest s p
  exact hpatience

/-- A trial of a strand's next instruction leaves the environment's choices as they are. -/
theorem agenda_after_refreshAt (s : State) (p : Pos) : (s.refreshAt p).agenda = s.agenda := by
  have hfocus := agenda_after_focusOn s p
  unfold State.refreshAt
  extract_lets s'
  split
  · split
    · next t ht =>
      have ht : t.agenda = s.agenda := (agenda_of_effs (runStrand_effs ht)).trans hfocus
      split
      · split
        · exact ht
        · split
          · exact ht
          · exact hfocus
      · exact hfocus
    · exact hfocus
  · rfl

theorem agenda_after_refresh (s : State) : s.refresh.agenda = s.agenda := by
  have hfold : ∀ (l : List Pos) (u : State), (l.foldl State.refreshAt u).agenda = u.agenda := by
    intro l
    induction l with
    | nil => exact fun _ => rfl
    | cons p l ih => exact fun u => (ih _).trans (agenda_after_refreshAt u p)
  exact (agenda_after_focusOn _ _).trans (hfold _ s)

theorem agenda_after_endHeavyCycles (s : State) : s.endHeavyCycles.agenda = s.agenda := by
  have hone : ∀ (u : State) (y : Nat), (u.endHeavyCycle y).agenda = u.agenda := by
    intro u y
    unfold State.endHeavyCycle
    extract_lets H
    split <;> rfl
  have hfold : ∀ (l : List Nat) (u : State), (l.foldl State.endHeavyCycle u).agenda = u.agenda := by
    intro l
    induction l with
    | nil => exact fun _ => rfl
    | cons y l ih => exact fun u => (ih _).trans (hone u y)
  exact hfold _ s

/-- A step's end counts one cycle, sets the patience and leaves the agenda: the next turn changes none of them. -/
theorem finish_clock (s : State) (before : Memory) (issued : Option Issue) (n : Nat) :
    (s.finish before issued n).cycle = s.cycle + 1 ∧ (s.finish before issued n).patience = n ∧
      (s.finish before issued n).agenda = s.agenda := by
  have hu : (s.afterwards issued).refresh.endHeavyCycles.agenda = s.agenda :=
    (agenda_after_endHeavyCycles _).trans ((agenda_after_refresh _).trans (agenda_of_effs (afterwards_effs issued s)))
  unfold State.finish
  generalize (s.afterwards issued).refresh.endHeavyCycles = u at hu ⊢
  extract_lets tracked t
  have ht : t.cycle = s.cycle + 1 ∧ t.patience = n ∧ t.agenda = s.agenda := ⟨rfl, rfl, hu⟩
  clear_value t
  split
  · exact ht
  · cases t.nextTurn with
    | none => exact ht
    | some p =>
      obtain ⟨hcycle, hpatience, hagenda⟩ := ht
      exact ⟨(cycle_after_focusOn t p).trans hcycle, (patience_after_focusOn t p).trans hpatience, (agenda_after_focusOn t p).trans hagenda⟩

/-- Settles O54: a step is one of the branches of `step`, and the run of a strand is its fetch and the meaning of what it brings. -/
theorem stepRunsDecoded : Obligations.StepRunsDecoded := by
  refine ⟨?_, ?_, ?_, finish_clock⟩
  · intro s i rest ha hp he ht ends
    have hstep : step s = ends (runStrand s) := (step_own ha hp).trans (ownStep_runs he ht)
    refine ⟨fun bs r hf => ?_, fun e hf => ?_, fun base bs hpr hw hb hd => ?_⟩
    · rw [hstep, runStrand_of_fetch hf]
      exact ⟨fun hd => by rw [execBytes_of_decode hd], fun e hd => by rw [execBytes_of_reject hd]⟩
    · rw [hstep, runStrand_of_fetch_error hf]
    · rw [hstep, runStrand_of_fetch (fetchInstr_buffered hpr hw hb), execBytes_of_decode hd]; rfl
  · refine fun s i p rest => ⟨fun ha hi => ?_, fun ha => ?_⟩
    · simp [step, ha, hi]
    · simp [step, ha]
  · refine fun s ha => ⟨fun hp hr => ?_, fun hp => ?_, fun hp => ?_⟩ <;> simp [step, *]

end Sys2Proof.Machine
end

section
/-! PROOFS. Words that the specification writes out (O55). -/
namespace Sys2Proof

/-- Settles O55, word by word: each decodes by computation. -/
theorem decodeExamples : Obligations.DecodeExamples := by
  refine ⟨?_, ?_, ?_, ?_, ?_, ?_, ?_, ?_, ?_, ?_, ?_, ?_, ?_, ?_, ?_, ?_, ?_, ?_, ?_, ?_, ?_, ?_, ?_, ?_, fun rest => ?_, ?_⟩ <;> rfl

end Sys2Proof
end

section
/-! PROOFS. Decoding what the encoder gives, and what decodes (O56, O57). -/
namespace Sys2Proof
open Laws

/-! ### Fields of fields -/

theorem extract_extract {n : Nat} (x : BitVec n) {s l k w : Nat} (h : k + w ≤ l) :
    (x.extractLsb' s l).extractLsb' k w = x.extractLsb' (s + k) w := by
  apply BitVec.eq_of_getLsbD_eq
  intro i hi
  simp only [BitVec.getLsbD_extractLsb', hi, decide_true, Bool.true_and, show k + i < l by omega, Nat.add_assoc]

/-! ### Words of an instruction's parts (R48, R49) -/

/-- The base word of R48: S, X, major opcode and body. -/
def Parts.base (p : Parts) : BitVec 32 :=
  (if p.sp.isSome then 1#1 else 0#1) ++ (if p.ext.isSome then 1#1 else 0#1) ++ p.op ++ p.body

theorem Parts.words_eq (p : Parts) : p.words = p.base :: (p.ext.toList ++ p.sp.toList.map (fun m => 0#5 ++ m)) := rfl

theorem flag_eq_extract_iff {n : Nat} (w : BitVec n) (k : Nat) (b : Bool) :
    (if b then 1#1 else 0#1) = w.extractLsb' k 1 ↔ w.getLsbD k = b := by
  have hbit : w.extractLsb' k 1 = BitVec.ofBool (w.getLsbD k) := by
    ext i hi
    obtain rfl : i = 0 := by omega
    simp
  rw [hbit]
  cases b <;> cases w.getLsbD k <;> decide

theorem Parts.base_eq_iff (p : Parts) (w : BitVec 32) : p.base = w ↔
    w.getLsbD 31 = p.sp.isSome ∧ w.getLsbD 30 = p.ext.isSome ∧ w.extractLsb' 24 6 = p.op ∧ w.extractLsb' 0 24 = p.body := by
  let t := w.extractLsb' 24 8
  have hbody : ∀ x : BitVec 8, x ++ p.body = w ↔ x = t ∧ p.body = w.extractLsb' 0 24 := fun x => joined x p.body w
  have hop : ∀ x : BitVec 2, x ++ p.op = t ↔ x = t.extractLsb' 6 2 ∧ p.op = t.extractLsb' 0 6 := fun x => joined x p.op t
  have hflags : ∀ x y : BitVec 1, x ++ y = t.extractLsb' 6 2 ↔ x = w.extractLsb' 31 1 ∧ y = w.extractLsb' 30 1 := fun x y =>
    (joined x y _).trans (by iterate 4 rw [extract_extract _ (by decide)])
  have hmajor : t.extractLsb' 0 6 = w.extractLsb' 24 6 := extract_extract w (by decide)
  rw [Parts.base, hbody, hop, hflags, hmajor, flag_eq_extract_iff, flag_eq_extract_iff]
  simp only [and_assoc, eq_comm]

theorem decode_words (p : Parts) (rest : List (BitVec 32)) :
    decode (p.words ++ rest) = (parseChecked p.op p.body p.ext p.sp).map (fun i => (i, rest)) := by
  obtain ⟨h31, h30, hop, hbody⟩ := (p.base_eq_iff p.base).mp rfl
  have hmask : ∀ m : BitVec 27, (0#5 ++ m).extractLsb' 27 5 = 0#5 ∧ (0#5 ++ m).extractLsb' 0 27 = m := fun m =>
    ⟨(high _ _ _ _ (by decide)).trans BitVec.extractLsb'_eq_self, (low _ _ _ _ (by decide)).trans BitVec.extractLsb'_eq_self⟩
  rw [Parts.words_eq]
  generalize p.base = w at *
  obtain ⟨op, body, ext, sp⟩ := p
  cases ext <;> cases sp <;> simp_all [decode] <;> cases parseChecked _ _ _ _ <;> rfl

/-- The parts that a base word names, with the extension word and the mask that follow it. -/
def partsOf (w : BitVec 32) (x : Option (BitVec 32)) (sp : SafePoint) : Parts := ⟨w.extractLsb' 24 6, w.extractLsb' 0 24, x, sp⟩

theorem words_partsOf {w : BitVec 32} {x : Option (BitVec 32)} {sp : SafePoint} (h30 : w.getLsbD 30 = x.isSome)
    (h31 : w.getLsbD 31 = sp.isSome) : (partsOf w x sp).words = w :: (x.toList ++ sp.toList.map (fun m => 0#5 ++ m)) := by
  rw [Parts.words_eq, ((partsOf w x sp).base_eq_iff w).mpr ⟨h31, h30, rfl, rfl⟩]
  rfl

theorem mask_word {m : BitVec 32} (h : m.extractLsb' 27 5 = 0#5) : 0#5 ++ m.extractLsb' 0 27 = m :=
  (joined (m := 5) (n := 27) _ _ m).mpr ⟨h.symm, rfl⟩

/-- A mask word of which a bit of [31:27] is set is refused (R59). -/
theorem decode_reserved_mask {w m : BitVec 32} (h30 : w.getLsbD 30 = false) (h31 : w.getLsbD 31 = true) (hm : m.extractLsb' 27 5 ≠ 0#5)
    (rest : List (BitVec 32)) : decode (w :: m :: rest) = .error .reservedField := by
  simp only [decode, h30, h31]
  simp [hm]

/-- A word list begins with the words of some parts, or it is refused. -/
theorem words_or_error (ws : List (BitVec 32)) : (∃ (p : Parts) (rest : _), ws = p.words ++ rest) ∨ ∃ r, decode ws = .error r := by
  cases ws with
  | nil => exact .inr ⟨_, rfl⟩
  | cons w ws =>
    cases h30 : w.getLsbD 30 <;> cases h31 : w.getLsbD 31
    · exact .inl ⟨partsOf w none none, ws, by rw [words_partsOf h30 h31]; rfl⟩
    · cases ws with
      | nil => exact .inr ⟨.truncated, by simp only [decode, h30, h31]; rfl⟩
      | cons m ws =>
        by_cases hm : m.extractLsb' 27 5 = 0#5
        · exact .inl ⟨partsOf w none (some (m.extractLsb' 0 27)), ws, by rw [words_partsOf h30 h31]; simp [mask_word hm]⟩
        · exact .inr ⟨_, decode_reserved_mask h30 h31 hm ws⟩
    · cases ws with
      | nil => exact .inr ⟨.truncated, by simp only [decode, h30]; rfl⟩
      | cons e ws => exact .inl ⟨partsOf w (some e) none, ws, by rw [words_partsOf h30 h31]; rfl⟩
    · match ws with
      | [] => exact .inr ⟨.truncated, by simp only [decode, h30]; rfl⟩
      | [e] => exact .inr ⟨.truncated, by simp only [decode, h30, h31]; rfl⟩
      | e :: m :: ws =>
        by_cases hm : m.extractLsb' 27 5 = 0#5
        · exact .inl ⟨partsOf w (some e) (some (m.extractLsb' 0 27)), ws, by rw [words_partsOf h30 h31]; simp [mask_word hm]⟩
        · exact .inr ⟨.reservedField, by simp only [decode, h30, h31]; simp [hm]⟩

/-- A word list that decodes begins with the words of some parts, and the parts parse. -/
theorem words_of_decode {ws rest : List (BitVec 32)} {i : Instr} (h : decode ws = .ok (i, rest)) :
    ∃ p : Parts, ws = p.words ++ rest ∧ parseChecked p.op p.body p.ext p.sp = .ok i := by
  obtain ⟨p, more, rfl⟩ | ⟨r, hr⟩ := words_or_error ws
  · rw [decode_words] at h
    cases hp : parseChecked p.op p.body p.ext p.sp with
    | error r => rw [hp] at h; cases h
    | ok j => rw [hp] at h; cases h; exact ⟨p, rfl, hp⟩
  · rw [hr] at h; cases h
/-! ### Every well-formed instruction comes back (R47-R56) -/

/-- Every constructor's law in one: the instructions with an encoding parse back from it, and an event has none. -/
theorem roundTrip (i : Instr) : RoundTrip.Statement i :=
  i.casesOn
    RoundTrip.br RoundTrip.call RoundTrip.brm RoundTrip.bcmp RoundTrip.bcmpImm32 RoundTrip.loop RoundTrip.callr RoundTrip.jmp
    RoundTrip.nop RoundTrip.yield RoundTrip.exit RoundTrip.spawn RoundTrip.trap RoundTrip.isync RoundTrip.trig RoundTrip.add
    RoundTrip.sub RoundTrip.and RoundTrip.or RoundTrip.xor RoundTrip.andn RoundTrip.shl RoundTrip.shrN RoundTrip.shrI RoundTrip.rot
    RoundTrip.minI RoundTrip.minN RoundTrip.maxI RoundTrip.maxN RoundTrip.clz RoundTrip.ctz RoundTrip.popc RoundTrip.shadd1
    RoundTrip.shadd2 RoundTrip.shadd3 RoundTrip.shadd4 RoundTrip.scmp RoundTrip.mul RoundTrip.mulhI RoundTrip.mulhN RoundTrip.divI
    RoundTrip.divN RoundTrip.remI RoundTrip.remN RoundTrip.addi RoundTrip.addiImm32 RoundTrip.andi RoundTrip.andiImm32 RoundTrip.ori
    RoundTrip.oriImm32 RoundTrip.xori RoundTrip.xoriImm32 RoundTrip.shli RoundTrip.shriN RoundTrip.shriI RoundTrip.movi
    RoundTrip.moviImm32 RoundTrip.movhi RoundTrip.movhiImm32 RoundTrip.sel RoundTrip.extb RoundTrip.insb RoundTrip.ffmaF32
    RoundTrip.ffmaF16 RoundTrip.ffmaBf16 RoundTrip.fadd RoundTrip.fsub RoundTrip.fmul RoundTrip.fmin RoundTrip.fmax RoundTrip.fsgnJ
    RoundTrip.fsgnJn RoundTrip.fsgnJx RoundTrip.fcmp RoundTrip.fclass RoundTrip.fcvtFromFloat RoundTrip.fcvtToFloat RoundTrip.vadd
    RoundTrip.vsub RoundTrip.vmul RoundTrip.vminI RoundTrip.vminN RoundTrip.vmaxI RoundTrip.vmaxN RoundTrip.vand RoundTrip.vor
    RoundTrip.vxor RoundTrip.vshl RoundTrip.vshrN RoundTrip.vshrI RoundTrip.vabs RoundTrip.vaddSatI RoundTrip.vaddSatN
    RoundTrip.vsubSatI RoundTrip.vsubSatN RoundTrip.vmulhI RoundTrip.vmulhN RoundTrip.vcmp RoundTrip.vfadd RoundTrip.vfsub
    RoundTrip.vfmul RoundTrip.vfmin RoundTrip.vfmax RoundTrip.vrcpe RoundTrip.vrsqe RoundTrip.vfcvt RoundTrip.vfcmp RoundTrip.vsplat
    RoundTrip.vextr RoundTrip.vins RoundTrip.vperm RoundTrip.vslide RoundTrip.vcompr RoundTrip.vexpnd RoundTrip.vsel RoundTrip.vredAdd
    RoundTrip.vredMin RoundTrip.vredMax RoundTrip.vredAddSat RoundTrip.vscanAdd RoundTrip.vscanMin RoundTrip.vscanMax RoundTrip.vpkl6
    RoundTrip.vupl6 RoundTrip.vdot4I8 RoundTrip.vdot4N8 RoundTrip.vdot4I8Sat RoundTrip.vdot4N8Sat RoundTrip.vdot2I16 RoundTrip.vdot2N16
    RoundTrip.vdot2I16Sat RoundTrip.vdot2N16Sat RoundTrip.vffmaF32 RoundTrip.vffmaF16 RoundTrip.vffmaBf16 RoundTrip.mand RoundTrip.mor
    RoundTrip.mxor RoundTrip.mnot RoundTrip.mpopc RoundTrip.mfirst RoundTrip.mset RoundTrip.vdopAdd RoundTrip.vdopSub RoundTrip.vdopMul
    RoundTrip.vdopMin RoundTrip.vdopMax RoundTrip.vdopDiv RoundTrip.vdopSqrt RoundTrip.ld RoundTrip.ldOffset RoundTrip.st
    RoundTrip.stOffset RoundTrip.ldv RoundTrip.ldvOffset RoundTrip.ldvL6 RoundTrip.ldvL6Offset RoundTrip.pref RoundTrip.prefOffset
    RoundTrip.evict RoundTrip.evictOffset RoundTrip.stv RoundTrip.stvOffset RoundTrip.stvL6 RoundTrip.stvL6Offset RoundTrip.gath
    RoundTrip.ldvs RoundTrip.scat RoundTrip.stvs RoundTrip.ldm RoundTrip.ldmOffset RoundTrip.stm RoundTrip.stmOffset RoundTrip.amoAdd
    RoundTrip.amoAnd RoundTrip.amoOr RoundTrip.amoXor RoundTrip.amoMinI RoundTrip.amoMinN RoundTrip.amoMaxI RoundTrip.amoMaxN
    RoundTrip.amoSwap RoundTrip.amoCas RoundTrip.amov RoundTrip.amowAdd RoundTrip.amowSwap RoundTrip.amowCas RoundTrip.fenceAcq
    RoundTrip.fenceRel RoundTrip.fenceFull RoundTrip.cadd RoundTrip.cwait RoundTrip.cpoll RoundTrip.tick RoundTrip.sbind RoundTrip.sunbd
    RoundTrip.sarr RoundTrip.sarrb RoundTrip.swait RoundTrip.rdsend RoundTrip.rdrecv RoundTrip.stest RoundTrip.sleave RoundTrip.trigx
    RoundTrip.tcfg RoundTrip.tfmt RoundTrip.tscale RoundTrip.tzero RoundTrip.tldr RoundTrip.tstr RoundTrip.tmovr RoundTrip.tmovc
    RoundTrip.mma RoundTrip.mmas RoundTrip.mmaSat RoundTrip.mmasSat RoundTrip.gload RoundTrip.gdrop RoundTrip.tdrain RoundTrip.tfill
    RoundTrip.tstat RoundTrip.tfree RoundTrip.topen RoundTrip.tclose RoundTrip.tacqS RoundTrip.tacqW RoundTrip.tacqA RoundTrip.trel
    RoundTrip.tsplit RoundTrip.tqry RoundTrip.tdesc RoundTrip.yskew RoundTrip.yunsk RoundTrip.dadd RoundTrip.dsub RoundTrip.dmul
    RoundTrip.ddiv RoundTrip.dsqrt RoundTrip.dmin RoundTrip.dmax RoundTrip.dcmp RoundTrip.dcvtToF64 RoundTrip.dcvtFromF64 RoundTrip.dfma
    RoundTrip.vdfma RoundTrip.fdiv RoundTrip.fsqrt RoundTrip.fexp2 RoundTrip.flog2 RoundTrip.fsin RoundTrip.fcos RoundTrip.frcp
    RoundTrip.frsq RoundTrip.shipw RoundTrip.migrate RoundTrip.msend RoundTrip.msendT RoundTrip.mmask RoundTrip.mbox RoundTrip.mdone
    RoundTrip.cpy RoundTrip.cpyt RoundTrip.cpyq RoundTrip.krd RoundTrip.kwr RoundTrip.eret RoundTrip.waiti RoundTrip.tlbw
    RoundTrip.tlbinv RoundTrip.aswch RoundTrip.launch RoundTrip.launchT RoundTrip.swout RoundTrip.swin RoundTrip.rdcfg
    RoundTrip.longLatencyCompletion RoundTrip.settle RoundTrip.fetchFill RoundTrip.storeBufferDrain RoundTrip.guestDispatch
    RoundTrip.shippedCompletion RoundTrip.shippedFault RoundTrip.cancelPacket RoundTrip.migrateTransferDone RoundTrip.forwardedReply
    RoundTrip.matrixPipeStart RoundTrip.matrixCompletion RoundTrip.tileTransferCompletion RoundTrip.skewRearrangeDone
    RoundTrip.penaltyUpdate RoundTrip.mirrorUpdate RoundTrip.tenureGrant RoundTrip.recall RoundTrip.drainRequest RoundTrip.watchWake
    RoundTrip.watchPoll RoundTrip.waitDeadline RoundTrip.activationStart RoundTrip.statGather RoundTrip.messageArrival
    RoundTrip.heldMessagePlaced RoundTrip.mailboxWaitExpiry RoundTrip.messageAnswer RoundTrip.handlerActivation
    RoundTrip.portArbitration RoundTrip.reductionRound RoundTrip.routerPowerDown RoundTrip.routerWake RoundTrip.routerReady
    RoundTrip.pageWalk RoundTrip.atsCompletion RoundTrip.priSuccess RoundTrip.priInvalidRequest RoundTrip.priResponseFailure
    RoundTrip.atsInvalidateRequest RoundTrip.invalidateCompletion RoundTrip.transferStart RoundTrip.transferComplete
    RoundTrip.transferFailed RoundTrip.remotePathLoss RoundTrip.sertenPut RoundTrip.hostMemoryWrite RoundTrip.hostMemoryRead
    RoundTrip.hostCounterAdd RoundTrip.eqConfigWrite RoundTrip.registerWrite RoundTrip.launchRecordTake RoundTrip.deviceQueueAdmit
    RoundTrip.teamPlacement RoundTrip.priorityAging RoundTrip.quantumExpiry RoundTrip.parkExpiry RoundTrip.safewaitExpiry
    RoundTrip.swapOut RoundTrip.eventBacklogDrain RoundTrip.requestTimeout RoundTrip.functionLevelReset RoundTrip.errorCorrected
    RoundTrip.poisonConsumed RoundTrip.uncorrectableError RoundTrip.pipeFailure RoundTrip.exchangeComplete RoundTrip.deviceFault
    RoundTrip.deviceReset RoundTrip.go RoundTrip.imageVerifyDone RoundTrip.bringUpReady RoundTrip.recoveryReset RoundTrip.spdmRequest
    RoundTrip.clockStepDown RoundTrip.clockStepUp RoundTrip.thermalTrip RoundTrip.waitiTimeout RoundTrip.linkRetrained
    RoundTrip.sertenGet RoundTrip.sertenCounterAdd RoundTrip.portLinkChange RoundTrip.coalescingIntervalEnd

theorem decode_encode {i : Instr} {p : Parts} (hp : i.parts = some p) (hw : i.WF) (rest : List (BitVec 32)) :
    decode (encode i ++ rest) = .ok (i, rest) := by
  rw [encode, hp, decode_words, roundTrip i p hp hw]
  rfl

theorem word_of_bytes (w : BitVec 32) :
    w.extractLsb' 24 8 ++ w.extractLsb' 16 8 ++ w.extractLsb' 8 8 ++ w.extractLsb' 0 8 = w := by
  iterate 3 rw [BitVec.extractLsb'_append_extractLsb'_eq_extractLsb' (by rfl)]
  exact BitVec.extractLsb'_eq_self

theorem wordsOfBytes_bytes (ws : List (BitVec 32)) : wordsOfBytes (ws.flatMap bytesOfWord) = ws := by
  induction ws with
  | nil => rfl
  | cons w ws ih =>
    simp only [List.flatMap_cons, bytesOfWord, List.cons_append, List.nil_append, wordsOfBytes, ih]
    rw [word_of_bytes]

/-- Settles O56, constructor by constructor (`roundTrip`), through the words and the bytes of an encoding. -/
theorem decodeEncode : Obligations.DecodeEncode := by
  refine ⟨fun i p hp hw => decode_encode hp hw, fun i p hp hw => ?_, fun i hp => by rw [encode, hp]⟩
  rw [decodeBytes, wordsOfBytes_bytes]
  simpa using decode_encode hp hw []

/-! ### A body is its fields packed (R48) -/

theorem packA_unpack (w : BitVec 24) : packA (unpackA w) = w := by
  simp only [packA, unpackA]
  iterate 4 rw [BitVec.extractLsb'_append_extractLsb'_eq_extractLsb' (by rfl)]
  exact BitVec.extractLsb'_eq_self

theorem packB_unpack (w : BitVec 24) : packB (unpackB w) = w := by
  simp only [packB, unpackB]
  iterate 4 rw [BitVec.extractLsb'_append_extractLsb'_eq_extractLsb' (by rfl)]
  exact BitVec.extractLsb'_eq_self

theorem packI_unpack (w : BitVec 24) : packI (unpackI w) = w := by
  simp only [packI, unpackI]
  iterate 3 rw [BitVec.extractLsb'_append_extractLsb'_eq_extractLsb' (by rfl)]
  exact BitVec.extractLsb'_eq_self

theorem packV_unpack (w : BitVec 24) : packV (unpackV w) = w := by
  simp only [packV, unpackV]
  iterate 5 rw [BitVec.extractLsb'_append_extractLsb'_eq_extractLsb' (by rfl)]
  exact BitVec.extractLsb'_eq_self

theorem packW_unpack (w : BitVec 24) : packW (unpackW w) = w := by
  simp only [packW, unpackW]
  iterate 5 rw [BitVec.extractLsb'_append_extractLsb'_eq_extractLsb' (by rfl)]
  exact BitVec.extractLsb'_eq_self

theorem packT_unpack (w : BitVec 24) : packT (unpackT w) = w := by
  simp only [packT, unpackT]
  iterate 5 rw [BitVec.extractLsb'_append_extractLsb'_eq_extractLsb' (by rfl)]
  exact BitVec.extractLsb'_eq_self

theorem packK_unpack (w : BitVec 24) : packK (unpackK w) = w := by
  simp only [packK, unpackK]
  iterate 4 rw [BitVec.extractLsb'_append_extractLsb'_eq_extractLsb' (by rfl)]
  exact BitVec.extractLsb'_eq_self

theorem packKN_unpack (w : BitVec 24) : packKN (unpackKN w) = w := by
  simp only [packKN, unpackKN]
  iterate 2 rw [BitVec.extractLsb'_append_extractLsb'_eq_extractLsb' (by rfl)]
  exact BitVec.extractLsb'_eq_self

theorem packC24_unpack (w : BitVec 24) : packC24 (unpackC24 w) = w :=
  BitVec.extractLsb'_eq_self

theorem packCM_unpack (w : BitVec 24) : packCM (unpackCM w) = w := by
  simp only [packCM, unpackCM]
  iterate 2 rw [BitVec.extractLsb'_append_extractLsb'_eq_extractLsb' (by rfl)]
  exact BitVec.extractLsb'_eq_self

theorem packCL_unpack (w : BitVec 24) : packCL (unpackCL w) = w := by
  simp only [packCL, unpackCL]
  iterate 1 rw [BitVec.extractLsb'_append_extractLsb'_eq_extractLsb' (by rfl)]
  exact BitVec.extractLsb'_eq_self

@[simp] theorem packA_eq_iff (f : FieldsA) (w : BitVec 24) : packA f = w ↔
    f.d = (unpackA w).d ∧ f.a = (unpackA w).a ∧ f.b = (unpackA w).b ∧ f.la = (unpackA w).la ∧ f.fn = (unpackA w).fn := by
  rw [← FieldsA.mk.injEq]
  exact ⟨fun h => h ▸ (unpackA_pack f).symm, fun h => (congrArg packA h).trans (packA_unpack w)⟩

@[simp] theorem packB_eq_iff (f : FieldsB) (w : BitVec 24) : packB f = w ↔
    f.d = (unpackB w).d ∧ f.a = (unpackB w).a ∧ f.b = (unpackB w).b ∧ f.c = (unpackB w).c ∧ f.la = (unpackB w).la := by
  rw [← FieldsB.mk.injEq]
  exact ⟨fun h => h ▸ (unpackB_pack f).symm, fun h => (congrArg packB h).trans (packB_unpack w)⟩

@[simp] theorem packI_eq_iff (f : FieldsI) (w : BitVec 24) : packI f = w ↔
    f.d = (unpackI w).d ∧ f.a = (unpackI w).a ∧ f.fn = (unpackI w).fn ∧ f.imm = (unpackI w).imm := by
  rw [← FieldsI.mk.injEq]
  exact ⟨fun h => h ▸ (unpackI_pack f).symm, fun h => (congrArg packI h).trans (packI_unpack w)⟩

@[simp] theorem packV_eq_iff (f : FieldsV) (w : BitVec 24) : packV f = w ↔
    f.d = (unpackV w).d ∧ f.a = (unpackV w).a ∧ f.b = (unpackV w).b ∧ f.m = (unpackV w).m ∧ f.ty = (unpackV w).ty ∧
      f.fn = (unpackV w).fn := by
  rw [← FieldsV.mk.injEq]
  exact ⟨fun h => h ▸ (unpackV_pack f).symm, fun h => (congrArg packV h).trans (packV_unpack w)⟩

@[simp] theorem packW_eq_iff (f : FieldsW) (w : BitVec 24) : packW f = w ↔
    f.d = (unpackW w).d ∧ f.a = (unpackW w).a ∧ f.b = (unpackW w).b ∧ f.c = (unpackW w).c ∧ f.m = (unpackW w).m ∧
      f.neg = (unpackW w).neg := by
  rw [← FieldsW.mk.injEq]
  exact ⟨fun h => h ▸ (unpackW_pack f).symm, fun h => (congrArg packW h).trans (packW_unpack w)⟩

@[simp] theorem packT_eq_iff (f : FieldsT) (w : BitVec 24) : packT f = w ↔
    f.td = (unpackT w).td ∧ f.ta = (unpackT w).ta ∧ f.tb = (unpackT w).tb ∧ f.s = (unpackT w).s ∧ f.la = (unpackT w).la ∧
      f.fn = (unpackT w).fn := by
  rw [← FieldsT.mk.injEq]
  exact ⟨fun h => h ▸ (unpackT_pack f).symm, fun h => (congrArg packT h).trans (packT_unpack w)⟩

@[simp] theorem packK_eq_iff (f : FieldsK) (w : BitVec 24) : packK f = w ↔
    f.d = (unpackK w).d ∧ f.a = (unpackK w).a ∧ f.b = (unpackK w).b ∧ f.r = (unpackK w).r ∧ f.fn = (unpackK w).fn := by
  rw [← FieldsK.mk.injEq]
  exact ⟨fun h => h ▸ (unpackK_pack f).symm, fun h => (congrArg packK h).trans (packK_unpack w)⟩

@[simp] theorem packKN_eq_iff (f : FieldsKN) (w : BitVec 24) : packKN f = w ↔
    f.d = (unpackKN w).d ∧ f.num = (unpackKN w).num ∧ f.fn = (unpackKN w).fn := by
  rw [← FieldsKN.mk.injEq]
  exact ⟨fun h => h ▸ (unpackKN_pack f).symm, fun h => (congrArg packKN h).trans (packKN_unpack w)⟩

@[simp] theorem packC24_eq_iff (f : FieldsC24) (w : BitVec 24) : packC24 f = w ↔ f.o = (unpackC24 w).o := by
  simp [packC24, unpackC24]

@[simp] theorem packCM_eq_iff (f : FieldsCM) (w : BitVec 24) : packCM f = w ↔
    f.m = (unpackCM w).m ∧ f.c = (unpackCM w).c ∧ f.o = (unpackCM w).o := by
  rw [← FieldsCM.mk.injEq]
  exact ⟨fun h => h ▸ (unpackCM_pack f).symm, fun h => (congrArg packCM h).trans (packCM_unpack w)⟩

@[simp] theorem packCL_eq_iff (f : FieldsCL) (w : BitVec 24) : packCL f = w ↔
    f.c = (unpackCL w).c ∧ f.o = (unpackCL w).o := by
  rw [← FieldsCL.mk.injEq]
  exact ⟨fun h => h ▸ (unpackCL_pack f).symm, fun h => (congrArg packCL h).trans (packCL_unpack w)⟩


@[simp] theorem fn_unpackKN (w : BitVec 24) : (unpackKN w).fn = (unpackK w).fn := rfl

/-! ### What parses is the encoding of what it parses to (R47-R56) -/

/-- What a parse answers, if it answers an instruction, is an instruction with these parts. -/
structure Reads (r : Except Reject Instr) (p : Parts) : Prop where
  parts : ∀ i, r = .ok i → i.parts = some p

theorem reads_error (e : Reject) (p : Parts) : Reads (.error e) p := ⟨fun _ h => nomatch h⟩

theorem reads_ok {i : Instr} {p q : Parts} (hq : i.parts = some q) (h : q = p) : Reads (.ok i) p :=
  ⟨fun _ hj => Except.ok.inj hj ▸ h ▸ hq⟩

theorem reads_need {c : Bool} {e : Reject} {k : Except Reject Instr} {p : Parts} (h : c = true → Reads k p) : Reads (need c e k) p := by
  cases c with
  | false => exact reads_error e p
  | true => exact h rfl

theorem reads_ite {c : Prop} [Decidable c] {k l : Except Reject Instr} {p : Parts} (hk : c → Reads k p) (hl : Reads l p) :
    Reads (if c then k else l) p := by
  split
  · exact hk ‹_›
  · exact hl

theorem reads_noExt {k : Except Reject Instr} {x : Option (BitVec 32)} {op : BitVec 6} {body : BitVec 24} {sp : SafePoint}
    (h : Reads k ⟨op, body, none, sp⟩) : Reads (noExt x k) ⟨op, body, x, sp⟩ := by
  cases x with
  | none => exact h
  | some e => exact reads_error _ _

theorem reads_withExt {k : BitVec 32 → Except Reject Instr} {x : Option (BitVec 32)} {op : BitVec 6} {body : BitVec 24} {sp : SafePoint}
    (h : ∀ e, Reads (k e) ⟨op, body, some e, sp⟩) : Reads (withExt x k) ⟨op, body, x, sp⟩ := by
  cases x with
  | none => exact reads_error _ _
  | some e => exact h e

theorem reads_optExt {k₀ : Except Reject Instr} {k₁ : BitVec 32 → Except Reject Instr} {x : Option (BitVec 32)} {op : BitVec 6}
    {body : BitVec 24} {sp : SafePoint} (h₀ : Reads k₀ ⟨op, body, none, sp⟩) (h₁ : ∀ e, Reads (k₁ e) ⟨op, body, some e, sp⟩) :
    Reads (optExt x k₀ k₁) ⟨op, body, x, sp⟩ := by
  cases x with
  | none => exact h₀
  | some e => exact h₁ e

/-- The control and scalar majors: a parse answers only past its checks, which give back every constant field of the body. -/
theorem parse_reads_scalar {n : Nat} (h : 0x00 ≤ n ∧ n < 0x18) (body : BitVec 24) (x : Option (BitVec 32)) (sp : SafePoint) :
    Reads (parse (BitVec.ofNat 6 n) body x sp) ⟨BitVec.ofNat 6 n, body, x, sp⟩ := by
  obtain ⟨hl, hu⟩ := h
  interval_cases n <;> simp only [parse, BitVec.reduceToNat, parse01, parse02, parse03, parse04, parse05, parse06, parse07,
    parse08, parse09, parse0A, parse0B, parse0C, parse0D, parse0E, parse11, parse12, parse13, parse14, parse15, parse16, parse17]
  all_goals
    repeat' first
      | exact reads_error _ _
      | refine reads_ite (fun h => ?_) ?_
      | refine reads_noExt ?_
      | refine reads_withExt (fun e => ?_)
      | refine reads_optExt ?_ (fun e => ?_)
      | refine reads_need (fun h => ?_)
      | refine reads_ok rfl ?_
  all_goals simp_all [joined_2_3, joined_5_6]

/-- The vector majors: a parse answers only past its checks, which give back every constant field of the body. -/
theorem parse_reads_vector {n : Nat} (h : 0x18 ≤ n ∧ n < 0x28) (body : BitVec 24) (x : Option (BitVec 32)) (sp : SafePoint) :
    Reads (parse (BitVec.ofNat 6 n) body x sp) ⟨BitVec.ofNat 6 n, body, x, sp⟩ := by
  obtain ⟨hl, hu⟩ := h
  interval_cases n <;> simp only [parse, BitVec.reduceToNat, parse18, parse19, parse1A, parse1B, parse1C, parse1D, parse1E,
    parse1F, parse20, parse21, parse22, parse23, parse24, parse25, parse26, parse27]
  all_goals
    repeat' first
      | exact reads_error _ _
      | refine reads_ite (fun h => ?_) ?_
      | refine reads_noExt ?_
      | refine reads_withExt (fun e => ?_)
      | refine reads_optExt ?_ (fun e => ?_)
      | refine reads_need (fun h => ?_)
      | refine reads_ok rfl ?_
  all_goals simp_all [extract_extract, joined_1_1, joined_2_3]

/-- The memory and atomic majors: a parse answers only past its checks, which give back every constant field of the body. -/
theorem parse_reads_memory {n : Nat} (h : 0x28 ≤ n ∧ n < 0x34) (body : BitVec 24) (x : Option (BitVec 32)) (sp : SafePoint) :
    Reads (parse (BitVec.ofNat 6 n) body x sp) ⟨BitVec.ofNat 6 n, body, x, sp⟩ := by
  obtain ⟨hl, hu⟩ := h
  interval_cases n <;> simp only [parse, BitVec.reduceToNat, parse28, parse29, parse2A, parse2B, parse2C, parse2D, parse2E,
    parse2F, parse30, parse31, parse32, parse33]
  all_goals
    repeat' first
      | exact reads_error _ _
      | refine reads_ite (fun h => ?_) ?_
      | refine reads_noExt ?_
      | refine reads_withExt (fun e => ?_)
      | refine reads_optExt ?_ (fun e => ?_)
      | refine reads_need (fun h => ?_)
      | refine reads_ok rfl ?_
  all_goals simp_all [extract_extract, joined_2_3, joined_3_2, joined_4_1, joined_20_2, joined_22_2, joined_24_3, joined_27_5]

/-- The tile, messaging and system majors: a parse answers only past its checks, which give back every constant field of the body. -/
theorem parse_reads_tile {n : Nat} (h : 0x34 ≤ n ∧ n < 0x40) (body : BitVec 24) (x : Option (BitVec 32)) (sp : SafePoint) :
    Reads (parse (BitVec.ofNat 6 n) body x sp) ⟨BitVec.ofNat 6 n, body, x, sp⟩ := by
  obtain ⟨hl, hu⟩ := h
  interval_cases n <;> simp only [parse, BitVec.reduceToNat, parse34, parse35, parse36, parse38, parse39, parse3A, parse3B,
    parse3C, parse3D, parse3E]
  all_goals
    repeat' first
      | exact reads_error _ _
      | refine reads_ite (fun h => ?_) ?_
      | refine reads_noExt ?_
      | refine reads_withExt (fun e => ?_)
      | refine reads_optExt ?_ (fun e => ?_)
      | refine reads_need (fun h => ?_)
      | refine reads_ok rfl ?_
  all_goals simp_all [-BitVec.reduceAppend, ite_eq_iff', extract_extract, joined_2_1, joined_2_3, joined_24_1, joined_25_2, joined_26_1,
    joined_27_5]

theorem parse_reads (op : BitVec 6) (body : BitVec 24) (x : Option (BitVec 32)) (sp : SafePoint) :
    Reads (parse op body x sp) ⟨op, body, x, sp⟩ := by
  have hlt : op.toNat < 0x40 := op.isLt
  have hop : BitVec.ofNat 6 op.toNat = op := BitVec.eq_of_toNat_eq (by simp)
  generalize op.toNat = n at hlt hop
  subst hop
  obtain h | h | h | h : n < 0x18 ∨ (0x18 ≤ n ∧ n < 0x28) ∨ (0x28 ≤ n ∧ n < 0x34) ∨ 0x34 ≤ n := by omega
  · exact parse_reads_scalar ⟨Nat.zero_le n, h⟩ body x sp
  · exact parse_reads_vector h body x sp
  · exact parse_reads_memory h body x sp
  · exact parse_reads_tile ⟨h, hlt⟩ body x sp

/-- What `parseChecked` answers is a well-formed instruction, and it has the parts that were read. -/
theorem parseChecked_ok {op : BitVec 6} {body : BitVec 24} {x : Option (BitVec 32)} {sp : SafePoint} {i : Instr}
    (h : parseChecked op body x sp = .ok i) : i.WF ∧ i.parts = some ⟨op, body, x, sp⟩ := by
  have hreads := (parse_reads op body x sp).parts
  unfold parseChecked at h
  split at h
  · cases h
  · next j hj =>
    split at h
    · next hcheck => cases h; exact ⟨hcheck, hreads _ hj⟩
    · cases h

theorem decode_ok {ws rest : List (BitVec 32)} {i : Instr} (h : decode ws = .ok (i, rest)) :
    i.WF ∧ i.parts.isSome = true ∧ ws = encode i ++ rest := by
  obtain ⟨p, rfl, hp⟩ := words_of_decode h
  obtain ⟨hwf, hparts⟩ := parseChecked_ok hp
  exact ⟨hwf, by rw [hparts]; rfl, by rw [encode, hparts]⟩

/-! ### Words refused by name (R59, R65, R67, R68) -/

/-- S and X of a base word as one field of two bits (R48). -/
theorem flags_of_extract {w : BitVec 32} {s x : Bool} (h : w.extractLsb' 30 2 = BitVec.ofBool s ++ BitVec.ofBool x) :
    w.getLsbD 31 = s ∧ w.getLsbD 30 = x := by
  have h31 : w.getLsbD 31 = (w.extractLsb' 30 2).getLsbD 1 := by simp [-BitVec.getLsbD_eq_getElem]
  have h30 : w.getLsbD 30 = (w.extractLsb' 30 2).getLsbD 0 := by simp [-BitVec.getLsbD_eq_getElem]
  rw [h31, h30, h]
  cases s <;> cases x <;> decide

/-- A refusal of the parse is a refusal of the words that it read. -/
theorem decode_refused {w : BitVec 32} {x : Option (BitVec 32)} (hx : w.extractLsb' 30 2 = 0#1 ++ BitVec.ofBool x.isSome) {r : Reject}
    (h : parse (w.extractLsb' 24 6) (w.extractLsb' 0 24) x none = .error r) (rest : List (BitVec 32)) :
    decode (w :: (x.toList ++ rest)) = .error r := by
  obtain ⟨h31, h30⟩ := flags_of_extract (s := false) hx
  have hwords := words_partsOf (sp := none) h30 h31
  have hdecode := decode_words (partsOf w x none) rest
  rw [hwords, partsOf, parseChecked, h] at hdecode
  exact Eq.trans (by simp) hdecode

/-- A field that is at least `n` is none of the numbers below `n`. -/
theorem beq_false_of_le {k n : Nat} {f : BitVec k} (h : n ≤ f.toNat) (c : BitVec k) (hc : c.toNat < n) : (f == c) = false :=
  beq_eq_false_iff_ne.mpr (by rintro rfl; omega)

theorem parse_unassigned_major {op : BitVec 6} (h : op ∈ [0x00#6, 0x0F#6, 0x10#6, 0x37#6, 0x3F#6]) (body : BitVec 24)
    (x : Option (BitVec 32)) (sp : SafePoint) : parse op body x sp = .error .unassignedMajor := by
  simp only [List.mem_cons, List.not_mem_nil, or_false] at h
  rcases h with rfl | rfl | rfl | rfl | rfl <;> rfl

theorem parse06_unassigned {body : BitVec 24} (h : 8 ≤ (unpackA body).fn.toNat) (x : Option (BitVec 32)) (sp : SafePoint) :
    parse06 body x sp = .error .unassignedFunction := by
  simp (disch := decide) only [parse06, beq_false_of_le h]
  rfl

theorem parse08_unassigned {body : BitVec 24} (h : 21 ≤ (unpackA body).fn.toNat) (h' : (unpackA body).fn.toNat < 24)
    (x : Option (BitVec 32)) (sp : SafePoint) : parse08 body x sp = .error .unassignedFunction := by
  obtain hf | hf | hf : (unpackA body).fn = 21#5 ∨ (unpackA body).fn = 22#5 ∨ (unpackA body).fn = 23#5 := by bv_omega
  all_goals
    simp only [parse08, hf]
    rfl

theorem parse09_unassigned {body : BitVec 24} (h : (unpackA body).fn.toNat = 3 ∨ 8 ≤ (unpackA body).fn.toNat)
    (x : Option (BitVec 32)) (sp : SafePoint) : parse09 body x sp = .error .unassignedFunction := by
  rcases h with h | h
  · have hf : (unpackA body).fn = 3#5 := BitVec.eq_of_toNat_eq h
    simp only [parse09, hf]
    rfl
  · simp (disch := decide) only [parse09, beq_false_of_le h]
    rfl

theorem parse35_unassigned {body : BitVec 24} (h : 9 ≤ (unpackA body).fn.toNat) (x : Option (BitVec 32)) (sp : SafePoint) :
    parse35 body x sp = .error .unassignedFunction := by
  simp (disch := decide) only [parse35, beq_false_of_le h]
  rfl

/-- The first fourteen functions of major 0x08 have two sources, no extension word and no LA field. -/
theorem parse08_binary {body : BitVec 24} (h : (unpackA body).fn.toNat < 14) (sp : SafePoint) :
    ((unpackA body).la ≠ 0#4 → parse08 body none sp = .error .laField) ∧ ∀ e, parse08 body (some e) sp = .error .xBit := by
  obtain ⟨n, hn⟩ : ∃ n, (unpackA body).fn.toNat = n := ⟨_, rfl⟩
  have hf : (unpackA body).fn = BitVec.ofNat 5 n := BitVec.eq_of_toNat_eq (by rw [hn, BitVec.toNat_ofNat]; omega)
  rw [hn] at h
  interval_cases n <;> simp only [parse08, hf] <;> refine ⟨fun hla => ?_, fun e => rfl⟩
  all_goals
    rw [← beq_eq_false_iff_ne] at hla
    simp [noExt, need, hla]

theorem parse35_topen_reserved {body : BitVec 24} (hfn : (unpackA body).fn = 0#5) (hb : (unpackA body).b ≠ 0#5) (sp : SafePoint) :
    parse35 body none sp = .error .reservedField := by
  rw [← beq_eq_false_iff_ne] at hb
  simp [parse35, hfn, noExt, need, hb]

/-- Settles O57: what parses has the parts read (`parse_reads`), and each refusal is the branch of the parse that it names. -/
theorem decodeRefuses : Obligations.DecodeRefuses := by
  refine ⟨fun ws i rest => decode_ok, fun ws hws => ?_, fun w m rest => ?_⟩
  · cases h : decode ws with
    | error r => exact ⟨r, rfl⟩
    | ok d =>
      obtain ⟨hwf, hparts, heq⟩ := decode_ok (i := d.1) (rest := d.2) h
      exact absurd heq (hws _ _ hwf hparts)
  · intro op fn plain refused
    have hfn : (unpackA (w.extractLsb' 0 24)).fn = w.extractLsb' 0 5 := extract_extract w (by decide)
    have hla : (unpackA (w.extractLsb' 0 24)).la = w.extractLsb' 5 4 := extract_extract w (by decide)
    have hb : (unpackA (w.extractLsb' 0 24)).b = w.extractLsb' 9 5 := extract_extract w (by decide)
    have hplain : plain → ∀ {r : Reject}, parse op (w.extractLsb' 0 24) none none = .error r → refused r :=
      fun hp r h => decode_refused (x := none) hp h rest
    refine ⟨fun hp hop => hplain hp (parse_unassigned_major hop _ _ _), fun hp hop => hplain hp ?_,
      fun hop h => ⟨fun hp hne => hplain hp ?_, fun hx => ?_⟩, fun hop h hp hne => hplain hp ?_, fun hs hm => ?_⟩
    · rcases hop with ⟨hop, h⟩ | ⟨hop, h, h'⟩ | ⟨hop, h⟩ | ⟨hop, h⟩ <;> rw [hop]
      · exact parse06_unassigned (by rwa [hfn]) _ _
      · exact parse08_unassigned (by rwa [hfn]) (by rwa [hfn]) _ _
      · exact parse09_unassigned (by rwa [hfn]) _ _
      · exact parse35_unassigned (by rwa [hfn]) _ _
    · rw [hop]
      exact (parse08_binary (by rwa [hfn]) _).1 (by rwa [hla])
    · have hflags : w.extractLsb' 30 2 = 0#1 ++ BitVec.ofBool (some m).isSome := by rw [hx, Option.isSome_some]; decide
      refine decode_refused hflags ?_ rest
      rw [show w.extractLsb' 24 6 = 0x08#6 from hop]
      exact (parse08_binary (by rwa [hfn]) _).2 m
    · rw [hop]
      exact parse35_topen_reserved (hfn.trans (BitVec.eq_of_toNat_eq h)) (by rwa [hb]) _
    · obtain ⟨h31, h30⟩ := flags_of_extract (s := true) (x := false) hs
      exact decode_reserved_mask h30 h31 hm rest

end Sys2Proof
end

section
/-! PROOFS. Counterexamples: accesses of many lanes that push out their own translations (O13, O14), and a store that leaves its
store buffer where memory is not in its canonical form (O41). -/
namespace Sys2Proof.Machine

/-- Whether an outcome is a next state of which a test holds. -/
def nextMeets {σ φ ρ : Type} (p : σ → Bool) : Host.Outcome σ φ ρ → Bool
  | .next t => p t
  | _ => false

theorem meets_of_next {σ φ ρ : Type} {p : σ → Bool} {o : Host.Outcome σ φ ρ} {t : σ} (h : nextMeets p o = true)
    (ho : o = .next t) : p t = true := by
  subst ho
  exact h

/-! ### Lanes whose translations push each other out (R351) -/

/-- The leaf that maps page `n` of 512 KiB of ASID 0 to itself, for users to load and store. -/
def openPage (n : Nat) : TlbEntry :=
  { asid := 0, vpage := n, bits := 19, r := true, w := true, x := false, su := false, hostLeaf := false, hostR := false, hostW := false,
    ppage := n, pinned := false, ats := false }

/-- A lean core's strand in user mode about to reach pages 1 and 33 in lanes 0 and 1: page 1 is in the heavy TLB alone, and pages 2 to 33
fill the core's micro-TLB of 32 entries, page 33 the least recent (R351). -/
def thrashing : State :=
  { State.reset with
    me := { State.reset.me with
      pos := ⟨0, false, 0, 0⟩, run := .ready, st := Status.zero
      arch := [RegEff.s 1 0x80000, .s 2 0x1000000, .m 1 3].foldl Arch.apply Arch.zero }
    cores := [((0, false, 0), { Core.reset with utlb := (List.range 32).map (fun i => openPage (i + 2)) })]
    yards := [(0, { Yard.reset with tlb := [openPage 1] })] }

theorem thrashing_domain (y : Nat) : (thrashing.yard y).domain = [] := by
  simp only [thrashing, State.yard, assocGet]
  split <;> rfl

theorem thrashing_still : thrashing.Still where
  idle := ⟨rfl, rfl, rfl, rfl, rfl, rfl, rfl⟩
  storeBuf := rfl
  held := rfl
  fenceRel := rfl
  act := rfl
  sent := rfl
  wait := rfl
  tiles := rfl
  engines := rfl
  poison := rfl
  tenReqs := rfl
  acquires := rfl
  partials := rfl
  l1 := rfl
  domain := thrashing_domain

theorem thrashing_not_free : ¬ thrashing.Free := fun ⟨_, hsup⟩ => Bool.noConfusion hsup

/-- The address of lane `l`, with s1 the base and s2 the stride. -/
def thrashing.addr (l : Nat) : Word := thrashing.me.arch.sreg 1 + BitVec.ofNat 64 l * thrashing.me.arch.sreg 2

/-- Before the instruction, the TLBs hold the translations of both lanes. -/
theorem thrashing_maps {k : Access} (hk : k = .load ∨ k = .store) {l : Nat} (hl : l = 0 ∨ l = 1) :
    thrashing.Maps k (thrashing.addr l) 8 ((1 + 32 * l) * 2 ^ 19) := by
  refine .inr ⟨?_, ?_, .inl ⟨?_, ?_, openPage (1 + 32 * l), ?_, ?_, ?_, ?_, ?_, ?_⟩⟩
  case refine_3 => exact thrashing_not_free
  all_goals rcases hk with rfl | rfl <;> rcases hl with rfl | rfl <;> decide +kernel

/-- The mask of `thrashing` takes in lanes 0 and 1 alone. -/
theorem thrashing_active {l : Nat} (hl : l < 8) (h : (thrashing.me.arch.mreg 1).getLsbD l = true) : l = 0 ∨ l = 1 := by
  revert l
  decide +kernel

theorem thrashing_lanes {k : Access} (hk : k = .load ∨ k = .store) {l : Nat} (hl : l < 8)
    (h : (thrashing.me.arch.mreg 1).getLsbD l = true) :
    (thrashing.addr l).toNat % 8 = 0 ∧ thrashing.Maps k (thrashing.addr l) 8 ((1 + 32 * l) * 2 ^ 19) := by
  have hl := thrashing_active hl h
  refine ⟨?_, thrashing_maps hk hl⟩
  rcases hl with rfl | rfl <;> decide +kernel

/-- Lane 0's translation pushes lane 1's out of the micro-TLB, so LDVS stays at its own address until a walk has ended. -/
theorem ldvs_stays : nextMeets (fun t => t.me.arch.pcw == thrashing.me.arch.pcw)
    (exec (.ldvs 3 1 2 0 3 0 1 0 0 none) thrashing) = true := by
  decide +kernel

/-- In the same way STVS waits for a walk, and the store buffer holds nothing of lane 0. -/
theorem stvs_stores_nothing : nextMeets (fun t => heldByte t.me.storeBuf 0x80000 == none)
    (exec (.stvs 3 1 2 3 0 1 0 0 none) thrashing) = true := by
  decide +kernel

/-- Refutes O13: in `thrashing` the TLBs map the addresses of both lanes of an LDVS, but entering lane 0's translation in the full
micro-TLB pushes out lane 1's (R351), so the instruction waits for a walk where the statement has it complete. -/
theorem not_loadResults : ¬ Obligations.LoadResults := by
  intro h
  obtain ⟨-, -, -, -, -, -, -, -, -, hldvs⟩ := h thrashing 3 1 2 0 0 3 0 1 0 0 0 0 none thrashing_still
  obtain ⟨t, ht, -, ⟨hwritten, -⟩, -⟩ :=
    hldvs (by decide) (fun l => (1 + 32 * l) * 2 ^ 19) (fun l hl hm => thrashing_lanes (.inl rfl) hl hm)
  obtain ⟨harch, -⟩ := hwritten rfl
  have hpc : t.me.arch.pcw = thrashing.me.arch.pcw + 2 := by rw [harch]; rfl
  have hstays := meets_of_next ldvs_stays ht
  exact absurd (hpc.symm.trans (eq_of_beq hstays)) (by decide +kernel)

/-- Refutes O14: STVS in `thrashing` waits for a walk as LDVS does, and the store buffer has no byte at 0x80000, where the statement
has lane 0's first. -/
theorem not_storeResults : ¬ Obligations.StoreResults := by
  intro h
  obtain ⟨-, -, -, -, -, -, -, -, -, hstvs⟩ := h thrashing 3 1 2 0 3 0 1 0 0 0 0 none thrashing_still
  obtain ⟨t, ht, -, -, -, hheld⟩ :=
    hstvs (by decide) (fun l => (1 + 32 * l) * 2 ^ 19) (fun l hl hm => thrashing_lanes (.inr rfl) hl hm)
  have hnone := meets_of_next stvs_stores_nothing ht
  exact absurd ((hheld 0x80000).symm.trans (eq_of_beq hnone)) (by decide +kernel)

/-! ### A store to memory out of its canonical form (R237) -/

/-- The reset state with a zero byte for address 0 in the focus's store buffer, and with two cells of memory listed out of the order
of their keys. -/
def unsorted : State :=
  { State.reset with
    me := { State.reset.me with run := .ready, storeBuf := [⟨0, 0, [0], 0, 0, none, none⟩] }
    mem := [(1, 1), (0, 2)] }

theorem unsorted_seats : unsorted.Seats unsorted.me.pos unsorted.me where
  here := by decide +kernel
  alone := by unfold State.Apart; decide +kernel

/-- A zero byte is written by taking its cell out, and the write looks for that cell no further than the first key above its own. -/
theorem drain_keeps_byte : nextMeets (fun t => t.cachedByte unsorted.me.pos.yidx unsorted.me.pos.heavy 0 == 2)
    (exec (.storeBufferDrain unsorted.me.pos) unsorted) = true := by
  decide +kernel

/-- Refutes O41, by its clause on a store that leaves the store buffer for device memory: the statement takes every state and does not ask
that memory be in its canonical form (log entry 3, `State.MemOk`). In `unsorted`, which is not, address 0 still reads 2 after a zero has
been stored there. -/
theorem not_arrivalEvents : ¬ Obligations.ArrivalEvents := by
  intro h
  obtain ⟨-, -, -, -, hdrain, -⟩ := h unsorted unsorted.me.pos unsorted.me unsorted_seats
  obtain ⟨-, hdram⟩ := hdrain _ [] rfl rfl (by decide +kernel) rfl rfl
  obtain ⟨t, ht, -, hbytes⟩ := hdram (by decide) rfl rfl rfl rfl (by decide)
  have hzero := hbytes 0 (by decide)
  have htwo := meets_of_next drain_keeps_byte ht
  exact absurd (hzero.symm.trans (eq_of_beq htwo)) (by decide)

end Sys2Proof.Machine
end

section
/-! PROOFS. Programs that end well, and what the ends of strands and teams leave alone (R108, R405). -/
namespace Sys2Proof.Machine

/-! ### Programs of a strand that end well -/

theorem endsIn_getMe_bind {α : Type} {f : Strand → Act α} {s : State} {Q : α → State → Prop} (h : EndsIn (f s.me) s Q) :
    EndsIn (getMe >>= f) s Q := EndsIn.bind (p := getMe) (fun _ => ⟨s.me, [], rfl, h⟩)

theorem endsIn_getYard_bind {α : Type} {y : Nat} {f : Yard → Act α} {s : State} {Q : α → State → Prop}
    (h : EndsIn (f (s.yard y)) s Q) : EndsIn (getYard y >>= f) s Q := EndsIn.bind (p := getYard y) (fun _ => ⟨_, [], rfl, h⟩)

theorem endsIn_modifyMe {f : Strand → Strand} {s : State} {Q : Unit → State → Prop} (h : Q () { s with me := f s.me }) :
    EndsIn (modifyMe f) s Q := fun _ => ⟨(), [.strand (f s.me)], rfl, h⟩

/-- An instruction of an idle strand whose body ends well, with a strand that may retire, completes. -/
theorem EndsIn.instr {s : State} {ext beyond : Bool} {sp : SafePoint} {body : Act Unit} {Q : State → Prop} (h : s.Idle)
    (hb : EndsIn body (Machine.started s (words ext sp))
      (fun _ t => (t.me.pair = none ∧ t.me.window = [] ∧ t.me.st.safereq = false) ∧ Q t)) :
    ∃ t, Machine.instr ext beyond sp body s = .next t ∧ Q t := by
  obtain ⟨_, effs, hrun, ⟨hp, hw, hq⟩, hQ⟩ := hb [.pc (s.me.arch.pcw + BitVec.ofNat 62 (words ext sp)), .issued]
  refine ⟨_, instr_next s _ _ h ext beyond sp body hrun ?_ hp hw hq, hQ⟩
  rw [List.reverse_append, List.reverse_reverse, applyAll_append]
  rfl

/-- A program ends in one state, of which all holds that can be shown of its end. -/
theorem EndsIn.and_all {α : Type} {ι : Sort*} {p : Act α} {s : State} {Q : α → State → Prop} {Q' : ι → α → State → Prop}
    (h : EndsIn p s Q) (h' : ∀ i, EndsIn p s (Q' i)) : EndsIn p s (fun a t => Q a t ∧ ∀ i, Q' i a t) := by
  intro log
  obtain ⟨a, effs, hp, hq⟩ := h log
  refine ⟨a, effs, hp, hq, fun i => ?_⟩
  obtain ⟨a', effs', hp', hq'⟩ := h' i log
  have e := hp.symm.trans hp'
  simp only [Except.ok.injEq, Prod.mk.injEq, Run.mk.injEq] at e
  obtain ⟨rfl, ht, -⟩ := e
  exact ht ▸ hq'

theorem EndsIn.and {α : Type} {p : Act α} {s : State} {Q Q' : α → State → Prop} (h : EndsIn p s Q) (h' : EndsIn p s Q') :
    EndsIn p s (fun a t => Q a t ∧ Q' a t) :=
  (h.and_all fun (_ : Unit) => h').mono fun _ _ ⟨hq, hq'⟩ => ⟨hq, hq' ()⟩

theorem EndsIn.all {α : Type} {ι : Sort*} {p : Act α} {s : State} {Q : α → State → Prop} {Q' : ι → α → State → Prop}
    (h : EndsIn p s Q) (h' : ∀ i, EndsIn p s (Q' i)) : EndsIn p s (fun a t => ∀ i, Q' i a t) :=
  (h.and_all h').mono fun _ _ ⟨_, hq⟩ => hq

theorem keeps_getYard {I : State → Prop} {y : Nat} : Keeps I (getYard y) := keeps_getS.bind fun _ => keeps_pure

/-! ### Lists by key: what holds of all their values -/

theorem mem_of_mem_assocSet {κ α : Type} [DecidableEq κ] {l : List (κ × α)} {k : κ} {a : α} {e : κ × α}
    (h : e ∈ assocSet l k a) : e = (k, a) ∨ e ∈ l := by
  induction l with
  | nil => exact .inl (List.mem_singleton.mp h)
  | cons c l ih =>
    obtain ⟨j, b⟩ := c
    by_cases hj : j = k
    · simp only [assocSet, if_pos hj, List.mem_cons] at h
      exact h.imp id (List.mem_cons_of_mem _)
    · simp only [assocSet, if_neg hj, List.mem_cons] at h
      rcases h with rfl | h
      · exact .inr List.mem_cons_self
      · exact (ih h).imp id (List.mem_cons_of_mem _)

/-- What holds of every yard listed and of a yard at reset holds of every yard. -/
theorem yard_of_all {P : Yard → Prop} {s : State} (hr : P Yard.reset) (h : ∀ e ∈ s.yards, P e.2) (y : Nat) : P (s.yard y) := by
  by_cases hy : y ∈ s.yards.map (fun e => e.1)
  · exact h _ (assocGet_mem Yard.reset hy)
  · have hn : s.yard y = Yard.reset := by
      unfold State.yard
      generalize s.yards = l at hy
      induction l with
      | nil => rfl
      | cons e l ih =>
        obtain ⟨j, b⟩ := e
        simp only [List.map_cons, List.mem_cons, not_or] at hy
        simp only [assocGet, if_neg (Ne.symm hy.1), ih hy.2]
    rw [hn]
    exact hr

/-! ### Yards without a slot's walks (R352) -/

/-- What does not look at a yard's walks is as it was when their askers leave. -/
theorem blind_leave {α : Type} {f : Yard → α} (h : ∀ (Y : Yard) a b c, f { Y with walks := a, walkWait := b, endedWalks := c } = f Y)
    (Y : Yard) (gone : Asker → Bool) : f (Y.leave gone) = f Y := by
  have ask : ∀ (Y : Yard) a asid va, f (Y.askWalk a asid va) = f Y := by
    intro Y a asid va
    unfold Yard.askWalk
    split
    · exact h Y _ _ _
    · split
      · exact h Y _ _ _
      · split
        · rfl
        · exact h Y _ _ _
  have asks : ∀ (l : List Asker) asid va (Y : Yard), f (l.foldl (fun Y a => Y.askWalk a asid va) Y) = f Y := by
    intro l asid va
    induction l with
    | nil => exact fun _ => rfl
    | cons a l ih => exact fun Y => (ih _).trans (ask Y a asid va)
  have asksAll : ∀ (l : List WalkReq) (Y : Yard),
      f (l.foldl (fun Y r => r.askers.foldl (fun Y a => Y.askWalk a r.asid r.va) Y) Y) = f Y := by
    intro l
    induction l with
    | nil => exact fun _ => rfl
    | cons r l ih => exact fun Y => (ih _).trans (asks r.askers r.asid r.va Y)
  exact (asksAll _ _).trans (h Y _ _ _)

end Sys2Proof.Machine
end

section
/-! PROOFS. A strand leaves its slot for good (R108). -/
namespace Sys2Proof.Machine

/-- A yard has nothing that holds off the end of a team: no queued activation, no mailbox, no region being rearranged (R234, R325). -/
structure Yard.Quits (tid : Nat) (Y : Yard) : Prop where
  actq : ∀ q ∈ Y.actq, q.tid ≠ tid
  mailboxes : ∀ m ∈ Y.mailboxes, m.tid ≠ tid
  skews : ∀ k ∈ Y.skews, k.tid = tid → k.busyUntil = 0

theorem Yard.Quits.reset (tid : Nat) : Yard.reset.Quits tid :=
  ⟨by simp [Yard.reset], by simp [Yard.reset], by simp [Yard.reset]⟩

theorem Yard.Quits.of_same {tid : Nat} {Y Z : Yard} (h : Y.Quits tid) (ha : Z.actq = Y.actq) (hm : Z.mailboxes = Y.mailboxes)
    (hs : Z.skews = Y.skews) : Z.Quits tid := ⟨ha ▸ h.actq, hm ▸ h.mailboxes, hs ▸ h.skews⟩

theorem quits_leave (tid : Nat) (Y : Yard) (gone : Asker → Bool) : (Y.leave gone).Quits tid ↔ Y.Quits tid := by
  have same := blind_leave (f := fun Y => (Y.actq, Y.mailboxes, Y.skews)) (fun _ _ _ _ => rfl) Y gone
  obtain ⟨ha, hm, hs⟩ : (Y.leave gone).actq = Y.actq ∧ (Y.leave gone).mailboxes = Y.mailboxes ∧ (Y.leave gone).skews = Y.skews := by
    simpa only [Prod.mk.injEq] using same
  exact ⟨fun h => h.of_same ha.symm hm.symm hs.symm, fun h => h.of_same ha hm hs⟩

/-- While a strand leaves: the strand in the focus is as given, and of memory, the other strands, the teams, the copy engines, the tiles
and what holds off a team's end there is what was. -/
structure Leaves (tid : Nat) (s : State) (x : Strand) (t : State) : Prop where
  me : t.me = x
  others : t.others = s.others
  mem : t.mem = s.mem
  teams : t.dev.teams = s.dev.teams
  engines : t.dev.engines = s.dev.engines
  tiles : t.dev.tiles = s.dev.tiles
  quits : (∀ e ∈ s.yards, e.2.Quits tid) → ∀ e ∈ t.yards, e.2.Quits tid

section
variable {tid : Nat} {s t : State} {x : Strand}

theorem Leaves.refl : Leaves tid s s.me s := ⟨rfl, rfl, rfl, rfl, rfl, rfl, id⟩

theorem Leaves.setMe (h : Leaves tid s x t) (y : Strand) : Leaves tid s y { t with me := y } := { h with me := rfl }

theorem Leaves.setYard (h : Leaves tid s x t) {y : Nat} {Y : Yard} (hY : (t.yard y).Quits tid → Y.Quits tid) :
    Leaves tid s x { t with yards := assocSet t.yards y Y } :=
  { h with
    quits := fun hs e he => by
      rcases mem_of_mem_assocSet he with rfl | he
      · exact hY (yard_of_all (Yard.Quits.reset tid) (h.quits hs) y)
      · exact h.quits hs e he }

theorem Leaves.setDev (h : Leaves tid s x t) {d : Dev} (ht : d.teams = t.dev.teams) (he : d.engines = t.dev.engines)
    (hi : d.tiles = t.dev.tiles) : Leaves tid s x { t with dev := d } :=
  { h with teams := ht.trans h.teams, engines := he.trans h.engines, tiles := hi.trans h.tiles }

theorem Leaves.modifyYard (h : Leaves tid s x t) {y : Nat} {f : Yard → Yard} (ha : ∀ Y, (f Y).actq = Y.actq := by exact fun _ => rfl)
    (hm : ∀ Y, (f Y).mailboxes = Y.mailboxes := by exact fun _ => rfl) (hk : ∀ Y, (f Y).skews = Y.skews := by exact fun _ => rfl) :
    EndsIn (modifyYard y f) t (fun _ => Leaves tid s x) :=
  endsIn_modifyYard (h.setYard fun hY => hY.of_same (ha _) (hm _) (hk _))

/-- What speaks of a slot outside it is of no team (R108, R436). -/
theorem keeps_leaves_forgetSlot (p : Pos) : Keeps (Leaves tid s x) (forgetSlot p) := by
  intro t ht
  refine endsIn_getS_bind (EndsIn.bind (endsIn_emit (EndsIn.bind (endsIn_modifyDev ?_))))
  refine Leaves.modifyYard ?_
  refine Leaves.setDev (t := applyEff t _) (ht.setYard fun hY => ?_) rfl rfl rfl
  exact ((quits_leave tid _ _).mpr hY).of_same rfl rfl rfl

/-- A strand that leaves its slot leaves it empty (R108 step 5). -/
theorem removeStrand_leaves (h : Leaves tid s x t) :
    EndsIn (removeStrand x) t (fun _ => Leaves tid s (Strand.emptyAt x.pos)) := by
  refine EndsIn.bind ((keeps_leaves_forgetSlot _ t h).mono fun _ u hu => ?_)
  refine EndsIn.bind (hu.modifyYard.mono fun _ v hv => ?_)
  refine EndsIn.bind (endsIn_getS_bind ?_)
  rw [if_pos (congrArg Strand.pos hv.me)]
  refine endsIn_emit ?_
  exact keeps_ite (keeps_leaves_forgetSlot _) keeps_pure _ (hv.setMe _)

/-- With nothing cached, a release writes nothing back (R298). -/
theorem writeBackAll_leaves (h : Leaves tid s x t) {y : Nat} (hd : (t.yard y).domain = []) (host : Bool) :
    EndsIn (writeBackAll y host) t (fun _ => Leaves tid s x) := by
  refine endsIn_getS_bind ?_
  rw [hd, List.filter_nil, List.mergeSort_nil]
  refine EndsIn.bind (endsIn_pure (endsIn_getYard_bind ?_))
  dsimp only
  split
  · exact h.modifyYard
  · exact endsIn_pure h

end

/-! ### The steps of EXIT for a strand with nothing under way (R108) -/

theorem leaveAll_unbound {s : State} (hb : s.me.binds = []) : EndsIn leaveAll s (fun _ t => t = s) := by
  have hnone : (List.range 32).filter (fun n => (s.me.binding (BitVec.ofNat 5 n)).isSome) = [] := by
    simp [Strand.binding, hb]
  refine endsIn_getMe_bind ?_
  rw [hnone]
  refine EndsIn.bind (endsIn_pure (endsIn_modifyMe ?_))
  rw [← hb]

section
variable {s : State} (hs : s.Still)
include hs

theorem awaitStores_still : EndsIn awaitStores s (fun _ t => t = s) := by
  refine endsIn_getMe_bind ?_
  rw [hs.storeBuf]
  exact endsIn_pure rfl

theorem exitMdone_still : EndsIn exitMdone s (fun _ t => t = s) := by
  refine endsIn_getMe_bind ?_
  rw [Strand.holding, hs.act]
  exact endsIn_pure rfl

theorem endFence_still : EndsIn endFence s (fun _ t => t = s) := by
  refine endsIn_getMe_bind ?_
  rw [hs.fenceRel]
  exact endsIn_pure rfl

/-- A release at scope .Y leaves a strand with nothing under way as it stands (R298). -/
theorem releaseWhole_yard : EndsIn (releaseWhole 0) s (fun _ t => t = s) :=
  (awaitStores_still hs).after fun _ => (endFence_still hs).after fun _ => endsIn_getMe_bind (endsIn_pure rfl)

theorem releaseWhole_leaves (tid : Nat) : EndsIn (releaseWhole 2) s (fun _ => Leaves tid s s.me) := by
  refine (awaitStores_still hs).after fun _ => (endFence_still hs).after fun _ => endsIn_getMe_bind ?_
  rw [if_neg (by decide)]
  refine EndsIn.bind ((writeBackAll_leaves (tid := tid) Leaves.refl (hs.domain _) _).mono fun _ t ht => ?_)
  refine EndsIn.bind (endsIn_getYard_bind (EndsIn.bind ?_))
  exact ht.modifyYard.mono fun _ u hu => endsIn_pure (endsIn_pure hu)

end

end Sys2Proof.Machine
end

section
/-! PROOFS. The end of a team on a device without open tiles (R405). -/
namespace Sys2Proof.Machine

/-! ### What leaves strands, teams, grids and tiles alone -/

/-- An invariant of the strands, the teams, the grids and the open tiles: it looks at nothing else. -/
def OfRoster (I : State → Prop) : Prop :=
  ∀ s t : State, t.me = s.me → t.others = s.others → t.dev.teams = s.dev.teams → t.dev.grids = s.dev.grids →
    t.dev.tiles = s.dev.tiles → I s → I t

section
variable {I : State → Prop} (hI : OfRoster I)
include hI

theorem keeps_roster_mem {k : Nat} {bs : List Byte} : Keeps I (emit (.mem k bs)) := keeps_emit fun s hs => hI s _ rfl rfl rfl rfl rfl hs

theorem keeps_roster_yard {y : Nat} {f : Yard → Yard} : Keeps I (modifyYard y f) :=
  keeps_modifyYard fun s hs => hI s _ rfl rfl rfl rfl rfl hs

theorem keeps_roster_func {n : Nat} {f : Func → Func} : Keeps I (modifyFunc n f) :=
  keeps_modifyDev fun s hs => hI s _ rfl rfl rfl rfl rfl hs

theorem keeps_roster_writeTeam (tid fuel off : Nat) (bytes : List Byte) : Keeps I (writeTeam tid fuel off bytes) := by
  induction fuel generalizing off bytes with
  | zero => exact keeps_pure
  | succ fuel ih =>
    unfold writeTeam
    refine keeps_ite keeps_pure (keeps_getS.bind fun s => ?_)
    dsimp only
    split
    · exact (keeps_roster_mem hI).bind fun _ => ih _ _
    · exact ih _ _

theorem keeps_roster_postEvent (n : Nat) (e : HostEvent) : Keeps I (postEvent n e) :=
  keeps_getS.bind fun _ => keeps_ite
    (keeps_getS.bind fun _ => (keeps_roster_mem hI).bind fun _ => keeps_roster_func hI)
    (keeps_ite (keeps_roster_func hI) (keeps_roster_func hI))

theorem keeps_roster_counterAdd (key : Nat) (v : Word) : Keeps I (counterAdd key v) :=
  keeps_getS.bind fun _ => (keeps_roster_mem hI).bind fun _ =>
    (keeps_getS.bind fun _ => keeps_forAll fun _ _ => keeps_roster_yard hI).bind fun _ => keeps_pure

end

/-! ### The end of a team (R405) -/

/-- The strands and the teams are as given, and no tile is open. -/
structure Untiled (x : Strand) (o : List Strand) (T : List Team) (s : State) : Prop where
  me : s.me = x
  others : s.others = o
  teams : s.dev.teams = T
  tiles : s.dev.tiles = []

section
variable {x : Strand} {o : List Strand} {T : List Team}

theorem ofRoster_untiled : OfRoster (Untiled x o T) := fun _ _ hm ho ht _ hi h =>
  ⟨hm.trans h.me, ho.trans h.others, ht.trans h.teams, hi.trans h.tiles⟩

theorem keeps_untiled_dev {f : Dev → Dev} (ht : ∀ d, (f d).teams = d.teams := by exact fun _ => rfl)
    (hi : ∀ d, (f d).tiles = d.tiles := by exact fun _ => rfl) : Keeps (Untiled x o T) (modifyDev f) :=
  keeps_modifyDev fun _ h => ⟨h.me, h.others, (ht _).trans h.teams, (hi _).trans h.tiles⟩

theorem keeps_untiled_dropUnstarted (tid : Nat) : Keeps (Untiled x o T) (dropUnstarted tid) :=
  keeps_getS.bind fun _ => keeps_forAll fun _ _ => keeps_forAll fun _ _ =>
    (keeps_getS.bind fun _ => keeps_roster_writeTeam ofRoster_untiled _ _ _ _).bind fun _ => keeps_roster_yard ofRoster_untiled

theorem keeps_untiled_finishGrid (g : Grid) (add : Bool) : Keeps (Untiled x o T) (finishGrid g add) := by
  have record : ∀ f q i, Keeps (Untiled x o T) (completeRecord f q i) := fun _ _ _ => keeps_roster_func ofRoster_untiled
  have rest : Keeps (Untiled x o T) (do
      let s ← getS
      if s.overflowCount g = 0 || !add then modifyDev (fun d => { d with grids := d.grids.filter (fun x => x.gid != g.gid) })
      else modifyDev (fun d =>
        { d with grids := d.grids.map (fun x => if x.gid = g.gid then { x with done := 0, queue := none } else x) }) : Act Unit) :=
    keeps_getS.bind fun _ => keeps_ite keeps_untiled_dev keeps_untiled_dev
  unfold finishGrid
  dsimp only
  split
  · exact keeps_ite ((record _ _ _).bind fun _ => rest) rest
  · exact rest

theorem keeps_untiled_completeGrid (g : Grid) (add : Bool) : Keeps (Untiled x o T) (completeGrid g add) := by
  unfold completeGrid
  refine keeps_getS.bind fun s => keeps_ite (keeps_untiled_finishGrid g add) ?_
  split
  · refine keeps_ite keeps_pure (Keeps.bind (fun u hu => ?_) fun _ => ?_)
    · exact (meetOutside_untiled hu.tiles _ _ _ _).mono fun _ t ht => ht ▸ hu
    · exact (keeps_roster_counterAdd ofRoster_untiled _ _).bind fun _ => keeps_untiled_finishGrid g true
  · exact (keeps_roster_postEvent ofRoster_untiled _ _).bind fun _ => keeps_untiled_finishGrid g true

/-- A team that ends is no team any more; the other teams and the strands stay (R405). -/
theorem endTeam_untiled {s : State} (h : Untiled x o T s) (tid : Nat) (add : Bool) :
    EndsIn (endTeam tid add) s (fun _ => Untiled x o (T.filter (fun u => u.tid != tid))) := by
  refine endsIn_getS_bind ?_
  split
  · next hnone =>
    have hall : ∀ u ∈ T, (u.tid != tid) = true := by
      simpa [State.team, h.teams] using hnone
    rw [List.filter_eq_self.mpr hall]
    exact endsIn_pure h
  · next t _ =>
    rw [h.tiles, List.filter_nil]
    refine EndsIn.bind (endsIn_pure (EndsIn.bind ((keeps_untiled_dropUnstarted tid s h).mono fun _ u hu => endsIn_getS_bind ?_)))
    have forgets : ∀ l : List (Nat × Yard), Keeps (Untiled x o T) (forAll l (fun e => emit (.yard e.1 (e.2.forget tid)))) := fun l =>
      keeps_forAll fun _ _ => keeps_emit fun _ hv => ⟨hv.me, hv.others, hv.teams, hv.tiles⟩
    refine EndsIn.bind ((forgets _ u hu).mono fun _ v hv => EndsIn.bind (endsIn_modifyDev ?_))
    have rest : Keeps (Untiled x o (T.filter (fun u => u.tid != tid))) (do
        let s ← getS
        match s.grid t.grid with
        | some g => if g.left = 0 then completeGrid g add else pure ()
        | none => pure () : Act Unit) := keeps_getS.bind fun s => by
      split
      · exact keeps_ite (keeps_untiled_completeGrid _ _) keeps_pure
      · exact keeps_pure
    exact keeps_ite ((keeps_getS.bind fun _ => keeps_untiled_dev).bind fun _ => rest) rest _
      ⟨hv.me, hv.others, congrArg (List.filter _) hv.teams, hv.tiles⟩

theorem checkTeamEnd_strands {s : State} (ht : s.dev.tiles = []) (tid : Nat) :
    EndsIn (checkTeamEnd tid) s (fun _ t => t.me = s.me ∧ t.others = s.others) := by
  refine endsIn_getS_bind ?_
  split
  · exact (endTeam_untiled ⟨rfl, rfl, rfl, ht⟩ tid true).mono fun _ t h => ⟨h.me, h.others⟩
  · exact endsIn_pure ⟨rfl, rfl⟩

theorem checkTeamEnd_not_over {s : State} {tid : Nat} (h : s.teamOver tid = false) :
    EndsIn (checkTeamEnd tid) s (fun _ t => t = s) := by
  refine endsIn_getS_bind ?_
  rw [h]
  exact endsIn_pure rfl

theorem checkTeamEnd_over {s : State} {tid : Nat} (ht : s.dev.tiles = []) (hover : s.teamOver tid = true)
    (htr : s.transferOf tid = false) (hre : s.rearranging tid = false) (hga : s.gathering tid = false) :
    EndsIn (checkTeamEnd tid) s (fun _ t => t.team tid = none) := by
  refine endsIn_getS_bind ?_
  rw [if_pos (by simp [hover, htr, hre, hga])]
  refine (endTeam_untiled ⟨rfl, rfl, rfl, ht⟩ tid true).mono fun _ t h => ?_
  simp [State.team, h.teams]

end

end Sys2Proof.Machine
end

section
/-! PROOFS. EXIT ends a strand, SPAWN starts one (O40). -/
namespace Sys2Proof.Machine

theorem State.Still.started {s : State} (h : s.Still) (n : Nat) : (Machine.started s n).Still where
  idle :=
    { resume := h.idle.resume, stopped := h.idle.stopped, pair := h.idle.pair, poisoned := h.idle.poisoned, safereq := h.idle.safereq
      window := by simp [Machine.started, retired, applyEff, Strand.countIssue, h.idle.window]
      pending := by simp [Machine.started, retired, applyEff, Strand.countIssue, h.idle.pending] }
  storeBuf := h.storeBuf
  held := h.held
  fenceRel := h.fenceRel
  act := h.act
  sent := h.sent
  wait := h.wait
  tiles := h.tiles
  engines := h.engines
  poison := h.poison
  tenReqs := h.tenReqs
  acquires := h.acquires
  partials := h.partials
  l1 := h.l1
  domain := h.domain

/-! ### EXIT (R108) -/

/-- A strand with nothing under way and no binding leaves its slot, and then its team may end. -/
theorem exitForm_ends {s : State} {Q : State → Prop} (hs : s.Still) (hb : s.me.binds = [])
    (h : ∀ t, Leaves s.me.tid s (Strand.emptyAt s.me.pos) t → EndsIn (checkTeamEnd s.me.tid) t (fun _ => Q)) :
    EndsIn exitForm s (fun _ => Q) := by
  have rest : EndsIn (do
      awaitStores; leaveAll; exitMdone; releaseWhole 2
      let x ← getMe
      removeStrand x; endActivation x; checkTeamEnd x.tid : Act Unit) s (fun _ => Q) := by
    refine (awaitStores_still hs).after fun _ => (leaveAll_unbound hb).after fun _ => (exitMdone_still hs).after fun _ =>
      EndsIn.bind ((releaseWhole_leaves hs s.me.tid).mono fun _ t ht => endsIn_getMe_bind ?_)
    rw [ht.me]
    refine EndsIn.bind ((removeStrand_leaves ht).mono fun _ u hu => EndsIn.bind ?_)
    rw [endActivation, hs.act]
    exact endsIn_pure (h u hu)
  refine endsIn_getMe_bind ?_
  rw [hs.idle.pending]
  exact rest

/-- An empty slot holds no strand. -/
theorem at?_emptied {s : State} {p : Pos} (hme : s.me = Strand.emptyAt p) (hothers : ∀ x ∈ s.others, x.pos ≠ p) : s.at? p = none := by
  simp only [State.at?, State.strands, hme, List.find?_cons, Strand.emptyAt]
  simpa using fun x hx he => absurd he (hothers x hx)

theorem teamOver_inhabited {s : State} {tid : Nat} (ht : tid ≠ 0) {x : Strand} (hx : x ∈ s.others) (hxt : x.tid = tid)
    (hrun : x.run ≠ .empty) : s.teamOver tid = false := by
  have hmem : x ∈ s.teamStrands tid := by simp [State.teamStrands, State.strands, hx, hxt, hrun, ht]
  unfold State.teamOver
  split
  · rfl
  · have hne : (s.teamStrands tid).isEmpty = false := by
      rw [List.isEmpty_eq_false_iff]
      exact List.ne_nil_of_mem hmem
    simp [hne]

/-- The end of a team has come once it has no strand and its yards have nothing of it (R325). -/
theorem teamOver_of_quits {s : State} {tid : Nat} {T : Team} (hT : s.team tid = some T) (hres : T.resident = true)
    (hnone : s.teamStrands tid = []) (hq : ∀ e ∈ s.yards, e.2.Quits tid) : s.teamOver tid = true := by
  have hyards : s.yards.any (fun e => e.2.actq.any (fun a => a.tid == tid)
      || e.2.mailboxes.any (fun m => m.tid == tid && !m.unstarted.isEmpty && !T.mmask.getLsbD m.cls.toNat)) = false := by
    rw [List.any_eq_false]
    intro e he
    have hactq : e.2.actq.any (fun a => a.tid == tid) = false := by simpa using (hq e he).actq
    have hmail : e.2.mailboxes.any (fun m => m.tid == tid && !m.unstarted.isEmpty && !T.mmask.getLsbD m.cls.toNat) = false := by
      rw [List.any_eq_false]
      intro m hm
      simp [(hq e he).mailboxes m hm]
    simp [hactq, hmail]
  simp [State.teamOver, hT, hres, hnone, hyards]

theorem rearranging_of_quits {s : State} {tid : Nat} (hq : ∀ e ∈ s.yards, e.2.Quits tid) : s.rearranging tid = false := by
  simp only [State.rearranging, List.any_eq_false]
  intro e he
  simpa using (hq e he).skews

theorem quits_of_not_rearranging {s : State} {tid : Nat} (hre : s.rearranging tid = false)
    (h : ∀ e ∈ s.yards, (∀ q ∈ e.2.actq, q.tid ≠ tid) ∧ (∀ m ∈ e.2.mailboxes, m.tid ≠ tid)) : ∀ e ∈ s.yards, e.2.Quits tid := by
  intro e he
  simp only [State.rearranging, List.any_eq_false] at hre
  exact ⟨(h e he).1, (h e he).2, by simpa using hre e he⟩

/-- A team that has another strand goes on. -/
theorem exit_keeps_team {s t : State} (ht : Leaves s.me.tid s (Strand.emptyAt s.me.pos) t) (htid : s.me.tid ≠ 0)
    (hx : ∃ x ∈ s.others, x.tid = s.me.tid ∧ x.run ≠ .empty) :
    EndsIn (checkTeamEnd s.me.tid) t (fun _ u => u.mem = s.mem ∧ u.dev.teams = s.dev.teams) := by
  obtain ⟨x, hx, hxt, hrun⟩ := hx
  refine (checkTeamEnd_not_over (teamOver_inhabited htid (ht.others ▸ hx) hxt hrun)).mono fun _ u hu => ?_
  subst hu
  exact ⟨ht.mem, ht.teams⟩

section
variable {s t : State} (hs : s.Still) (ht : Leaves s.me.tid s (Strand.emptyAt s.me.pos) t)
include hs ht

/-- Whatever becomes of its team, the strand's slot is empty (R108 step 5). -/
theorem exit_empties (hpos : ∀ x ∈ s.others, x.pos ≠ s.me.pos) :
    EndsIn (checkTeamEnd s.me.tid) t (fun _ u => u.at? s.me.pos = none) := by
  refine (checkTeamEnd_strands (ht.tiles.trans hs.tiles) s.me.tid).mono fun _ u ⟨hme, hothers⟩ => ?_
  exact at?_emptied (hme.trans ht.me) fun x hx => hpos x (by rwa [hothers, ht.others] at hx)

/-- A team ends with its last strand where nothing of it is left to start (R325, R405). -/
theorem exit_ends_team {T : Team} (hT : s.team s.me.tid = some T) (hres : T.resident = true) (hstat : T.statWaits = [])
    (halone : s.others.all (fun x => x.tid != s.me.tid) = true) (hq : ∀ e ∈ s.yards, e.2.Quits s.me.tid) :
    EndsIn (checkTeamEnd s.me.tid) t (fun _ u => u.team s.me.tid = none) := by
  have hteam : t.team s.me.tid = some T := by rwa [State.team, ht.teams]
  have hnone : t.teamStrands s.me.tid = [] := by
    rw [List.all_eq_true] at halone
    simp only [State.teamStrands, State.strands, ht.me, ht.others, List.filter_eq_nil_iff, List.mem_cons]
    rintro x (rfl | hx)
    · simp [Strand.emptyAt]
    · have hne := halone x hx
      simp only [bne_iff_ne] at hne
      simp [hne]
  have hqt := ht.quits hq
  refine checkTeamEnd_over (ht.tiles.trans hs.tiles) (teamOver_of_quits hteam hres hnone hqt) ?_ (rearranging_of_quits hqt) ?_
  · simp [State.transferOf, ht.engines, hs.engines]
  · simp [State.gathering, hteam, hstat]

end

/-- EXIT ends in a state of which all holds that the end of its team leaves. -/
theorem exit_reaches {s : State} {sp : SafePoint} {Q : State → Prop} (hs : s.Still) (hb : s.me.binds = [])
    (h : ∀ t, Leaves s.me.tid (started s (words false sp)) (Strand.emptyAt s.me.pos) t →
      EndsIn (checkTeamEnd s.me.tid) t (fun _ => Q)) : Reaches (.exit sp) s Q := by
  refine EndsIn.instr hs.idle (exitForm_ends (hs.started _) hb fun t ht => ?_)
  refine EndsIn.and ?_ (h t ht)
  refine (checkTeamEnd_strands (ht.tiles.trans hs.tiles) s.me.tid).mono fun _ u ⟨hme, _⟩ => ?_
  rw [hme, ht.me]
  exact ⟨rfl, rfl, rfl⟩

/-! ### SPAWN (R86, R109) -/

theorem endsIn_rdS_bind {α : Type} {f : Word → Act α} {r : BitVec 5} {s : State} {Q : α → State → Prop} (h : s.Clear)
    (hf : EndsIn (f (s.me.arch.sreg r)) s Q) : EndsIn (rdS r >>= f) s Q :=
  EndsIn.bind fun log => ⟨_, [], rdS_clear h r log, hf⟩

theorem endsIn_claim_bind {α : Type} {f : Unit → Act α} {r : RegId} {s : State} {Q : α → State → Prop} (h : s.Clear)
    (hf : EndsIn (f ()) s Q) : EndsIn (claim r >>= f) s Q :=
  EndsIn.bind fun log => ⟨_, [], claim_clear h r log, hf⟩

/-- A strand that has been answered may retire; what it was answered is its result, and REASON says how (R91). -/
theorem answer_endsIn {s u : State} (h : s.Idle) {n : Nat} (hu : u.me = (started s n).me) (d : BitVec 5) (v : Word) (c : Nat) :
    EndsIn (do wrS d v; setReason c) u (fun _ t => (t.me.pair = none ∧ t.me.window = [] ∧ t.me.st.safereq = false) ∧
      Returned s t n 0 [.s d v] ∧ t.me.st.reason = BitVec.ofNat 8 c ∧ t.mem = u.mem ∧ t.others = u.others) := by
  obtain ⟨hwindow, hpending, hpoisoned⟩ := h.clear.started n
  have hclear : u.Clear := ⟨hu ▸ hwindow, hu ▸ hpending, hu ▸ hpoisoned⟩
  refine EndsIn.bind fun log => ⟨_, [.reg (.s d v)], wrS_clear hclear d v log, endsIn_modifyMe ?_⟩
  have hme : (applyAll u [.reg (.s d v)]).me = (started s n).me.applyReg (.s d v) := congrArg (fun x => Strand.applyReg x _) hu
  rw [Returned, Written, Kept, hme]
  exact ⟨⟨h.pair, hwindow, h.safereq⟩, ⟨⟨fun _ => ⟨rfl, hpending⟩, fun hla => absurd rfl hla⟩, rfl, rfl, rfl, rfl⟩, rfl, rfl, rfl⟩

/-- The registers of the entry state (R86). -/
theorem sreg_of_entryStrand (s : State) (T : Team) (G : Grid) (i : Nat) (entry arg : Word) (r : BitVec 5) :
    (s.entryStrand T G i entry arg).arch.sreg r = if r = 1#5 then arg else if r = 2#5 then BitVec.ofNat 64 T.lin
      else if r = 3#5 then BitVec.ofNat 64 i else if r = 28#5 then 0x00FFFF0000000000 else if r = 30#5 then T.savebase + 0x2400
      else if r = 31#5 then T.savebase + BitVec.ofNat 64 (G.stackOff + 0x4000 * (i + 1)) else 0 := by
  have hzero : Arch.zero.sreg r = 0 := by simp [Arch.sreg, Arch.zero]
  have hregs : (s.entryStrand T G i entry arg).arch.sreg r = ([RegEff.s 1 arg, .s 2 (BitVec.ofNat 64 T.lin), .s 3 (BitVec.ofNat 64 i),
      .s 28 (BitVec.ofNat 64 apertureBase), .s 30 (T.savebase + 0x2400),
      .s 31 (T.savebase + BitVec.ofNat 64 (G.stackOff + 0x4000 * (i + 1)))].foldl Arch.apply Arch.zero).sreg r := rfl
  rw [hregs]
  simp only [List.foldl_cons, List.foldl_nil, sreg_of_apply_s, hzero]
  by_cases h1 : r = 1#5
  · subst h1; rfl
  by_cases h2 : r = 2#5
  · subst h2; rfl
  by_cases h3 : r = 3#5
  · subst h3; rfl
  by_cases h28 : r = 28#5
  · subst h28; rfl
  by_cases h30 : r = 30#5
  · subst h30; rfl
  by_cases h31 : r = 31#5
  · subst h31; rfl
  simp [h1, h2, h3, h28, h30, h31]

end Sys2Proof.Machine
end

section
/-! PROOFS. SPAWN finds a slot or none (R109), and O40. -/
namespace Sys2Proof.Machine

theorem extract_low_zero {v : Word} (h : v.toNat % 4 = 0) : v.extractLsb' 0 2 = 0#2 := by
  apply BitVec.eq_of_toNat_eq
  simpa using h

/-- The start of an instruction of a Ready strand takes no slot. -/
theorem freeIndices_started {s : State} (hrun : s.me.run = .ready) (n : Nat) (T : Team) (G : Grid) :
    (started s n).freeIndices T G = s.freeIndices T G := by
  have htaken : ∀ p, (started s n).slotTaken p = s.slotTaken p := by
    intro p
    have hhome : (started s n).me.home = s.me.home := rfl
    have hready : (started s n).me.run = .ready := rfl
    have hothers : (started s n).others = s.others := rfl
    simp only [State.slotTaken, State.strands, List.any_cons, hhome, hready, hothers, hrun]
  simp only [State.freeIndices, htaken]

section
variable {s : State} {d a b : BitVec 5} {sp : SafePoint} {T : Team} {G : Grid} (hs : s.Still) (hrun : s.me.run = .ready)
  (hT : s.team s.me.tid = some T) (hG : s.grid T.grid = some G) (halign : (s.me.arch.sreg a).toNat % 4 = 0)
include hs hrun hT hG halign

/-- What SPAWN does with an aligned entry address, once it has looked for a slot (R109). -/
theorem spawn_completes {Q : State → Prop}
    (h : EndsIn (match (s.freeIndices T G).head?.map (fun i =>
        (started s (words false sp)).entryStrand T G i (s.me.arch.sreg a) (s.me.arch.sreg b)) with
      | none => do
        wrS d (BitVec.allOnes 64)
        setReason 1
      | some x => do
        addStrand x
        queueTouch (.acquire (x.toucher 30) 0)
        succeed d (x.index.zeroExtend 64)) (started s (words false sp))
      (fun _ t => (t.me.pair = none ∧ t.me.window = [] ∧ t.me.st.safereq = false) ∧ Q t)) :
    Reaches (.spawn d a b sp) s Q := by
  refine EndsIn.instr hs.idle ?_
  have hclear := hs.idle.clear.started (words false sp)
  refine endsIn_rdS_bind hclear (endsIn_rdS_bind hclear (endsIn_claim_bind hclear ?_))
  have hteam : (started s (words false sp)).team (started s (words false sp)).me.tid = some T := hT
  have hgrid : (started s (words false sp)).grid T.grid = some G := hG
  rw [started_sreg, if_neg (not_not_intro (extract_low_zero halign))]
  refine (releaseWhole_yard (hs.started _)).after fun _ => endsIn_getS_bind ?_
  simp only [hteam, hgrid, Option.bind_some, freeIndices_started hrun]
  exact h

/-- With no slot free, SPAWN answers all ones with REASON 1. -/
theorem spawn_refused (hfull : s.freeIndices T G = []) : ∃ t, exec (.spawn d a b sp) s = .next t ∧ t.mem = s.mem ∧
    Delivered s t (words false sp) 0 [.s d (BitVec.allOnes 64)] ∧ t.me.st.reason = 1 := by
  refine spawn_completes hs hrun hT hG halign ?_
  rw [hfull]
  refine (answer_endsIn hs.idle rfl d _ 1).mono fun _ t ht => ?_
  obtain ⟨hretire, ⟨hwritten, hkept⟩, hreason, hmem, hothers⟩ := ht
  exact ⟨hretire, hmem, ⟨hwritten, hkept, hothers⟩, hreason⟩

/-- With a slot free, SPAWN starts a strand in the lowest one and answers its index. -/
theorem spawn_starts {i : Nat} {rest : List Nat} (hfree : s.freeIndices T G = i :: rest) (hi : i < 1024)
    (hpos : s.me.pos ≠ T.slotOf G.paired i) :
    let x := (started s (words false sp)).entryStrand T G i (s.me.arch.sreg a) (s.me.arch.sreg b)
    Reaches (.spawn d a b sp) s (fun t => t.mem = s.mem ∧ Returned s t (words false sp) 0 [.s d (BitVec.ofNat 64 i)] ∧
      t.me.st.reason = 0 ∧ t.others = s.others.filter (fun u => u.pos != T.slotOf G.paired i) ++ [x]) := by
  intro x
  refine spawn_completes hs hrun hT hG halign ?_
  rw [hfree]
  have hindex : x.index.zeroExtend 64 = BitVec.ofNat 64 i := by
    apply BitVec.eq_of_toNat_eq
    simp only [x, State.entryStrand, BitVec.toNat_setWidth, BitVec.toNat_ofNat]
    omega
  have hadd : (started s (words false sp)).me.pos ≠ x.pos := hpos
  show EndsIn (do addStrand x; queueTouch (.acquire (x.toucher 30) 0); succeed d (x.index.zeroExtend 64)) _ _
  rw [hindex]
  refine EndsIn.bind (endsIn_getS_bind ?_)
  rw [if_neg hadd]
  refine endsIn_emit (EndsIn.bind (endsIn_getS_bind (endsIn_emit ?_)))
  refine (answer_endsIn (n := words false sp) hs.idle ?_ d _ 0).mono fun _ t ht => ?_
  · rfl
  obtain ⟨hretire, hreturned, hreason, hmem, hothers⟩ := ht
  exact ⟨hretire, hmem, hreturned, hreason, hothers⟩

end

/-- Settles O40: EXIT by what each of its steps leaves, up to the end of the team; SPAWN by the slot that it finds. -/
theorem exitSpawnResults : Obligations.ExitSpawnResults := by
  intro s d a b sp hs n entry arg tid
  refine ⟨fun hb hpos => ?_, fun T G hrun hT hG halign => ⟨spawn_refused hs hrun hT hG halign, fun i rest hfree hi hne => ?_⟩⟩
  · refine exit_reaches hs hb fun t ht => ?_
    have hs' := hs.started (words false sp)
    have hempty := exit_empties hs' ht hpos
    have hkeeps := hempty.all fun htid => hempty.all (exit_keeps_team ht htid)
    have hends := hempty.all fun (T : Team) => hempty.all fun (_ : tid ≠ 0) => hempty.all fun hT => hempty.all fun hres =>
      hempty.all fun hstat => hempty.all fun hre => hempty.all fun halone => hempty.all fun hq =>
        exit_ends_team hs' ht (T := T) hT hres hstat halone (quits_of_not_rearranging hre hq)
    exact hempty.and (hkeeps.and hends)
  · obtain ⟨t, ht, hmem, hret, hreason, hothers⟩ := spawn_starts (b := b) (d := d) (sp := sp) hs hrun hT hG halign hfree hi hne
    have htid : T.tid = tid := by simpa using List.find?_some hT
    refine ⟨t, _, ht, hmem, hret, hreason, hothers, rfl, rfl, htid, ?_, rfl, rfl, sreg_of_entryStrand _ T G i entry arg, ?_, rfl⟩
    · show i % 2 ^ 10 = i
      exact Nat.mod_eq_of_lt hi
    · intro r
      show Arch.zero.vreg r = 0
      simp [Arch.vreg, Arch.zero]

end Sys2Proof.Machine
end

section
/-! PROOFS. Launch records are admitted or dropped (R393-R396, R401). -/
namespace Sys2Proof.Machine

/-! ### What only writes bytes of no stated value -/

/-- Memory, its poison and the counter of free values may differ, and nothing else. -/
def Scribbled (s t : State) : Prop := ∃ m c p, t = { s with mem := m, dev := { s.dev with freeCtr := c, poison := p } }

theorem Scribbled.refl (s : State) : Scribbled s s := ⟨_, _, _, rfl⟩

section
variable {s : State}

theorem keeps_scribbled_mem {k : Nat} {bs : List Byte} : Keeps (Scribbled s) (emit (.mem k bs)) :=
  keeps_emit fun _ ⟨_, _, _, h⟩ => h ▸ ⟨_, _, _, rfl⟩

theorem keeps_scribbled_clearPoison (key n : Nat) : Keeps (Scribbled s) (clearPoison key n) :=
  keeps_getS.bind fun _ => keeps_ite keeps_pure (keeps_modifyDev fun _ ⟨_, _, _, h⟩ => h ▸ ⟨_, _, _, rfl⟩)

theorem keeps_scribbled_freshFree : Keeps (Scribbled s) freshFree := fun u ⟨_, _, _, h⟩ _ =>
  ⟨_, [.dev { u.dev with freeCtr := u.dev.freeCtr + 1 }], rfl, h ▸ ⟨_, _, _, rfl⟩⟩

theorem keeps_scribbled_writeSave (t : Team) (fuel off : Nat) (bytes : List Byte) :
    Keeps (Scribbled s) (writeSave t fuel off bytes) := by
  induction fuel generalizing off bytes with
  | zero => exact keeps_pure
  | succ fuel ih =>
    unfold writeSave
    refine keeps_ite keeps_pure (keeps_getS.bind fun u => ?_)
    dsimp only
    split
    · exact keeps_pure
    · exact (keeps_scribbled_clearPoison _ _).bind fun _ => keeps_scribbled_mem.bind fun _ => ih _ _

theorem keeps_scribbled_writeOpaque (t : Team) (off n : Nat) : Keeps (Scribbled s) (writeOpaque t off n) :=
  (keeps_scribbled_freshFree.bind fun _ => keeps_pure).bind fun _ => keeps_scribbled_writeSave _ _ _ _

end

/-! ### Admission (R395, R401) -/

/-- The state with a record's grid and teams. -/
def State.admits (s : State) (r : Record) (asid : BitVec 16) (queue : Option (Nat × Nat × Nat)) (bases : List Word) : State :=
  let g := r.grid s.dev.nextGrid asid queue
  let tids := s.newTids bases.length
  { s with dev := { s.dev with
    nextGrid := s.dev.nextGrid + 1
    nextTid := (tids.getLast?.map (fun n => n + 1)).getD s.dev.nextTid
    grids := s.dev.grids ++ [g]
    teams := s.dev.teams ++ (bases.zip tids).zipIdx.map (fun e => Team.admitted e.1.2 g e.2 e.1.1 s.cycle) } }

theorem admitRecord_endsIn (s : State) (r : Record) (asid : BitVec 16) (queue : Option (Nat × Nat × Nat)) (bases : List Word) :
    EndsIn (admitRecord r asid queue bases) s (fun _ => Scribbled (s.admits r asid queue bases)) := by
  have paints : Keeps (Scribbled s) (forAll bases (fun b => match s.devicePage asid (b.toNat + 0x2400) with
      | some p => emit (.mem (p * 4096 + (b.toNat + 0x2400) % 4096) (leBytes 4 0x06000004))
      | none => pure ())) := keeps_forAll fun b _ => by
    split
    · exact keeps_scribbled_mem
    · exact keeps_pure
  refine endsIn_getS_bind (EndsIn.bind ((paints s (Scribbled.refl s)).mono fun _ t ht => EndsIn.bind (endsIn_modifyDev ?_)))
  refine keeps_forAll (fun T _ => (keeps_scribbled_writeOpaque T 0 64).bind fun _ => keeps_pure) _ ?_
  obtain ⟨m, c, p, rfl⟩ := ht
  exact ⟨m, c, p, rfl⟩

theorem runsApart_comm (a b : List (Nat × Nat)) : runsApart a b = runsApart b a := by
  rw [Bool.eq_iff_iff]
  simp only [runsApart, List.all_eq_true, Bool.or_eq_true, decide_eq_true_eq]
  exact ⟨fun h p hp q hq => (h q hq p hp).symm, fun h p hp q hq => (h q hq p hp).symm⟩

/-- Lists of runs that are apart pairwise are apart wherever they stand (R401). -/
theorem apart_of_pairwise {l : List (List (Nat × Nat))} (h : l.Pairwise (fun a b => runsApart a b = true)) :
    l.zipIdx.all (fun a => l.zipIdx.all (fun b => a.2 == b.2 || runsApart a.1 b.1)) = true := by
  have lt : ∀ a i b j, (a, i) ∈ l.zipIdx → (b, j) ∈ l.zipIdx → i < j → runsApart a b = true := by
    intro a i b j ha hb hij
    obtain ⟨hi, ha⟩ := List.mem_zipIdx' ha
    obtain ⟨hj, hb⟩ := List.mem_zipIdx' hb
    rw [ha, hb]
    exact List.pairwise_iff_getElem.mp h i j hi hj hij
  simp only [List.all_eq_true, Bool.or_eq_true, beq_iff_eq]
  rintro ⟨a, i⟩ ha ⟨b, j⟩ hb
  rcases Nat.lt_trichotomy i j with hij | hij | hij
  · exact .inr (lt a i b j ha hb hij)
  · exact .inl hij
  · exact .inr ((runsApart_comm a b).trans (lt b j a i hb ha hij))

/-- What the supervisor must have laid out for a record to be admitted (R401): it is valid, and each of its teams has a save area that
is mapped and that no other has. -/
structure Allotted (s : State) (r : Record) (asid : BitVec 16) (bases : List Word) : Prop where
  valid : r.valid (s.spaceOf asid).tenant = true
  some_ : bases ≠ []
  length : bases.length = r.teams
  mapped : ∀ b ∈ bases, s.areaMapped asid b.toNat (r.grid 0 asid none).areaSize = true
  apart : bases.Pairwise (fun a b => runsApart (s.runsOf asid a.toNat (r.grid 0 asid none).areaSize)
    (s.runsOf asid b.toNat (r.grid 0 asid none).areaSize) = true)

theorem runsOf_congr {s t : State} (hmem : t.mem = s.mem) (hspaces : t.dev.spaces = s.dev.spaces) (asid : BitVec 16) (base n : Nat) :
    t.runsOf asid base n = s.runsOf asid base n := by
  simp only [State.runsOf, State.devicePage, State.walk, State.space, hmem, hspaces]

/-- What is laid out depends on memory, address spaces, teams and grids alone. -/
theorem Allotted.congr {s t : State} {r : Record} {asid : BitVec 16} {bases : List Word} (h : Allotted s r asid bases)
    (hmem : t.mem = s.mem) (hspaces : t.dev.spaces = s.dev.spaces) (hteams : t.dev.teams = s.dev.teams)
    (hgrids : t.dev.grids = s.dev.grids) : Allotted t r asid bases where
  valid := by simpa only [State.spaceOf, State.space, hspaces] using h.valid
  some_ := h.some_
  length := h.length
  mapped b hb := by
    simpa only [State.areaMapped, State.areas, State.grid, State.walk, State.space, runsOf_congr hmem hspaces, hmem, hspaces, hteams,
      hgrids] using h.mapped b hb
  apart := by simpa only [runsOf_congr hmem hspaces] using h.apart

theorem takeRecord_admits {s : State} {b : List Byte} {asid : BitVec 16} {bases : List Word} (h : Allotted s (Record.of b) asid bases)
    (queue : Option (Nat × Nat × Nat)) (name : String) :
    EndsIn (takeRecord b asid queue bases name) s (fun _ => Scribbled (s.admits (Record.of b) asid queue bases)) := by
  have hne : bases.isEmpty = false := List.isEmpty_eq_false_iff.mpr h.some_
  refine endsIn_getS_bind ?_
  dsimp only
  rw [h.valid, hne]
  refine endsIn_require_bind (beq_iff_eq.mpr h.length) (endsIn_require_bind (List.all_eq_true.mpr h.mapped) ?_)
  refine endsIn_require_bind (apart_of_pairwise (List.pairwise_map.mpr h.apart)) ?_
  exact admitRecord_endsIn s _ asid queue bases

/-- A record that is dropped leaves the grids and the teams as they are (R395). -/
theorem takeRecord_drops {s : State} {b : List Byte} {asid : BitVec 16} (h : (Record.of b).valid (s.spaceOf asid).tenant = false)
    (queue : Option (Nat × Nat × Nat)) (name : String) :
    EndsIn (takeRecord b asid queue [] name) s (fun _ t => t.dev.grids = s.dev.grids ∧ t.dev.teams = s.dev.teams) := by
  have hI : OfRoster (fun t => t.dev.grids = s.dev.grids ∧ t.dev.teams = s.dev.teams) :=
    fun _ _ _ _ ht hg _ ⟨hg', ht'⟩ => ⟨hg.trans hg', ht.trans ht'⟩
  refine endsIn_getS_bind ?_
  dsimp only
  rw [h]
  refine endsIn_require_bind rfl (EndsIn.bind ((keeps_roster_postEvent hI _ _ s ⟨rfl, rfl⟩).mono fun _ t ht => ?_))
  split
  · exact keeps_roster_func hI t ht
  · exact endsIn_pure ht

end Sys2Proof.Machine
end

section
/-! PROOFS. Events of the launch path (R394-R396). -/
namespace Sys2Proof.Machine

/-! ### Records of host queues (R394, R395) -/

theorem find?_assocSet {κ α : Type} [DecidableEq κ] [BEq κ] [LawfulBEq κ] (l : List (κ × α)) (k : κ) (a : α) :
    (assocSet l k a).find? (fun e => e.1 == k) = some (k, a) := by
  induction l with
  | nil => simp [assocSet]
  | cons e l ih =>
    obtain ⟨j, b⟩ := e
    by_cases hj : j = k
    · simp [assocSet, hj]
    · simp [assocSet, hj, ih]

/-- The state in which a record of a queue counts as taken (R394). -/
def State.takes (s : State) (f q : Nat) (Q : HostQueue) (hdr seq : Nat) : State :=
  { s with
    mem := s.mem.writeBytes (hdr + 8) (leBytes 8 (Q.taken + 1))
    dev := { s.dev with
      funcs := assocSet s.dev.funcs f { s.func f with
        queues := assocSet (s.func f).queues q { Q with taken := Q.taken + 1, lastseq := seq } } } }

section
variable {s : State} {f q hdr k : Nat} {Q : HostQueue} (hQ : (s.func f).queues.find? (fun e => e.1 == q) = some (q, Q))
  (hhdr : s.queueKey Q 0 = some hdr) (hphase : s.dev.boot.phase = 5) (hfrozen : (s.func f).frozen = false)
  (hleft : Q.taken < s.counter hdr) (hk : s.queueKey Q (64 + 64 * (Q.taken % Q.n)) = some k)
include hQ hhdr hphase hfrozen hleft hk

/-- A posted record is taken: it counts as taken, and then it is admitted or dropped. -/
theorem launchRecordTake_takes {bases : List Word} {seq : Nat} {P : State → Prop}
    (hseq : (if (Record.of (s.mem.readBytes k 64)).valid (s.spaceOf Q.asid).tenant && !bases.isEmpty then
      (Record.of (s.mem.readBytes k 64)).seq else Q.lastseq) = seq)
    (h : EndsIn (takeRecord (s.mem.readBytes k 64) Q.asid (some (f, q, Q.taken)) bases "LAUNCH_RECORD_TAKE") (s.takes f q Q hdr seq)
      (fun _ => P)) :
    Reaches (.launchRecordTake f q bases) s P := by
  refine EndsIn.reaches (s := s) rfl (endsIn_getS_bind ?_)
  refine endsIn_requireSome_bind (a := Q) (by rw [hQ]; rfl) (endsIn_requireSome_bind hhdr (endsIn_require_bind ?_ ?_))
  · have hfrozen : s.isFrozen f = false := hfrozen
    simp [hphase, hfrozen, hleft]
  · refine endsIn_requireSome_bind hk (EndsIn.bind (endsIn_store ?_))
    dsimp only
    rw [hseq]
    exact EndsIn.bind (endsIn_modifyDev h)

theorem launchRecordTake_admits {bases : List Word}
    (h : Allotted { s with mem := s.mem.writeBytes (hdr + 8) (leBytes 8 (Q.taken + 1)) } (Record.of (s.mem.readBytes k 64)) Q.asid bases) :
    Reaches (.launchRecordTake f q bases) s (fun t =>
      (t.dev.grids = (s.admits (Record.of (s.mem.readBytes k 64)) Q.asid (some (f, q, Q.taken)) bases).dev.grids ∧
        t.dev.teams = (s.admits (Record.of (s.mem.readBytes k 64)) Q.asid (some (f, q, Q.taken)) bases).dev.teams) ∧
      (t.func f).queues.find? (fun e => e.1 == q) =
        some (q, { Q with taken := Q.taken + 1, lastseq := (Record.of (s.mem.readBytes k 64)).seq })) := by
  have hvalid : (Record.of (s.mem.readBytes k 64)).valid (s.spaceOf Q.asid).tenant = true := h.valid
  have hne : bases.isEmpty = false := List.isEmpty_eq_false_iff.mpr h.some_
  refine launchRecordTake_takes hQ hhdr hphase hfrozen hleft hk
    (seq := (Record.of (s.mem.readBytes k 64)).seq) (by rw [hvalid, hne]; rfl) ?_
  refine EndsIn.mono (takeRecord_admits ?_ _ _) fun _ t ht => ?_
  · exact h.congr rfl rfl rfl rfl
  obtain ⟨m, c, p, rfl⟩ := ht
  refine ⟨⟨rfl, rfl⟩, ?_⟩
  simp only [State.func, State.admits, State.takes, assocGet_assocSet, if_pos]
  exact find?_assocSet _ _ _

theorem launchRecordTake_drops (h : (Record.of (s.mem.readBytes k 64)).valid (s.spaceOf Q.asid).tenant = false) :
    Reaches (.launchRecordTake f q []) s (fun t => t.dev.grids = s.dev.grids ∧ t.dev.teams = s.dev.teams) := by
  refine launchRecordTake_takes hQ hhdr hphase hfrozen hleft hk (seq := Q.lastseq) (by rw [h]; rfl) ?_
  exact takeRecord_drops (s := s.takes f q Q hdr Q.lastseq) h _ _

end

/-! ### A yard's device launch queue (R396) -/

/-- Where no grid has an overflow area, none holds records. -/
theorem waitingAreas_none {s : State} (h : ∀ g ∈ s.dev.grids, g.ovf = 0) : s.waitingAreas = [] := by
  simp only [State.waitingAreas, List.map_eq_nil_iff, List.filter_eq_nil_iff]
  intro g hg
  simp [State.overflowCount, State.overflow, h g hg]

theorem deviceQueueAdmit_admits {s : State} {y : Nat} {r : LaunchReq} {bases : List Word}
    (hr : (s.yard y).dlq.find? (fun r => !s.isFrozen (s.spaceOf r.asid).tenant.toNat) = some r)
    (hgrids : ∀ g ∈ s.dev.grids, g.ovf = 0) (hovf : (Record.of r.bytes).ovf = 0) (h : Allotted s (Record.of r.bytes) r.asid bases) :
    Reaches (.deviceQueueAdmit y none bases) s (fun t =>
      (t.dev.grids = (s.admits (Record.of r.bytes) r.asid none bases).dev.grids ∧
        t.dev.teams = (s.admits (Record.of r.bytes) r.asid none bases).dev.teams) ∧ (t.yard y).dlq = (s.yard y).dlq.erase r) := by
  refine EndsIn.reaches (s := s) rfl (endsIn_getS_bind ?_)
  dsimp only
  rw [hr]
  refine EndsIn.bind (endsIn_modifyYard (EndsIn.bind ?_))
  refine EndsIn.mono (takeRecord_admits ?_ _ _) fun _ t ht => ?_
  · exact h.congr rfl rfl rfl rfl
  obtain ⟨m, c, p, rfl⟩ := ht
  refine endsIn_getS_bind (endsIn_require ?_ ⟨⟨rfl, rfl⟩, ?_⟩)
  · rw [List.isEmpty_iff]
    refine waitingAreas_none fun g hg => ?_
    rcases List.mem_append.mp hg with hg | hg
    · exact hgrids g hg
    · rw [List.mem_singleton.mp hg]
      exact hovf
  · simp only [State.yard, State.admits, assocGet_assocSet, if_pos]

end Sys2Proof.Machine
end

section
/-! PROOFS. The numbers of new teams (R400). -/
namespace Sys2Proof.Machine

/-- The candidate for a team's number after `i` others: the numbers from 1 to 2 ^ 32 - 1 go round. -/
def tidAfter (n i : Nat) : Nat := ((if n % 2 ^ 32 = 0 then 1 else n % 2 ^ 32) - 1 + i) % (2 ^ 32 - 1) + 1

theorem tidAfter_zero (n : Nat) : tidAfter n 0 = if n % 2 ^ 32 = 0 then 1 else n % 2 ^ 32 := by
  unfold tidAfter
  split <;> omega

theorem tidAfter_succ (n i : Nat) : tidAfter n (i + 1) = tidAfter (tidAfter n 0 + 1) i := by
  unfold tidAfter
  split <;> split <;> omega

theorem tidAfter_inj {n i j : Nat} (hi : i < 2 ^ 32 - 1) (hj : j < 2 ^ 32 - 1) (h : tidAfter n i = tidAfter n j) : i = j := by
  unfold tidAfter at h
  omega

/-- Whether a number is one that a new team may have beside those in use. -/
def FreshTid (used : List Nat) (n : Nat) : Prop := n ∉ used ∧ 0 < n ∧ n < 2 ^ 32

theorem freshTid_or (used : List Nat) (fuel n : Nat) :
    FreshTid used (freshTid used fuel n) ∨ ∀ i, i < fuel → tidAfter n i ∈ used := by
  induction fuel generalizing n with
  | zero => exact .inr fun i hi => absurd hi (Nat.not_lt_zero i)
  | succ fuel ih =>
    have hc := tidAfter_zero n
    simp only [freshTid, ← hc]
    split
    next hused =>
      rcases ih (tidAfter n 0 + 1) with h | h
      · exact .inl h
      · refine .inr fun i hi => ?_
        cases i with
        | zero => exact List.contains_iff_mem.mp hused
        | succ i => exact tidAfter_succ n i ▸ h i (Nat.lt_of_succ_lt_succ hi)
    next hfree =>
      refine .inl ⟨fun h => hfree (List.contains_iff_mem.mpr h), ?_⟩
      unfold tidAfter
      omega

/-- Of more candidates than numbers in use, one is fresh. -/
theorem freshTid_fresh {used : List Nat} (h : used.length < 2 ^ 31) (n : Nat) : FreshTid used (freshTid used (used.length + 1) n) := by
  refine (freshTid_or used (used.length + 1) n).resolve_right fun hall => ?_
  have hnodup : ((List.range (used.length + 1)).map (tidAfter n)).Nodup :=
    List.Nodup.map_on (fun i hi j hj => tidAfter_inj (by have := List.mem_range.mp hi; omega) (by have := List.mem_range.mp hj; omega))
      List.nodup_range
  have hsub : (List.range (used.length + 1)).map (tidAfter n) ⊆ used := fun k hk => by
    obtain ⟨i, hi, rfl⟩ := List.mem_map.mp hk
    exact hall i (List.mem_range.mp hi)
  simpa using (hnodup.subperm hsub).length_le

theorem freshTids_length (used : List Nat) (next k : Nat) : (freshTids used next k).length = k := by
  induction k generalizing used next with
  | zero => rfl
  | succ k ih => exact congrArg (· + 1) (ih _ _)

theorem freshTids_fresh {used : List Nat} {k : Nat} (h : used.length + k < 2 ^ 31) (next : Nat) :
    (freshTids used next k).Nodup ∧ ∀ n ∈ freshTids used next k, FreshTid used n := by
  induction k generalizing used next with
  | zero => exact ⟨List.nodup_nil, fun n hn => absurd hn List.not_mem_nil⟩
  | succ k ih =>
    have hfirst := freshTid_fresh (used := used) (by omega) next
    obtain ⟨hnodup, hrest⟩ := ih (used := freshTid used (used.length + 1) next :: used) (by simp only [List.length_cons]; omega)
      (freshTid used (used.length + 1) next + 1)
    refine ⟨List.nodup_cons.mpr ⟨fun hn => (hrest _ hn).1 List.mem_cons_self, hnodup⟩, fun n hn => ?_⟩
    rcases List.mem_cons.mp hn with rfl | hn
    · exact hfirst
    · obtain ⟨hfree, hrange⟩ := hrest n hn
      exact ⟨fun h => hfree (List.mem_cons_of_mem _ h), hrange⟩

/-- New teams have numbers of their own that no team has. -/
theorem newTids_fresh {s : State} {n : Nat} (h : s.dev.teams.length + n < 2 ^ 31) : (s.newTids n).length = n ∧ (s.newTids n).Nodup ∧
    ∀ k ∈ s.newTids n, 0 < k ∧ k < 2 ^ 32 ∧ ∀ T ∈ s.dev.teams, T.tid ≠ k := by
  obtain ⟨hnodup, hfresh⟩ := freshTids_fresh (used := s.dev.teams.map (fun t => t.tid)) (k := n) (by simpa using h) s.dev.nextTid
  refine ⟨freshTids_length _ _ _, hnodup, fun k hk => ?_⟩
  obtain ⟨hfree, hpos, hlt⟩ := hfresh k hk
  exact ⟨hpos, hlt, fun T hT e => hfree (List.mem_map.mpr ⟨T, hT, e⟩)⟩

end Sys2Proof.Machine
end

section
/-! PROOFS. An overflow area fills a yard's empty device launch queue (R396). -/
namespace Sys2Proof.Machine

theorem grid_gid {s : State} {g : Nat} {G : Grid} (h : s.grid g = some G) : G.gid = g := by
  simpa using List.find?_some h

/-- Where grids leave, no area begins to hold records. -/
theorem waitingAreas_mono {s t : State} (hmem : t.mem = s.mem) (hspaces : t.dev.spaces = s.dev.spaces)
    (hgrids : ∀ g ∈ t.dev.grids, g ∈ s.dev.grids) : ∀ z ∈ t.waitingAreas, z ∈ s.waitingAreas := by
  intro z hz
  simp only [State.waitingAreas, List.mem_map, List.mem_filter] at hz ⊢
  obtain ⟨g, ⟨hg, hcount⟩, rfl⟩ := hz
  refine ⟨g, ⟨hgrids g hg, ?_⟩, rfl⟩
  have count : t.overflowCount g = s.overflowCount g := by
    simp only [State.overflowCount, State.overflow, State.devicePage, State.walk, State.space, hmem, hspaces]
  exact count ▸ hcount

theorem assocGet_map_of_mem {α : Type} {d : α} {f : Nat → α} {l : List Nat} {z : Nat} (h : z ∈ l) :
    assocGet d (l.map (fun g => (g, f g))) z = f z := by
  induction l with
  | nil => exact absurd h List.not_mem_nil
  | cons g l ih =>
    by_cases hg : g = z
    · simp [assocGet, hg]
    · have hz : z ∈ l := (List.mem_cons.mp h).resolve_left fun e => hg e.symm
      simpa [assocGet, hg] using ih hz

/-- What an area that fills an entry does to the others: each of them has seen one more pass. -/
theorem passedOf_pass {Y : Yard} {g z : Nat} {areas : List Nat} (hz : z ∈ areas) (hne : z ≠ g) :
    (Y.pass g areas).passedOf z = Y.passedOf z + 1 :=
  (assocGet_map_of_mem hz).trans (if_neg hne)

theorem refill_fills {s : State} {y g w d hdr k : Nat} {G : Grid} {name : String} (hdlq : (s.yard y).dlq = []) (hG : s.grid g = some G)
    (hover : s.overflow G = some (w, d, hdr)) (hlt : d < w) (hmay : s.maySupply y g = true)
    (hk : s.ovfKey G (64 + 64 * (d % G.ovfRecords)) = some k) :
    EndsIn (refill y g name) s (fun _ t =>
      (t.yard y).dlq = [⟨s.mem.readBytes k 64, G.asid, g⟩] ∧ t.mem = s.mem.writeBytes (hdr + 8) (leBytes 8 (d + 1)) ∧
      ∀ z ∈ t.waitingAreas, z ≠ g → (t.yard y).passedOf z = (s.yard y).passedOf z + 1) := by
  refine endsIn_getS_bind (endsIn_requireSome_bind hG (endsIn_requireSome_bind hover (endsIn_require_bind ?_ ?_)))
  · simp [hlt, hmay, hdlq]
  refine endsIn_requireSome_bind hk (EndsIn.bind (endsIn_modifyYard (EndsIn.bind (endsIn_store (endsIn_getS_bind ?_)))))
  refine EndsIn.bind (endsIn_modifyYard ?_)
  have filled : ∀ t : State, t.yard y = Yard.pass { s.yard y with dlq := (s.yard y).dlq ++ [⟨s.mem.readBytes k 64, G.asid, g⟩] } g
      ({ s with mem := s.mem.writeBytes (hdr + 8) (leBytes 8 (d + 1)) } : State).waitingAreas →
      t.mem = s.mem.writeBytes (hdr + 8) (leBytes 8 (d + 1)) → t.dev.spaces = s.dev.spaces → (∀ g ∈ t.dev.grids, g ∈ s.dev.grids) →
      (t.yard y).dlq = [⟨s.mem.readBytes k 64, G.asid, g⟩] ∧ t.mem = s.mem.writeBytes (hdr + 8) (leBytes 8 (d + 1)) ∧
      ∀ z ∈ t.waitingAreas, z ≠ g → (t.yard y).passedOf z = (s.yard y).passedOf z + 1 := by
    intro t hyard hmem hspaces hgrids
    refine ⟨?_, hmem, fun z hz hne => ?_⟩
    · rw [hyard]
      simp [Yard.pass, hdlq]
    · rw [hyard]
      exact passedOf_pass (waitingAreas_mono (s := { s with mem := s.mem.writeBytes (hdr + 8) (leBytes 8 (d + 1)) }) hmem hspaces
        hgrids z hz) hne
  split
  · refine endsIn_modifyDev (filled _ ?_ rfl rfl fun x hx => (List.mem_filter.mp hx).1)
    simp only [State.yard, assocGet_assocSet, if_pos]
    rfl
  · refine endsIn_pure (filled _ ?_ rfl rfl fun x hx => hx)
    simp only [State.yard, assocGet_assocSet, if_pos]
    rfl

theorem deviceQueueAdmit_refills {s : State} {y g w d hdr k : Nat} {G : Grid} (hdlq : (s.yard y).dlq = []) (hG : s.grid g = some G)
    (hover : s.overflow G = some (w, d, hdr)) (hlt : d < w) (hmay : s.maySupply y g = true)
    (hk : s.ovfKey G (64 + 64 * (d % G.ovfRecords)) = some k) : Reaches (.deviceQueueAdmit y (some g) []) s (fun t =>
      (t.yard y).dlq = [⟨s.mem.readBytes k 64, G.asid, g⟩] ∧ t.mem = s.mem.writeBytes (hdr + 8) (leBytes 8 (d + 1)) ∧
      ∀ z ∈ t.waitingAreas, z ≠ g → (t.yard y).passedOf z = (s.yard y).passedOf z + 1) := by
  refine EndsIn.reaches (s := s) rfl (endsIn_getS_bind ?_)
  rw [hdlq]
  exact endsIn_require_bind rfl (refill_fills hdlq hG hover hlt hmay hk)

end Sys2Proof.Machine
end

section
/-! PROOFS. Teams change, and strands enter slots. -/
namespace Sys2Proof.Machine

/-! ### A team's record -/

theorem team_tid {s : State} {tid : Nat} {T : Team} (h : s.team tid = some T) : T.tid = tid := by
  simpa using List.find?_some h

/-- A team changed with its number kept is found changed. -/
theorem find?_map_team {teams : List Team} {tid : Nat} {T : Team} {f : Team → Team} (hf : ∀ t, t.tid = tid → (f t).tid = tid)
    (hT : teams.find? (fun t => t.tid == tid) = some T) :
    (teams.map (fun t => if t.tid = tid then f t else t)).find? (fun t => t.tid == tid) = some (f T) := by
  have htid : T.tid = tid := by simpa using List.find?_some hT
  rw [find_map_keyed Team.tid (fun t => if t.tid = tid then f t else t) (fun t => ?_), hT, Option.map_some, if_pos htid]
  split
  next h => rw [hf t h, h]
  next => rfl

/-- The state with one team changed. -/
def State.withTeam (s : State) (tid : Nat) (f : Team → Team) : State :=
  { s with dev := { s.dev with teams := s.dev.teams.map (fun t => if t.tid = tid then f t else t) } }

theorem endsIn_modifyTeam {tid : Nat} {f : Team → Team} {s : State} {Q : Unit → State → Prop} (h : Q () (s.withTeam tid f)) :
    EndsIn (modifyTeam tid f) s Q := endsIn_modifyDev h

theorem team_withTeam {s : State} {tid : Nat} {T : Team} {f : Team → Team} (hf : ∀ t, t.tid = tid → (f t).tid = tid)
    (hT : s.team tid = some T) : (s.withTeam tid f).team tid = some (f T) := find?_map_team hf hT

/-! ### Strands enter slots -/

theorem at?_of_me {s : State} {x : Strand} (hme : s.me = x) (hrun : x.run ≠ .empty) : s.at? x.pos = some x := by
  simp [State.at?, State.strands, hme, hrun]

/-- A strand enters its slot; what stands in other slots, and the devices, stay. -/
theorem addStrand_at (x : Strand) (hrun : x.run ≠ .empty) (s : State) : EndsIn (addStrand x) s (fun _ t =>
    t.dev = s.dev ∧ t.at? x.pos = some x ∧ ∀ p, p ≠ x.pos → t.at? p = s.at? p) := by
  refine endsIn_getS_bind ?_
  split
  next hme =>
    refine endsIn_emit ⟨rfl, at?_of_me rfl hrun, fun p hp => ?_⟩
    have hx : (x.pos == p) = false := beq_false_of_ne hp.symm
    simp [applyEff, State.at?, State.strands, hme, hx]
  next hme =>
    refine endsIn_emit ⟨rfl, ?_, fun p hp => ?_⟩
    · have hnone : (s.others.filter (fun t => t.pos != x.pos)).find? (fun t => t.pos == x.pos && t.run != .empty) = none := by
        rw [List.find?_eq_none]
        intro t ht
        have hpos : t.pos ≠ x.pos := by simpa using (List.mem_filter.mp ht).2
        simp [hpos]
      simp [applyEff, State.at?, State.strands, hme, hrun, List.find?_append, hnone]
    · have hx : (x.pos == p) = false := beq_false_of_ne hp.symm
      have hsame : (s.others.filter (fun t => t.pos != x.pos)).find? (fun t => t.pos == p && t.run != .empty) =
          s.others.find? (fun t => t.pos == p && t.run != .empty) := by
        rw [List.find?_filter]
        congr 1
        funext t
        by_cases ht : t.pos = p
        · rw [Bool.eq_iff_iff]
          simp [ht, hp]
        · simp [ht]
      simp [applyEff, State.at?, State.strands, hx, List.find?_append, hsame, List.find?_cons]

/-- Strands that enter slots of their own all stand there. -/
theorem addStrands_at {f : Nat → Strand} {l : List Nat} (hrun : ∀ i, (f i).run ≠ .empty)
    (hl : l.Pairwise (fun i j => (f i).pos ≠ (f j).pos)) (s : State) : EndsIn (forAll l (fun i => addStrand (f i))) s (fun _ t =>
      t.dev = s.dev ∧ (∀ i ∈ l, t.at? (f i).pos = some (f i)) ∧ ∀ p, (∀ i ∈ l, p ≠ (f i).pos) → t.at? p = s.at? p) := by
  induction l generalizing s with
  | nil => exact endsIn_pure ⟨rfl, fun i hi => absurd hi List.not_mem_nil, fun _ _ => rfl⟩
  | cons i l ih =>
    obtain ⟨hi, hl⟩ := List.pairwise_cons.mp hl
    refine EndsIn.bind ((addStrand_at (f i) (hrun i) s).mono fun _ t ⟨hdev, hat, hother⟩ => ?_)
    refine (ih hl t).mono fun _ u ⟨hdev', hats, hothers⟩ => ⟨hdev'.trans hdev, fun j hj => ?_, fun p hp => ?_⟩
    · rcases List.mem_cons.mp hj with rfl | hj
      · exact (hothers _ fun k hk => hi k hk).trans hat
      · exact hats j hj
    · rw [hothers p fun j hj => hp j (List.mem_cons_of_mem _ hj)]
      exact hother p (hp i List.mem_cons_self)

end Sys2Proof.Machine
end

section
/-! PROOFS. A team takes its place at a yard (R86, R397, R404). -/
namespace Sys2Proof.Machine

/-! ### The first team in the scheduler's order (R397) -/

theorem bestBy_mem {α : Type} {better : α → α → Bool} {l : List α} {a : α} (h : bestBy better l = some a) : a ∈ l := by
  induction l generalizing a with
  | nil => simp [bestBy] at h
  | cons b l ih =>
    unfold bestBy at h
    split at h
    · exact List.mem_cons.mpr (.inl (Option.some.inj h).symm)
    · next c hc =>
      split at h
      · exact List.mem_cons_of_mem _ (ih (hc.trans h))
      · exact List.mem_cons.mpr (.inl (Option.some.inj h).symm)

theorem nextPlacement_fits {s : State} {y : Nat} {T : Team} {G : Grid} (h : s.nextPlacement y = some (T, G)) :
    T ∈ s.dev.teams ∧ s.fits y T G = true := by
  obtain ⟨hmem, hfits⟩ := List.mem_filter.mp (bestBy_mem h)
  have hpending : (T, G) ∈ s.pendingTeams := by
    split at hmem
    · exact (List.mem_filter.mp hmem).1
    · exact hmem
  obtain ⟨u, hu, he⟩ := List.mem_filterMap.mp hpending
  split at he
  · obtain ⟨g, -, hg⟩ := Option.map_eq_some_iff.mp he
    obtain ⟨rfl, -⟩ := Prod.mk.injEq _ _ _ _ ▸ hg
    exact ⟨hu, hfits⟩
  · cases he

/-! ### Cores and slots (R397) -/

theorem freeCores_nodup (s : State) (y : Nat) : (s.freeCores y).Nodup := List.nodup_range.filter _

/-- A pair of cores for each of several numbers are different cores. -/
theorem nodup_corePairs {l : List Nat} (h : l.Nodup) : (l.flatMap (fun j => [2 * j, 2 * j + 1])).Nodup := by
  rw [List.nodup_flatMap]
  refine ⟨fun j _ => by simp, h.imp fun {i j} hij => ?_⟩
  simp only [Function.onFun, List.disjoint_left, List.mem_cons, List.not_mem_nil, or_false]
  omega

theorem length_corePairs (l : List Nat) : (l.flatMap (fun j => [2 * j, 2 * j + 1])).length = 2 * l.length := by
  induction l with
  | nil => rfl
  | cons j l ih =>
    simp only [List.flatMap_cons, List.length_append, List.length_cons, List.length_nil, ih]
    omega

/-- The cores of a placed team are different, one for each eight strands, or two for a paired grid. -/
theorem pickCores_spec {s : State} {y : Nat} {G : Grid} {cs : List Nat} (h : s.pickCores y G = some cs) :
    cs.Nodup ∧ cs.length = if G.paired then 2 * ((G.strands + 7) / 8) else (G.strands + 7) / 8 := by
  unfold State.pickCores at h
  dsimp only at h
  by_cases hp : G.paired = true
  · rw [if_pos hp] at h ⊢
    split at h
    next hlen =>
      obtain rfl := Option.some.inj h
      exact ⟨nodup_corePairs ((List.nodup_range.filter _).sublist (List.take_sublist _ _)), by rw [length_corePairs, hlen]⟩
    next => cases h
  · rw [if_neg hp] at h ⊢
    split at h
    next hlen =>
      obtain rfl := Option.some.inj h
      exact ⟨(freeCores_nodup s y).sublist (List.take_sublist _ _), by rw [List.length_take, Nat.min_eq_left hlen]⟩
    next => cases h

/-- Strands of a team have slots of their own. -/
theorem slotOf_inj {s : State} {y : Nat} {G : Grid} {U : Team} (h : s.pickCores y G = some U.cores) {i j : Nat} (hi : i < G.strands)
    (hj : j < G.strands) (he : U.slotOf G.paired i = U.slotOf G.paired j) : i = j := by
  obtain ⟨hnodup, hlen⟩ := pickCores_spec h
  have get : ∀ a b, a < U.cores.length → b < U.cores.length → U.cores.getD a 0 = U.cores.getD b 0 → a = b := by
    intro a b ha hb hab
    rw [List.getD_eq_getElem _ _ ha, List.getD_eq_getElem _ _ hb] at hab
    exact (List.Nodup.getElem_inj_iff hnodup).mp hab
  simp only [Team.slotOf, Pos.mk.injEq, true_and] at he
  obtain ⟨hcore, hslot⟩ := he
  by_cases hp : G.paired = true
  · rw [if_pos hp] at hlen
    rw [if_pos hp, if_pos hp] at hcore
    have := get _ _ (by omega) (by omega) hcore
    omega
  · rw [if_neg hp] at hlen
    rw [if_neg hp, if_neg hp] at hcore
    have := get _ _ (by omega) (by omega) hcore
    omega

/-! ### What leaves teams and address spaces alone -/

/-- The teams and the address spaces are as given. -/
structure Rolls (teams : List Team) (spaces : List Space) (t : State) : Prop where
  teams : t.dev.teams = teams
  spaces : t.dev.spaces = spaces

section
variable {teams : List Team} {spaces : List Space}

theorem keeps_rolls_dev {f : Dev → Dev} (ht : ∀ d, (f d).teams = d.teams := by exact fun _ => rfl)
    (hs : ∀ d, (f d).spaces = d.spaces := by exact fun _ => rfl) : Keeps (Rolls teams spaces) (modifyDev f) :=
  keeps_modifyDev fun _ h => ⟨(ht _).trans h.teams, (hs _).trans h.spaces⟩

theorem keeps_rolls_yard {y : Nat} {f : Yard → Yard} : Keeps (Rolls teams spaces) (modifyYard y f) :=
  keeps_modifyYard fun _ h => ⟨h.teams, h.spaces⟩

theorem keeps_rolls_mem {k : Nat} {bs : List Byte} : Keeps (Rolls teams spaces) (emit (.mem k bs)) :=
  keeps_emit fun _ h => ⟨h.teams, h.spaces⟩

theorem keeps_rolls_clearPoison (key n : Nat) : Keeps (Rolls teams spaces) (clearPoison key n) :=
  keeps_getS.bind fun _ => keeps_ite keeps_pure keeps_rolls_dev

theorem keeps_rolls_carryPoison (src dst n : Nat) : Keeps (Rolls teams spaces) (carryPoison src dst n) :=
  keeps_getS.bind fun _ => keeps_ite keeps_pure keeps_rolls_dev

theorem keeps_rolls_dropL1 (k : Nat × Bool × Nat) : Keeps (Rolls teams spaces) (dropL1 k) :=
  keeps_getS.bind fun _ => keeps_ite keeps_pure (keeps_modifyCore fun _ h => ⟨h.teams, h.spaces⟩)

theorem keeps_rolls_addStrand (x : Strand) : Keeps (Rolls teams spaces) (addStrand x) :=
  keeps_getS.bind fun _ => keeps_ite (keeps_emit fun _ h => ⟨h.teams, h.spaces⟩) (keeps_emit fun _ h => ⟨h.teams, h.spaces⟩)

end

/-! ### A team is placed -/

/-- A team has been placed at a yard, with the cores that the yard has for it. -/
structure Takes (s : State) (T : Team) (G : Grid) (y : Nat) (U : Team) (t : State) : Prop where
  team : t.team T.tid = some U
  where_ : U.where_ = .placed
  yidx : U.yidx = y
  cores : s.pickCores y G = some U.cores
  spaces : t.dev.spaces = s.dev.spaces

theorem Takes.of_rolls {s t u : State} {T U : Team} {G : Grid} {y : Nat} (h : Takes s T G y U t)
    (hu : Rolls t.dev.teams t.dev.spaces u) : Takes s T G y U u :=
  { h with team := (congrArg (List.find? _) hu.teams).trans h.team, spaces := hu.spaces.trans h.spaces }

theorem takeResources_takes {s : State} {T : Team} {G : Grid} {y : Nat} (hT : T ∈ s.dev.teams)
    (hfits : s.fits y T G = true) : EndsIn (takeResources T G y) s (fun U t => Takes s T G y U t) := by
  obtain ⟨V, hV⟩ : ∃ V, s.team T.tid = some V :=
    Option.isSome_iff_exists.mp (List.find?_isSome.mpr ⟨T, hT, beq_self_eq_true _⟩)
  obtain ⟨cs, hcs⟩ : ∃ cs, s.pickCores y G = some cs := by
    rw [← Option.isSome_iff_exists]
    simp only [State.fits, Bool.and_eq_true] at hfits
    exact hfits.1.1.1.1.2
  refine endsIn_getS_bind (EndsIn.bind (endsIn_modifyYard (EndsIn.bind (endsIn_modifyTeam ?_))))
  have rest : ∀ (v : State) (U : Team), Takes s T G y U v → EndsIn (do
      sendMirror U
      modifyYard y (fun Y => (Y.invalidate G.tenant false).invalidate G.tenant true)
      forAll ((s.pickCores y G).getD []) (fun c => dropL1 (y, false, c))
      return U) v (fun U t => Takes s T G y U t) := by
    intro v U hv
    refine EndsIn.bind (((keeps_getS.bind fun _ => keeps_rolls_dev) v ⟨rfl, rfl⟩).mono fun _ w hw => ?_)
    refine EndsIn.bind ((keeps_rolls_yard w hw).mono fun _ w hw => ?_)
    refine EndsIn.bind ((keeps_forAll (fun c _ => keeps_rolls_dropL1 _) w hw).mono fun _ w hw => ?_)
    exact endsIn_pure (hv.of_rolls hw)
  exact rest _ _ ⟨team_withTeam (fun _ _ => rfl) hV, rfl, rfl, by rw [hcs]; rfl, rfl⟩

theorem entryStrand_congr {s t : State} (hs : t.dev.spaces = s.dev.spaces) (U : Team) (G : Grid) (i : Nat) (entry arg : Word) :
    t.entryStrand U G i entry arg = s.entryStrand U G i entry arg := by
  simp only [State.entryStrand, State.spaceOf, State.space, hs]

/-- The strands of a team that has never been placed start in their entry state (R86). -/
theorem startTeam_starts {s : State} {T : Team} {G : Grid} {y : Nat} (hT : T ∈ s.dev.teams) (hfits : s.fits y T G = true) :
    EndsIn (startTeam T G y) s (fun _ t => ∃ U, Takes s T G y U t ∧
      ∀ i, i < G.strands → t.at? (U.slotOf G.paired i) = some (s.entryStrand U G i G.entry G.params)) := by
  refine EndsIn.bind ((takeResources_takes hT hfits).mono fun U t ht => ?_)
  have clears : Keeps (Rolls t.dev.teams t.dev.spaces) (forAll U.granules (fun k => do
      clearPoison (yardKey y (k * 4096)) 4096
      emit (.mem (yardKey y (k * 4096)) (List.replicate 4096 0)))) :=
    keeps_forAll fun _ _ => (keeps_rolls_clearPoison _ _).bind fun _ => keeps_rolls_mem
  refine EndsIn.bind ((clears t ⟨rfl, rfl⟩).mono fun _ u hu => endsIn_getS_bind ?_)
  have hpair : (List.range G.strands).Pairwise (fun i j =>
      (u.entryStrand U G i G.entry G.params).pos ≠ (u.entryStrand U G j G.entry G.params).pos) := by
    refine List.Pairwise.imp_of_mem (fun {i j} hi hj hij he => hij ?_) List.nodup_range
    exact slotOf_inj ht.cores (List.mem_range.mp hi) (List.mem_range.mp hj) he
  refine (addStrands_at (fun i => by simp [State.entryStrand]) hpair u).mono fun _ v ⟨hdev, hats, _⟩ => ⟨U, ?_, fun i hi => ?_⟩
  · exact ht.of_rolls ⟨hdev ▸ hu.teams, hdev ▸ hu.spaces⟩
  · rw [← entryStrand_congr (hu.spaces.trans ht.spaces)]
    exact hats i (List.mem_range.mpr hi)

theorem poisoned_none {s : State} (h : s.dev.poison = []) (segs : List (Nat × Nat)) : s.poisoned segs = false := by
  simp [State.poisoned, h]

/-- A saved team whose save area holds no poison takes its place again (R404). -/
theorem restoreTeam_takes {s : State} {T : Team} {G : Grid} {v : SavedTeam} {y : Nat} (hT : T ∈ s.dev.teams)
    (hfits : s.fits y T G = true) (hpoison : s.dev.poison = []) :
    EndsIn (restoreTeam T G v y) s (fun _ t => ∃ U, Takes s T G y U t) := by
  have hbad : (G.tableParts v.strands v.granary).any (fun p => (List.range (p.2 / 64)).any (fun i =>
      (s.areaKey T (p.1 + 64 * i)).any (fun k => s.poisoned [(k, 64)]))) = false := by
    simp only [List.any_eq_false, Bool.not_eq_true]
    intro p _ i _
    cases s.areaKey T (p.1 + 64 * i) <;> simp [poisoned_none hpoison]
  refine endsIn_getS_bind ?_
  dsimp only
  rw [hbad]
  refine EndsIn.bind ((takeResources_takes hT hfits).mono fun U t ht => ?_)
  have keeps : ∀ {p : Act Unit}, Keeps (Rolls t.dev.teams t.dev.spaces) p → EndsIn p t (fun _ t => ∃ U, Takes s T G y U t) :=
    fun hp => (hp t ⟨rfl, rfl⟩).mono fun _ _ hu => ⟨U, ht.of_rolls hu⟩
  refine keeps ?_
  refine (keeps_forAll fun _ _ => (keeps_rolls_clearPoison _ _).bind fun _ => keeps_rolls_mem).bind fun _ => ?_
  refine Keeps.bind (keeps_forAll fun e _ => ?_) fun _ => ?_
  · split
    · exact keeps_rolls_carryPoison _ _ _
    · exact keeps_pure
  refine keeps_getS.bind fun _ => keeps_rolls_yard.bind fun _ => Keeps.bind keeps_rolls_dev fun _ => ?_
  refine Keeps.bind (keeps_forAll fun x _ => ?_) fun _ => keeps_pure
  have notes : Keeps (Rolls t.dev.teams t.dev.spaces) (if (x.restored U G).run = .parkedTrap false then
      modifyYard y (fun Y => { Y with notes := Y.notes ++ [(x.restored U G).pos] }) else pure ()) :=
    keeps_ite keeps_rolls_yard keeps_pure
  exact (keeps_rolls_addStrand _).bind fun _ => keeps_ite (keeps_rolls_yard.bind fun _ => notes) notes

theorem teamPlacement_places {s : State} {y : Nat} {T : Team} {G : Grid} (hnext : s.nextPlacement y = some (T, G))
    (hfirst : ∀ z, z < y → s.nextPlacement z = none) (hsaved : s.savedTeam T.tid = none ∨ s.dev.poison = []) :
    Reaches (.teamPlacement y) s (fun t => ∃ U, Takes s T G y U t ∧ (s.savedTeam T.tid = none → ∀ i, i < G.strands →
      t.at? (U.slotOf G.paired i) = some (s.entryStrand U G i G.entry G.params))) := by
  obtain ⟨hT, hfits⟩ := nextPlacement_fits hnext
  refine EndsIn.reaches (s := s) rfl (endsIn_getS_bind (endsIn_requireSome_bind hnext (endsIn_require_bind ?_ (endsIn_getS_bind ?_))))
  · simpa using hfirst
  cases hv : s.savedTeam T.tid with
  | none => exact (startTeam_starts hT hfits).mono fun _ t ⟨U, hU, hat⟩ => ⟨U, hU, fun _ => hat⟩
  | some v =>
    have hpoison : s.dev.poison = [] := hsaved.resolve_left (by simp [hv])
    exact (restoreTeam_takes hT hfits hpoison).mono fun _ t ⟨U, hU⟩ => ⟨U, hU, fun h => absurd h (by simp)⟩

end Sys2Proof.Machine
end

section
/-! PROOFS. Teams that wait age, and teams whose time is up leave (R322, R398, R399). -/
namespace Sys2Proof.Machine

variable {s : State} {tid : Nat} {T : Team} (hT : s.team tid = some T)
include hT

/-- A waiting team gains levels at a yard (R398). -/
theorem priorityAging_gains {y : Nat} (hpending : T.isPending = true) (hy : s.isYard y = true)
    (hgain : T.gain y < T.gainBy ((s.yard y).regs.quantum.toNat % 2 ^ 32) s.cycle) :
    Reaches (.priorityAging y tid) s (fun t => t.mem = s.mem ∧ (t.team tid).map (fun U => U.gain y) =
      some (T.gainBy ((s.yard y).regs.quantum.toNat % 2 ^ 32) s.cycle)) := by
  refine EndsIn.reaches (s := s) rfl (endsIn_getS_bind (endsIn_requireSome_bind hT (endsIn_require_bind ?_ (endsIn_modifyTeam ⟨rfl, ?_⟩))))
  · rw [hpending, hy, decide_eq_true hgain]
    rfl
  · rw [team_withTeam ?_ hT]
    · simp [Team.gain, assocGet_assocSet]
    · exact fun _ ht => ht

/-- A swap-out that is requested gives the team the cycles of K.SAFEWAIT (R402 step 1). -/
theorem startSwap_leaves : EndsIn (startSwap tid) s (fun _ t => t.mem = s.mem ∧ (t.team tid).map (fun U => U.where_) =
    some (.leaving (s.cycle + (s.yard T.yidx).regs.safewait.toNat % 2 ^ 32))) := by
  refine endsIn_getS_bind (EndsIn.bind (endsIn_modifyTeam ?_))
  refine keeps_forAll (I := fun t => t.mem = s.mem ∧ (t.team tid).map (fun U => U.where_) =
    some (.leaving (s.cycle + (s.yard T.yidx).regs.safewait.toNat % 2 ^ 32))) (fun x _ => ?_) _ ⟨rfl, ?_⟩
  · exact keeps_getS.bind fun _ => keeps_ite (keeps_emit fun _ h => h) (keeps_emit fun _ h => h)
  · rw [team_withTeam ?_ hT]
    · rfl
    · exact fun _ ht => ht

/-- A quantum that expires (R399): the team leaves where another is to have its place, and has another quantum where none is. -/
theorem quantumExpiry_ends {due : Nat} (hplaced : T.where_ = .placed) (hdelivered : s.delivered tid = false) (hq : T.quantumAt = some due)
    (hdue : due ≤ s.cycle) : let q := (s.yard T.yidx).regs.quantum.toNat % 2 ^ 32
    (s.yieldsTo T = true → Reaches (.quantumExpiry tid) s (fun t => t.mem = s.mem ∧ (t.team tid).map (fun U => U.where_) =
      some (.leaving (s.cycle + (s.yard T.yidx).regs.safewait.toNat % 2 ^ 32)))) ∧
    (s.yieldsTo T = false → Reaches (.quantumExpiry tid) s (fun t => t.mem = s.mem ∧
      (t.team tid).map (fun U => (U.where_, U.quantumAt)) = some (.placed, if q = 0 then none else some (s.cycle + q)))) := by
  intro q
  have reaches : ∀ {P : State → Prop}, EndsIn (if s.yieldsTo T then startSwap tid else
      modifyTeam tid (fun t => { t with quantumAt := if q = 0 then none else some (s.cycle + q) })) s (fun _ => P) →
      Reaches (.quantumExpiry tid) s P := by
    intro P h
    refine EndsIn.reaches (s := s) rfl (endsIn_getS_bind (endsIn_requireSome_bind hT (endsIn_requireSome_bind hq
      (endsIn_require_bind ?_ h))))
    simp [hplaced, hdue, hdelivered]
  refine ⟨fun hy => reaches ?_, fun hn => reaches ?_⟩
  · rw [if_pos hy]
    exact startSwap_leaves hT
  · rw [hn]
    refine endsIn_modifyTeam ⟨rfl, ?_⟩
    rw [team_withTeam ?_ hT, Option.map_some, hplaced]
    exact fun _ ht => ht

/-- A strand that has waited too long sends its team away where another would take its place (R322, R399). -/
theorem parkExpiry_leaves {p : Pos} {x : Strand} {w : Wait} {due : Nat} (hplaced : T.where_ = .placed)
    (hdelivered : s.delivered tid = false) (hx : s.at? p = some x) (htid : x.tid = tid) (hw : x.wait = some w)
    (hkind : w.kind = .cwait ∨ w.kind = .swait) (hpark : w.parkAt = some due) (hdue : due < s.cycle)
    (hother : ∃ e ∈ s.pendingTeams, (s.without tid).fits T.yidx e.1 e.2 = true) :
    Reaches (.parkExpiry p) s (fun t => t.mem = s.mem ∧ (t.team tid).map (fun U => U.where_) =
      some (.leaving (s.cycle + (s.yard T.yidx).regs.safewait.toNat % 2 ^ 32))) := by
  subst htid
  refine EndsIn.reaches (s := s) rfl (endsIn_getS_bind (endsIn_requireSome_bind hx (endsIn_requireSome_bind hw
    (endsIn_requireSome_bind hpark (endsIn_requireSome_bind hT (endsIn_require_bind ?_ (startSwap_leaves hT)))))))
  have hany : s.pendingTeams.any (fun e => (s.without x.tid).fits T.yidx e.1 e.2) = true := List.any_eq_true.mpr hother
  simp [hkind, hdue, hplaced, hdelivered, hany]

end Sys2Proof.Machine
end

section
/-! PROOFS. Bytes written where no page table is (R306, R345, R347). -/
namespace Sys2Proof.Machine

/-! ### Bytes that a write leaves alone -/

/-- A write leaves every other byte alone, whatever form memory has. -/
theorem read_write_of_ne {m : Memory} {a k : Nat} {b : Byte} (h : a ≠ k) : (m.write a b).read k = m.read k := by
  induction m with
  | nil =>
    unfold Memory.write
    split
    · rfl
    · simp [Memory.read, h]
  | cons c m ih =>
    obtain ⟨j, x⟩ := c
    simp only [Memory.write]
    split
    · split
      · rfl
      · simp [Memory.read, h]
    · split
      next he =>
        subst he
        split <;> simp [Memory.read, h]
      next => simp only [Memory.read, ih]

theorem read_writeBytes_of_outside {m : Memory} {a k : Nat} {bs : List Byte} (h : k < a ∨ a + bs.length ≤ k) :
    (m.writeBytes a bs).read k = m.read k := by
  induction bs generalizing m a with
  | nil => rfl
  | cons b bs ih =>
    simp only [List.length_cons] at h
    exact (ih (by omega)).trans (read_write_of_ne (by omega))

/-! ### What a walk reads -/

/-- Walks read device DRAM alone. -/
theorem walkFrom_congr {m m' : Memory} (h : ∀ k, k < 2 ^ 60 → m.read k = m'.read k) (asid : BitVec 16) (va fuel level table : Nat) :
    walkFrom m asid va fuel level table = walkFrom m' asid va fuel level table := by
  induction fuel generalizing level table with
  | zero => rfl
  | succ fuel ih =>
    simp only [walkFrom]
    split
    · rfl
    next hat =>
      rw [readBytes_congr fun i hi => h _ (by simp only [dramEnd] at hat; omega), ih]

/-- Two states have the same teams, transfers, regions and translations. -/
structure SameHolds (s t : State) : Prop where
  teams : t.dev.teams = s.dev.teams
  spaces : t.dev.spaces = s.dev.spaces
  engines : t.dev.engines = s.dev.engines
  yards : t.yards = s.yards
  low : ∀ k, k < 2 ^ 60 → t.mem.read k = s.mem.read k

/-- What holds an access back is the same there (R234, R306). -/
theorem SameHolds.keyHeld {s t : State} (h : SameHolds s t) (key n : Nat) : t.keyHeld key n = s.keyHeld key n := by
  have hwalk : ∀ asid va, t.walk asid va = s.walk asid va := fun asid va => by
    simp only [State.walk, State.space, h.spaces, walkFrom_congr h.low]
  have hwindow : ∀ tid off, t.windowKey tid off = s.windowKey tid off := fun tid off => by
    simp only [State.windowKey, State.team, h.teams]
  have hallot : ∀ tid, t.allotment tid = s.allotment tid := fun tid => by
    simp only [State.allotment, State.team, h.teams]
  have hpage : ∀ asid va, t.devicePage asid va = s.devicePage asid va := fun asid va => by
    simp only [State.devicePage, hwalk]
  have hrange : ∀ asid tid va, t.rangeKey asid tid va = s.rangeKey asid tid va := fun asid tid va => by
    simp only [State.rangeKey, hallot, hpage, hwindow, h.engines, h.yards]
  simp only [State.keyHeld, State.engineLocked, State.locks, State.runsHit, State.skewBusyKey, hrange, hwindow, h.engines, h.yards]

/-- A write to yard memory holds nothing back and lets nothing go. -/
theorem sameHolds_write {s t : State} {key : Nat} {bs : List Byte} (hkey : isYardMem key = true)
    (hmem : t.mem = s.mem.writeBytes key bs) (hteams : t.dev.teams = s.dev.teams) (hspaces : t.dev.spaces = s.dev.spaces)
    (hengines : t.dev.engines = s.dev.engines) (hyards : t.yards = s.yards) : SameHolds s t where
  teams := hteams
  spaces := hspaces
  engines := hengines
  yards := hyards
  low k hk := by
    simp only [isYardMem, Bool.and_eq_true, decide_eq_true_eq] at hkey
    rw [hmem]
    exact read_writeBytes_of_outside (.inl (by omega))

end Sys2Proof.Machine
end

section
/-! PROOFS. A program on the strand of a slot. -/
namespace Sys2Proof.Machine

theorem State.Seats.run {s : State} {p : Pos} {x : Strand} (h : s.Seats p x) : x.run ≠ .empty := by
  have hx := List.find?_some h.here
  simp only [Bool.and_eq_true, bne_iff_ne] at hx
  exact hx.2

theorem State.Seats.pos {s : State} {p : Pos} {x : Strand} (h : s.Seats p x) : x.pos = p := by
  have hx := List.find?_some h.here
  simp only [Bool.and_eq_true, beq_iff_eq] at hx
  exact hx.1

/-- The strand of a slot stands in the focus once the focus is there. -/
theorem State.Seats.focus {s : State} {p : Pos} {x : Strand} (h : s.Seats p x) : (s.focusOn p).me = x := by
  have hmem : x ∈ s.strands := List.mem_of_find?_eq_some h.here
  have hapart : ∀ y ∈ s.strands, y.pos = p → y = x := fun y hy hp =>
    List.inj_on_of_nodup_map h.alone hy hmem (hp.trans h.pos.symm)
  unfold State.focusOn
  split
  next hme => exact hapart s.me List.mem_cons_self hme
  next hme =>
    have hother : x ∈ s.others := (List.mem_cons.mp hmem).resolve_left fun e => hme (e ▸ h.pos)
    split
    next hnone => exact absurd (List.find?_eq_none.mp hnone x hother) (by simp [h.pos])
    next y hy =>
      have hpos : y.pos = p := by simpa using List.find?_some hy
      exact hapart y (List.mem_cons_of_mem _ (List.mem_of_find?_eq_some hy)) hpos

/-- Beside a slot in the focus no other strand has that slot. -/
theorem State.Seats.focus_others {s : State} {p : Pos} {x : Strand} (h : s.Seats p x) : ∀ y ∈ (s.focusOn p).others, y.pos ≠ p := by
  have hme := h.focus
  unfold State.focusOn at hme ⊢
  split at hme
  next hp =>
    rw [if_pos hp]
    intro y hy he
    exact (List.nodup_cons.mp h.alone).1 (List.mem_map.mpr ⟨y, hy, he.trans hp.symm⟩)
  next hp =>
    rw [if_neg hp]
    split
    next hnone =>
      intro y hy he
      exact List.find?_eq_none.mp hnone y hy (beq_iff_eq.mpr he)
    next z hz =>
      dsimp only
      split
      · intro y hy
        simpa using (List.mem_filter.mp hy).2
      · intro y hy
        obtain ⟨u, -, rfl⟩ := List.mem_map.mp hy
        split
        · exact hp
        · assumption

/-- A strand is found in its slot when the focus has gone elsewhere. -/
theorem at?_focusOn {v : State} {p back : Pos} (hpos : v.me.pos = p) (hrun : v.me.run ≠ .empty) (hothers : ∀ y ∈ v.others, y.pos ≠ p) :
    (v.focusOn back).at? p = some v.me := by
  subst hpos
  unfold State.focusOn
  split
  next => exact at?_of_me rfl hrun
  next hback =>
    split
    next => exact at?_of_me rfl hrun
    next w hw =>
      have hwpos : w.pos = back := by simpa using List.find?_some hw
      have hwne : (w.pos == v.me.pos) = false := beq_false_of_ne (by rw [hwpos]; exact Ne.symm hback)
      simp only [State.at?, State.strands, List.find?_cons, hwne, Bool.false_and]
      have hex : ((v.others.map (fun u => if u.pos = back then v.me else u)).find? (fun t => t.pos == v.me.pos && t.run != .empty)).isSome := by
        rw [List.find?_isSome]
        exact ⟨v.me, List.mem_map.mpr ⟨w, List.mem_of_find?_eq_some hw, if_pos hwpos⟩, by simp [hrun]⟩
      obtain ⟨u, hu⟩ := Option.isSome_iff_exists.mp hex
      rw [hu]
      obtain ⟨z, hz, hzu⟩ := List.mem_map.mp (List.mem_of_find?_eq_some hu)
      split at hzu
      · rw [hzu]
      · have hpos := List.find?_some hu
        simp only [Bool.and_eq_true, beq_iff_eq] at hpos
        exact absurd hpos.1 (hzu ▸ hothers z hz)

/-- A program on the strand of a slot that leaves it in its slot, and the other strands as they are. -/
theorem onStrand_endsIn {s : State} {p : Pos} {x : Strand} {name : String} {a : Act Unit} {Q : State → Prop} (h : s.Seats p x)
    (ha : EndsIn a (s.focusOn p) (fun _ u => (u.others = (s.focusOn p).others ∧ u.me.pos = p ∧ u.me.run ≠ .empty) ∧ Q u)) :
    EndsIn (onStrand p name a) s (fun _ t => ∃ u, Q u ∧ t.at? p = some u.me ∧ t.mem = u.mem) := by
  refine endsIn_getS_bind (endsIn_require_bind (by rw [h.here]; rfl) (EndsIn.bind (endsIn_emit (EndsIn.bind ?_))))
  refine ha.mono fun _ u ⟨⟨hothers, hpos, hrun⟩, hu⟩ => endsIn_emit ⟨u, hu, ?_, (focusOn_rest u s.me.pos).1⟩
  exact at?_focusOn hpos hrun fun y hy => h.focus_others y (hothers ▸ hy)

end Sys2Proof.Machine
end

section
/-! PROOFS. What has not stopped when K.SAFEWAIT is over is stopped (R382, R402). -/
namespace Sys2Proof.Machine

/-! ### A hold of stores to yard memory takes effect (R382) -/

/-- The strand with the hold of its activation changed. -/
def Strand.rehold (x : Strand) (f : List HoldItem → List HoldItem) : Strand :=
  { x with act := x.act.map (fun a => { a with hold := f a.hold }) }

/-- The state with stores performed: of its strand the hold may be another, of the devices the poison. -/
def State.performed (s : State) (sts : List HeldStore) (f : List HoldItem → List HoldItem) (poison : List Nat) : State :=
  { s with
    me := s.me.rehold f
    mem := sts.foldl (fun m st => m.writeBytes st.key st.bytes) s.mem
    dev := { s.dev with poison := poison } }

theorem endsIn_clearPoison {key n : Nat} {s : State} {Q : Unit → State → Prop}
    (h : ∀ p, Q () { s with dev := { s.dev with poison := p } }) : EndsIn (clearPoison key n) s Q := by
  refine endsIn_getS_bind ?_
  dsimp only
  split
  · exact endsIn_pure (h s.dev.poison)
  · exact endsIn_modifyDev (h _)

theorem endsIn_keepOnWait {α : Type} {p : Act α} {s : State} {Q : α → State → Prop} (h : EndsIn p s Q) : EndsIn (keepOnWait p) s Q := by
  intro log
  obtain ⟨a, effs, hp, hq⟩ := h log
  refine ⟨a, effs, ?_, hq⟩
  unfold keepOnWait
  rw [hp]

/-- A held store to yard memory, where nothing holds it back. -/
def State.FreeStore (s : State) (st : HeldStore) : Prop :=
  st.rel = none ∧ isYardMem st.key = true ∧ s.keyHeld st.key st.bytes.length = false

/-- A store to yard memory that has been performed holds back none of the others. -/
theorem State.FreeStore.performed {s : State} {st st' : HeldStore} (h : s.FreeStore st) (h' : s.FreeStore st') (x : Strand) (p : List Nat) :
    ({ s with me := x, mem := s.mem.writeBytes st.key st.bytes, dev := { s.dev with poison := p } } : State).FreeStore st' := by
  obtain ⟨-, hkey, -⟩ := h
  obtain ⟨hrel, hkey', hheld⟩ := h'
  have same : SameHolds s { s with me := x, mem := s.mem.writeBytes st.key st.bytes, dev := { s.dev with poison := p } } :=
    sameHolds_write hkey rfl rfl rfl rfl rfl
  exact ⟨hrel, hkey', (same.keyHeld _ _).trans hheld⟩

/-- A held access to yard memory meets no tiles. -/
theorem heldWay_untiled {s : State} {st : HeldStore} (h : s.FreeStore st) (x : Strand) :
    EndsIn (heldWay x false st.va.toNat st.key st.bytes.length .w false) s (fun w t => w = .untiled ∧ t = s) := by
  obtain ⟨-, hkey, hheld⟩ := h
  have hdram : isDram st.key = false := by
    simp only [isYardMem, Bool.and_eq_true, decide_eq_true_eq] at hkey
    exact decide_eq_false (by simp only [dramEnd]; omega)
  refine EndsIn.after ?_ fun _ => ?_
  · refine endsIn_getS_bind ?_
    rw [if_neg (by simp [hheld])]
    exact endsIn_pure rfl
  · refine EndsIn.bind (endsIn_getS_bind ?_)
    rw [if_pos (by simp [placeSegs, hdram])]
    exact endsIn_pure (endsIn_pure ⟨rfl, rfl⟩)

theorem performHeld_store {s : State} {st : HeldStore} (h : s.FreeStore st) :
    EndsIn (performHeld (.store [st] false)) s (fun _ t => ∃ p,
      t = { s with mem := s.mem.writeBytes st.key st.bytes, dev := { s.dev with poison := p } }) := by
  obtain ⟨hrel, hkey, hheld⟩ := h
  have rest : EndsIn (do
      let ways ← keepOnWait (collect [st] (fun st => heldWay s.me false st.va.toNat st.key st.bytes.length .w false))
      forAll ([st].zip ways) (fun e => do
        let x ← getMe
        performMet (x.heldToucher e.1.nu e.1.nudef false) x.modes.asid e.1 x.fenceEpoch e.2
        if e.1.rel.isSome then endFence else pure ())) s (fun _ t => ∃ p,
      t = { s with mem := s.mem.writeBytes st.key st.bytes, dev := { s.dev with poison := p } }) := by
    refine EndsIn.bind (endsIn_keepOnWait (EndsIn.bind ((heldWay_untiled ⟨hrel, hkey, hheld⟩ s.me).mono fun w t ⟨hw, ht⟩ => ?_)))
    subst hw ht
    refine EndsIn.bind (endsIn_pure (endsIn_pure (EndsIn.bind (endsIn_getMe_bind (EndsIn.bind (endsIn_getS_bind ?_))))))
    unfold performStore
    rw [if_pos hkey]
    refine EndsIn.bind (endsIn_clearPoison fun p => endsIn_store ?_)
    rw [hrel]
    exact endsIn_pure (endsIn_pure ⟨p, rfl⟩)
  refine endsIn_getMe_bind ?_
  have hany : [st].any (fun st => st.rel.isSome) = false := by simp [hrel]
  dsimp only
  rw [hany]
  exact rest

theorem performHold_stores {s : State} {sts : List HeldStore} (h : ∀ st ∈ sts, s.FreeStore st) :
    EndsIn (performHold (sts.map fun st => .store [st] false)) s (fun _ t => ∃ f p, t = s.performed sts f p) := by
  induction sts generalizing s with
  | nil =>
    refine endsIn_pure ⟨id, s.dev.poison, ?_⟩
    have hme : s.me.rehold id = s.me := by
      unfold Strand.rehold
      cases hact : s.me.act <;> simp [← hact]
    rw [State.performed, hme]
    rfl
  | cons st sts ih =>
    refine EndsIn.bind ((performHeld_store (h st List.mem_cons_self)).mono fun _ t ⟨p, ht⟩ => ?_)
    subst ht
    refine EndsIn.bind (endsIn_modifyMe ((ih fun st' hst' => ?_).mono fun _ u ⟨f, q, hu⟩ => ?_))
    · exact (h st List.mem_cons_self).performed (h st' (List.mem_cons_of_mem _ hst')) _ p
    · refine ⟨fun l => f (l.erase (.store [st] false)), q, ?_⟩
      subst hu
      cases hact : s.me.act <;> simp [State.performed, Strand.rehold, hact]

/-- A hold of stores to yard memory is released: they are performed, and no message is sent (R382, R389). -/
theorem startRelease_stores {s : State} {a : Activation} {sts : List HeldStore} (hact : s.me.act = some a)
    (hhold : a.hold = sts.map fun st => .store [st] false) (h : ∀ st ∈ sts, s.FreeStore st) :
    EndsIn (startRelease a) s (fun _ t => t.others = s.others ∧ t.mem = sts.foldl (fun m st => m.writeBytes st.key st.bytes) s.mem ∧
      t.me = { s.me with
        sent := some 0
        answers := []
        act := some { a with released := true, releasing := true, hold := [], sentMsgs := [] } }) := by
  have hmsgs : a.messages = [] := by
    rw [Activation.messages, hhold, List.filterMap_map, List.filterMap_eq_nil_iff]
    exact fun _ _ => rfl
  refine EndsIn.bind (endsIn_modifyMe ?_)
  rw [hhold]
  have hfree : ∀ st ∈ sts, ({ s with me := { s.me with
      act := s.me.act.map (fun a => { a with released := true, releasing := true }) } } : State).FreeStore st := fun st hst =>
    ⟨(h st hst).1, (h st hst).2.1, (SameHolds.keyHeld ⟨rfl, rfl, rfl, rfl, fun _ _ => rfl⟩ _ _).trans (h st hst).2.2⟩
  refine EndsIn.bind ((performHold_stores hfree).mono fun _ t ⟨f, p, ht⟩ => ?_)
  subst ht
  rw [hmsgs]
  refine endsIn_getS_bind (EndsIn.bind (endsIn_modifyMe (endsIn_pure ⟨rfl, rfl, ?_⟩)))
  simp [State.performed, Strand.rehold, hact]

/-! ### A strand is stopped (R402 step 3) -/

theorem stopNow_stops {s : State} (hwindow : s.me.window = []) (hpair : s.me.pair = none) :
    EndsIn stopNow s (fun _ t => t = { s with me := { s.me with stopped := true } }) := by
  refine endsIn_getMe_bind (EndsIn.bind ?_)
  rw [hwindow]
  refine endsIn_getMe_bind (endsIn_pure (endsIn_modifyMe ?_))
  have hagree : s.me.mustAgree = false := by simp [Strand.mustAgree, hpair]
  rw [hagree]
  rfl

theorem forceStop_stops {s : State} (hwindow : s.me.window = []) (hpair : s.me.pair = none) (hact : s.me.act = none) :
    EndsIn forceStop s (fun _ t => t = { s with me := { s.me with stopped := true } }) := by
  refine endsIn_getMe_bind ?_
  have hholding : s.me.holding = false := by simp [Strand.holding, hact]
  rw [hholding]
  exact stopNow_stops hwindow hpair

/-- A strand that holds effects releases them and stops (R382, R402 step 3). -/
theorem forceStop_releases {s : State} {a : Activation} {Q : State → Prop} (hact : s.me.act = some a) (hmdone : a.mdone = false)
    (hpair : s.me.pair = none) (hsent : s.me.sent = none) (h : EndsIn (startRelease a) s (fun _ t => EndsIn stopNow t (fun _ => Q))) :
    EndsIn forceStop s (fun _ => Q) := by
  refine endsIn_getMe_bind ?_
  have hholding : s.me.holding = true := by simp [Strand.holding, hact, hmdone]
  have hagree : s.me.mustAgree = false := by simp [Strand.mustAgree, hpair]
  rw [hholding, hagree, hact, hsent]
  intro log
  obtain ⟨_, effs, hrun, hstop⟩ := h log
  obtain ⟨_, effs', hrun', hq⟩ := hstop (effs.reverse ++ log)
  refine ⟨(), effs ++ effs', ?_, ?_⟩
  · show (match startRelease a ⟨s, log⟩ with
      | .ok (_, r') => stopNow r'
      | .error (.suspend _ effs) => emitAll effs ⟨s, log⟩
      | .error e => .error e) = _
    rw [hrun]
    simpa [applyAll_append] using hrun'
  · rwa [applyAll_append]

/-! ### SAFEWAIT_EXPIRY (R402 steps 2 and 3) -/

section
variable {s : State} {tid d : Nat} {T : Team} {x : Strand} (hT : s.team tid = some T) (hwhere : T.where_ = .leaving d) (hd : d ≤ s.cycle)
  (hx : (s.teamStrands tid).filter (fun x => !x.stoppedForSwap && (!x.stopped || x.holdsOn)) = [x]) (hseat : s.Seats x.pos x)
  (hwindow : x.window = []) (hpair : x.pair = none)
include hT hwhere hd hx hseat

/-- The one strand that has not stopped is made to stop. -/
theorem safewaitExpiry_forces {Q : State → Prop}
    (h : EndsIn forceStop (s.focusOn x.pos) (fun _ u =>
      (u.others = (s.focusOn x.pos).others ∧ u.me.pos = x.pos ∧ u.me.run ≠ .empty) ∧ Q u)) :
    Reaches (.safewaitExpiry tid) s (fun t => ∃ u, Q u ∧ t.at? x.pos = some u.me ∧ t.mem = u.mem) := by
  refine EndsIn.reaches (s := s) rfl (endsIn_getS_bind (endsIn_requireSome_bind hT ?_))
  rw [hwhere]
  dsimp only
  rw [hx]
  refine endsIn_require_bind (by simp [hd]) (EndsIn.bind ((onStrand_endsIn hseat h).mono fun _ t ht => ?_))
  exact endsIn_pure ht

include hwindow hpair

/-- A strand with no activation just stops. -/
theorem safewaitExpiry_stops (hact : x.act = none) :
    Becomes (.safewaitExpiry tid) s x.pos (fun u _ => u = { x with stopped := true }) := by
  have hme : (s.focusOn x.pos).me = x := hseat.focus
  have h : EndsIn forceStop (s.focusOn x.pos) (fun _ u =>
      (u.others = (s.focusOn x.pos).others ∧ u.me.pos = x.pos ∧ u.me.run ≠ .empty) ∧
        u.me = { x with stopped := true } ∧ u.mem = s.mem) := by
    refine (forceStop_stops (by rw [hme, hwindow]) (by rw [hme, hpair]) (by rw [hme, hact])).mono fun _ u hu => ?_
    subst hu
    rw [hme]
    exact ⟨⟨rfl, rfl, hseat.run⟩, rfl, (focusOn_rest s _).1⟩
  obtain ⟨t, ht, u, ⟨hu, hmem⟩, hat, htm⟩ := safewaitExpiry_forces hT hwhere hd hx hseat h
  exact ⟨t, u.me, ht, hat, htm.trans hmem, hu⟩

/-- A strand that holds stores to yard memory releases them and stops. -/
theorem safewaitExpiry_releases {a : Activation} {sts : List HeldStore} (hact : x.act = some a) (hmdone : a.mdone = false)
    (hsent : x.sent = none) (hhold : a.hold = sts.map fun st => .store [st] false) (hfree : ∀ st ∈ sts, s.FreeStore st) :
    Reaches (.safewaitExpiry tid) s (fun t => t.mem = sts.foldl (fun m st => m.writeBytes st.key st.bytes) s.mem ∧
      ∃ u, t.at? x.pos = some u ∧ u.stopped = true ∧ u.arch = x.arch ∧
        u.act.map (fun b => (b.src, b.hold, b.released)) = some (a.src, [], true)) := by
  have hme : (s.focusOn x.pos).me = x := hseat.focus
  obtain ⟨hmem, hdev, hyards, -⟩ := focusOn_rest s x.pos
  have same : SameHolds s (s.focusOn x.pos) := ⟨by rw [hdev], by rw [hdev], by rw [hdev], hyards, fun _ _ => by rw [hmem]⟩
  have hfree' : ∀ st ∈ sts, (s.focusOn x.pos).FreeStore st := fun st hst =>
    ⟨(hfree st hst).1, (hfree st hst).2.1, (same.keyHeld _ _).trans (hfree st hst).2.2⟩
  have h : EndsIn forceStop (s.focusOn x.pos) (fun _ u => (u.others = (s.focusOn x.pos).others ∧ u.me.pos = x.pos ∧ u.me.run ≠ .empty) ∧
      (u.me.stopped = true ∧ u.me.arch = x.arch ∧ u.me.act.map (fun b => (b.src, b.hold, b.released)) = some (a.src, [], true)) ∧
        u.mem = sts.foldl (fun m st => m.writeBytes st.key st.bytes) s.mem) := by
    refine forceStop_releases (a := a) (by rw [hme, hact]) hmdone (by rw [hme, hpair]) (by rw [hme, hsent]) ?_
    refine (startRelease_stores (by rw [hme, hact]) hhold hfree').mono fun _ t ⟨hothers, htm, htme⟩ => ?_
    rw [hme] at htme
    refine (stopNow_stops (by rw [htme]; exact hwindow) (by rw [htme]; exact hpair)).mono fun _ u hu => ?_
    subst hu
    rw [htme]
    exact ⟨⟨hothers, rfl, hseat.run⟩, ⟨rfl, rfl, rfl⟩, by rw [← hmem]; exact htm⟩
  obtain ⟨t, ht, u, ⟨hu, hum⟩, hat, htm⟩ := safewaitExpiry_forces hT hwhere hd hx hseat h
  exact ⟨t, ht, htm.trans hum, u.me, hat, hu⟩

end

end Sys2Proof.Machine
end

section
/-! PROOFS. A team's save area is written where it is mapped, and nothing else is (R195, R401, R402). -/
namespace Sys2Proof.Machine

/-! ### Programs that fold -/

theorem endsIn_foldlM_same {α β : Type} {f : β → α → Act β} {b : β} {l : List α} {s : State}
    (h : ∀ a ∈ l, EndsIn (f b a) s (fun r t => r = b ∧ t = s)) : EndsIn (l.foldlM f b) s (fun r t => r = b ∧ t = s) := by
  induction l with
  | nil => exact endsIn_pure ⟨rfl, rfl⟩
  | cons a l ih =>
    rw [List.foldlM_cons]
    refine EndsIn.bind ((h a List.mem_cons_self).mono fun r t ⟨hr, ht⟩ => ?_)
    subst hr ht
    exact ih fun c hc => h c (List.mem_cons_of_mem _ hc)

/-! ### Addresses of one page (R347) -/

theorem levelBits_ge (level : Nat) : 12 ≤ levelBits level := by
  unfold levelBits
  split <;> omega

theorem div_of_page {va va' n : Nat} (h : va / 4096 = va' / 4096) (hn : 12 ≤ n) : va / 2 ^ n = va' / 2 ^ n := by
  obtain ⟨k, rfl⟩ := Nat.exists_eq_add_of_le hn
  rw [Nat.pow_add, ← Nat.div_div_eq_div_mul, ← Nat.div_div_eq_div_mul]
  exact congrArg (· / 2 ^ k) h

/-- A walk has one outcome for all of a page. -/
theorem walkFrom_page {m : Memory} {asid : BitVec 16} {va va' : Nat} (h : va / 4096 = va' / 4096) (fuel level table : Nat) :
    walkFrom m asid va fuel level table = walkFrom m asid va' fuel level table := by
  induction fuel generalizing level table with
  | zero => rfl
  | succ fuel ih => simp only [walkFrom, leafEntry, div_of_page h (levelBits_ge level), ih]

theorem walkFrom_bits {m : Memory} {asid : BitVec 16} {va fuel level table : Nat} {e : TlbEntry}
    (h : walkFrom m asid va fuel level table = some e) : 12 ≤ e.bits := by
  induction fuel generalizing level table with
  | zero => simp [walkFrom] at h
  | succ fuel ih =>
    simp only [walkFrom] at h
    split at h
    · cases h
    · split at h
      · cases h
      · split at h
        · obtain rfl := Option.some.inj h
          exact levelBits_ge level
        · exact ih h

theorem walk_page {s : State} {asid : BitVec 16} {va va' : Nat} (h : va / 4096 = va' / 4096) : s.walk asid va = s.walk asid va' := by
  simp only [State.walk, walkFrom_page h]

theorem walk_bits {s : State} {asid : BitVec 16} {va : Nat} {e : TlbEntry} (h : s.walk asid va = some e) : 12 ≤ e.bits := by
  unfold State.walk at h
  split at h
  · cases h
  · split at h
    · exact walkFrom_bits h
    · cases h

/-- Bytes of a page lie beside each other in memory. -/
theorem key_page {e : TlbEntry} {va j : Nat} (hbits : 12 ≤ e.bits) (h : va / 4096 = (va + j) / 4096) : e.key (va + j) = e.key va + j := by
  have hdiv := div_of_page h hbits
  have hmod : (va + j) % 2 ^ e.bits = va % 2 ^ e.bits + j := by
    have h1 := Nat.div_add_mod va (2 ^ e.bits)
    have h2 := Nat.div_add_mod (va + j) (2 ^ e.bits)
    rw [← hdiv] at h2
    omega
  simp only [TlbEntry.key, hmod, hostKey]
  split <;> omega

/-- The part of a save area in one page lies in one piece. -/
theorem saveKey_page {s : State} {T : Team} {off j k : Nat} {w : Bool} (hk : s.saveKey T off w = some k)
    (hj : (T.savebase.toNat + off) % 4096 + j < 4096) : s.saveKey T (off + j) w = some (k + j) := by
  unfold State.saveKey at hk ⊢
  obtain ⟨g, hg, hk⟩ := Option.bind_eq_some_iff.mp hk
  rw [hg, Option.bind_some]
  dsimp only at hk ⊢
  have hpage : (T.savebase.toNat + off) / 4096 = (T.savebase.toNat + off + j) / 4096 := by omega
  rw [← Nat.add_assoc, ← walk_page hpage]
  split at hk
  next e he =>
    split at hk
    · cases hk
    next hright =>
      rw [if_neg hright, key_page (walk_bits he) hpage, Option.some.inj hk]
  next => cases hk

end Sys2Proof.Machine
end

section
/-! PROOFS. What a swap-out writes to the save area (R401, R402 step 4). -/
namespace Sys2Proof.Machine

/-- Byte `i` of a team's save area of `n` bytes is at key `f i`, and stays there whatever the area holds. -/
def State.AreaAt (s : State) (T : Team) (n : Nat) (f : Nat → Nat) : Prop :=
  ∀ m : Memory, (∀ a, (∀ i, i < n → f i ≠ a) → m.read a = s.mem.read a) → ∀ i, i < n →
    ({ s with mem := m } : State).saveKey T i true = some (f i)

/-- While an area is written: nothing but its bytes, poison and the numbers of free values has changed. -/
structure Saves (s : State) (n : Nat) (f : Nat → Nat) (t : State) : Prop where
  scribbled : Scribbled s t
  outside : ∀ a, (∀ i, i < n → f i ≠ a) → t.mem.read a = s.mem.read a

section
variable {s t : State} {T : Team} {n : Nat} {f : Nat → Nat} (harea : s.AreaAt T n f)

theorem Saves.refl : Saves s n f s := ⟨Scribbled.refl s, fun _ _ => rfl⟩

theorem Saves.set (h : Saves s n f t) (p : List Nat) (c : Nat) :
    Saves s n f { t with dev := { t.dev with poison := p, freeCtr := c } } := by
  obtain ⟨⟨m, _, _, rfl⟩, hout⟩ := h
  exact ⟨⟨m, c, p, rfl⟩, hout⟩

include harea

theorem Saves.saveKey (h : Saves s n f t) {i : Nat} (hi : i < n) : t.saveKey T i true = some (f i) := by
  obtain ⟨⟨m, c, p, rfl⟩, hout⟩ := h
  exact harea m hout i hi

/-- Bytes written to one page of the area change nothing outside it. -/
theorem Saves.write (h : Saves s n f t) {off : Nat} {bytes : List Byte} (hlen : ∀ j, j < bytes.length → off + j < n)
    (hpage : (T.savebase.toNat + off) % 4096 + bytes.length ≤ 4096) :
    Saves s n f { t with mem := t.mem.writeBytes (f off) bytes } := by
  refine ⟨?_, fun a ha => ?_⟩
  · obtain ⟨⟨m, c, p, rfl⟩, -⟩ := h
    exact ⟨_, c, p, rfl⟩
  · rw [← h.outside a ha]
    refine read_writeBytes_of_outside (Classical.byContradiction fun hin => ?_)
    have hj : a - f off < bytes.length := by omega
    have hfirst := h.saveKey harea (hlen 0 (by omega))
    have hthere := saveKey_page (j := a - f off) hfirst (by omega)
    rw [Nat.add_zero, h.saveKey harea (hlen _ hj)] at hthere
    exact ha _ (hlen _ hj) (by have := Option.some.inj hthere; omega)

theorem writeSave_saves (h : Saves s n f t) (fuel off : Nat) (bytes : List Byte) (hlen : ∀ j, j < bytes.length → off + j < n) :
    EndsIn (writeSave T fuel off bytes) t (fun ok u => ok = true ∧ Saves s n f u) := by
  induction fuel generalizing t off bytes with
  | zero => exact endsIn_pure ⟨rfl, h⟩
  | succ fuel ih =>
    unfold writeSave
    split
    · exact endsIn_pure ⟨rfl, h⟩
    next hsome =>
      have hpos : 0 < bytes.length := List.length_pos_iff.mpr fun he => hsome (by rw [he]; rfl)
      have hkey : t.saveKey T off true = some (f off) := h.saveKey harea (hlen 0 hpos)
      refine endsIn_getS_bind ?_
      dsimp only
      rw [hkey]
      refine EndsIn.bind (endsIn_clearPoison fun p => EndsIn.bind (endsIn_store ?_))
      refine ih ((h.set p t.dev.freeCtr).write harea (fun j hj => hlen j ?_) ?_) _ _ fun j hj => ?_
      · rw [List.length_take] at hj
        omega
      · rw [List.length_take]
        omega
      · rw [List.length_drop] at hj
        have := hlen (4096 - (T.savebase.toNat + off) % 4096 + j) (by omega)
        omega

omit harea in
theorem endsIn_freshFree {Q : Nat → State → Prop} (h : Q t.dev.freeCtr { t with dev := { t.dev with freeCtr := t.dev.freeCtr + 1 } }) :
    EndsIn freshFree t Q := fun _ => ⟨_, [.dev { t.dev with freeCtr := t.dev.freeCtr + 1 }], rfl, h⟩

/-- A part of the area can be written. -/
theorem writeOpaque_saves (h : Saves s n f t) {off len : Nat} (hlen : off + len ≤ n) :
    EndsIn (writeOpaque T off len) t (fun ok u => ok = true ∧ Saves s n f u) := by
  refine EndsIn.bind (EndsIn.bind (endsIn_freshFree (endsIn_pure ?_)))
  refine writeSave_saves harea (h.set t.dev.poison _) _ _ _ fun j hj => ?_
  simp only [List.length_map, List.length_range] at hj
  omega

end

/-! ### The parts of an area -/

theorem tableParts_within {G : Grid} {xs : List Strand} {slots : List GranSlot} (hxs : ∀ x ∈ xs, x.index.toNat < 8 * G.cores)
    (hslots : ∀ r ∈ slots, r.idx < G.granary) : ∀ p ∈ G.tableParts xs slots, p.1 + p.2 ≤ G.areaSize := by
  intro p hp
  simp only [Grid.tableParts, List.mem_append, List.mem_map] at hp
  rcases hp with (hp | ⟨r, hr, rfl⟩) | ⟨x, hx, rfl⟩
  · simp only [List.mem_cons, List.not_mem_nil, or_false] at hp
    simp only [Grid.areaSize, Grid.imageOff, Grid.granOff, Grid.stackOff]
    rcases hp with rfl | rfl | rfl | rfl <;> dsimp only <;> omega
  · have := hslots r hr
    simp only [Grid.areaSize, Grid.imageOff]
    omega
  · have := hxs x hx
    simp only [Grid.areaSize, Grid.imageOff, Grid.granOff, Grid.stackOff]
    omega

theorem endsIn_collect_true {α : Type} {I : State → Prop} {l : List α} {f : α → Act Bool} {t : State} (ht : I t)
    (h : ∀ a ∈ l, ∀ t, I t → EndsIn (f a) t (fun ok u => ok = true ∧ I u)) :
    EndsIn (collect l f) t (fun oks u => oks.all (fun b => b) = true ∧ I u) := by
  induction l generalizing t with
  | nil => exact endsIn_pure ⟨rfl, ht⟩
  | cons a l ih =>
    refine EndsIn.bind ((h a List.mem_cons_self t ht).mono fun ok u ⟨hok, hu⟩ => EndsIn.bind ?_)
    refine (ih hu fun b hb => h b (List.mem_cons_of_mem _ hb)).mono fun oks v ⟨hoks, hv⟩ => endsIn_pure ⟨?_, hv⟩
    rw [List.all_cons, hok, hoks]
    rfl

section
variable {s t : State} {T : Team} {G : Grid} {f : Nat → Nat} (harea : s.AreaAt T G.areaSize f)
include harea

theorem saveTables_saves (h : Saves s G.areaSize f t) {xs : List Strand} {slots : List GranSlot}
    (hxs : ∀ x ∈ xs, x.index.toNat < 8 * G.cores) (hslots : ∀ r ∈ slots, r.idx < G.granary) :
    EndsIn (saveTables T G xs slots) t (fun ok u => ok = true ∧ Saves s G.areaSize f u) := by
  refine EndsIn.bind ((endsIn_collect_true h fun p hp u hu => ?_).mono fun oks u hu => endsIn_pure hu)
  exact writeOpaque_saves harea hu (tableParts_within hxs hslots p hp)

end

/-! ### A strand without tiles is saved (R60, R196) -/

/-- A stopped strand as its save keeps it, where no safe point's mask forgets any of it. -/
def Strand.kept (x : Strand) : Strand := { x with fetchBuf := [], stopped := false }

theorem drainReg_unconfigured (T : Team) (x : Strand) (j : Nat) {r : TileReg} (hr : r.cfg = none) (s : State) :
    EndsIn (drainReg T x j r) s (fun a t => a = (r, true) ∧ t = s) := by
  refine endsIn_getS_bind ?_
  dsimp only
  rw [hr]
  exact endsIn_pure ⟨rfl, rfl⟩

/-- A strand that a save can keep whole: it is not at a safe point, no tile of it is configured, and none is poisoned. -/
structure Strand.Keepable (x : Strand) : Prop where
  mask : x.resumeMask = none
  poison : x.poisonTiles = []
  tiles : ∀ j, (x.tile j).cfg = none

theorem saveStrand_keeps {s t : State} {n : Nat} {f : Nat → Nat} {x : Strand} (hx : x.Keepable) (T : Team) (h : Saves s n f t) :
    EndsIn (saveStrand T x) t (fun r u => r = (x.kept, true) ∧ Saves s n f u) := by
  obtain ⟨hmask, hpoison, htiles⟩ := hx
  unfold saveStrand
  rw [hmask, hpoison]
  refine EndsIn.bind ((endsIn_foldlM_same fun j _ => ?_).mono fun r u ⟨hr, hu⟩ => ?_)
  · refine EndsIn.bind ((drainReg_unconfigured T x j.val (htiles (BitVec.ofFin j)) t).mono fun a u ⟨ha, hu⟩ => endsIn_pure ⟨?_, hu⟩)
    have hset : x.tiles.set j.val (x.tile (BitVec.ofFin j)) j.isLt = x.tiles := Vector.set_getElem_self _
    rw [ha]
    simp [hset]
  · subst hr hu
    refine EndsIn.bind (endsIn_freshFree (endsIn_pure ⟨?_, h.set u.dev.poison _⟩))
    simp [Strand.kept, hmask, hpoison]

end Sys2Proof.Machine
end

section
/-! PROOFS. A team that has stopped is saved and leaves its yard (R402). -/
namespace Sys2Proof.Machine

/-! ### Slots become empty -/

/-- The strands, the teams and the saved teams are as they were. -/
structure Stays (s t : State) : Prop where
  me : t.me = s.me
  others : t.others = s.others
  teams : t.dev.teams = s.dev.teams
  saved : t.dev.saved = s.dev.saved

theorem forgetSlot_stays (s : State) (p : Pos) : EndsIn (forgetSlot p) s (fun _ t => Stays s t) := by
  refine endsIn_getS_bind (EndsIn.bind (endsIn_emit (EndsIn.bind (endsIn_modifyDev (endsIn_modifyYard ?_)))))
  exact ⟨rfl, rfl, rfl, rfl⟩

/-- A slot is made empty: no strand of a team is there any more, and every other stays. -/
theorem clearSlot_leaves {s : State} (h : s.Apart) (p : Pos) (tid : Nat) : EndsIn (clearSlot p) s (fun _ t => t.dev = s.dev ∧ t.Apart ∧
    ∀ z ∈ t.teamStrands tid, z ∈ s.teamStrands tid ∧ z.pos ≠ p) := by
  have hnodup : s.me.pos ∉ s.others.map (fun y => y.pos) ∧ (s.others.map (fun y => y.pos)).Nodup := List.nodup_cons.mp h
  obtain ⟨hme, hothers⟩ := hnodup
  refine endsIn_getS_bind ?_
  split
  next hp =>
    refine endsIn_emit ⟨rfl, ?_, fun z hz => ?_⟩
    · exact List.nodup_cons.mpr ⟨hp ▸ hme, hothers⟩
    · obtain ⟨hz, hof⟩ := List.mem_filter.mp hz
      rcases List.mem_cons.mp hz with rfl | hz
      · exact absurd hof (by simp [applyEff, Strand.emptyAt])
      · exact ⟨List.mem_filter.mpr ⟨List.mem_cons_of_mem _ hz, hof⟩, fun he => hme (List.mem_map.mpr ⟨z, hz, he.trans hp.symm⟩)⟩
  next hp =>
    refine endsIn_emit ⟨rfl, ?_, fun z hz => ?_⟩
    · have hsub : ((s.others.filter (fun t => t.pos != p)).map (fun y => y.pos)).Sublist (s.others.map (fun y => y.pos)) :=
        List.filter_sublist.map _
      exact List.nodup_cons.mpr ⟨fun hm => hme (hsub.subset hm), hothers.sublist hsub⟩
    · obtain ⟨hz, hof⟩ := List.mem_filter.mp hz
      rcases List.mem_cons.mp hz with rfl | hz
      · exact ⟨List.mem_filter.mpr ⟨List.mem_cons_self, hof⟩, hp⟩
      · obtain ⟨hz, hzp⟩ := List.mem_filter.mp hz
        exact ⟨List.mem_filter.mpr ⟨List.mem_cons_of_mem _ hz, hof⟩, by simpa using hzp⟩

/-- While the strands of a team leave their slots: those that are left stand in slots of a list, and the teams and the saved teams stay. -/
structure Empties (s : State) (tid : Nat) (l : List Strand) (t : State) : Prop where
  teams : t.dev.teams = s.dev.teams
  saved : t.dev.saved = s.dev.saved
  apart : t.Apart
  left : ∀ z ∈ t.teamStrands tid, z.pos ∈ l.map (fun x => x.pos)

theorem forgets_empty {s t : State} {tid : Nat} {l : List Strand} (h : Empties s tid l t) :
    EndsIn (forAll l (fun x => do forgetSlot x.pos; clearSlot x.pos)) t (fun _ => Empties s tid []) := by
  induction l generalizing t with
  | nil => exact endsIn_pure h
  | cons x l ih =>
    refine EndsIn.bind (EndsIn.bind ((forgetSlot_stays t x.pos).mono fun _ u hu => ?_))
    have hstrands : u.strands = t.strands := by rw [State.strands, hu.me, hu.others]; rfl
    have hapart : u.Apart := by rw [State.Apart, hstrands]; exact h.apart
    refine (clearSlot_leaves hapart x.pos tid).mono fun _ v ⟨hdev, hv, hleft⟩ => ih ⟨?_, ?_, hv, fun z hz => ?_⟩
    · rw [hdev, hu.teams, h.teams]
    · rw [hdev, hu.saved, h.saved]
    · obtain ⟨hzu, hne⟩ := hleft z hz
      rw [State.teamStrands, hstrands] at hzu
      exact (List.mem_cons.mp (h.left z hzu)).resolve_left hne

/-! ### SWAP_OUT (R402 steps 4 and 5) -/

theorem writeBackAll_drains {s : State} {y : Nat} (hd : (s.yard y).domain = []) (host : Bool) :
    EndsIn (writeBackAll y host) s (fun _ t => ∃ yards, t = { s with yards := yards } ∧ (t.yard y).triggers = (s.yard y).triggers ∧
      (t.yard y).heavy = (s.yard y).heavy) := by
  refine endsIn_getS_bind ?_
  rw [hd, List.filter_nil, List.mergeSort_nil]
  refine EndsIn.bind (endsIn_pure (endsIn_getYard_bind ?_))
  dsimp only
  split
  · refine endsIn_modifyYard ⟨_, rfl, ?_⟩
    simp only [State.yard, assocGet_assocSet, if_pos, and_self]
  · exact endsIn_pure ⟨_, rfl, rfl, rfl⟩

theorem saveStrands_keep {s t : State} {n : Nat} {f : Nat → Nat} {T : Team} {xs : List Strand} (hxs : ∀ x ∈ xs, x.Keepable)
    (h : Saves s n f t) (l : List Strand) : EndsIn (xs.foldlM (fun (acc : List Strand × Bool) x => do
        let (x', ok) ← saveStrand T x
        return (acc.1 ++ [x'], acc.2 && ok)) (l, true)) t (fun r u => r = (l ++ xs.map Strand.kept, true) ∧ Saves s n f u) := by
  induction xs generalizing l t with
  | nil => exact endsIn_pure ⟨by rw [List.map_nil, List.append_nil], h⟩
  | cons x xs ih =>
    rw [List.foldlM_cons]
    refine EndsIn.bind (EndsIn.bind ((saveStrand_keeps (hxs x List.mem_cons_self) T h).mono fun r u ⟨hr, hu⟩ => ?_))
    subst hr
    refine endsIn_pure ((ih (fun z hz => hxs z (List.mem_cons_of_mem _ hz)) hu _).mono fun r v ⟨hr, hv⟩ => ⟨?_, hv⟩)
    rw [hr, List.map_cons, List.append_assoc]
    rfl

/-- The strands of a team leave their slots, and the team is saved. -/
theorem strands_leave {s : State} {tid : Nat} {T U : Team} {xs : List Strand} {f : Team → Team} (hteam : s.team tid = some T)
    (hapart : s.Apart) (hxs : s.teamStrands tid = xs) (hf : ∀ t, (f t).tid = t.tid) (hwhere : (f T).where_ = .saved) :
    EndsIn (do
      forAll xs (fun x => do forgetSlot x.pos; clearSlot x.pos)
      modifyTeam tid f
      sendMirror U) s (fun _ t =>
        (t.team tid).map (fun U => U.where_) = some .saved ∧ t.teamStrands tid = [] ∧ t.savedTeam tid = s.savedTeam tid) := by
  subst hxs
  have start : Empties s tid (s.teamStrands tid) s := ⟨rfl, rfl, hapart, fun z hz => List.mem_map.mpr ⟨z, hz, rfl⟩⟩
  refine EndsIn.bind ((forgets_empty start).mono fun _ w hw => ?_)
  have hteamw : w.team tid = some T := (congrArg (List.find? _) hw.teams).trans hteam
  refine EndsIn.bind (endsIn_modifyTeam (endsIn_getS_bind (endsIn_modifyDev ⟨?_, ?_, ?_⟩)))
  · refine (congrArg (Option.map _) (team_withTeam (fun t ht => (hf t).trans ht) hteamw)).trans ?_
    rw [Option.map_some, hwhere]
  · exact List.eq_nil_iff_forall_not_mem.mpr fun z hz => absurd (hw.left z hz) List.not_mem_nil
  · exact congrArg (List.find? _) hw.saved

/-- What a team saves is found by its number. -/
theorem savedTeam_of_append {β : Type} {g : SavedTeam → β} {s : State} {l : List SavedTeam} {tid : Nat} {V : SavedTeam} {r : β}
    (h : s.dev.saved = l.filter (fun v => v.tid != tid) ++ [V]) (hV : V.tid = tid) (hr : g V = r) :
    (s.savedTeam tid).map g = some r := by
  rw [State.savedTeam, h, List.find?_append, List.find?_eq_none.mpr, Option.none_or, List.find?_cons, hV, beq_self_eq_true, ← hr]
  · rfl
  · intro v hv
    simpa using (List.mem_filter.mp hv).2

/-- A team without granules has no image to save. -/
theorem saveImage_bare {T : Team} (h : T.granules = []) (G : Grid) (s : State) :
    EndsIn (saveImage T G) s (fun ok t => ok = true ∧ t = s) := by
  unfold saveImage
  rw [h]
  exact endsIn_pure ⟨rfl, rfl⟩

/-- A team all of whose strands have stopped can be saved: its save area is mapped, no granule is its own, and its strands can be kept
whole. -/
structure Savable (s : State) (tid : Nat) (T : Team) (G : Grid) (f : Nat → Nat) : Prop where
  team : s.team tid = some T
  grid : s.grid T.grid = some G
  granules : T.granules = []
  domain : (s.yard T.yidx).domain = []
  apart : s.Apart
  slots : ∀ r ∈ (s.yard T.yidx).heavy.granary, r.tid = tid → r.idx < G.granary
  area : s.AreaAt T G.areaSize f
  indices : ∀ x ∈ s.teamStrands tid, x.index.toNat < 8 * G.cores
  keepable : ∀ x ∈ s.teamStrands tid, x.Keepable

theorem saveTeam_saves {s : State} {tid : Nat} {T : Team} {G : Grid} {f : Nat → Nat} (h : Savable s tid T G f) :
    EndsIn (saveTeam tid) s (fun _ t => (t.team tid).map (fun U => U.where_) = some .saved ∧ t.teamStrands tid = [] ∧
      (t.savedTeam tid).map (fun V => (V.strands, V.triggers, V.granary)) =
        some ((s.teamStrands tid).map Strand.kept, (s.yard T.yidx).triggers.filter (fun r => r.tid == tid),
          (s.yard T.yidx).heavy.granary.filter (fun r => r.tid == tid))) := by
  refine endsIn_getS_bind ?_
  rw [h.team]
  dsimp only
  rw [h.grid]
  refine EndsIn.bind ((writeBackAll_drains h.domain true).mono fun _ s₁ ⟨yards, hs₁, htrig, hheavy⟩ => ?_)
  have harea : s₁.AreaAt T G.areaSize f := hs₁ ▸ h.area
  have hslots : ∀ r ∈ (s.yard T.yidx).heavy.granary.filter (fun r => r.tid == tid), r.idx < G.granary := fun r hr => by
    obtain ⟨hr, htid⟩ := List.mem_filter.mp hr
    exact h.slots r hr (beq_iff_eq.mp htid)
  refine EndsIn.bind ((saveStrands_keep (n := G.areaSize) (f := f) h.keepable Saves.refl []).mono fun r t ⟨hr, ht⟩ => ?_)
  subst hr
  refine EndsIn.bind ((saveImage_bare h.granules G t).mono fun ok u ⟨hok, hu⟩ => endsIn_getS_bind ?_)
  subst hok hu
  have hyard : ∀ v, Saves s₁ G.areaSize f v → v.yard T.yidx = s₁.yard T.yidx := fun v hv => by
    obtain ⟨⟨m, c, p, rfl⟩, -⟩ := hv
    rfl
  rw [hyard u ht, hheavy]
  refine EndsIn.bind ((saveTables_saves harea ht h.indices hslots).mono fun ok v ⟨hok, hv⟩ => ?_)
  subst hok
  refine endsIn_getS_bind ?_
  rw [hyard v hv, hheavy, htrig]
  refine EndsIn.bind (endsIn_modifyDev (EndsIn.bind (endsIn_modifyYard ?_)))
  obtain ⟨⟨m, c, p, rfl⟩, -⟩ := hv
  subst hs₁
  refine EndsIn.mono (strands_leave (T := T) ?_ ?_ ?_ ?_ ?_) fun _ w ⟨hw, hnone, hsaved⟩ => ⟨hw, hnone, ?_⟩
  · exact h.team
  · exact h.apart
  · rfl
  · exact fun _ => rfl
  · rfl
  · rw [hsaved]
    exact savedTeam_of_append (l := s.dev.saved) rfl rfl rfl

theorem swapOut_saves {s : State} {tid d : Nat} {T : Team} {G : Grid} {f : Nat → Nat} (h : Savable s tid T G f)
    (hwhere : T.where_ = .leaving d) (htransfer : s.transferOf tid = false) (hrearranging : s.rearranging tid = false)
    (hkilled : T.killed = false) (hstat : T.statWaits = [])
    (hstopped : ∀ x ∈ s.teamStrands tid, x.stoppedForSwap = true ∧ x.run ≠ .parkedTrap true) :
    Reaches (.swapOut tid) s (fun t => (t.team tid).map (fun U => U.where_) = some .saved ∧ t.teamStrands tid = [] ∧
      (t.savedTeam tid).map (fun V => (V.strands, V.triggers, V.granary)) =
        some ((s.teamStrands tid).map Strand.kept, (s.yard T.yidx).triggers.filter (fun r => r.tid == tid),
          (s.yard T.yidx).heavy.granary.filter (fun r => r.tid == tid))) := by
  refine EndsIn.reaches (s := s) rfl (endsIn_getS_bind (endsIn_requireSome_bind h.team ?_))
  rw [hwhere]
  refine endsIn_require_bind ?_ (saveTeam_saves h)
  have hall : (s.teamStrands tid).all Strand.stoppedForSwap = true := List.all_eq_true.mpr fun x hx => (hstopped x hx).1
  have hdelivered : s.delivered tid = false := by
    rw [State.delivered, List.any_eq_false]
    intro x hx
    simpa using (hstopped x hx).2
  have hgathering : s.gathering tid = false := by simp [State.gathering, h.team, hstat]
  simp [hall, htransfer, hrearranging, hdelivered, hgathering, hkilled]

end Sys2Proof.Machine
end

section
/-! PROOFS. The events of the launch path and of the yard schedulers (O47). -/
namespace Sys2Proof.Machine

/-- Settles O47: the steps of each event end in one state, of which admission, placement, ageing, expiry and the save each say what it
has; a save writes nothing outside the team's save area, which therefore stays mapped while it is written. -/
theorem schedulerEvents : Obligations.SchedulerEvents := by
  intro s
  dsimp only
  refine ⟨?_, fun n => newTids_fresh, ?_, ?_, ?_, ?_⟩
  · intro f q Q hdr k bases hQ hhdr hphase hfrozen hleft hk
    refine ⟨fun ⟨hvalid, hsome, hlen, hmapped, hapart⟩ => ?_, launchRecordTake_drops hQ hhdr hphase hfrozen hleft hk⟩
    exact launchRecordTake_admits hQ hhdr hphase hfrozen hleft hk ⟨hvalid, hsome, hlen, hmapped, hapart⟩
  · intro y r bases hr hgrids hovf ⟨hvalid, hsome, hlen, hmapped, hapart⟩
    exact deviceQueueAdmit_admits hr hgrids hovf ⟨hvalid, hsome, hlen, hmapped, hapart⟩
  · intro y g G w d hdr k hdlq hG hover hlt hmay hk
    exact deviceQueueAdmit_refills hdlq hG hover hlt hmay hk
  · intro y T G hnext hfirst hsaved
    obtain ⟨t, ht, U, hU, hat⟩ := teamPlacement_places hnext hfirst hsaved
    exact ⟨t, ht, U, hU.team, hU.where_, hU.yidx, hU.cores, hat⟩
  · intro tid T hT
    refine ⟨fun y => priorityAging_gains hT, fun hplaced hdelivered => ⟨fun due hq hdue => ?_, ?_⟩, fun d hwhere => ⟨?_, ?_⟩⟩
    · exact quantumExpiry_ends hT hplaced hdelivered hq hdue
    · intro p x w due hx htid hw hkind hpark hdue hother
      exact parkExpiry_leaves hT hplaced hdelivered hx htid hw hkind hpark hdue hother
    · intro x hd hx hseat hwindow hpair
      refine ⟨safewaitExpiry_stops hT hwhere hd hx hseat hwindow hpair, fun a sts hact hmdone hsent hhold hsts => ?_⟩
      refine safewaitExpiry_releases hT hwhere hd hx hseat hwindow hpair hact hmdone hsent hhold fun st hst => ?_
      obtain ⟨-, hrel, hkey, hheld⟩ := hsts st hst
      exact ⟨hrel, hkey, hheld⟩
    · intro G f hG hgranules htransfer hrearranging hkilled hstat hdomain hapart hslots harea hxs
      refine swapOut_saves ⟨hT, hG, hgranules, hdomain, hapart, hslots, harea, fun x hx => ?_, fun x hx => ?_⟩ hwhere htransfer
        hrearranging hkilled hstat fun x hx => ?_
      all_goals obtain ⟨hstopped, hrun, hmask, hpoison, hindex, htiles⟩ := hxs x hx
      · exact hindex
      · exact ⟨hmask, hpoison, htiles⟩
      · exact ⟨hstopped, hrun⟩

end Sys2Proof.Machine
end
